-- ==== Sys2Proof/Word.lean ====
section
/-! DEFINITION. The words of the machine: 64-bit control values, 1,024-bit token data and bytes
(R7, R21). -/

namespace Sys2Proof

/-- A 64-bit control-core value, register or instruction word. -/
abbrev Word := BitVec 64
/-- The DATA of a token (R21). -/
abbrev Data := BitVec 1024
/-- A byte of memory. -/
abbrev Byte := BitVec 8

end Sys2Proof
end

