-- ==== Sys2Proof/Fields.lean ====
section
/-! DEFINITION. The fields of instruction words and block headers as data: element types, rounding
modes, targets and the records of formats G, I, M, X, C, S and Y (R52, R57, R80 to R92). -/

namespace Sys2Proof

/-- Element type, field TY (R52); the constructors stand in code order 0 to 15. -/
inductive Ty
  | i32 | w32 | i16 | w16 | i8 | w8 | fp32 | bf16 | fp16
  | e4m3 | e5m2 | e3m2 | e2m3 | e2m1 | i64 | w64
  deriving DecidableEq, Repr

/-- Rounding mode, field RM (R57). -/
inductive Rm
  | rne | rtz | rdn | rup | rna | rsto
  deriving DecidableEq, Repr

/-- Predicate mode, field PM (R82); the code 11 is reserved. -/
inductive Pm
  | none | onTrue | onFalse
  deriving DecidableEq, Repr

/-- A target (R83). -/
inductive Tgt
  | none
  | out (port : Fin 16)
  | left (slot : Fin 128)
  | right (slot : Fin 128)
  | pred (slot : Fin 128)
  deriving DecidableEq, Repr

/-- MODE of format M (R88). -/
inductive MemMode
  | scalar | lane | bcast | strided
  deriving DecidableEq, Repr

/-- Matrix format codes (R89); I4 exists only here (R53). -/
inductive MFmt
  | e4m3 | e5m2 | e3m2 | e2m3 | e2m1 | i8 | i4 | bf16 | fp16 | fp32
  deriving DecidableEq, Repr

/-- ACC of format X (R89). -/
inductive AccMode
  | add | set
  deriving DecidableEq, Repr

/-- Bits 63:36 of every instruction word but OP (R82). -/
structure Head where
  pm : Pm
  t0 : Tgt
  t1 : Tgt
  deriving DecidableEq, Repr

/-- Format G (R86). -/
structure OpG where
  hd : Head
  ty : Ty
  rm : Rm
  sat : Bool
  lrl : Bool
  lrr : Bool
  fn : BitVec 6
  deriving DecidableEq, Repr

/-- Format I (R87). -/
structure OpI where
  hd : Head
  ty : Ty
  imm : BitVec 16
  fn : BitVec 6
  lrl : Bool
  lrr : Bool
  deriving DecidableEq, Repr

/-- Format M (R88). -/
structure OpM where
  hd : Head
  ty : Ty
  lsid : Fin 32
  mode : MemMode
  off : BitVec 16
  auxh : BitVec 4
  auxl : BitVec 4
  deriving DecidableEq, Repr

/-- Format X (R89). -/
structure OpX where
  hd : Head
  afmt : MFmt
  bfmt : MFmt
  acc : AccMode
  ks : BitVec 6
  scm : Fin 4
  bank : Fin 4
  ba : Fin 16
  bb : Fin 16
  tra : Bool
  trb : Bool
  deriving DecidableEq, Repr

/-- Format C (R90). -/
structure OpC where
  hd : Head
  ga : Fin 32
  gb : Fin 32
  exg : Fin 4
  off : BitVec 22
  deriving DecidableEq, Repr

/-- Format S (R91). -/
structure OpS where
  hd : Head
  vp : Fin 64
  ap : Fin 16
  ga : Fin 32
  gb : Fin 32
  sub : BitVec 8
  aux : BitVec 8
  deriving DecidableEq, Repr

/-- Format Y (R92). -/
structure OpY where
  hd : Head
  sub : BitVec 6
  ga : Fin 32
  gb : Fin 32
  imm : BitVec 20
  deriving DecidableEq, Repr

/-- Corner of a tile within its page (R109). -/
inductive Corner
  | nw | ne | sw | se
  deriving DecidableEq, Repr

/-- Operation mode of a block (R80). -/
inductive BlkMode
  | element | control
  deriving DecidableEq, Repr

/-- Privilege level (R297). -/
inductive Level
  | u | s | h
  deriving DecidableEq, Repr

/-- Poison policy, header field PPOL (R65). -/
inductive Ppol
  | plain | nanToo | off
  deriving DecidableEq, Repr

/-- A control core of a page, by page index 16 × row + col, or a system core (R14, R297). -/
inductive CoreId
  | cc (page : Fin 128)
  | sys (k : Fin 4)
  deriving DecidableEq, Repr

/-- What TOKEN_ARRIVAL delivers: the head token of an output port of an instance's tile, or a token
of a foreign context that reaches a physical tile's switch (R23, R390). -/
inductive Arrival
  | routed (cfg tile port : Nat)
  | stray (page link ctx : Nat)
  deriving DecidableEq, Repr

/-- An agent the stall watchdog watches (R50, R317). -/
inductive Watched
  | config (cfg : Nat)
  | core (id : CoreId)
  | engine (copy : Nat)
  deriving DecidableEq, Repr

/-- A request for a memory line made for no agent (R389, R392). -/
structure LineReq where
  tid : Nat
  addr : Nat
  data : List Byte
  deriving DecidableEq, Repr

/-- A message of a peer link (R221). -/
structure PeerMsg where
  link : Nat
  circ : Nat
  seqNo : Nat
  kind : Nat
  npay : Nat
  tid : Nat
  part : Nat
  srcpkg : Nat
  addr : Nat
  payload : List Byte
  deriving DecidableEq, Repr

/-- A message of a tier-2 link (R423). -/
structure T2Msg where
  link : Nat
  kind : Nat
  tag : Nat
  addr : Nat
  payload : List Byte
  deriving DecidableEq, Repr

/-- A RoCEv2 message at a queue pair of a partition (R5, R421). A response has KIND 0 acknowledgement, 1 NAK
or 2 READ data. -/
structure RdmaMsg where
  part : Nat
  qp : Nat
  addr : Nat
  rkey : Nat
  len : Nat
  kind : Nat
  payload : List Byte
  /-- A switch has marked congestion on its way (ECN, R5). -/
  ecn : Bool := false
  deriving DecidableEq, Repr

/-- A management datagram of a row's operation: SESSION, COUNTER, IFACE, PAYLOAD and MAC (R406). -/
structure MgmtMsg where
  session : Nat
  counter : Nat
  iface : Nat
  payload : List Byte
  mac : List Byte
  deriving DecidableEq, Repr

end Sys2Proof
end

