-- ==== Sys2Proof/Config.lean ====
section
/-! DEFINITION. What an implementation fixes and the values the manual leaves open. Every opaque
constant here is a free value: nothing in Lean can evaluate it. -/

namespace Sys2Proof

/-- The functions of R78 whose value within its bound R76 leaves open. -/
inductive FnId
  | rsq | exp2 | log2 | sint | cost | tanh
  deriving DecidableEq, Repr

namespace Config

/-- The value a part returns for a function, an FP32 operand and a destination type (R76: one value
that never varies). Only a value within the bound of R78 is taken from it; log entry 8. -/
opaque fnValue : FnId → BitVec 32 → Ty → BitVec 32

/-- Free bits drawn by a counter, for results the manual states no value for; log entry 7. -/
opaque freeBits : Nat → BitVec 1024

/-- The second key of the XTS construction for a slot's 128-bit key (R362 names one key); log
entry 10 (PRESUMED, log entry 10). -/
opaque xtsTweakKey : BitVec 128 → BitVec 128

/-- The random scalars of the SEP's signatures and exchanges, by draw and attempt (R396, R399)
(DESIGN CHOICE, log entry 5). -/
opaque sm2Rand : Nat → Nat → Nat

/-- The peer link that leads to a package (the manual numbers the sixteen links and says nothing of where
each leads) (DESIGN CHOICE, log entry 19). -/
opaque peerLink : Nat → Nat

/-- The circuit, at a peer package, of what a unit's job sends there: the manual leaves circuit numbers to the
Shepherd (R220; log entry 24). -/
opaque peerCircuit : Nat → Nat → Nat → Nat

/-- The 802.1Qbb priority of the traffic of a partition's queue pair, modulo 8: the manual assigns none (R5)
(DESIGN CHOICE, log entry 20). -/
opaque ethPriority : Nat → Nat → Nat

end Config

end Sys2Proof
end

