-- ==== Sys2Proof/Machine/Bits.lean ====
section
/-! DEFINITION. Bit fields, sign extension and byte order (R7, R11), and the tables of the element
types (R52, R53). -/

namespace Sys2Proof

/-- `Bits(x, h, l)` of R11, as a number. -/
def Word.bits (x h l : Nat) : Nat := (x >>> l) % 2 ^ (h + 1 - l)

/-- Bit `k` of a number. -/
def Word.bit (x k : Nat) : Bool := x.testBit k

/-- The two's-complement reading of the low `w` bits of `x`. -/
def Word.toSigned (w x : Nat) : Int :=
  let y := x % 2 ^ w
  if y.testBit (w - 1) && w != 0 then (y : Int) - (2 ^ w : Nat) else (y : Int)

/-- `Wrap(x, w)` of R11: the low `w` bits of the exact number `x`. -/
def Word.wrap (x : Int) (w : Nat) : Nat := (x % ((2 ^ w : Nat) : Int)).toNat

/-- `Ceil(a / b)`. -/
def Word.ceilDiv (a b : Nat) : Nat := (a + b - 1) / b

/-- The least multiple of `b` that is at least `a`. -/
def Word.alignUp (a b : Nat) : Nat := Word.ceilDiv a b * b

/-- A list of bytes read as a little-endian number (R7). -/
def Word.ofBytes : List Byte → Nat
  | [] => 0
  | b :: bs => b.toNat + 256 * Word.ofBytes bs

/-- The `n` little-endian bytes of a number (R7). -/
def Word.toBytes : Nat → Nat → List Byte
  | 0, _ => []
  | n + 1, x => BitVec.ofNat 8 x :: Word.toBytes n (x / 256)

/-- `0` to `2` for U, S and H, in rising privilege. -/
def Level.rank : Level → Nat
  | .u => 0
  | .s => 1
  | .h => 2

/-- Element width in bits (R52). -/
def Ty.width : Ty → Nat
  | .i32 | .w32 | .fp32 => 32
  | .i16 | .w16 | .bf16 | .fp16 => 16
  | .i8 | .w8 | .e4m3 | .e5m2 => 8
  | .e3m2 | .e2m3 => 6
  | .e2m1 => 4
  | .i64 | .w64 => 64

/-- Width in bits of the lane that holds an element (R52, R53). -/
def Ty.laneWidth : Ty → Nat
  | .e3m2 | .e2m3 | .e2m1 => 8
  | t => t.width

/-- Lanes per token (R52); the 64-bit types stand in control mode alone. -/
def Ty.lanes (t : Ty) : Nat := 1024 / t.laneWidth

/-- I types (R136): two's complement. -/
def Ty.isI : Ty → Bool
  | .i8 | .i16 | .i32 | .i64 => true
  | _ => false

/-- W types (R136): unsigned. -/
def Ty.isW : Ty → Bool
  | .w8 | .w16 | .w32 | .w64 => true
  | _ => false

/-- Set A of R147. -/
def Ty.isA : Ty → Bool
  | .fp32 | .bf16 | .fp16 => true
  | _ => false

/-- Set F of R147. -/
def Ty.isF (t : Ty) : Bool := !t.isI && !t.isW

/-- Code of TY (R52). -/
def Ty.code : Ty → Nat
  | .i32 => 0 | .w32 => 1 | .i16 => 2 | .w16 => 3 | .i8 => 4 | .w8 => 5
  | .fp32 => 6 | .bf16 => 7 | .fp16 => 8 | .e4m3 => 9 | .e5m2 => 10 | .e3m2 => 11
  | .e2m3 => 12 | .e2m1 => 13 | .i64 => 14 | .w64 => 15

/-- The type of a TY code; every 4-bit code names one (R52). -/
def Ty.ofCode (n : Nat) : Ty :=
  match n with
  | 0 => .i32 | 1 => .w32 | 2 => .i16 | 3 => .w16 | 4 => .i8 | 5 => .w8
  | 6 => .fp32 | 7 => .bf16 | 8 => .fp16 | 9 => .e4m3 | 10 => .e5m2 | 11 => .e3m2
  | 12 => .e2m3 | 13 => .e2m1 | 14 => .i64 | _ => .w64

/-- A core's place in the table: CCs by page index, then the system cores. -/
def CoreId.key : CoreId → Nat
  | .cc p => p.val
  | .sys k => 128 + k.val

/-- The core of a table place. -/
def coreOfKey (k : Nat) : CoreId :=
  if h : k < 128 then .cc ⟨k, h⟩ else if h : k - 128 < 4 then .sys ⟨k - 128, h⟩ else .sys 0

/-- A core is a system core. -/
def CoreId.isSys : CoreId → Bool
  | .cc _ => false
  | .sys _ => true

end Sys2Proof
end

