-- ==== Sys2Proof/Machine/Fp.lean ====
section
/-! DEFINITION. The floating-point formats, rounding and conversion of "Numbers and arithmetic"
(R55 to R61). A finite value is an exact dyadic number, so every result is computed exactly and
narrowed once by `roundTo`. -/

namespace Sys2Proof

/-- The floating-point formats of R55 that have a TY code. -/
inductive FFmt
  | fp32 | bf16 | fp16 | e5m2 | e4m3 | e3m2 | e2m3 | e2m1
  deriving DecidableEq, Repr

/-- A decoded value: NaN, an infinity, or `(-1)^neg * m * 2^e`; `m = 0` is a signed zero. -/
inductive Fv
  | nan
  | inf (neg : Bool)
  | fin (neg : Bool) (m : Nat) (e : Int)
  deriving DecidableEq, Repr

/-- The floating-point format of an element type; integer types have none. -/
def Ty.ffmt : Ty → Option FFmt
  | .fp32 => some .fp32 | .bf16 => some .bf16 | .fp16 => some .fp16 | .e4m3 => some .e4m3
  | .e5m2 => some .e5m2 | .e3m2 => some .e3m2 | .e2m3 => some .e2m3 | .e2m1 => some .e2m1
  | .i32 | .w32 | .i16 | .w16 | .i8 | .w8 | .i64 | .w64 => none

/-- Mantissa width M (R55). -/
def FFmt.mant : FFmt → Nat
  | .fp32 => 23 | .bf16 => 7 | .fp16 => 10 | .e5m2 => 2 | .e4m3 => 3 | .e3m2 => 2 | .e2m3 => 3
  | .e2m1 => 1

/-- Exponent width (R55). -/
def FFmt.expo : FFmt → Nat
  | .fp32 => 8 | .bf16 => 8 | .fp16 => 5 | .e5m2 => 5 | .e4m3 => 4 | .e3m2 => 3 | .e2m3 => 2
  | .e2m1 => 2

/-- Exponent bias (R55). -/
def FFmt.bias : FFmt → Nat
  | .fp32 => 127 | .bf16 => 127 | .fp16 => 15 | .e5m2 => 15 | .e4m3 => 7 | .e3m2 => 3
  | .e2m3 => 1 | .e2m1 => 1

/-- The formats with infinities and IEEE NaNs (R55). -/
def FFmt.ieee : FFmt → Bool
  | .fp32 | .bf16 | .fp16 | .e5m2 => true
  | .e4m3 | .e3m2 | .e2m3 | .e2m1 => false

/-- Bit index of the sign (R55). -/
def FFmt.signBit (f : FFmt) : Nat := f.mant + f.expo

/-- Code of the largest finite value, positive (R55). -/
def FFmt.maxCode : FFmt → Nat
  | .fp32 => 0x7F7FFFFF | .bf16 => 0x7F7F | .fp16 => 0x7BFF | .e5m2 => 0x7B | .e4m3 => 0x7E
  | .e3m2 => 0x1F | .e2m3 => 0x1F | .e2m1 => 0x7

/-- Canonical NaN (R55); the formats without NaN have none. -/
def FFmt.nanCode : FFmt → Option Nat
  | .fp32 => some 0x7FC00000 | .bf16 => some 0x7FC0 | .fp16 => some 0x7E00 | .e5m2 => some 0x7E
  | .e4m3 => some 0x7F | .e3m2 | .e2m3 | .e2m1 => none

/-- The code with the sign bit set when `neg`. -/
def FFmt.withSign (f : FFmt) (neg : Bool) (mag : Nat) : Nat :=
  if neg then mag + 2 ^ f.signBit else mag

/-- Exponent of the subnormal spacing (R55). -/
def FFmt.minLsb (f : FFmt) : Int := 1 - (f.bias : Int) - (f.mant : Int)

/-- The value of a code (R55); the bits above the format are ignored (R53). -/
def FFmt.decode (f : FFmt) (b : Nat) : Fv :=
  let neg := b.testBit f.signBit
  let e := (b >>> f.mant) % 2 ^ f.expo
  let m := b % 2 ^ f.mant
  if f.ieee && e == 2 ^ f.expo - 1 then (if m == 0 then .inf neg else .nan)
  else if f == .e4m3 && b % 128 == 127 then .nan
  else if e == 0 then .fin neg m f.minLsb
  else .fin neg (m + 2 ^ f.mant) ((e : Int) + f.minLsb - 1)

/-- A code is a NaN. -/
def FFmt.isNan (f : FFmt) (b : Nat) : Bool := f.decode b == .nan

/-- The code of `q * 2^lsb`, a value the format represents (R55). -/
def FFmt.encodeMag (f : FFmt) (q : Nat) (lsb : Int) : Nat :=
  let (q, lsb) := if q ≥ 2 ^ (f.mant + 1) then (q / 2, lsb + 1) else (q, lsb)
  if q < 2 ^ f.mant then q
  else ((lsb - f.minLsb).toNat + 1) * 2 ^ f.mant + (q - 2 ^ f.mant)

/-- An infinity's code; only the formats of `ieee` have one. -/
def FFmt.infCode (f : FFmt) (neg : Bool) : Nat :=
  f.withSign neg ((2 ^ f.expo - 1) * 2 ^ f.mant)

/-- Whether rounding a magnitude with remainder `rest` of `2^sh` above `lo` goes up
(R57, R59; `u` is the draw of R59). -/
def roundsUp (rm : Rm) (neg : Bool) (u lo rest sh : Nat) : Bool :=
  match rm with
  | .rne => 2 * rest > 2 ^ sh || (2 * rest == 2 ^ sh && lo % 2 == 1)
  | .rtz => false
  | .rdn => neg
  | .rup => !neg
  | .rna => 2 * rest ≥ 2 ^ sh
  | .rsto => u < rest * 2 ^ 32 / 2 ^ sh

/-- `m * 2^e` rounded to a multiple of `2^lsb`: the multiple. -/
def roundAt (rm : Rm) (neg : Bool) (u : Nat) (m : Nat) (e lsb : Int) : Nat :=
  if lsb ≤ e then m <<< (e - lsb).toNat
  else
    let sh := (lsb - e).toNat
    let lo := m >>> sh
    let rest := m % 2 ^ sh
    if rest == 0 then lo else if roundsUp rm neg u lo rest sh then lo + 1 else lo

/-- The spacing of the format at the magnitude `m * 2^e`, `m` not 0, with an unbounded exponent
range above (R57). -/
def FFmt.lsbAt (f : FFmt) (m : Nat) (e : Int) : Int :=
  max ((Nat.log2 m : Int) + e - f.mant) f.minLsb

/-- `a * 2^x > b * 2^y`. -/
def dyadicGt (a : Nat) (x : Int) (b : Nat) (y : Int) : Bool :=
  if x ≥ y then a <<< (x - y).toNat > b else a > b <<< (y - x).toNat

/-- The IEEE overflow result is infinite (R60). -/
def overflowsToInf (rm : Rm) (neg : Bool) : Bool :=
  match rm with
  | .rne | .rna | .rsto => true
  | .rtz => false
  | .rdn => neg
  | .rup => !neg

/-- A finite overflow's code (R60). -/
def FFmt.overflow (f : FFmt) (rm : Rm) (sat neg : Bool) : Nat :=
  if !sat && overflowsToInf rm neg && f.ieee then f.infCode neg
  else if !sat && overflowsToInf rm neg && f == .e4m3 then 0x7F
  else f.withSign neg f.maxCode

/-- `RoundTo` of a finite magnitude (R57 to R60). -/
def FFmt.roundFin (f : FFmt) (rm : Rm) (sat : Bool) (u : Nat) (neg : Bool) (m : Nat) (e : Int) :
    Nat :=
  if m == 0 then f.withSign neg 0
  else
    let lsb := f.lsbAt m e
    let q := roundAt rm neg u m e lsb
    match f.decode f.maxCode with
    | .fin _ mm me =>
      if dyadicGt q lsb mm me then f.overflow rm sat neg else f.withSign neg (f.encodeMag q lsb)
    | .nan | .inf _ => f.withSign neg (f.encodeMag q lsb)

/-- A result code with the cause INVALID when the tables mark it. -/
structure FRes where
  code : Nat
  invalid : Bool := false
  deriving DecidableEq, Repr

/-- `RoundTo(x, fmt, rm, sat)` with the special inputs of R60. -/
def FFmt.roundTo (f : FFmt) (rm : Rm) (sat : Bool) (u : Nat) (x : Fv) : FRes :=
  match x with
  | .nan => match f.nanCode with
    | some c => { code := c }
    | none => { code := 0, invalid := true }
  | .inf neg =>
    if f.ieee && !sat then { code := f.infCode neg }
    else if f == .e4m3 && !sat then { code := 0x7F }
    else { code := f.withSign neg f.maxCode }
  | .fin neg m e => { code := f.roundFin rm sat u neg m e }

/-- The code of an exact arithmetic result: an infinite or NaN result is not touched by SAT
(R151). -/
def FFmt.deliver (f : FFmt) (rm : Rm) (sat : Bool) (u : Nat) (x : Fv) : Nat :=
  match x with
  | .fin neg m e => f.roundFin rm sat u neg m e
  | .inf neg => (f.roundTo rm false u (.inf neg)).code
  | .nan => (f.roundTo rm false u .nan).code

/-- The sign of a value; a NaN counts as positive. -/
def Fv.neg : Fv → Bool
  | .nan => false
  | .inf n => n
  | .fin n _ _ => n

/-- A value with its sign inverted. -/
def Fv.negate : Fv → Fv
  | .nan => .nan
  | .inf n => .inf (!n)
  | .fin n m e => .fin (!n) m e

/-- A value is a zero of either sign. -/
def Fv.isZero : Fv → Bool
  | .fin _ 0 _ => true
  | _ => false

/-- A value is an infinity. -/
def Fv.isInf : Fv → Bool
  | .inf _ => true
  | _ => false

/-- The exact product, and whether it is the invalid 0 × ∞ (R151). -/
def Fv.mul (a b : Fv) : Fv × Bool :=
  match a, b with
  | .nan, _ => (.nan, false)
  | _, .nan => (.nan, false)
  | .inf s, .inf t => (.inf (s != t), false)
  | .inf s, .fin t m _ => if m == 0 then (.nan, true) else (.inf (s != t), false)
  | .fin s m _, .inf t => if m == 0 then (.nan, true) else (.inf (s != t), false)
  | .fin s m e, .fin t n d => (.fin (s != t) (m * n) (e + d), false)

/-- The signed mantissa of a finite value at exponent `e0`, at most its own. -/
def Fv.at (e0 : Int) : Fv → Int
  | .fin n m e => let k : Nat := m <<< (e - e0).toNat; if n then -(k : Int) else (k : Int)
  | _ => 0

/-- Least exponent among finite values. -/
def Fv.minExp : List Fv → Int
  | [] => 0
  | [.fin _ _ e] => e
  | .fin _ _ e :: rest => min e (Fv.minExp rest)
  | _ :: rest => Fv.minExp rest

/-- The sum of finite values, with the sign of an exact zero by R56. -/
def Fv.sumFin (rm : Rm) (xs : List Fv) : Fv :=
  let e0 := Fv.minExp xs
  let s := (xs.map (Fv.at e0)).foldl (· + ·) 0
  if s == 0 then
    if xs.all Fv.isZero && xs.all (fun x => !x.neg) then .fin false 0 0
    else if xs.all Fv.isZero && xs.all Fv.neg && !xs.isEmpty then .fin true 0 0
    else .fin (rm == .rdn) 0 0
  else .fin (s < 0) s.natAbs e0

/-- The exact sum of values with the IEEE special cases, and whether it is the invalid ∞ − ∞
(R56, R151). -/
def Fv.sum (rm : Rm) (xs : List Fv) : Fv × Bool :=
  if xs.any (· == .nan) then (.nan, false)
  else
    let p := xs.any (· == .inf false)
    let n := xs.any (· == .inf true)
    if p && n then (.nan, true)
    else if p then (.inf false, false)
    else if n then (.inf true, false)
    else (Fv.sumFin rm xs, false)

/-- Compares two values that are not NaN; the zeros are equal. -/
def Fv.cmp (a b : Fv) : Ordering :=
  match a, b with
  | .inf s, .inf t => if s == t then .eq else if s then .lt else .gt
  | .inf s, _ => if s then .lt else .gt
  | _, .inf t => if t then .gt else .lt
  | x, y => let e := Fv.minExp [x, y]; compare (Fv.at e x) (Fv.at e y)

/-- The value of a whole number. -/
def Fv.ofInt (x : Int) : Fv := .fin (x < 0) x.natAbs 0

/-- A finite value rounded to a whole number by RM (R61, R158). -/
def roundWhole (rm : Rm) (u : Nat) (neg : Bool) (m : Nat) (e : Int) : Int :=
  let q := roundAt rm neg u m e 0
  if neg then -(q : Int) else (q : Int)

/-- Range of an integer type (R136). -/
def Ty.intMin (t : Ty) : Int := if t.isI then -((2 ^ (t.width - 1) : Nat) : Int) else 0

/-- Range of an integer type (R136). -/
def Ty.intMax (t : Ty) : Int :=
  if t.isI then ((2 ^ (t.width - 1) : Nat) : Int) - 1 else ((2 ^ t.width : Nat) : Int) - 1

/-- `Saturate(x, type)` of R11 as a lane pattern. -/
def saturate (x : Int) (t : Ty) : Nat :=
  Word.wrap (max t.intMin (min t.intMax x)) t.width

/-- The value of an integer lane by its type (R136). -/
def Ty.intVal (t : Ty) (x : Nat) : Int :=
  if t.isI then Word.toSigned t.width x else ((x % 2 ^ t.width : Nat) : Int)

/-- A floating-point value converted to an integer type (R61). -/
def toInteger (t : Ty) (rm : Rm) (sat : Bool) (u : Nat) (x : Fv) : FRes :=
  match x with
  | .nan => { code := 0, invalid := true }
  | .inf neg =>
    { code := Word.wrap (if neg then t.intMin else t.intMax) t.width, invalid := !sat }
  | .fin neg m e =>
    let v := roundWhole rm u neg m e
    if v < t.intMin then { code := Word.wrap t.intMin t.width, invalid := !sat }
    else if v > t.intMax then { code := Word.wrap t.intMax t.width, invalid := !sat }
    else { code := Word.wrap v t.width }

/-- `Conv` of R157: one element of type `src` to type `dst`. -/
def convert (dst src : Ty) (rm : Rm) (sat : Bool) (u : Nat) (x : Nat) : FRes :=
  match dst.ffmt, src.ffmt with
  | some d, some s => d.roundTo rm sat u (s.decode x)
  | none, some s => toInteger dst rm sat u (s.decode x)
  | some d, none => d.roundTo rm sat u (Fv.ofInt (src.intVal x))
  | none, none =>
    let v := src.intVal x
    { code := if sat then saturate v dst else Word.wrap v dst.width }

end Sys2Proof
end

