-- ==== Sys2Proof/Machine/Funcs.lean ====
section
/-! DEFINITION. The reciprocal, root and transcendental functions of R76 to R78. FRCP and FSQRT are
correctly rounded. The other six take the implementation's own value when it lies within the bound
of R78, which is decided from a rational enclosure of the exact result; log entry 8. -/

namespace Sys2Proof

/-- What one lane of an instruction gives: its pattern and the poison causes that arise (R64). -/
structure LaneOut where
  code : Nat
  invalid : Bool := false
  divZero : Bool := false
  nanIn : Bool := false
  intDiv : Bool := false
  deriving DecidableEq, Repr

/-- Fractional bits of the enclosures. -/
def fixP : Nat := 400

/-- The integer square root, by its binary digits from bit `k - 1` down. -/
def isqrtFrom (n : Nat) : Nat → Nat → Nat
  | 0, r => r
  | k + 1, r => let c := r + 2 ^ k; isqrtFrom n k (if c * c ≤ n then c else r)

/-- `Floor(√n)`. -/
def isqrt (n : Nat) : Nat := isqrtFrom n (Nat.log2 n / 2 + 1) 0

/-- `1 / (m * 2^e)` with a sticky low bit, exact enough for any rounding. -/
def recipDyadic (m : Nat) (e : Int) : Nat × Int :=
  let k := Nat.log2 m + 100
  let q := 2 ^ k / m
  (2 * q + (if 2 ^ k % m == 0 then 0 else 1), -(k : Int) - 1 - e)

/-- `√(m * 2^e)` with a sticky low bit, exact enough for any rounding. -/
def sqrtDyadic (m : Nat) (e : Int) : Nat × Int :=
  let (m, e) := if e % 2 == 0 then (m, e) else (2 * m, e - 1)
  let n := m <<< 200
  let s := isqrt n
  (2 * s + (if s * s == n then 0 else 1), e / 2 - 101)

/-- Terms `t^k / k!` summed from below, in units of `2^-fixP`. -/
def expTerms (t : Nat) : Nat → Nat → Nat → Nat → Nat
  | 0, _, _, acc => acc
  | fuel + 1, k, term, acc => expTerms t fuel (k + 1) (term * t / (k * 2 ^ fixP)) (acc + term)

/-- An enclosure of `e^t` for a fixed-point `t` of at most 32. -/
def expEnc (tlo thi : Nat) : Nat × Nat :=
  (expTerms tlo 300 1 (2 ^ fixP) 0, expTerms thi 300 1 (2 ^ fixP) 0 + 2 ^ 64)

/-- Terms `z^(2k+1) / (2k+1)` summed from below. -/
def atanhTerms (z2 : Nat) : Nat → Nat → Nat → Nat → Nat
  | 0, _, _, acc => acc
  | fuel + 1, k, pw, acc => atanhTerms z2 fuel (k + 2) (pw * z2 / 2 ^ fixP) (acc + pw / k)

/-- An enclosure of `ln(num / den)` for `1 ≤ num / den < 2`. -/
def lnEnc (num den : Nat) : Nat × Nat :=
  let z := (num - den) * 2 ^ fixP / (num + den)
  let s := atanhTerms (z * z / 2 ^ fixP) 200 1 z 0
  (2 * s, 2 * s + 2 ^ 12)

/-- An enclosure of `ln 2`. -/
def ln2Enc : Nat × Nat :=
  let z := 2 ^ fixP / 3
  let s := atanhTerms (z * z / 2 ^ fixP) 200 1 z 0
  (2 * s, 2 * s + 2 ^ 12)

/-- `atan(1/n)` by its alternating series. -/
def atanTerms (n : Nat) : Nat → Nat → Nat → Int → Int
  | 0, _, _, acc => acc
  | fuel + 1, k, pw, acc =>
    let t : Int := ((pw / (2 * k + 1) : Nat) : Int)
    atanTerms n fuel (k + 1) (pw / (n * n)) (if k % 2 == 0 then acc + t else acc - t)

/-- An approximation of π within `2^12` units. -/
def piFix : Nat :=
  (16 * atanTerms 5 100 0 (2 ^ fixP / 5) 0 - 4 * atanTerms 239 100 0 (2 ^ fixP / 239) 0).toNat

/-- The alternating series of the sine. -/
def sinTerms (th2 : Nat) : Nat → Nat → Nat → Int → Int
  | 0, _, _, acc => acc
  | fuel + 1, k, term, acc =>
    sinTerms th2 fuel (k + 1) (term * th2 / 2 ^ fixP / ((2 * k + 2) * (2 * k + 3)))
      (if k % 2 == 0 then acc + term else acc - term)

/-- An enclosure of `sin 2πr` for a fixed-point `r` in (0, 1/4). -/
def sinQuarter (r : Nat) : Int × Int :=
  let th := 2 * piFix * r / 2 ^ fixP
  let s := sinTerms (th * th / 2 ^ fixP) 120 0 th 0
  (s - 2 ^ 24, s + 2 ^ 24)

/-- An enclosure of `sin 2πr` for a fixed-point `r` in (0, 1) that is no multiple of 1/4. -/
def sinEnc (r : Nat) : Int × Int :=
  let one := 2 ^ fixP
  let flip : Int × Int → Int × Int := fun p => (-p.2, -p.1)
  if r < one / 4 then sinQuarter r
  else if r < one / 2 then sinQuarter (one / 2 - r)
  else if r < 3 * (one / 4) then flip (sinQuarter (r - one / 2))
  else flip (sinQuarter (one - r))

/-- A finite value as a fixed-point integer; exact for exponents above `-fixP`. -/
def toFix (x : Fv) : Int := Fv.at (-(fixP : Int)) x

/-- `r = x - Floor(x)` in fixed point (R78). -/
def fracFix (x : Fv) : Nat := (toFix x % ((2 ^ fixP : Nat) : Int)).toNat

/-- Twice the bound of a function in ulps (R78). -/
def FnId.bound2 : FnId → Nat
  | .rsq | .exp2 | .log2 => 2
  | .sint | .cost => 3
  | .tanh => 4

/-- An enclosure of the exact result of a function at a finite operand that is no special or exact
case of R78 (DESIGN CHOICE, log entry 8). -/
def FnId.enclose (fn : FnId) (x : Fv) : Int × Int :=
  match fn with
  | .rsq => match x with
    | .fin _ m e =>
      let n := if e ≤ 2 * fixP then 2 ^ (2 * (fixP : Int) - e).toNat / m else 0
      let s := isqrt n
      ((s : Int), (s : Int) + 1)
    | .nan | .inf _ => (0, 0)
  | .exp2 =>
    let v := toFix x
    let fl := v / ((2 ^ fixP : Nat) : Int)
    if fl < -200 then (0, 1)
    else
      let f := fracFix x
      let (l, h) := expEnc (f * ln2Enc.1 / 2 ^ fixP) (f * ln2Enc.2 / 2 ^ fixP + 1)
      if fl ≥ 0 then ((l <<< fl.toNat : Nat), (h <<< fl.toNat : Nat))
      else ((l >>> (-fl).toNat : Nat), ((h >>> (-fl).toNat) + 1 : Nat))
  | .log2 => match x with
    | .fin _ m e =>
      let k := Nat.log2 m
      let (l, h) := lnEnc m (2 ^ k)
      let base := ((k : Int) + e) * ((2 ^ fixP : Nat) : Int)
      (base + ((l * 2 ^ fixP / ln2Enc.2 : Nat) : Int),
       base + ((h * 2 ^ fixP / ln2Enc.1 + 1 : Nat) : Int))
    | .nan | .inf _ => (0, 0)
  | .sint => sinEnc (fracFix x)
  | .cost => sinEnc ((fracFix x + 2 ^ fixP / 4) % 2 ^ fixP)
  | .tanh =>
    let a := (toFix x).natAbs
    let (l, h) := expEnc (2 * a) (2 * a)
    let lo := (l - 2 ^ fixP) * 2 ^ fixP / (l + 2 ^ fixP)
    let hi := (h - 2 ^ fixP) * 2 ^ fixP / (h + 2 ^ fixP) + 1
    if x.neg then (-((hi : Nat) : Int), -((lo : Nat) : Int)) else ((lo : Int), (hi : Int))

/-- `ulp` of R76 at the smallest magnitude of an enclosure, in fixed point. -/
def ulpFix (lo hi : Int) : Int :=
  let a := min lo.natAbs hi.natAbs
  let e := (Nat.log2 a : Int) - fixP
  ((2 ^ ((max e (-126)) - 23 + fixP).toNat : Nat) : Int)

/-- A finite FP32 value lies within the bound of the whole enclosure (R76) (DESIGN CHOICE, log entry 8). -/
def FnId.within (fn : FnId) (c : Fv) (lo hi : Int) : Bool :=
  match c with
  | .fin _ _ _ =>
    let v := 2 * toFix c
    let b := (fn.bound2 : Int) * ulpFix lo hi
    2 * hi - b ≤ v && v ≤ 2 * lo + b
  | .nan | .inf _ => false

/-- The FP32 result of a function at a finite operand away from the exact cases: the
implementation's value when the bound admits it, else the nearest value (log entry 8). -/
def FnId.value (fn : FnId) (x : Fv) (xb : Nat) (dst : Ty) : Fv :=
  let (lo, hi) := fn.enclose x
  let c := FFmt.fp32.decode (Config.fnValue fn (BitVec.ofNat 32 xb) dst).toNat
  if fn.within c lo hi then c
  else FFmt.fp32.decode (FFmt.fp32.roundFin .rne false 0 (lo < 0) lo.natAbs (-(fixP : Int)))

/-- `x` is a power of two: its exponent. -/
def Fv.log2Exact : Fv → Option Int
  | .fin false m e => if m != 0 && m == 2 ^ Nat.log2 m then some ((Nat.log2 m : Int) + e) else none
  | _ => none

/-- A whole finite value. -/
def Fv.whole? : Fv → Option Int
  | .fin n m e =>
    let s : Int → Int := fun k => if n then -k else k
    if e ≥ 0 then some (s ((m <<< e.toNat : Nat) : Int))
    else if m % 2 ^ (-e).toNat == 0 then some (s ((m >>> (-e).toNat : Nat) : Int))
    else none
  | _ => none

/-- An FP32 result of R76 with its causes, before R77. -/
structure FnRes where
  v : Fv
  invalid : Bool := false
  divZero : Bool := false
  /-- The result is a finite overflow (R159). -/
  overran : Bool := false
  deriving DecidableEq, Repr

/-- Turn quarter `k` of sine (R78). -/
def quarterSin (k : Nat) : Fv :=
  match k % 4 with
  | 1 => .fin false 1 0
  | 3 => .fin true 1 0
  | _ => .fin false 0 0

/-- The six functions with an open value, with their special and exact cases (R78). -/
def FnId.eval (fn : FnId) (x : Fv) (xb : Nat) (dst : Ty) : FnRes :=
  match fn, x with
  | _, .nan => { v := .nan }
  | .rsq, .inf n => if n then { v := .nan, invalid := true } else { v := .fin false 0 0 }
  | .rsq, .fin n m e =>
    if m == 0 then { v := .inf n, divZero := true }
    else if n then { v := .nan, invalid := true }
    else match x.log2Exact with
      | some k => if k % 2 == 0 then { v := .fin false 1 (-(k / 2)) }
        else { v := fn.value (.fin n m e) xb dst }
      | none => { v := fn.value x xb dst }
  | .exp2, .inf n => if n then { v := .fin false 0 0 } else { v := .inf false }
  | .exp2, .fin _ _ _ =>
    if toFix x ≥ ((128 * 2 ^ fixP : Nat) : Int) then { v := .inf false, overran := true }
    else match x.whole? with
      | some k => if k < -149 then { v := .fin false 0 0 } else { v := .fin false 1 k }
      | none => { v := fn.value x xb dst }
  | .log2, .inf n => if n then { v := .nan, invalid := true } else { v := .inf false }
  | .log2, .fin n m _ =>
    if m == 0 then { v := .inf true, divZero := true }
    else if n then { v := .nan, invalid := true }
    else match x.log2Exact with
      | some k => { v := Fv.ofInt k }
      | none => { v := fn.value x xb dst }
  | .sint, .inf _ => { v := .nan, invalid := true }
  | .sint, .fin n m _ =>
    if m == 0 then { v := .fin n 0 0 }
    else if (4 * fracFix x) % 2 ^ fixP == 0 then { v := quarterSin (4 * fracFix x / 2 ^ fixP) }
    else { v := fn.value x xb dst }
  | .cost, .inf _ => { v := .nan, invalid := true }
  | .cost, .fin _ _ _ =>
    if (4 * fracFix x) % 2 ^ fixP == 0 then { v := quarterSin (4 * fracFix x / 2 ^ fixP + 1) }
    else { v := fn.value x xb dst }
  | .tanh, .inf n => { v := .fin n 1 0 }
  | .tanh, .fin n m _ =>
    if m == 0 then { v := .fin n 0 0 }
    else if (toFix x).natAbs ≥ 10 * 2 ^ fixP then { v := .fin n 1 0 }
    else { v := fn.value x xb dst }

/-- One lane of FRSQ, FEXP2, FLOG2, FSINT, FCOST or FTANH (R76, R77, R159). -/
def fnLane (fn : FnId) (t : Ty) (f : FFmt) (rm : Rm) (sat : Bool) (u : Nat) (xb : Nat) : LaneOut :=
  let x := f.decode xb
  let x32 := (FFmt.fp32.roundTo .rne false 0 x).code
  let r := fn.eval x x32 t
  let v : Fv := if r.overran && sat then FFmt.fp32.decode FFmt.fp32.maxCode else r.v
  let rm := if f == .fp32 then .rne else rm
  { code := f.deliver rm sat u v, invalid := r.invalid, divZero := r.divZero, nanIn := x == .nan }

/-- One lane of FRCP (R77, R78). -/
def frcpLane (f : FFmt) (rm : Rm) (sat : Bool) (u : Nat) (xb : Nat) : LaneOut :=
  match f.decode xb with
  | .nan => { code := f.deliver rm sat u .nan, nanIn := true }
  | .inf n => { code := f.deliver rm sat u (.fin n 0 0) }
  | .fin n m e =>
    if m == 0 then { code := f.deliver rm sat u (.inf n), divZero := true }
    else let (q, d) := recipDyadic m e; { code := f.deliver rm sat u (.fin n q d) }

/-- One lane of FSQRT (R77, R78). -/
def fsqrtLane (f : FFmt) (rm : Rm) (sat : Bool) (u : Nat) (xb : Nat) : LaneOut :=
  match f.decode xb with
  | .nan => { code := f.deliver rm sat u .nan, nanIn := true }
  | .inf n => if n then { code := f.deliver rm sat u .nan, invalid := true }
    else { code := f.deliver rm sat u (.inf false) }
  | .fin n m e =>
    if m == 0 then { code := f.deliver rm sat u (.fin n 0 0) }
    else if n then { code := f.deliver rm sat u .nan, invalid := true }
    else let (q, d) := sqrtDyadic m e; { code := f.deliver rm sat u (.fin false q d) }

end Sys2Proof
end

