-- ==== Sys2Proof/Machine/Alu.lean ====
section
/-! DEFINITION. What the data instructions compute on the lanes of their operands: integer (R136 to
R144), dataflow (R122, R126), floating-point (R149 to R161) and lane instructions (R162 to R169).
Every function here is pure: it takes operand DATA and gives one `LaneOut` per lane. In control mode
there is one lane, in the low bits of a 64-bit value (R54). -/

namespace Sys2Proof

/-- Lane `l` of width `w` of a token's DATA (R7). -/
def laneOf (w : Nat) (d : Data) (l : Nat) : Nat := (d.toNat >>> (w * l)) % 2 ^ w

/-- DATA with the given lanes of width `w` from lane 0 up. -/
def packLanes (w : Nat) (xs : List Nat) : Data :=
  BitVec.ofNat 1024 (xs.foldr (fun x acc => acc * 2 ^ w + x % 2 ^ w) 0)

/-- The lanes an instruction acts on: all of the token, or one in control mode (R54, R136). -/
def laneCount (ctl : Bool) (t : Ty) : Nat := if ctl then 1 else t.lanes

/-- The result of a data instruction before poison, null and end marks are settled. -/
structure AluOut where
  lanes : List LaneOut
  /-- Lane width of the result token. -/
  w : Nat
  /-- Width of the element whose sign is extended in control mode (R54); 0 for none. -/
  sx : Nat := 0
  deriving DecidableEq, Repr

/-- The DATA of a result: lanes side by side, or one value extended by R54. -/
def AluOut.data (o : AluOut) (ctl : Bool) : Data :=
  if ctl then
    match o.lanes with
    | [] => 0
    | x :: _ =>
      if o.sx == 0 then BitVec.ofNat 1024 x.code
      else BitVec.ofNat 1024 (Word.wrap (Word.toSigned o.sx x.code) 64)
  else packLanes o.w (o.lanes.map (·.code))

/-- Width to sign-extend in control mode (R54). -/
def Ty.sx (t : Ty) : Nat := if t.isI then t.width else 0

/-- One result lane per lane acted on. -/
def mapLanes (ctl : Bool) (t : Ty) (f : Nat → LaneOut) : AluOut :=
  { lanes := (List.range (laneCount ctl t)).map f, w := t.laneWidth, sx := t.sx }

/-- Lanes copied bit for bit (R126, R164): the whole lane in element mode, the element in control
mode. -/
def rawLane (ctl : Bool) (t : Ty) (d : Data) (l : Nat) : Nat :=
  laneOf (if ctl then t.width else t.laneWidth) d l

/-! ### Integer instructions -/

/-- Narrowing of R136. -/
def narrow (t : Ty) (sat : Bool) (x : Int) : LaneOut :=
  { code := if sat then saturate x t else Word.wrap x t.width }

/-- An integer instruction of two operands by its exact value (R136). -/
def intBin (ctl : Bool) (t : Ty) (sat : Bool) (f : Int → Int → Int) (a b : Data) : AluOut :=
  mapLanes ctl t fun l =>
    narrow t sat (f (t.intVal (laneOf t.laneWidth a l)) (t.intVal (laneOf t.laneWidth b l)))

/-- An integer instruction of one operand by its exact value (R136). -/
def intUn (ctl : Bool) (t : Ty) (sat : Bool) (f : Int → Int) (a : Data) : AluOut :=
  mapLanes ctl t fun l => narrow t sat (f (t.intVal (laneOf t.laneWidth a l)))

/-- An integer instruction on the unsigned patterns of two operands (R136). -/
def patBin (ctl : Bool) (t : Ty) (f : Nat → Nat → Nat) (a b : Data) : AluOut :=
  mapLanes ctl t fun l =>
    { code := f (laneOf t.laneWidth a l) (laneOf t.laneWidth b l) % 2 ^ t.width }

/-- An integer instruction on the unsigned pattern of one operand (R136). -/
def patUn (ctl : Bool) (t : Ty) (f : Nat → Nat) (a : Data) : AluOut :=
  mapLanes ctl t fun l => { code := f (laneOf t.laneWidth a l) % 2 ^ t.width }

/-- ADDS and SUBS: 1 when the exact value lies outside the type's range (R138). -/
def outOfRange (t : Ty) (x : Int) : Int := if x < t.intMin ∨ x > t.intMax then 1 else 0

/-- `Floor(a * b / 2^w)` (R137). -/
def mulHigh (t : Ty) (a b : Int) : Int := a * b / ((2 ^ t.width : Nat) : Int)

/-- MADD (R137). -/
def intMadd (ctl : Bool) (t : Ty) (sat : Bool) (a b c : Data) : AluOut :=
  mapLanes ctl t fun l =>
    narrow t sat (t.intVal (laneOf t.laneWidth a l) * t.intVal (laneOf t.laneWidth b l)
      + t.intVal (laneOf t.laneWidth c l))

/-- DIV, DIVW, REM and REMW (R139). -/
def intDivRem (ctl : Bool) (t : Ty) (wantQuot : Bool) (a b : Data) : AluOut :=
  mapLanes ctl t fun l =>
    let x := t.intVal (laneOf t.laneWidth a l)
    let y := t.intVal (laneOf t.laneWidth b l)
    if y == 0 then { code := Word.wrap (if wantQuot then 0 else x) t.width, intDiv := true }
    else { code := Word.wrap (if wantQuot then x.tdiv y else x.tmod y) t.width }

/-- SHL (R140). -/
def shlPat (w a k : Nat) : Nat := if k < w then a <<< k else 0
/-- SHR (R140). -/
def shrPat (w a k : Nat) : Nat := if k < w then a >>> k else 0
/-- ROTL (R140). -/
def rotlPat (w a k : Nat) : Nat := let j := k % w; (a <<< j) % 2 ^ w + a >>> (w - j)
/-- SRA (R140). -/
def sraPat (w a k : Nat) : Nat :=
  Word.wrap (Word.toSigned w a / ((2 ^ (min k (w - 1)) : Nat) : Int)) w

/-- CLZ (R141). -/
def clzPat (w a : Nat) : Nat := if a == 0 then w else w - 1 - Nat.log2 a
/-- POPC (R141). -/
def popcPat (w a : Nat) : Nat := ((List.range w).filter fun i => a.testBit i).length
/-- BREV (R141). -/
def brevPat (w a : Nat) : Nat :=
  (List.range w).foldl (fun acc i => if a.testBit i then acc + 2 ^ (w - 1 - i) else acc) 0

/-- The condition of CMP and CMPI by FN (R142). -/
def cmpHolds (fn : Nat) (a b : Int) : Bool :=
  match fn with
  | 0 => a == b
  | 1 => a != b
  | 2 => a < b
  | 3 => a ≤ b
  | 4 => a > b
  | _ => a ≥ b

/-- All ones of width `w`, or 0. -/
def maskLane (w : Nat) (c : Bool) : Nat := if c then 2 ^ w - 1 else 0

/-- CMP and CMPI (R142), the second operand given per lane. -/
def intCmp (ctl : Bool) (t : Ty) (fn : Nat) (a : Data) (b : Nat → Int) : AluOut :=
  mapLanes ctl t fun l =>
    { code := maskLane t.width (cmpHolds fn (t.intVal (laneOf t.laneWidth a l)) (b l)) }

/-- The immediate of CMPI, extended by the type (R142). -/
def cmpImm (t : Ty) (imm : BitVec 16) : Int :=
  if t.isI then imm.toInt else ((imm.toNat : Nat) : Int)

/-- BFX (R143). -/
def bfxPat (t : Ty) (imm : Nat) (a : Nat) : Nat :=
  let pos := imm % 64
  let len := imm / 64 % 64 + 1
  let f := (a >>> pos) % 2 ^ len
  if t.isI && f ≥ 2 ^ (len - 1) then Word.wrap ((f : Int) - ((2 ^ len : Nat) : Int)) t.width else f

/-- BFI (R143). -/
def bfiPat (imm : Nat) (a b : Nat) : Nat :=
  let pos := imm % 64
  let len := imm / 64 % 64 + 1
  let f := (a >>> pos) % 2 ^ len
  a - f * 2 ^ pos + (b % 2 ^ len) * 2 ^ pos

/-! ### Dataflow instructions -/

/-- The lane value MOVI gives for a type (R122). -/
def moviLane (t : Ty) (imm : BitVec 16) : Nat :=
  match t with
  | .i16 | .i32 | .i64 => Word.wrap imm.toInt t.width
  | .fp32 => imm.toNat * 2 ^ 16
  | .w16 | .w32 | .w64 | .i8 | .w8 | .e4m3 | .e5m2 | .e3m2 | .e2m3 | .e2m1 | .bf16 | .fp16 =>
    imm.toNat

/-- Immediate bits MOVI leaves zero for a type (R122). -/
def moviBits (t : Ty) : Nat :=
  match t with
  | .i8 | .w8 | .e4m3 | .e5m2 => 8
  | .e3m2 | .e2m3 => 6
  | .e2m1 => 4
  | .i16 | .i32 | .i64 | .w16 | .w32 | .w64 | .bf16 | .fp16 | .fp32 => 16

/-- Every lane holds one value. -/
def splat (ctl : Bool) (t : Ty) (v : Nat) : AluOut := mapLanes ctl t fun _ => { code := v }

/-- SEL (R126). -/
def selLanes (ctl : Bool) (t : Ty) (a b c : Data) : AluOut :=
  mapLanes ctl t fun l =>
    { code := if rawLane ctl t c l != 0 then rawLane ctl t a l else rawLane ctl t b l }

/-! ### Floating-point instructions -/

/-- The draw of lane `l`, 0 when RM is not stochastic (R59). -/
def drawAt (us : List Nat) (l : Nat) : Nat := us.getD l 0

/-- A floating-point instruction of two operands by its exact result (R151). -/
def fpBin (ctl : Bool) (t : Ty) (f : FFmt) (rm : Rm) (sat : Bool) (us : List Nat)
    (op : Fv → Fv → Fv × Bool) (a b : Data) : AluOut :=
  mapLanes ctl t fun l =>
    let x := f.decode (laneOf t.laneWidth a l)
    let y := f.decode (laneOf t.laneWidth b l)
    let (v, inv) := op x y
    { code := f.deliver rm sat (drawAt us l) v, invalid := inv, nanIn := x == .nan || y == .nan }

/-- FFMA (R151). -/
def fpFma (ctl : Bool) (t : Ty) (f : FFmt) (rm : Rm) (sat : Bool) (us : List Nat)
    (a b c : Data) : AluOut :=
  mapLanes ctl t fun l =>
    let x := f.decode (laneOf t.laneWidth a l)
    let y := f.decode (laneOf t.laneWidth b l)
    let z := f.decode (laneOf t.laneWidth c l)
    let (p, pi) := x.mul y
    let (v, si) := if pi then (.nan, false) else Fv.sum rm [p, z]
    { code := f.deliver rm sat (drawAt us l) v, invalid := pi || si
      nanIn := x == .nan || y == .nan || z == .nan }

/-- FMIN's choice (R152): −0 counts as less than +0, and equal operands give the first. -/
def fpLess (x y : Fv) : Bool :=
  match x.cmp y with
  | .lt => true
  | .gt => false
  | .eq => x.isZero && y.isZero && x.neg && !y.neg

/-- The smaller, larger or largest-magnitude of two codes (R152); NaN when either is NaN. -/
inductive Extremum
  | min | max | amax
  deriving DecidableEq, Repr

/-- R152 on the codes of one format. -/
def Extremum.pick (k : Extremum) (f : FFmt) (a b : Nat) : Nat :=
  let x := f.decode a
  let y := f.decode b
  let a := a % 2 ^ (f.signBit + 1)
  let b := b % 2 ^ (f.signBit + 1)
  if x == .nan || y == .nan then f.nanCode.getD 0
  else match k with
    | .min => if fpLess y x then b else a
    | .max => if fpLess x y then b else a
    | .amax =>
      let am := a % 2 ^ f.signBit
      let bm := b % 2 ^ f.signBit
      if am ≥ bm then am else bm

/-- FMIN, FMAX and FAMAX (R152). -/
def fpExtremum (ctl : Bool) (t : Ty) (f : FFmt) (k : Extremum) (a b : Data) : AluOut :=
  mapLanes ctl t fun l =>
    let x := laneOf t.laneWidth a l
    let y := laneOf t.laneWidth b l
    { code := k.pick f x y, nanIn := f.isNan x || f.isNan y }

/-- A sign operation on one code; a NaN gives the canonical NaN (R153). -/
def signOp (f : FFmt) (a : Nat) (neg : Bool) : LaneOut :=
  if f.isNan a then { code := f.nanCode.getD 0, nanIn := true }
  else { code := f.withSign neg (a % 2 ^ f.signBit) }

/-- FCMP's condition (R154). -/
def fcmpHolds (fn : Nat) (x y : Fv) : Bool :=
  if x == .nan || y == .nan then fn == 1 || fn == 6
  else
    let o := x.cmp y
    match fn with
    | 0 => o == .eq
    | 1 => o != .eq
    | 2 => o == .lt
    | 3 => o != .gt
    | 4 => o == .gt
    | 5 => o != .lt
    | 6 => false
    | _ => true

/-- FCMP (R154): a mask of the lane width, zero-extended in control mode. -/
def fpCmp (ctl : Bool) (t : Ty) (f : FFmt) (fn : Nat) (a b : Data) : AluOut :=
  mapLanes ctl t fun l =>
    let x := f.decode (laneOf t.laneWidth a l)
    let y := f.decode (laneOf t.laneWidth b l)
    { code := maskLane t.laneWidth (fcmpHolds fn x y), nanIn := x == .nan || y == .nan }

/-- FCLASS's code (R155). -/
def fpClass (f : FFmt) (a : Nat) : Nat :=
  match f.decode a with
  | .nan => 8
  | .inf n => if n then 0 else 7
  | .fin n m _ =>
    if m == 0 then (if n then 3 else 4)
    else if m < 2 ^ f.mant then (if n then 2 else 5)
    else if n then 1 else 6

/-- One lane of FRND (R158). -/
def frndLane (f : FFmt) (rm : Rm) (u : Nat) (a : Nat) : LaneOut :=
  match f.decode a with
  | .nan => { code := f.nanCode.getD 0, nanIn := true }
  | .inf n => { code := f.infCode n }
  | .fin n m e =>
    { code := f.roundFin .rne false 0 n (roundWhole rm u n m e).natAbs 0 }

/-- One lane of FSCALE (R160). -/
def fscaleLane (t : Ty) (f : FFmt) (rm : Rm) (sat : Bool) (u : Nat) (a b : Nat) : LaneOut :=
  let k := Word.toSigned t.width b
  match f.decode a with
  | .nan => { code := f.nanCode.getD 0, nanIn := true }
  | .inf n => { code := f.infCode n }
  | .fin n m e =>
    if m == 0 then { code := f.withSign n 0 }
    else { code := f.roundFin rm sat u n m (e + max (-1000000) (min 1000000 k)) }

/-- FDOT2 and FDOT4: `g` products into each FP32 lane (R161). -/
def fpDot (ctl : Bool) (t : Ty) (f : FFmt) (g : Nat) (rm : Rm) (sat : Bool) (us : List Nat)
    (a b c : Data) : AluOut :=
  { lanes := (List.range (if ctl then 1 else 32)).map fun l =>
      let xs := (List.range g).map fun j => f.decode (laneOf t.laneWidth a (g * l + j))
      let ys := (List.range g).map fun j => f.decode (laneOf t.laneWidth b (g * l + j))
      let z := FFmt.fp32.decode (laneOf 32 c l)
      let anyNan := xs.any (· == .nan) || ys.any (· == .nan) || z == .nan
      let ps := List.zipWith Fv.mul xs ys
      let (v, si) := if ps.any (·.2) then (.nan, false) else Fv.sum rm (ps.map (·.1) ++ [z])
      if anyNan then { code := FFmt.fp32.deliver rm sat 0 .nan, nanIn := true }
      else { code := FFmt.fp32.deliver rm sat (drawAt us l) v, invalid := ps.any (·.2) || si }
    w := 32 }

/-- One converted element with its cause (R157). -/
def convLane (dst src : Ty) (rm : Rm) (sat : Bool) (u : Nat) (x : Nat) : LaneOut :=
  let r := convert dst src rm sat u x
  { code := r.code, invalid := r.invalid
    nanIn := match src.ffmt with
      | some f => f.isNan x
      | none => false }

/-- FCVT: the matching of source and destination lanes (R156). In control mode one element is
converted. -/
def fpConvert (ctl : Bool) (dst src : Ty) (part : Nat) (rm : Rm) (sat : Bool) (us : List Nat)
    (a : Data) : AluOut :=
  let conv := fun l d => convLane dst src rm sat (drawAt us d) (laneOf src.laneWidth a l)
  let lanes :=
    if ctl then [conv 0 0]
    else
      let ns := src.lanes
      let nd := dst.lanes
      if nd > ns then
        (List.range nd).map fun l =>
          if part * ns ≤ l && l < part * ns + ns then conv (l - part * ns) (l - part * ns)
          else { code := 0 }
      else (List.range nd).map fun l => conv ((if nd < ns then part * nd else 0) + l) l
  { lanes := lanes, w := dst.laneWidth, sx := dst.sx }

/-- Elements FCVT converts, the draws it takes under RM = 5 (R156). -/
def fcvtDraws (dst src : Ty) : Nat := min dst.lanes src.lanes

/-! ### Lane instructions -/

/-- A lane holds true (R162). -/
def laneTrue (t : Ty) (d : Data) (l : Nat) : Bool := laneOf t.laneWidth d l != 0

/-- A token built lane by lane from patterns. -/
def rawLanes (t : Ty) (f : Nat → Nat) : AluOut :=
  { lanes := (List.range t.lanes).map fun l => { code := f l }, w := t.laneWidth }

/-- LSWP (R163). -/
def lswp (t : Ty) (k : Nat) (neg : Bool) (a : Data) : AluOut :=
  { lanes := (List.range t.lanes).map fun l =>
      let v := laneOf t.laneWidth a (l ^^^ 2 ^ k)
      match t.ffmt with
      | some f => if neg && !l.testBit k then signOp f v (!v.testBit f.signBit) else { code := v }
      | none => { code := v }
    w := t.laneWidth }

/-- LPERM (R164). -/
def lperm (t : Ty) (a b : Data) : AluOut :=
  rawLanes t fun l => laneOf t.laneWidth a (laneOf t.laneWidth b l % t.lanes)

/-- LBCST (R164). -/
def lbcst (t : Ty) (lane : Nat) (a : Data) : AluOut :=
  rawLanes t fun _ => laneOf t.laneWidth a lane

/-- LSLD (R164). -/
def lsld (t : Ty) (s : Nat) (a b : Data) : AluOut :=
  rawLanes t fun l =>
    if l + s < t.lanes then laneOf t.laneWidth a (l + s)
    else laneOf t.laneWidth b (l + s - t.lanes)

/-- The add of LRED and LSCAN over some lanes (R165). -/
def redAdd (t : Ty) (rm : Rm) (sat : Bool) (u : Nat) (xs : List Nat) : LaneOut :=
  match t.ffmt with
  | none => narrow t sat ((xs.map t.intVal).foldl (· + ·) 0)
  | some f =>
    let vs := xs.map f.decode
    let (v, inv) := Fv.sum rm vs
    { code := f.deliver rm sat u v, invalid := inv, nanIn := vs.any (· == .nan) }

/-- One step of an extremum over integer or floating-point patterns (R165). -/
def redPick (t : Ty) (k : Extremum) (x y : Nat) : Nat :=
  match t.ffmt with
  | some f => k.pick f x y
  | none => match k with
    | .min => if t.intVal y < t.intVal x then y else x
    | .max | .amax => if t.intVal y > t.intVal x then y else x

/-- An extremum over some lanes in ascending order (R165). -/
def redExt (t : Ty) (k : Extremum) (xs : List Nat) : LaneOut :=
  match xs with
  | [] => { code := 0 }
  | x :: rest =>
    { code := (rest.foldl (redPick t k) (redPick t k x x)) % 2 ^ t.width
      nanIn := match t.ffmt with
        | some f => xs.any f.isNan
        | none => false }

/-- The operation of LRED and LSCAN by FN over some lanes (R165). -/
def redLanes (t : Ty) (fn : Nat) (rm : Rm) (sat : Bool) (u : Nat) (xs : List Nat) : LaneOut :=
  match fn with
  | 0 => redAdd t rm sat u xs
  | 1 => redExt t .min xs
  | 2 => redExt t .max xs
  | 3 => redExt t .amax xs
  | 4 => { code := xs.foldl (· &&& ·) (2 ^ t.width - 1) }
  | 5 => { code := xs.foldl (· ||| ·) 0 }
  | _ => { code := xs.foldl (· ^^^ ·) 0 }

/-- LRED (R165). -/
def lred (t : Ty) (fn : Nat) (rm : Rm) (sat : Bool) (us : List Nat) (a : Data) : AluOut :=
  let xs := (List.range t.lanes).map (laneOf t.laneWidth a)
  let r := redLanes t fn rm sat (drawAt us 0) xs
  { lanes := (List.range t.lanes).map fun _ => r, w := t.laneWidth }

/-- LSCAN (R165). -/
def lscan (t : Ty) (fn : Nat) (rm : Rm) (sat : Bool) (us : List Nat) (a : Data) : AluOut :=
  let xs := (List.range t.lanes).map (laneOf t.laneWidth a)
  { lanes := (List.range t.lanes).map fun l => redLanes t fn rm sat (drawAt us l) (xs.take (l + 1))
    w := t.laneWidth }

/-- LVOTE: 32 lanes of W32 (R166). -/
def lvote (t : Ty) (fn : Nat) (a : Data) : AluOut :=
  let n := t.lanes
  let v : Nat → Nat := fun j =>
    match fn with
    | 0 => maskLane 32 ((List.range n).any (laneTrue t a))
    | 1 => maskLane 32 ((List.range n).all (laneTrue t a))
    | 2 => (List.range 32).foldl
        (fun acc i => if 32 * j + i < n && laneTrue t a (32 * j + i) then acc + 2 ^ i else acc) 0
    | _ => ((List.range n).filter (laneTrue t a)).length
  { lanes := (List.range 32).map fun j => { code := v j }, w := 32 }

/-- LMSK (R166). -/
def lmsk (t : Ty) (fn : Nat) (a : Data) : AluOut :=
  rawLanes t fun l =>
    maskLane t.laneWidth (if fn == 0 then l < laneOf 32 a 0 else a.getLsbD l)

/-- LCMPR (R167). -/
def lcmpr (t : Ty) (a b : Data) : AluOut :=
  let kept := ((List.range t.lanes).filter (laneTrue t b)).map (laneOf t.laneWidth a)
  rawLanes t fun l => kept.getD l 0

/-- LEXPD (R167). -/
def lexpd (t : Ty) (a b : Data) : AluOut :=
  rawLanes t fun l =>
    if laneTrue t b l then
      laneOf t.laneWidth a ((List.range l).filter (laneTrue t b)).length
    else 0

/-- Bits per packed element of LPACK and LUNPK (R168). -/
def packBits (t : Ty) : Nat := if t == .e3m2 || t == .e2m3 then 6 else 4

/-- The packed element of an 8-bit lane (R168). -/
def packElem (t : Ty) (sat : Bool) (x : Nat) : Nat :=
  if t == .i8 then
    let v := Word.toSigned 8 x
    Word.wrap (if sat then max (-8) (min 7 v) else v) 4
  else x % 2 ^ packBits t

/-- LPACK (R168). -/
def lpack (t : Ty) (q : Nat) (sat : Bool) (a b : Data) : AluOut :=
  let v := packBits t
  { lanes := (List.range 1024).map fun j =>
      let g := 1024 * q + j
      let e := g / v
      let src := if e / 128 == 8 * q / v then a else b
      { code := if (packElem t sat (laneOf 8 src (e % 128))).testBit (g % v) then 1 else 0 }
    w := 1 }

/-- LUNPK (R169). -/
def lunpk (t : Ty) (q : Nat) (a b : Data) : AluOut :=
  let v := packBits t
  let k := q * v / 8
  let o := 128 * q * v - 1024 * k
  let x := b.toNat * 2 ^ 1024 + a.toNat
  { lanes := (List.range 128).map fun l =>
      let el := (x >>> (o + v * l)) % 2 ^ v
      { code := if t == .i8 then Word.wrap (Word.toSigned v el) 8 else el }
    w := 8 }

/-- LUNPK uses slot r (R169). -/
def lunpkUsesR (t : Ty) (q : Nat) : Bool := packBits t == 6 && (q == 1 || q == 2)

/-! ### Draws of the stochastic-rounding generator -/

/-- `Next(s)` of R59. -/
def nextDraw (s : Word) : Word :=
  let s := s ^^^ (s <<< 13)
  let s := s ^^^ (s >>> 7)
  s ^^^ (s <<< 17)

/-- `n` draws in order and the generator state after them (R59). -/
def takeDraws : Nat → Word → List Nat × Word
  | 0, s => ([], s)
  | n + 1, s =>
    let s' := nextDraw s
    let (us, t) := takeDraws n s'
    ((s' >>> 32).toNat :: us, t)

end Sys2Proof
end

