-- ==== Sys2Proof/Machine/MatAlu.lean ====
section
/-! DEFINITION. The arithmetic of the matrix element (R70 to R75, R177 to R180, R184, R185, R188) as
pure functions of operand fills, scale bytes and an accumulator element. -/

namespace Sys2Proof

/-- Element width of a matrix format (R177). -/
def MFmt.width : MFmt → Nat
  | .e4m3 | .e5m2 | .i8 => 8
  | .e3m2 | .e2m3 => 6
  | .e2m1 | .i4 => 4
  | .bf16 | .fp16 => 16
  | .fp32 => 32

/-- The class of formats an MMA may mix (R75). -/
def MFmt.cls : MFmt → Nat
  | .e4m3 | .e5m2 | .e3m2 | .e2m3 | .e2m1 => 0
  | .i8 | .i4 => 1
  | .bf16 => 2
  | .fp16 => 3
  | .fp32 => 4

/-- An integer matrix format (R75). -/
def MFmt.isInt : MFmt → Bool
  | .i8 | .i4 => true
  | .e4m3 | .e5m2 | .e3m2 | .e2m3 | .e2m1 | .bf16 | .fp16 | .fp32 => false

/-- The floating-point format of a matrix format. -/
def MFmt.ffmt : MFmt → FFmt
  | .e4m3 => .e4m3 | .e5m2 => .e5m2 | .e3m2 => .e3m2 | .e2m3 => .e2m3 | .e2m1 => .e2m1
  | .bf16 => .bf16 | .fp16 => .fp16 | .fp32 | .i8 | .i4 => .fp32

/-- An operand fill as the ME reads it: the buffer's bytes as one little-endian number and the
S flag of each row. -/
structure Fill where
  bytes : Nat
  sflags : List Nat
  deriving DecidableEq, Repr

/-- `n` bits of a fill at a bit offset. -/
def Fill.bits (x : Fill) (off n : Nat) : Nat := (x.bytes >>> off) % 2 ^ n

/-- The row at index `r` carries S = 1. -/
def Fill.isS (x : Fill) (r : Nat) : Bool := x.sflags.contains r

/-- One matrix operand: how its groups are laid out (R177, R185). -/
structure MatOperand where
  fill : Fill
  fmt : MFmt
  /-- Rows of A or columns of B: 128 or 192. -/
  n : Nat
  transposed : Bool
  /-- Scale rows before each group's data: 0, 1 or 2. -/
  scaleRows : Nat
  /-- k-vectors held per group: 32, or 16 for the kept values of MMASP. -/
  kvecs : Nat
  /-- Bytes after the k-vectors: 512 for the index block of MMASP. -/
  tail : Nat
  deriving DecidableEq, Repr

/-- Bytes of one group with its scale rows (R177). -/
def MatOperand.groupBytes (o : MatOperand) : Nat :=
  128 * o.scaleRows + o.kvecs * o.n * o.fmt.width / 8 + o.tail

/-- First data byte of group `g`. -/
def MatOperand.dataAt (o : MatOperand) (g : Nat) : Nat := g * o.groupBytes + 128 * o.scaleRows

/-- The element of row or column `x` and k-vector `k` of group `g` (R177). -/
def MatOperand.elem (o : MatOperand) (g x k : Nat) : Nat :=
  let z := o.fmt.width
  let idx := if o.transposed then x * o.kvecs + k else k * o.n + x
  o.fill.bits (8 * o.dataAt g + idx * z) z

/-- The index nibble of quartet `q` of row `i` (R185): the two chosen places. -/
def MatOperand.sparseIdx (o : MatOperand) (g i q : Nat) : Nat × Nat :=
  let base := o.dataAt g + o.kvecs * o.n * o.fmt.width / 8
  let nib := o.fill.bits (8 * (base + 4 * i) + 4 * q) 4
  (nib % 4, nib / 4)

/-- Every scale row of the group carries S = 1 and every data row S = 0 (R180). -/
def MatOperand.sOk (o : MatOperand) (g : Nat) : Bool :=
  let r0 := g * o.groupBytes / 128
  (List.range o.scaleRows).all (fun r => o.fill.isS (r0 + r)) &&
  (List.range (o.groupBytes / 128 - o.scaleRows)).all
    (fun r => !o.fill.isS (r0 + o.scaleRows + r))

/-- The inline scale byte of row or column `x` in group `g`; 0xFF when R180 finds a misplaced
row. -/
def MatOperand.inlineScale (o : MatOperand) (g x : Nat) : Nat :=
  if o.sOk g then o.fill.bits (8 * (g * o.groupBytes + x)) 8 else 0xFF

/-- One product: its value, with the flags of a NaN operand and of 0 × ∞ (R73). -/
structure MTerm where
  parts : List Fv
  nanIn : Bool := false
  invalid : Bool := false
  deriving DecidableEq, Repr

/-- `Hi(a)` of R72. -/
def hiPart (x : Fv) : Fv := FFmt.bf16.decode (FFmt.bf16.roundTo .rtz false 0 x).code

/-- `Lo(a)` of R72. -/
def loPart (x : Fv) : Fv :=
  FFmt.bf16.decode (FFmt.bf16.roundTo .rtz false 0 (Fv.sumFin .rne [x, (hiPart x).negate])).code

/-- `Term(a, b)` of R72 for decoded elements. -/
def mterm (fmtA : MFmt) (a b : Fv) : MTerm :=
  let finite : Fv → Bool := fun x => x != .nan && !x.isInf
  if a == .nan || b == .nan then { parts := [.nan], nanIn := true }
  else if fmtA == .fp32 && finite a && finite b then
    { parts := [((hiPart a).mul (hiPart b)).1, ((hiPart a).mul (loPart b)).1,
        ((loPart a).mul (hiPart b)).1] }
  else let (v, inv) := a.mul b; { parts := [v], invalid := inv }

/-- An accumulator update of one K-group: the rounded sum `t`, and the causes (R72, R73). -/
structure GroupSum where
  t : Nat
  nanIn : Bool := false
  invalid : Bool := false
  deriving DecidableEq, Repr

/-- `t` of one K-group from its terms and the two scale bytes; `none` is no scale (R72, R73). -/
def groupSum (ts : List MTerm) (sa sb : Option Nat) : GroupSum :=
  let badScale := sa == some 0xFF || sb == some 0xFF
  let nanIn := ts.any (·.nanIn)
  let inv := ts.any (·.invalid) || badScale
  let ps := ts.flatMap (·.parts)
  let pinf := ps.any (· == .inf false)
  let ninf := ps.any (· == .inf true)
  let sc : Int := ((sa.getD 127 : Nat) : Int) - 127 + (((sb.getD 127 : Nat) : Int) - 127)
  if nanIn || inv || (pinf && ninf) then
    { t := 0x7FC00000, nanIn := nanIn, invalid := inv || (pinf && ninf) }
  else if pinf then { t := FFmt.fp32.infCode false }
  else if ninf then { t := FFmt.fp32.infCode true }
  else match Fv.sumFin .rne (.fin false 0 0 :: ps) with
    | .fin n m e => { t := FFmt.fp32.roundFin .rne false 0 n m (e + sc) }
    | .nan | .inf _ => { t := 0x7FC00000 }

/-- Causes that arose in one accumulator element (R73). -/
structure AccOut where
  word : Nat
  nanIn : Bool := false
  invalid : Bool := false
  deriving DecidableEq, Repr

/-- `acc := RoundTo(acc + t, FP32, RNE, 0)` (R72, R73). -/
def accAdd (o : AccOut) (gs : GroupSum) : AccOut :=
  let (v, inv) := Fv.sum .rne [FFmt.fp32.decode o.word, FFmt.fp32.decode gs.t]
  { word := FFmt.fp32.deliver .rne false 0 v
    nanIn := o.nanIn || gs.nanIn, invalid := o.invalid || gs.invalid || inv }

/-- One MMA or MMASP as the ME performs it. -/
structure MmaOp where
  a : MatOperand
  b : MatOperand
  groups : Nat
  sparse : Bool
  /-- SCM (R89). -/
  scm : Nat
  /-- Bytes of scale memory as one number (R179). -/
  scaleMem : Nat
  deriving DecidableEq, Repr

/-- Scale byte of A row `i` in group `g` (R71, R179). -/
def MmaOp.scaleA (m : MmaOp) (g i : Nat) : Option Nat :=
  match m.scm with
  | 0 => none
  | 3 => some ((m.scaleMem >>> (8 * (320 * g + i))) % 256)
  | _ => some (m.a.inlineScale g i)

/-- Scale byte of B column `j` in group `g` (R71, R179). -/
def MmaOp.scaleB (m : MmaOp) (g j : Nat) : Option Nat :=
  match m.scm with
  | 0 => none
  | 1 => some (m.b.inlineScale g j)
  | 2 => some ((m.scaleMem >>> (8 * (192 * g + j))) % 256)
  | _ => some ((m.scaleMem >>> (8 * (320 * g + 128 + j))) % 256)

/-- Pairs of element codes that meet in group `g` for element `(i, j)` (R72, R185). -/
def MmaOp.pairs (m : MmaOp) (g i j : Nat) : List (Nat × Nat) :=
  if m.sparse then
    (List.range 8).flatMap fun q =>
      let (p0, p1) := m.a.sparseIdx g i q
      [(m.a.elem g i (2 * q), m.b.elem g j (4 * q + p0)),
       (m.a.elem g i (2 * q + 1), m.b.elem g j (4 * q + p1))]
  else (List.range 32).map fun k => (m.a.elem g i k, m.b.elem g j k)

/-- Accumulator element `(i, j)` after the MMA, from its start value (R72, R75). -/
def MmaOp.element (m : MmaOp) (i j acc0 : Nat) : AccOut :=
  if m.a.fmt.isInt then
    let s := (List.range m.groups).foldl (fun acc g =>
      (m.pairs g i j).foldl (fun acc p =>
        acc + Word.toSigned m.a.fmt.width p.1 * Word.toSigned m.b.fmt.width p.2) acc)
      (acc0 : Int)
    { word := Word.wrap s 32 }
  else
    (List.range m.groups).foldl (fun o g =>
      let ts := (m.pairs g i j).map fun p =>
        mterm m.a.fmt (m.a.fmt.ffmt.decode p.1) (m.b.fmt.ffmt.decode p.2)
      accAdd o (groupSum ts (m.scaleA g i) (m.scaleB g j))) { word := acc0 }

/-- Bytes of an operand fill (R177, R185). -/
def MatOperand.size (o : MatOperand) (groups : Nat) : Nat := o.groupBytes * groups

/-- MOUT's conversion of one accumulator word (R188). -/
def moutElem (t : Ty) (rm : Rm) (sat : Bool) (u v : Nat) : LaneOut :=
  match t.ffmt with
  | some f =>
    let r := f.roundTo rm sat u (FFmt.fp32.decode v)
    { code := r.code, invalid := r.invalid }
  | none =>
    let x := Word.toSigned 32 v
    { code := if sat then saturate x t else Word.wrap x t.width }

/-- Codes packed side by side from bit 0 (R53), as one number. -/
def packBitsOf (z : Nat) (xs : List Nat) : Nat := xs.foldr (fun x acc => acc * 2 ^ z + x % 2 ^ z) 0

end Sys2Proof
end

