-- ==== Sys2Proof/Syntax.lean ====
section
/-! DEFINITION. The instructions: one constructor per row of spec/opcode_table.json. Rows read from
an instruction word carry the fields of its format; the other rows are indivisible steps of an agent
of the part and carry what selects the agent and what comes from outside it. -/

namespace Sys2Proof

/-- The rows of the opcode table. -/
inductive Instr
  /-- NOP: Fires once per record or entry and changes no state. (R120) -/
  | nop (o : OpG)
  /-- RDP: Removes the head data token of an input port and delivers it unchanged, with S cleared. (R121) -/
  | rdp (o : OpI)
  /-- MOVI: Delivers a token whose every lane holds the immediate, extended or placed for the type. (R122) -/
  | movi (o : OpI)
  /-- MOVH: Delivers a token whose lanes hold the immediate shifted into quarter q. (R122) -/
  | movh (o : OpI)
  /-- FAN: Delivers its left operand unchanged to both targets. (R123) -/
  | fan (o : OpG)
  /-- NULL: Delivers a null token once per record. (R124) -/
  | null (o : OpG)
  /-- DROP: Consumes its operand and delivers nothing, acting as a poison sink. (R123) -/
  | drop (o : OpG)
  /-- GATE: Merges two producers, delivering the non-null one. (R125) -/
  | gate (o : OpG)
  /-- SEL: Chooses lane by lane between a and b under mask c. (R126) -/
  | sel (o : OpG)
  /-- LCNT: Delivers the value of loop counter k for the record in every lane. (R127) -/
  | lcnt (o : OpI)
  /-- LIDX: Delivers the counter value plus lane index times 2^s in each lane. (R127) -/
  | lidx (o : OpI)
  /-- POIS: Delivers the origin word where the operand's poison cause is selected by the mask, else zero. (R128) -/
  | pois (o : OpI)
  /-- POISC: Delivers b's data when a is poisoned, else a's data. (R128) -/
  | poisc (o : OpG)
  /-- MARK: Delivers its operand and records a progress marker when it computes. (R129) -/
  | mark (o : OpI)
  /-- ROUTE: Selects the exit group of the record from the operand or the EXG field. (R130) -/
  | route (o : OpC)
  /-- BRO: Transfers control to the block at a fixed offset. (R132) -/
  | bro (o : OpC)
  /-- BRX: Transfers control to the block whose address is the operand. (R132) -/
  | brx (o : OpC)
  /-- CALLB: Transfers control to a block at an offset and writes the fall-through address to a g-register. (R132) -/
  | callb (o : OpC)
  /-- RETB: Transfers control to the address held in a g-register at entry. (R132) -/
  | retb (o : OpC)
  /-- HALT: Ends the control thread after its block commits and reports it halted. (R134) -/
  | halt (o : OpC)
  /-- RDG: Delivers a g-register's value at entry with its poison. (R135) -/
  | rdg (o : OpC)
  /-- WRG: Writes its operand to a g-register at commit. (R135) -/
  | wrg (o : OpC)
  /-- ADD: Integer add, wrapped or saturated. (R137) -/
  | add (o : OpG)
  /-- ADDI: Integer add of a sign-extended immediate. (R137) -/
  | addi (o : OpI)
  /-- SUB: Integer subtract, wrapped or saturated. (R137) -/
  | sub (o : OpG)
  /-- ADDS: Delivers 1 where the sum lies outside the type's range. (R138) -/
  | adds (o : OpG)
  /-- SUBS: Delivers 1 where the difference lies outside the type's range. (R138) -/
  | subs (o : OpG)
  /-- NEG: Integer negation. (R137) -/
  | neg (o : OpG)
  /-- ABS: Integer absolute value. (R137) -/
  | abs (o : OpG)
  /-- MUL: Integer multiply, low part. (R137) -/
  | mul (o : OpG)
  /-- MULH: Signed multiply, high part. (R137) -/
  | mulh (o : OpG)
  /-- MULHW: Unsigned multiply, high part. (R137) -/
  | mulhw (o : OpG)
  /-- MADD: Integer multiply-add a×b+c. (R137) -/
  | madd (o : OpG)
  /-- DIV: Signed division toward zero, with the divide-by-zero result. (R139) -/
  | div (o : OpG)
  /-- DIVW: Unsigned division. (R139) -/
  | divw (o : OpG)
  /-- REM: Signed remainder. (R139) -/
  | rem (o : OpG)
  /-- REMW: Unsigned remainder. (R139) -/
  | remw (o : OpG)
  /-- LEA: Computes a + b × 2^s. (R137) -/
  | lea (o : OpG)
  /-- MIN: Signed minimum. (R137) -/
  | min (o : OpG)
  /-- MAX: Signed maximum. (R137) -/
  | max (o : OpG)
  /-- MINW: Unsigned minimum. (R137) -/
  | minw (o : OpG)
  /-- MAXW: Unsigned maximum. (R137) -/
  | maxw (o : OpG)
  /-- AND: Bitwise and. (R137) -/
  | and (o : OpG)
  /-- OR: Bitwise or. (R137) -/
  | or (o : OpG)
  /-- XOR: Bitwise exclusive or. (R137) -/
  | xor (o : OpG)
  /-- ANDN: Bitwise a and not b. (R137) -/
  | andn (o : OpG)
  /-- SHL: Logical shift left by the unsigned lane of b. (R140) -/
  | shl (o : OpG)
  /-- SHR: Logical shift right. (R140) -/
  | shr (o : OpG)
  /-- SRA: Arithmetic shift right. (R140) -/
  | sra (o : OpG)
  /-- ROTL: Rotate left by k mod w. (R140) -/
  | rotl (o : OpG)
  /-- CLZ: Counts leading zero bits. (R141) -/
  | clz (o : OpG)
  /-- POPC: Counts one bits. (R141) -/
  | popc (o : OpG)
  /-- BREV: Reverses the bits of each lane. (R141) -/
  | brev (o : OpG)
  /-- CMP: Compares a with b and delivers an all-ones mask where the condition holds. (R142) -/
  | cmp (o : OpG)
  /-- CMPI: Compares a with an extended immediate. (R142) -/
  | cmpi (o : OpI)
  /-- BFX: Extracts a bit field, sign-extended for I types. (R143) -/
  | bfx (o : OpI)
  /-- BFI: Inserts the low bits of b into a field of a. (R143) -/
  | bfi (o : OpI)
  /-- FADD: Floating-point add rounded once. (R151) -/
  | fadd (o : OpG)
  /-- FSUB: Floating-point subtract rounded once. (R151) -/
  | fsub (o : OpG)
  /-- FMUL: Floating-point multiply rounded once. (R151) -/
  | fmul (o : OpG)
  /-- FFMA: Fused multiply-add a×b+c rounded once. (R151) -/
  | ffma (o : OpG)
  /-- FMIN: Delivers the smaller operand, −0 below +0. (R152) -/
  | fmin (o : OpG)
  /-- FMAX: Delivers the larger operand. (R152) -/
  | fmax (o : OpG)
  /-- FAMAX: Delivers the operand of greater magnitude with its sign cleared. (R152) -/
  | famax (o : OpG)
  /-- FABS: Clears the sign bit. (R153) -/
  | fabs (o : OpG)
  /-- FNEG: Inverts the sign bit. (R153) -/
  | fneg (o : OpG)
  /-- FCPYS: Copies b's sign bit onto a. (R153) -/
  | fcpys (o : OpG)
  /-- FCMP: Floating-point comparison delivering a lane mask. (R154) -/
  | fcmp (o : OpG)
  /-- FCLASS: Delivers the class code of each element. (R155) -/
  | fclass (o : OpG)
  /-- FCVT: Converts between element types with lane matching by PART. (R156) -/
  | fcvt (o : OpG)
  /-- FRND: Rounds to a whole number in the same format. (R158) -/
  | frnd (o : OpG)
  /-- FRCP: Correctly rounded reciprocal. (R159) -/
  | frcp (o : OpG)
  /-- FRSQ: Reciprocal square root within 1 ulp. (R159) -/
  | frsq (o : OpG)
  /-- FSQRT: Correctly rounded square root. (R159) -/
  | fsqrt (o : OpG)
  /-- FEXP2: Base-2 exponential within 1 ulp. (R159) -/
  | fexp2 (o : OpG)
  /-- FLOG2: Base-2 logarithm within 1 ulp. (R159) -/
  | flog2 (o : OpG)
  /-- FSINT: Sine of an argument in turns. (R159) -/
  | fsint (o : OpG)
  /-- FCOST: Cosine of an argument in turns. (R159) -/
  | fcost (o : OpG)
  /-- FTANH: Hyperbolic tangent within 2 ulp. (R159) -/
  | ftanh (o : OpG)
  /-- FSCALE: Multiplies by 2^b with one rounding. (R160) -/
  | fscale (o : OpG)
  /-- FDOT2: Two-element dot product plus FP32 addend, rounded once. (R161) -/
  | fdot2 (o : OpG)
  /-- FDOT4: Four-element dot product of narrow floats plus FP32 addend. (R161) -/
  | fdot4 (o : OpG)
  /-- LSWP: Swaps lanes in blocks of 2^k, optionally negating. (R163) -/
  | lswp (o : OpI)
  /-- LPERM: Permutes lanes of a by the indices in b. (R164) -/
  | lperm (o : OpG)
  /-- LBCST: Broadcasts one lane to all lanes. (R164) -/
  | lbcst (o : OpI)
  /-- LSLD: Slides lanes across a and b by s. (R164) -/
  | lsld (o : OpI)
  /-- LRED: Reduces all lanes by an operation and delivers the result in every lane. (R165) -/
  | lred (o : OpG)
  /-- LSCAN: Inclusive prefix operation across lanes. (R165) -/
  | lscan (o : OpG)
  /-- LVOTE: Computes any, all, ballot or count of true lanes. (R166) -/
  | lvote (o : OpG)
  /-- LMSK: Builds a lane mask from a prefix count or bits. (R166) -/
  | lmsk (o : OpG)
  /-- LCMPR: Compresses the lanes selected by a mask. (R167) -/
  | lcmpr (o : OpG)
  /-- LEXPD: Expands lanes into the positions selected by a mask. (R167) -/
  | lexpd (o : OpG)
  /-- LPACK: Builds a packed narrow-format token from element tokens. (R168) -/
  | lpack (o : OpG)
  /-- LUNPK: Unpacks an element token from packed tokens. (R169) -/
  | lunpk (o : OpG)
  /-- MBIND: Waits for a FULL buffer and arms a fill with a hold count, or marks the binding skipped. (R183) -/
  | mbind (o : OpI)
  /-- MMA: Multiplies armed A and B fills and accumulates into an accumulator bank. (R184) -/
  | mma (o : OpX)
  /-- MMASP: Structured-sparse multiply-accumulate. (R185) -/
  | mmasp (o : OpX)
  /-- MZERO: Clears an accumulator bank and its row poison bits. (R186) -/
  | mzero (o : OpX)
  /-- MACCI: Declares an accumulator class and optionally loads the bank from a fill. (R187) -/
  | macci (o : OpX)
  /-- MOUT: Converts an accumulator bank and writes it to a bank fill or an output stream port. (R188) -/
  | mout (o : OpG)
  /-- MSWAP: Exchanges two accumulator banks. (R189) -/
  | mswap (o : OpX)
  /-- MSCLS: Copies bytes of a SCALE fill into scale memory and releases it. (R190) -/
  | mscls (o : OpX)
  /-- LDS: Loads elements from a TILE bank. (R194) -/
  | lds (o : OpM)
  /-- STS: Stores elements into a TILE bank. (R194) -/
  | sts (o : OpM)
  /-- LDB: Reads a 128-byte row of a TILE, FIFO or LINE bank. (R195) -/
  | ldb (o : OpM)
  /-- STB: Writes a 128-byte row into a TILE, FIFO or LINE bank. (R195) -/
  | stb (o : OpM)
  /-- LDV: Waits for and loads version n of a versioned word. (R198) -/
  | ldv (o : OpM)
  /-- STV: Adds version n of a versioned word, back-pressured at four live versions. (R198) -/
  | stv (o : OpM)
  /-- VRECL: Raises the floor of a versioned word and retires older versions. (R198) -/
  | vrecl (o : OpM)
  /-- WFA: Waits until a word equals an expected value. (R199) -/
  | wfa (o : OpM)
  /-- UWAIT: Waits until a word is at least a bound. (R199) -/
  | uwait (o : OpM)
  /-- LDG: Loads from main memory at block entry. (R201) -/
  | ldg (o : OpM)
  /-- STG: Stores to main memory at commit. (R201) -/
  | stg (o : OpM)
  /-- UPD: Atomic update of an element, delivering a done token. (R202) -/
  | upd (o : OpM)
  /-- UPDF: Atomic update that returns the old value. (R202) -/
  | updf (o : OpM)
  /-- UCAS: Atomic compare-and-swap returning the old value. (R202) -/
  | ucas (o : OpM)
  /-- FENCE: Waits until selected accesses have performed at a scope. (R203) -/
  | fence (o : OpI)
  /-- BARA: Adds an increment to a barrier counter. (R204) -/
  | bara (o : OpM)
  /-- BARW: Waits until a barrier counter reaches a target. (R204) -/
  | barw (o : OpM)
  /-- APSET: Writes a g-register into a word of an access-pattern register. (R211) -/
  | apset (o : OpS)
  /-- APCPY: Copies one access-pattern register to another. (R211) -/
  | apcpy (o : OpS)
  /-- APLD: Loads 64 bytes into an access-pattern register. (R211) -/
  | apld (o : OpS)
  /-- APCLR: Zeroes an access-pattern register. (R211) -/
  | apclr (o : OpS)
  /-- SBIND: Queues an input stream binding of a pattern to a virtual port. (R214) -/
  | sbind (o : OpS)
  /-- SBINDW: Queues an output stream binding of a pattern to a virtual port. (R214) -/
  | sbindw (o : OpS)
  /-- SGATH: Queues a gather stream driven by index tokens. (R225) -/
  | sgath (o : OpS)
  /-- SSCAT: Queues a scatter stream driven by index tokens. (R225) -/
  | sscat (o : OpS)
  /-- SUPD: Queues an update stream driven by index tokens. (R226) -/
  | supd (o : OpS)
  /-- SCOPY: Issues a copy to memory, an MT bank fill or an input port. (R223) -/
  | scopy (o : OpS)
  /-- SSCL: Issues a fill of a SCALE bank, optionally keyed. (R224) -/
  | sscl (o : OpS)
  /-- SWAIT: Delays commit until earlier commands on the port have ended. (R215) -/
  | swait (o : OpS)
  /-- SSTAT: Writes the stream status word to a g-register. (R215) -/
  | sstat (o : OpS)
  /-- SKILL: Ends a virtual port's binding at commit. (R216) -/
  | skill (o : OpS)
  /-- SBAR: Orders later commands after every earlier queued command. (R213) -/
  | sbar (o : OpS)
  /-- CRED: Joins a collective reduction on a group. (R228) -/
  | cred (o : OpS)
  /-- CBCST: Joins a collective broadcast from a root rank. (R228) -/
  | cbcst (o : OpS)
  /-- CAGTH: Joins a collective all-gather. (R228) -/
  | cagth (o : OpS)
  /-- CFGNX: Makes the current round the configuration's last, optionally naming the next image. (R230) -/
  | cfgnx (o : OpS)
  /-- BTOK: Passes ownership of an MT bank at the next round commit. (R231) -/
  | btok (o : OpI)
  /-- TTLD: Loads the context's timetable. (R270) -/
  | ttld (o : OpS)
  /-- TTLD_CLEAR: Removes the context's timetable. (R270) -/
  | ttldClear (o : OpS)
  /-- TFETCH: Passes a fetch to each granule of a span, optionally waiting. (R269) -/
  | tfetch (o : OpS)
  /-- TEVICT: Passes an eviction to each granule of a span, optionally waiting. (R269) -/
  | tevict (o : OpS)
  /-- TPIN: Sets the pin bit of the granules of a span. (R269) -/
  | tpin (o : OpS)
  /-- TPIN_UNPIN: Clears the pin bit of the granules of a span. (R269) -/
  | tpinUnpin (o : OpS)
  /-- TRES_STATUS: Writes the TE status word only. (R271) -/
  | tresStatus (o : OpS)
  /-- TRES_RESUME: Writes the status and resumes a stalled configuration. (R271) -/
  | tresResume (o : OpS)
  /-- TRES_RESIDENT: Writes the status and resumes once missed granules are resident. (R271) -/
  | tresResident (o : OpS)
  /-- SCOPYK: Issues a keyed sealed copy into an INPUT TILE bank. (R281) -/
  | scopyk (o : OpS)
  /-- KOPEN: Binds a key handle to a layout record. (R282) -/
  | kopen (o : OpS)
  /-- KCLOSE: Unbinds a key handle. (R282) -/
  | kclose (o : OpS)
  /-- TRAP: Commits the block and raises SYSCALL at S. (R321) -/
  | trap (o : OpY)
  /-- BRK: Raises BREAKPOINT without committing the block. (R322) -/
  | brk (o : OpY)
  /-- RTE: Returns from a trap, releasing any held configuration. (R323) -/
  | rte (o : OpY)
  /-- SRD: Delivers a system register's value at entry. (R324) -/
  | srd (o : OpY)
  /-- SWR: Writes a system register at commit; covers registers with no behaviour of their own. (R324) -/
  | swr (o : OpY)
  /-- HCALL: Commits the block, holds the thread and posts SYSCALL to H. (R321) -/
  | hcall (o : OpY)
  /-- WFI: Commits and waits for a record, a wake or a time. (R325) -/
  | wfi (o : OpY)
  /-- QPOST: Appends a launch record to a dispatcher queue. (R354) -/
  | qpost (o : OpY)
  /-- QCTL_STATUS: Delivers the queue status word. (R354) -/
  | qctlStatus (o : OpY)
  /-- QCTL_PRIO: Sets a queue's priority. (R354) -/
  | qctlPrio (o : OpY)
  /-- QCTL_ENABLE: Enables a queue. (R354) -/
  | qctlEnable (o : OpY)
  /-- QCTL_DISABLE: Disables a queue. (R354) -/
  | qctlDisable (o : OpY)
  /-- QCTL_FLUSH: Removes every entry and writes FAILVAL to each. (R354) -/
  | qctlFlush (o : OpY)
  /-- QCTL_ASSIGN: Sets the owning partition of a disabled empty queue. (R354) -/
  | qctlAssign (o : OpY)
  /-- PLACE_LAUNCH: Installs a launch record directly without the dispatcher. (R354) -/
  | placeLaunch (o : OpY)
  /-- PLACE_MOVE: Requests a MOVE of an instance. (R354) -/
  | placeMove (o : OpY)
  /-- PLACE_COMPACT: Requests compaction of a context's instances. (R354) -/
  | placeCompact (o : OpY)
  /-- PLACE_DISCARD: Ends a snapshotted MARKER instance. (R354) -/
  | placeDiscard (o : OpY)
  /-- PSNAP_CUT: Requests a CUT snapshot at the next round boundary. (R354) -/
  | psnapCut (o : OpY)
  /-- PSNAP_MARKER: Starts a MARKER snapshot at once. (R354) -/
  | psnapMarker (o : OpY)
  /-- PREST: Restores a save image from a KIND 2 record. (R354) -/
  | prest (o : OpY)
  /-- PLSW: Requests activation of a plane on a rectangle of pages. (R354) -/
  | plsw (o : OpY)
  /-- RINV_PAGES: Drops stage-1 copies for n pages of a context. (R372) -/
  | rinvPages (o : OpY)
  /-- RINV_RANGE: Drops a range entry and every copy derived from it. (R372) -/
  | rinvRange (o : OpY)
  /-- RINV_CONTEXT: Drops every translation copy of a context. (R372) -/
  | rinvContext (o : OpY)
  /-- RINV_PART: Drops every stage-1 copy of a partition. (R372) -/
  | rinvPart (o : OpY)
  /-- XINV_FRAMES: Drops copies of n stage-2 entries. (R372) -/
  | xinvFrames (o : OpY)
  /-- XINV_PART: Drops every stage-2 copy of a partition. (R372) -/
  | xinvPart (o : OpY)
  /-- KSHR_ASSIGN: Assigns an empty key slot to a context with a kind. (R403) -/
  | kshrAssign (o : OpY)
  /-- KSHR_BEGIN: Queues the SEP's half of a share key exchange. (R403) -/
  | kshrBegin (o : OpY)
  /-- KSHR_FINISH: Queues verification and installation of a share. (R403) -/
  | kshrFinish (o : OpY)
  /-- KSHR_ERASE: Zeroises a key slot and makes it EMPTY. (R403) -/
  | kshrErase (o : OpY)
  /-- MTRD_READ: Delivers a metering counter. (R403) -/
  | mtrdRead (o : OpY)
  /-- MTRD_RECORD: Queues an on-demand usage record. (R403) -/
  | mtrdRecord (o : OpY)
  /-- MTRD_QUOTE: Queues a signed attestation report. (R403) -/
  | mtrdQuote (o : OpY)
  /-- DBG_MTDATA: A read returns 8 bytes at DBG_MTADDR or faults. (R319) -/
  | dbgMtdata (o : OpY)
  /-- TRAP_H_ACK: A write releases the held agent of a record, retrying, continuing or aborting. (R312) -/
  | trapHAck (core : CoreId) (v : Word)
  /-- PRIV_WAKE: A write wakes the named core's WFI. (R325) -/
  | privWake (core : CoreId) (v : Word)
  /-- SHEP_PADDOCK: A write sets or clears a context's paddock or sets REJ. (R351) -/
  | shepPaddock (core : CoreId) (v : Word)
  /-- SHEP_PLOWN: A write sets plane owners of the selected page unless an instance holds the plane. (R351) -/
  | shepPlown (core : CoreId) (v : Word)
  /-- SHEP_PLMAP: A write maps banks to planes only while no instance is on the page. (R351) -/
  | shepPlmap (core : CoreId) (v : Word)
  /-- SCHED_CGTAB: A write makes the CLEs reread group entries at their next calls. (R350) -/
  | schedCgtab (core : CoreId) (v : Word)
  /-- XL_S2BASE: A write sets the stage-2 base, effective at START or after XINV. (R381) -/
  | xlS2base (core : CoreId) (v : Word)
  /-- PART_CTL_OPEN: Command OPEN moves a NONE partition to CONFIG. (R386) -/
  | partCtlOpen (part : Nat)
  /-- PART_CTL_START: Command START checks the partition, draws keys and starts its supervisor. (R386) -/
  | partCtlStart (part : Nat)
  /-- PART_CTL_STOP: Command STOP aborts instances, halts threads, erases keys and makes the final record. (R386) -/
  | partCtlStop (part : Nat)
  /-- PART_FTAG: A write changes frame-owner tags, waiting for invalidations, or is refused. (R387) -/
  | partFtag (core : CoreId) (v : Word)
  /-- CONTROL_BLOCK_ENTRY: A core fetches and decodes a whole control block before firing, faulting precisely on any breach. (R99) -/
  | controlBlockEntry (core : CoreId)
  /-- CONTROL_BLOCK_COMMIT: A control block commits its stores, g-writes, SWRs and transfer, once its waits are met. (R300) -/
  | controlBlockCommit (core : CoreId)
  /-- RECORD_START: A block starts record n when a token or its counter chain allows and fewer than four records are uncommitted. (R25) -/
  | recordStart (cfg tile blk : Nat)
  /-- RECORD_COMMIT: A record commits once its stores, port writes and ROUTE are counted. (R31) -/
  | recordCommit (cfg tile blk : Nat)
  /-- ROUND_BOUNDARY: Once sources pause and the configuration is quiescent, staged writes perform, shadows swap, markers are sent and pending Shepherd work runs. (R38) -/
  | roundBoundary (cfg : Nat)
  /-- ROUND_RESUME: The round controller resumes the sources once no stall, hold or round stop remains. (R38) -/
  | roundResume (cfg : Nat)
  /-- ROUND_VOID: An element fault voids the round: staged writes discarded, persistent state rewound, record posted. (R40) -/
  | roundVoid (cfg : Nat)
  /-- TOKEN_ARRIVAL: A token arrives on a link at a tile port, queue or switch. (R23) -/
  | tokenArrival (arr : Arrival)
  /-- BANK_OWNERSHIP_TOKEN_ARRIVAL: A bank-ownership token reaches the consumer and enables its address generators. (R42) -/
  | bankOwnershipTokenArrival (cfg mt bank : Nat)
  /-- FILL_PORT_TOKEN: A routed token is written as the next row of a bank fill, ending it on L. (R286) -/
  | fillPortToken (cfg mt port : Nat)
  /-- RECONFIG_TOKEN_PASS: The reconfiguration token passes a tile once its queues and engines are drained. (R43) -/
  | reconfigTokenPass (cfg tile : Nat)
  /-- LENGTH_MISMATCH: After discards up to the next L mark complete, the mismatch is reported to the lead CC. (R116) -/
  | lengthMismatch (cfg tile blk slot : Nat)
  /-- STALL_WATCHDOG: An agent without progress for TRAP_WDOG µs is reported once. (R317) -/
  | stallWatchdog (agent : Watched)
  /-- OPERATOR_JOIN: JOIN emits pairs of equal coordinates from two tagged streams. (R234) -/
  | operatorJoin (cfg tile slot : Nat)
  /-- OPERATOR_MERGE: MERGE emits the union of two tagged streams with fill values. (R234) -/
  | operatorMerge (cfg tile slot : Nat)
  /-- OPERATOR_SPLAY: SPLAY sends each token c times to its outputs. (R235) -/
  | operatorSplay (cfg tile slot : Nat)
  /-- OPERATOR_ZIP: ZIP forwards n0 tokens from one input then n1 from the other. (R235) -/
  | operatorZip (cfg tile slot : Nat)
  /-- OPERATOR_UNZIP: UNZIP sends n0 tokens to one output then n1 to the other. (R235) -/
  | operatorUnzip (cfg tile slot : Nat)
  /-- OPERATOR_SCAN: SCAN combines successive tokens lane by lane and emits each prefix. (R236) -/
  | operatorScan (cfg tile slot : Nat)
  /-- OPERATOR_REDUCE: REDUCE combines a run and emits once at its L token. (R236) -/
  | operatorReduce (cfg tile slot : Nat)
  /-- OPERATOR_COMPACT: COMPACT appends masked data lanes and emits full tokens. (R237) -/
  | operatorCompact (cfg tile slot : Nat)
  /-- OPERATOR_QUANT: QUANT produces scale and packed data tokens per K-group. (R239) -/
  | operatorQuant (cfg tile slot : Nat)
  /-- OPERATOR_DEQUANT: DEQUANT expands a quantised group into FP32 tokens. (R240) -/
  | operatorDequant (cfg tile slot : Nat)
  /-- OPERATOR_TRANSPOSE: TRANSPOSE transposes a block of tokens. (R238) -/
  | operatorTranspose (cfg tile slot : Nat)
  /-- SCOREBOARD_COMMAND_START: A queued port command starts once its ordering conditions are met. (R213) -/
  | scoreboardCommandStart (core : CoreId) (idx : Nat)
  /-- STREAM_FETCH: An MPT fetches input elements into a window with room. (R217) -/
  | streamFetch (cfg vp : Nat)
  /-- STREAM_DELIVER: A window delivers the next token to its port. (R209) -/
  | streamDeliver (cfg vp : Nat)
  /-- STREAM_FETCH_FAULT_RAISE: A fetch-ahead fault is raised when the port is next to receive the element. (R375) -/
  | streamFetchFaultRaise (cfg vp : Nat)
  /-- STREAM_OUTPUT_STAGE: A token written to an output port stages its elements in the window. (R218) -/
  | streamOutputStage (cfg vp : Nat)
  /-- GATHER_INDEX_TOKEN: An index token of a gather causes the named elements to be fetched. (R225) -/
  | gatherIndexToken (cfg vp : Nat)
  /-- SCATTER_INDEX_TOKEN: An index and data token pair of a scatter stages stores. (R225) -/
  | scatterIndexToken (cfg vp : Nat)
  /-- UPDATE_INDEX_TOKEN: An index and operand pair of an update stream stages updates. (R226) -/
  | updateIndexToken (cfg vp : Nat)
  /-- COPY_COMPLETE: The copy engine writes the completion word after every payload byte performed. (R222) -/
  | copyComplete (id : Nat)
  /-- COPY_FAULT: A copy meets a fault, stops and delivers a class-2 record. (R223) -/
  | copyFault (id : Nat)
  /-- COLLECTIVE_COMPLETE: The n-th calls of all ranks are joined and results delivered. (R228) -/
  | collectiveComplete (ctx grp : Nat)
  /-- TE_MARKER_REPORT: The TE checks deadlines and fires timetable entries for a marker report. (R264) -/
  | teMarkerReport
  /-- TE_FETCH_ACTION: The TE acts on a fetch of one granule. (R258) -/
  | teFetchAction (ctx gran : Nat)
  /-- TE_EVICT_ACTION: The TE acts on an eviction of one granule. (R258) -/
  | teEvictAction (ctx gran : Nat)
  /-- TE_FILL_COMPLETE: A granule's copy into tier 1 completes and it becomes RESIDENT. (R258) -/
  | teFillComplete (ctx gran : Nat)
  /-- TE_DRAIN_COMPLETE: A drain completes, the granule returns HOME and its entry goes to the oldest PENDING fetch. (R259) -/
  | teDrainComplete (ctx gran : Nat)
  /-- DISPATCH_DECISION: The dispatcher examines queue heads by level and takes at most one. (R333) -/
  | dispatchDecision
  /-- DEPENDENCE_REREAD: A write to a dependence word makes the dispatcher read it again. (R329) -/
  | dependenceReread (queue : Nat)
  /-- QUEUE_PROMOTION: A queue's wait time reaches SCHED_AGE and it is promoted for one decision. (R334) -/
  | queuePromotion (queue : Nat)
  /-- INSTALL: The Shepherd reserves, checks, writes and starts a configuration. (R337) -/
  | install
  /-- RESTORE_SOURCES_RESUME: Sources resume once every refetch of a restore has completed. (R345) -/
  | restoreSourcesResume (cfg : Nat)
  /-- INSTANCE_END: At retirement and halt of all threads, banks are zeroed, resources returned and DONEADDR written. (R331) -/
  | instanceEnd (cfg : Nat)
  /-- SHEPHERD_MOVE: A pending MOVE transfers a quiescent configuration to new pages. (R338) -/
  | shepherdMove (cfg : Nat)
  /-- COMPACT_TIMEOUT: An instance not at a boundary within SHEP_CTMO is skipped by COMPACT. (R339) -/
  | compactTimeout (cfg : Nat)
  /-- SNAPSHOT_CUT: A CUT snapshot is written at step 6 of a boundary. (R341) -/
  | snapshotCut (cfg : Nat)
  /-- SNAPSHOT_MARKER_ARRIVAL: A node saves its state at its first snapshot marker and forwards markers. (R342) -/
  | snapshotMarkerArrival (cfg node : Nat)
  /-- SNAPSHOT_IMAGE_WRITE: With markers on every link, the save image is written, DONE last, and the instance resumes or is released. (R342) -/
  | snapshotImageWrite (cfg : Nat)
  /-- PLANE_SWITCH: Once outgoing configurations are quiescent, plane p is made active on the rectangle. (R348) -/
  | planeSwitch (part : Nat)
  /-- EDGE_DEPTH_APPLY: A drained edge takes its new depth. (R349) -/
  | edgeDepthApply (cfg tile port : Nat)
  /-- TRAP_ENTRY: A core enters a trap handler, saving the record and status. (R308) -/
  | trapEntry (core : CoreId)
  /-- H_QUEUE_TAKE: The lowest eligible system core takes the first H-queue record. (R312) -/
  | hQueueTake
  /-- EVENT_RING_WRITE: A delegated record is written to the event ring when room exists. (R314) -/
  | eventRingWrite (ctx : Nat)
  /-- EVENT_RING_ACK: A written ACK word retries or aborts a held agent or advances the poison log tail. (R315) -/
  | eventRingAck (ctx entry : Nat)
  /-- WFI_TIMEOUT: PRIV_TIME reaches a timed WFI's bound and the thread continues. (R325) -/
  | wfiTimeout (core : CoreId)
  /-- CLEAR_LINE: The clearing engine writes a zero line of a CLEARING frame. (R393) -/
  | clearLine (hfn line : Nat)
  /-- MEMORY_LINE_READ: A line read passes the tag check, code, MAC and decryption and yields one outcome. (R392) -/
  | memoryLineRead (req : LineReq)
  /-- MEMORY_LINE_WRITE: A line write is encrypted, MACed, coded and tag-checked at the channel. (R392) -/
  | memoryLineWrite (req : LineReq)
  /-- BAND_SAMPLE: Every 100 µs the band controller samples sensors and takes state transitions. (R407) -/
  | bandSample (readings : List (Option Nat))
  /-- HBM_GROUP_RETRAIN: One channel group completes retraining to a new timing set. (R410) -/
  | hbmGroupRetrain (grp : Nat)
  /-- PATROL_PASS_COMPLETE: A patrol pass over tier 1 ends and the next begins. (R411) -/
  | patrolPassComplete (corrected : Nat)
  /-- GOVERNOR_DECISION: Every 1 ms the governor sets tile clocks against PWR_CAP and grants permits. (R416) -/
  | governorDecision (mw : Nat)
  /-- METER_PERIODIC_RECORD: Every METER_IVAL ms the SEP makes a periodic usage record. (R400) -/
  | meterPeriodicRecord (part : Nat)
  /-- KSHR_BEGIN_SERVE: The SEP serves BEGIN, writing RB and SB and the status. (R403) -/
  | kshrBeginServe
  /-- KSHR_FINISH_SERVE: The SEP verifies and installs a share and writes the status. (R403) -/
  | kshrFinishServe
  /-- MTRD_RECORD_SERVE: The SEP makes and writes a KIND 1 usage record. (R403) -/
  | mtrdRecordServe
  /-- MTRD_QUOTE_SERVE: The SEP writes a signed attestation report. (R403) -/
  | mtrdQuoteServe
  /-- BOOT: At power-good the SEP verifies the grade record and firmware and starts the system cores. (R413) -/
  | boot
  /-- POWER_LOSS: Loss of power takes the package to OFF. (R408) -/
  | powerLoss
  /-- MGMT_OPEN: An OPEN message begins a session key exchange. (R406) -/
  | mgmtOpen (msg : MgmtMsg)
  /-- MGMT_CONFIRM: CONFIRM completes the exchange and opens the session. (R406) -/
  | mgmtConfirm (msg : MgmtMsg)
  /-- MGMT_CLOSE: CLOSE ends a session and frees its locks. (R404) -/
  | mgmtClose (msg : MgmtMsg)
  /-- MGMT_LOCK: LOCK grants or refuses an interface lock. (R405) -/
  | mgmtLock (msg : MgmtMsg)
  /-- MGMT_RENEW: RENEW restarts a held lease. (R405) -/
  | mgmtRenew (msg : MgmtMsg)
  /-- MGMT_UNLOCK: UNLOCK frees a held lock. (R405) -/
  | mgmtUnlock (msg : MgmtMsg)
  /-- MGMT_WRITE: WRITE stores firmware image bytes into the inactive bank. (R414) -/
  | mgmtWrite (msg : MgmtMsg)
  /-- MGMT_ACTIVATE: ACTIVATE selects the verified bank for the next boot. (R414) -/
  | mgmtActivate (msg : MgmtMsg)
  /-- MGMT_SETKEYS: SETKEYS replaces the operator key area. (R414) -/
  | mgmtSetkeys (msg : MgmtMsg)
  /-- MGMT_COOL: COOL moves SERVICE or WARMING to COOLING where accepted. (R408) -/
  | mgmtCool (msg : MgmtMsg)
  /-- MGMT_WARM: WARM moves the package to WARMING where accepted. (R408) -/
  | mgmtWarm (msg : MgmtMsg)
  /-- MGMT_EXPORT: EXPORT returns stored usage records of a partition. (R414) -/
  | mgmtExport (msg : MgmtMsg)
  /-- MGMT_SETIVAL: SETIVAL writes METER_IVAL of a partition. (R414) -/
  | mgmtSetival (msg : MgmtMsg)
  /-- MGMT_RESET: RESET replies, then resets and boots the package. (R414) -/
  | mgmtReset (msg : MgmtMsg)
  /-- MGMT_POWER_OFF: POWER_OFF enters OFF. (R414) -/
  | mgmtPowerOff (msg : MgmtMsg)
  /-- LOCK_LEASE_EXPIRY: A lock lease reaching its expiry frees the lock. (R405) -/
  | lockLeaseExpiry (iface : Nat)
  /-- SESSION_TIMEOUT: A session closes after 300 s without a valid message. (R404) -/
  | sessionTimeout (session : Nat)
  /-- PEER_READ_REQUEST: A peer read request message is received and served. (R221) -/
  | peerReadRequest (msg : PeerMsg)
  /-- PEER_READ_DATA: Read data returns from a peer. (R221) -/
  | peerReadData (msg : PeerMsg)
  /-- PEER_WRITE: A peer write message performs at this package. (R221) -/
  | peerWrite (msg : PeerMsg)
  /-- PEER_WRITE_ACK: A write acknowledgement returns from a peer. (R221) -/
  | peerWriteAck (msg : PeerMsg)
  /-- PEER_UPDATE: A peer update message performs at the local update unit. (R365) -/
  | peerUpdate (msg : PeerMsg)
  /-- PEER_COLLECTIVE: A collective message arrives from a peer. (R221) -/
  | peerCollective (msg : PeerMsg)
  /-- PEER_TOKEN_DATA: Token-circuit data arrives from a peer. (R221) -/
  | peerTokenData (msg : PeerMsg)
  /-- PEER_CREDIT_RETURN: Credits return on a peer circuit. (R221) -/
  | peerCreditReturn (msg : PeerMsg)
  /-- PEER_RESERVED_FLIT: A message of reserved kind is dropped and counted. (R221) -/
  | peerReservedFlit (msg : PeerMsg)
  /-- LINK_DOWN: After eight failed resends a link is taken down and its messages fail. (R422) -/
  | linkDown (link : Nat)
  /-- T2_READ_DATA: Read data returns on a tier-2 link. (R423) -/
  | t2ReadData (msg : T2Msg)
  /-- T2_WRITE_ACK: A write acknowledgement returns on a tier-2 link. (R423) -/
  | t2WriteAck (msg : T2Msg)
  /-- T2_CREDIT_RETURN: Request credits return on a tier-2 link. (R423) -/
  | t2CreditReturn (msg : T2Msg)
  /-- T2_RESERVED_FLIT: A tier-2 flit of reserved kind is dropped and counted. (R423) -/
  | t2ReservedFlit (msg : T2Msg)
  /-- RDMA_WRITE_INBOUND: An inbound RDMA WRITE is checked, translated and performed. (R421) -/
  | rdmaWriteInbound (msg : RdmaMsg)
  /-- RDMA_READ_INBOUND: An inbound RDMA READ is checked, translated and answered. (R421) -/
  | rdmaReadInbound (msg : RdmaMsg)
  /-- RDMA_SEND_INBOUND: An inbound SEND is written as the next command-area entry. (R421) -/
  | rdmaSendInbound (msg : RdmaMsg)
  /-- ROCE_UNSUPPORTED_REQUEST: An atomic or unsupported transport request is answered with a NAK. (R5) -/
  | roceUnsupportedRequest (msg : RdmaMsg)
  /-- RETREAT_ROW_REFRESH_COMPLETE: The all-bank refresh begun at retreat entry has refreshed every row once, and retraining of the channel groups to set B begins. (R410) -/
  | retreatRowRefreshComplete
  /-- ROCE_RESPONSE_INBOUND: A RoCEv2 acknowledgement, NAK or RDMA READ response from the host arrives for an outbound copy. (R256) -/
  | roceResponseInbound (msg : RdmaMsg)
  /-- PRIORITY_FLOW_CONTROL_FRAME: An 802.1Qbb priority flow control frame arrives and pauses or resumes transmission on its priority. (R5) -/
  | priorityFlowControlFrame (port prio : Nat) (pause : Bool)
  /-- CONGESTION_NOTIFICATION_PACKET: A RoCEv2 congestion notification packet arrives and the device slows the named flow. (R5) -/
  | congestionNotificationPacket (flow : Nat)
  /-- FLIT_ACKNOWLEDGEMENT: A link acknowledgement, or the lack of one, arrives at the sender and decides whether the flit and those after it are resent or counted toward the eight failures. (R221) -/
  | flitAcknowledgement (link : Nat) (ok : Bool)
  deriving DecidableEq, Repr

end Sys2Proof
end

