-- ==== Sys2Proof/Machine/Legal.lean ====
section
/-! DEFINITION. What makes an instruction word legal in a block of each mode (R84, R85, R96, R97):
the row of the opcode map for every instruction, and the field values its entry accepts. -/

namespace Sys2Proof

/-- The operand slots a form uses (R113). -/
structure Slots where
  l : Bool := false
  r : Bool := false
  /-- The third operand that target kind 11 names (R114). -/
  t : Bool := false
  deriving DecidableEq, Repr

/-- The fixed part of an instruction's entry (R95, R96). -/
structure Row where
  op : Nat
  element : Bool
  control : Bool
  level : Level
  slots : Slots
  /-- It delivers a result, so it may name targets (R84). -/
  dst : Bool
  /-- PM may be 01 or 10. -/
  pmFree : Bool
  deriving DecidableEq, Repr

/-- The row of a step that no instruction word encodes. -/
def eventRow : Row :=
  { op := 0, element := false, control := false, level := .u, slots := {}, dst := false
    pmFree := false }

/-- Any type. -/
def tyAll : Ty → Bool := fun _ => true
/-- TY must be 0. -/
def tyZero (t : Ty) : Bool := t == .i32
/-- I and W types (R136). -/
def tyIW (t : Ty) : Bool := t.isI || t.isW
/-- I32 and W32. -/
def ty32 (t : Ty) : Bool := t == .i32 || t == .w32
/-- I64 and W64, in control mode (R52). -/
def ty64 (m : BlkMode) (t : Ty) : Bool := m == .control && (t == .i64 || t == .w64)
/-- The types of MOVH (R122). -/
def tyWide (t : Ty) : Bool := t == .i32 || t == .w32 || t == .i64 || t == .w64
/-- The types of LPACK and LUNPK (R162). -/
def tyPack (t : Ty) : Bool := t == .e3m2 || t == .e2m3 || t == .e2m1 || t == .i8
/-- The types of MOUT (R188). -/
def tyMout (t : Ty) : Bool := t.isF || t == .i32 || t == .i16 || t == .i8
/-- TY 0 to 10, and 14 and 15 in control mode (R191). -/
def tyMem (m : BlkMode) (t : Ty) : Bool := t.code ≤ 10 || ty64 m t

/-- The types of an operation of LRED, LSCAN and CRED by FN (R165). -/
def redTyOk (fn : Nat) (t : Ty) : Bool :=
  match fn with
  | 0 => tyIW t || t.isA
  | 1 | 2 => true
  | 3 => t.isF
  | _ => tyIW t

/-- The types of an update operation (R202). -/
def updTyOk (m : BlkMode) (op : Nat) (t : Ty) : Bool :=
  match op with
  | 0 | 1 | 2 | 3 | 4 | 5 => ty32 t || ty64 m t
  | 6 => ty32 t || ty64 m t || t == .fp32
  | 7 | 8 | 9 => t == .fp32
  | _ => false

/-- Format G: type, RM, SAT and FN (R86, R119, R146). -/
def okG (o : OpG) (ty : Ty → Bool) (rm sat : Bool) (fn : Bool) : Bool :=
  ty o.ty && (rm || o.rm == .rne) && (sat || !o.sat) && fn

/-- Format I: type, immediate and FN (R87). -/
def okI (o : OpI) (ty : Ty → Bool) (imm fn : Bool) : Bool := ty o.ty && imm && fn

/-- FN of FCVT: source type and PART (R156). -/
def fcvtFnOk (m : BlkMode) (o : OpG) : Bool :=
  let src := Ty.ofCode (o.fn.toNat % 16)
  let part := o.fn.toNat / 16
  let ns := src.lanes
  let nd := o.ty.lanes
  src != o.ty && match m with
    | .control => part == 0
    | .element => src.code ≤ 13 &&
      (if nd == ns then part == 0 else if nd > ns then part < nd / ns else part < ns / nd)

/-- IMM16 of LSWP (R163). -/
def lswpImmOk (o : OpI) : Bool :=
  o.imm &&& 0xFEF8 == 0 && 2 ^ (o.imm.toNat % 8) < o.ty.lanes &&
    (o.imm.toNat < 256 || o.ty.isF)

/-- MMA and MMASP (R70, R75, R89, R179). -/
def mmaOk (_sparse : Bool) (o : OpX) : Bool :=
  o.afmt.cls == o.bfmt.cls && (o.scm == 0 || o.afmt.cls == 0) &&
    (o.scm != 3 || 32 * (o.ks.toNat + 1) ≤ 1632)

/-- The format-X fields that no instruction but MMA and MMASP uses. -/
def xRest (o : OpX) : Bool := o.bfmt == .e4m3 && o.scm == 0 && !o.tra && !o.trb

/-- MOUT's destination (R188): a binding, or an output port with FN bits 5:2 zero. -/
def moutTargetsOk (o : OpG) : Bool :=
  o.hd.t1 == .none && match o.hd.t0 with
    | .none => true
    | .out _ => o.fn.toNat < 4
    | .left _ | .right _ | .pred _ => false

/-- MODE and AUX of LDS and STS (R191). -/
def memOk (m : BlkMode) (o : OpM) (ty : Ty → Bool) : Bool :=
  ty o.ty && match m with
    | .element =>
      (o.mode != .lane || o.ty.width == 32) && (o.mode == .strided || o.auxh == 0)
    | .control => o.mode == .scalar && o.auxh == 0 && o.auxl == 0

/-- LDB and STB (R191). -/
def rowOk (m : BlkMode) (o : OpM) : Bool :=
  o.ty == .i32 && o.mode == .scalar && o.auxh.toNat < 2 && (m == .element || o.auxl == 0)

/-- Instructions whose AUXL is a binding and AUXH 0 (R191). -/
def bindOk (m : BlkMode) (o : OpM) (ty : Ty → Bool) : Bool :=
  ty o.ty && o.mode == .scalar && o.auxh == 0 && (m == .element || o.auxl == 0)

/-- MODE of UPD, UPDF and UCAS (R191). -/
def updOk (m : BlkMode) (o : OpM) : Bool :=
  o.mode == .scalar || (m == .element && o.mode == .lane)

/-- BARA and BARW (R191). -/
def barOk (m : BlkMode) (o : OpM) : Bool :=
  o.ty == .w32 && o.mode == .scalar && (m == .element || o.auxh == 0)

/-- IMM16 of FENCE (R203). -/
def fenceImmOk (m : BlkMode) (imm : BitVec 16) : Bool :=
  imm &&& 0xF8F8 == 0 && imm.toNat % 8 ≤ 4 && imm &&& 0x0700 != 0 &&
    (m == .control || (imm.toNat % 8 ≤ 1 && imm &&& 0x0400 == 0))

/-- A completion pair: GB even and at most 30 when it is named, else 0 (R222). -/
def cwPairOk (cw : Bool) (gb : Fin 32) : Bool := if cw then gb.val % 2 == 0 else gb == 0

/-- SCOPY (R210, R223). -/
def scopyOk (o : OpS) : Bool :=
  o.sub.toNat < 8 && cwPairOk (o.sub.toNat ≥ 4) o.gb && match o.sub.toNat % 4 with
    | 0 => o.aux.toNat < 16 && o.vp == 0 && o.ga == 0
    | 1 => o.aux == 0 && o.vp == 0
    | 2 => o.aux == 0 && o.ga == 0
    | _ => false

/-- SSCL (R210, R224). -/
def ssclOk (o : OpS) : Bool :=
  o.vp == 0 && o.sub &&& 0xFA == 0 && cwPairOk (o.sub.toNat ≥ 4) o.gb &&
    (if o.sub.toNat % 2 == 1 then o.aux.toNat < 16 else o.aux == 0)

/-- The collective instructions (R228). -/
def collOk (m : BlkMode) (o : OpS) : Bool :=
  o.sub.toNat / 16 ≤ 8 && match m with
    | .element => o.ap == 0 && o.ga == 0 && o.gb == 0 && o.aux == 0
    | .control => o.aux.toNat < 16 && o.gb.val % 2 == 0

/-- CAGTH's targets in element mode (R228). -/
def cagthTargetsOk (o : OpS) : Bool :=
  o.hd.t1 == .none && match o.hd.t0 with
    | .out _ => true
    | .none | .left _ | .right _ | .pred _ => false

/-- A placement operand ORG (R352). -/
def orgOk (imm : BitVec 20) : Bool := imm == 0x80000 || imm &&& 0xFFF08 == 0

/-- The opcode map's row of an instruction in a block of mode `m` (R95, R96, R113). -/
def Instr.row (m : BlkMode) : Instr → Row
  | .nop _ => { op := 1, element := true, control := true, level := .u, slots := {}, dst := false, pmFree := false }
  | .rdp _ => { op := 2, element := true, control := false, level := .u, slots := {}, dst := true, pmFree := false }
  | .movi _ => { op := 3, element := true, control := true, level := .u, slots := {}, dst := true, pmFree := true }
  | .movh _ => { op := 4, element := true, control := true, level := .u, slots := {}, dst := true, pmFree := true }
  | .fan _ => { op := 5, element := true, control := true, level := .u, slots := { l := true }, dst := true, pmFree := true }
  | .null _ => { op := 6, element := true, control := true, level := .u, slots := {}, dst := true, pmFree := false }
  | .drop _ => { op := 7, element := true, control := true, level := .u, slots := { l := true }, dst := false, pmFree := true }
  | .gate _ => { op := 8, element := true, control := true, level := .u, slots := { l := true, r := true }, dst := true, pmFree := true }
  | .sel _ => { op := 9, element := true, control := true, level := .u, slots := { l := true, r := true, t := true }, dst := true, pmFree := false }
  | .lcnt _ => { op := 10, element := true, control := false, level := .u, slots := {}, dst := true, pmFree := true }
  | .lidx _ => { op := 11, element := true, control := false, level := .u, slots := {}, dst := true, pmFree := true }
  | .pois _ => { op := 12, element := true, control := true, level := .u, slots := { l := true }, dst := true, pmFree := true }
  | .poisc _ => { op := 13, element := true, control := true, level := .u, slots := { l := true, r := true }, dst := true, pmFree := true }
  | .mark _ => { op := 14, element := true, control := true, level := .u, slots := { l := true }, dst := true, pmFree := true }
  | .route o => { op := 16, element := true, control := false, level := .u, slots := { l := o.exg == 0 }, dst := false, pmFree := true }
  | .bro _ => { op := 17, element := false, control := true, level := .u, slots := {}, dst := false, pmFree := true }
  | .brx _ => { op := 18, element := false, control := true, level := .u, slots := { l := true }, dst := false, pmFree := true }
  | .callb _ => { op := 19, element := false, control := true, level := .u, slots := {}, dst := false, pmFree := true }
  | .retb _ => { op := 20, element := false, control := true, level := .u, slots := {}, dst := false, pmFree := true }
  | .halt _ => { op := 21, element := false, control := true, level := .u, slots := {}, dst := false, pmFree := true }
  | .rdg _ => { op := 22, element := false, control := true, level := .u, slots := {}, dst := true, pmFree := true }
  | .wrg _ => { op := 23, element := false, control := true, level := .u, slots := { l := true }, dst := false, pmFree := true }
  | .add _ => { op := 32, element := true, control := true, level := .u, slots := { l := true, r := true }, dst := true, pmFree := true }
  | .addi _ => { op := 33, element := true, control := true, level := .u, slots := { l := true }, dst := true, pmFree := true }
  | .sub _ => { op := 34, element := true, control := true, level := .u, slots := { l := true, r := true }, dst := true, pmFree := true }
  | .adds _ => { op := 35, element := true, control := true, level := .u, slots := { l := true, r := true }, dst := true, pmFree := true }
  | .subs _ => { op := 36, element := true, control := true, level := .u, slots := { l := true, r := true }, dst := true, pmFree := true }
  | .neg _ => { op := 37, element := true, control := true, level := .u, slots := { l := true }, dst := true, pmFree := true }
  | .abs _ => { op := 38, element := true, control := true, level := .u, slots := { l := true }, dst := true, pmFree := true }
  | .mul _ => { op := 39, element := true, control := true, level := .u, slots := { l := true, r := true }, dst := true, pmFree := true }
  | .mulh _ => { op := 40, element := true, control := true, level := .u, slots := { l := true, r := true }, dst := true, pmFree := true }
  | .mulhw _ => { op := 41, element := true, control := true, level := .u, slots := { l := true, r := true }, dst := true, pmFree := true }
  | .madd _ => { op := 42, element := true, control := true, level := .u, slots := { l := true, r := true, t := true }, dst := true, pmFree := false }
  | .div _ => { op := 43, element := true, control := true, level := .u, slots := { l := true, r := true }, dst := true, pmFree := true }
  | .divw _ => { op := 44, element := true, control := true, level := .u, slots := { l := true, r := true }, dst := true, pmFree := true }
  | .rem _ => { op := 45, element := true, control := true, level := .u, slots := { l := true, r := true }, dst := true, pmFree := true }
  | .remw _ => { op := 46, element := true, control := true, level := .u, slots := { l := true, r := true }, dst := true, pmFree := true }
  | .lea _ => { op := 47, element := true, control := true, level := .u, slots := { l := true, r := true }, dst := true, pmFree := true }
  | .min _ => { op := 48, element := true, control := true, level := .u, slots := { l := true, r := true }, dst := true, pmFree := true }
  | .max _ => { op := 49, element := true, control := true, level := .u, slots := { l := true, r := true }, dst := true, pmFree := true }
  | .minw _ => { op := 50, element := true, control := true, level := .u, slots := { l := true, r := true }, dst := true, pmFree := true }
  | .maxw _ => { op := 51, element := true, control := true, level := .u, slots := { l := true, r := true }, dst := true, pmFree := true }
  | .and _ => { op := 52, element := true, control := true, level := .u, slots := { l := true, r := true }, dst := true, pmFree := true }
  | .or _ => { op := 53, element := true, control := true, level := .u, slots := { l := true, r := true }, dst := true, pmFree := true }
  | .xor _ => { op := 54, element := true, control := true, level := .u, slots := { l := true, r := true }, dst := true, pmFree := true }
  | .andn _ => { op := 55, element := true, control := true, level := .u, slots := { l := true, r := true }, dst := true, pmFree := true }
  | .shl _ => { op := 56, element := true, control := true, level := .u, slots := { l := true, r := true }, dst := true, pmFree := true }
  | .shr _ => { op := 57, element := true, control := true, level := .u, slots := { l := true, r := true }, dst := true, pmFree := true }
  | .sra _ => { op := 58, element := true, control := true, level := .u, slots := { l := true, r := true }, dst := true, pmFree := true }
  | .rotl _ => { op := 59, element := true, control := true, level := .u, slots := { l := true, r := true }, dst := true, pmFree := true }
  | .clz _ => { op := 60, element := true, control := true, level := .u, slots := { l := true }, dst := true, pmFree := true }
  | .popc _ => { op := 61, element := true, control := true, level := .u, slots := { l := true }, dst := true, pmFree := true }
  | .brev _ => { op := 62, element := true, control := true, level := .u, slots := { l := true }, dst := true, pmFree := true }
  | .cmp _ => { op := 63, element := true, control := true, level := .u, slots := { l := true, r := true }, dst := true, pmFree := true }
  | .cmpi _ => { op := 64, element := true, control := true, level := .u, slots := { l := true }, dst := true, pmFree := true }
  | .bfx _ => { op := 65, element := true, control := true, level := .u, slots := { l := true }, dst := true, pmFree := true }
  | .bfi _ => { op := 66, element := true, control := true, level := .u, slots := { l := true, r := true }, dst := true, pmFree := true }
  | .fadd _ => { op := 72, element := true, control := true, level := .u, slots := { l := true, r := true }, dst := true, pmFree := true }
  | .fsub _ => { op := 73, element := true, control := true, level := .u, slots := { l := true, r := true }, dst := true, pmFree := true }
  | .fmul _ => { op := 74, element := true, control := true, level := .u, slots := { l := true, r := true }, dst := true, pmFree := true }
  | .ffma _ => { op := 75, element := true, control := true, level := .u, slots := { l := true, r := true, t := true }, dst := true, pmFree := false }
  | .fmin _ => { op := 76, element := true, control := true, level := .u, slots := { l := true, r := true }, dst := true, pmFree := true }
  | .fmax _ => { op := 77, element := true, control := true, level := .u, slots := { l := true, r := true }, dst := true, pmFree := true }
  | .famax _ => { op := 96, element := true, control := true, level := .u, slots := { l := true, r := true }, dst := true, pmFree := true }
  | .fabs _ => { op := 78, element := true, control := true, level := .u, slots := { l := true }, dst := true, pmFree := true }
  | .fneg _ => { op := 79, element := true, control := true, level := .u, slots := { l := true }, dst := true, pmFree := true }
  | .fcpys _ => { op := 80, element := true, control := true, level := .u, slots := { l := true, r := true }, dst := true, pmFree := true }
  | .fcmp _ => { op := 81, element := true, control := true, level := .u, slots := { l := true, r := true }, dst := true, pmFree := true }
  | .fclass _ => { op := 82, element := true, control := true, level := .u, slots := { l := true }, dst := true, pmFree := true }
  | .fcvt _ => { op := 83, element := true, control := true, level := .u, slots := { l := true }, dst := true, pmFree := true }
  | .frnd _ => { op := 84, element := true, control := true, level := .u, slots := { l := true }, dst := true, pmFree := true }
  | .frcp _ => { op := 85, element := true, control := true, level := .u, slots := { l := true }, dst := true, pmFree := true }
  | .frsq _ => { op := 86, element := true, control := true, level := .u, slots := { l := true }, dst := true, pmFree := true }
  | .fsqrt _ => { op := 87, element := true, control := true, level := .u, slots := { l := true }, dst := true, pmFree := true }
  | .fexp2 _ => { op := 88, element := true, control := true, level := .u, slots := { l := true }, dst := true, pmFree := true }
  | .flog2 _ => { op := 89, element := true, control := true, level := .u, slots := { l := true }, dst := true, pmFree := true }
  | .fsint _ => { op := 90, element := true, control := true, level := .u, slots := { l := true }, dst := true, pmFree := true }
  | .fcost _ => { op := 91, element := true, control := true, level := .u, slots := { l := true }, dst := true, pmFree := true }
  | .ftanh _ => { op := 92, element := true, control := true, level := .u, slots := { l := true }, dst := true, pmFree := true }
  | .fscale _ => { op := 93, element := true, control := true, level := .u, slots := { l := true, r := true }, dst := true, pmFree := true }
  | .fdot2 _ => { op := 94, element := true, control := true, level := .u, slots := { l := true, r := true, t := true }, dst := true, pmFree := false }
  | .fdot4 _ => { op := 95, element := true, control := true, level := .u, slots := { l := true, r := true, t := true }, dst := true, pmFree := false }
  | .lswp _ => { op := 104, element := true, control := false, level := .u, slots := { l := true }, dst := true, pmFree := true }
  | .lperm _ => { op := 105, element := true, control := false, level := .u, slots := { l := true, r := true }, dst := true, pmFree := true }
  | .lbcst _ => { op := 106, element := true, control := false, level := .u, slots := { l := true }, dst := true, pmFree := true }
  | .lsld _ => { op := 107, element := true, control := false, level := .u, slots := { l := true, r := true }, dst := true, pmFree := true }
  | .lred _ => { op := 108, element := true, control := false, level := .u, slots := { l := true }, dst := true, pmFree := true }
  | .lscan _ => { op := 109, element := true, control := false, level := .u, slots := { l := true }, dst := true, pmFree := true }
  | .lvote _ => { op := 110, element := true, control := false, level := .u, slots := { l := true }, dst := true, pmFree := true }
  | .lmsk _ => { op := 115, element := true, control := false, level := .u, slots := { l := true }, dst := true, pmFree := true }
  | .lcmpr _ => { op := 111, element := true, control := false, level := .u, slots := { l := true, r := true }, dst := true, pmFree := true }
  | .lexpd _ => { op := 112, element := true, control := false, level := .u, slots := { l := true, r := true }, dst := true, pmFree := true }
  | .lpack _ => { op := 113, element := true, control := false, level := .u, slots := { l := true, r := true }, dst := true, pmFree := true }
  | .lunpk o => { op := 114, element := true, control := false, level := .u, slots := { l := true, r := lunpkUsesR o.ty o.fn.toNat }, dst := true, pmFree := true }
  | .mbind _ => { op := 120, element := true, control := false, level := .u, slots := { l := true }, dst := true, pmFree := true }
  | .mma _ => { op := 121, element := true, control := false, level := .u, slots := { l := true }, dst := true, pmFree := true }
  | .mmasp _ => { op := 122, element := true, control := false, level := .u, slots := { l := true }, dst := true, pmFree := true }
  | .mzero _ => { op := 123, element := true, control := false, level := .u, slots := { l := true }, dst := true, pmFree := true }
  | .macci _ => { op := 124, element := true, control := false, level := .u, slots := { l := true }, dst := true, pmFree := true }
  | .mout _ => { op := 125, element := true, control := false, level := .u, slots := { l := true }, dst := true, pmFree := true }
  | .mswap _ => { op := 126, element := true, control := false, level := .u, slots := { l := true }, dst := true, pmFree := true }
  | .mscls _ => { op := 127, element := true, control := false, level := .u, slots := { l := true }, dst := true, pmFree := true }
  | .lds _ => { op := 128, element := true, control := true, level := .u, slots := { l := true }, dst := true, pmFree := true }
  | .sts _ => { op := 129, element := true, control := true, level := .u, slots := { l := true, r := true }, dst := m == .element, pmFree := true }
  | .ldb _ => { op := 130, element := true, control := true, level := .u, slots := { l := true }, dst := true, pmFree := true }
  | .stb _ => { op := 131, element := true, control := true, level := .u, slots := { l := true, r := true }, dst := m == .element, pmFree := true }
  | .ldv _ => { op := 132, element := true, control := true, level := .u, slots := { l := true, r := true }, dst := true, pmFree := true }
  | .stv _ => { op := 133, element := true, control := true, level := .u, slots := { l := true, r := true, t := true }, dst := m == .element, pmFree := false }
  | .vrecl _ => { op := 134, element := true, control := true, level := .u, slots := { l := true, r := true }, dst := m == .element, pmFree := true }
  | .wfa _ => { op := 135, element := true, control := true, level := .u, slots := { l := true, r := true }, dst := true, pmFree := true }
  | .uwait _ => { op := 147, element := true, control := true, level := .u, slots := { l := true, r := true }, dst := true, pmFree := true }
  | .ldg _ => { op := 136, element := false, control := true, level := .u, slots := { l := true }, dst := true, pmFree := true }
  | .stg _ => { op := 137, element := false, control := true, level := .u, slots := { l := true, r := true }, dst := false, pmFree := true }
  | .upd _ => { op := 144, element := true, control := true, level := .u, slots := { l := true, r := true }, dst := m == .element, pmFree := true }
  | .updf _ => { op := 145, element := true, control := true, level := .u, slots := { l := true, r := true }, dst := m == .element, pmFree := true }
  | .ucas _ => { op := 146, element := true, control := true, level := .u, slots := { l := true, r := true, t := true }, dst := m == .element, pmFree := false }
  | .fence _ => { op := 148, element := true, control := true, level := .u, slots := if m == .element then { l := true } else {}, dst := m == .element, pmFree := true }
  | .bara _ => { op := 149, element := true, control := true, level := .u, slots := { l := true }, dst := m == .element, pmFree := true }
  | .barw _ => { op := 150, element := true, control := true, level := .u, slots := { l := true, r := true }, dst := true, pmFree := true }
  | .apset _ => { op := 160, element := false, control := true, level := .u, slots := {}, dst := false, pmFree := true }
  | .apcpy _ => { op := 161, element := false, control := true, level := .u, slots := {}, dst := false, pmFree := true }
  | .apld _ => { op := 162, element := false, control := true, level := .u, slots := {}, dst := false, pmFree := true }
  | .apclr _ => { op := 163, element := false, control := true, level := .u, slots := {}, dst := false, pmFree := true }
  | .sbind _ => { op := 164, element := false, control := true, level := .u, slots := {}, dst := false, pmFree := true }
  | .sbindw _ => { op := 165, element := false, control := true, level := .u, slots := {}, dst := false, pmFree := true }
  | .sgath _ => { op := 166, element := false, control := true, level := .u, slots := {}, dst := false, pmFree := true }
  | .sscat _ => { op := 167, element := false, control := true, level := .u, slots := {}, dst := false, pmFree := true }
  | .supd _ => { op := 168, element := false, control := true, level := .u, slots := {}, dst := false, pmFree := true }
  | .scopy _ => { op := 169, element := false, control := true, level := .u, slots := {}, dst := false, pmFree := true }
  | .sscl _ => { op := 170, element := false, control := true, level := .u, slots := {}, dst := false, pmFree := true }
  | .swait _ => { op := 171, element := false, control := true, level := .u, slots := {}, dst := false, pmFree := true }
  | .sstat _ => { op := 172, element := false, control := true, level := .u, slots := {}, dst := false, pmFree := true }
  | .skill _ => { op := 173, element := false, control := true, level := .u, slots := {}, dst := false, pmFree := true }
  | .sbar _ => { op := 174, element := false, control := true, level := .u, slots := {}, dst := false, pmFree := true }
  | .cred _ => { op := 176, element := true, control := true, level := .u, slots := if m == .element then { l := true } else {}, dst := m == .element, pmFree := true }
  | .cbcst _ => { op := 177, element := true, control := true, level := .u, slots := if m == .element then { l := true, r := true } else {}, dst := m == .element, pmFree := true }
  | .cagth _ => { op := 178, element := true, control := true, level := .u, slots := if m == .element then { l := true } else {}, dst := m == .element, pmFree := true }
  | .cfgnx _ => { op := 184, element := true, control := true, level := .u, slots := if m == .element then { l := true } else {}, dst := false, pmFree := true }
  | .btok _ => { op := 185, element := true, control := true, level := .u, slots := { l := true }, dst := false, pmFree := true }
  | .ttld _ => { op := 192, element := false, control := true, level := .u, slots := {}, dst := false, pmFree := true }
  | .ttldClear _ => { op := 192, element := false, control := true, level := .u, slots := {}, dst := false, pmFree := true }
  | .tfetch _ => { op := 193, element := false, control := true, level := .u, slots := {}, dst := false, pmFree := true }
  | .tevict _ => { op := 194, element := false, control := true, level := .u, slots := {}, dst := false, pmFree := true }
  | .tpin _ => { op := 195, element := false, control := true, level := .u, slots := {}, dst := false, pmFree := true }
  | .tpinUnpin _ => { op := 195, element := false, control := true, level := .u, slots := {}, dst := false, pmFree := true }
  | .tresStatus _ => { op := 196, element := false, control := true, level := .u, slots := {}, dst := false, pmFree := true }
  | .tresResume _ => { op := 196, element := false, control := true, level := .u, slots := {}, dst := false, pmFree := true }
  | .tresResident _ => { op := 196, element := false, control := true, level := .u, slots := {}, dst := false, pmFree := true }
  | .scopyk _ => { op := 200, element := false, control := true, level := .u, slots := {}, dst := false, pmFree := true }
  | .kopen _ => { op := 201, element := false, control := true, level := .u, slots := {}, dst := false, pmFree := true }
  | .kclose _ => { op := 202, element := false, control := true, level := .u, slots := {}, dst := false, pmFree := true }
  | .trap _ => { op := 208, element := false, control := true, level := .u, slots := {}, dst := false, pmFree := true }
  | .brk _ => { op := 209, element := false, control := true, level := .u, slots := {}, dst := false, pmFree := true }
  | .rte _ => { op := 210, element := false, control := true, level := .s, slots := {}, dst := false, pmFree := true }
  | .srd _ => { op := 211, element := false, control := true, level := .s, slots := {}, dst := true, pmFree := true }
  | .swr _ => { op := 212, element := false, control := true, level := .s, slots := { l := true }, dst := false, pmFree := true }
  | .hcall _ => { op := 213, element := false, control := true, level := .s, slots := {}, dst := false, pmFree := true }
  | .wfi _ => { op := 214, element := false, control := true, level := .u, slots := {}, dst := false, pmFree := true }
  | .qpost _ => { op := 216, element := false, control := true, level := .s, slots := {}, dst := true, pmFree := true }
  | .qctlStatus _ => { op := 217, element := false, control := true, level := .s, slots := {}, dst := true, pmFree := true }
  | .qctlPrio _ => { op := 217, element := false, control := true, level := .s, slots := {}, dst := true, pmFree := true }
  | .qctlEnable _ => { op := 217, element := false, control := true, level := .s, slots := {}, dst := true, pmFree := true }
  | .qctlDisable _ => { op := 217, element := false, control := true, level := .s, slots := {}, dst := true, pmFree := true }
  | .qctlFlush _ => { op := 217, element := false, control := true, level := .s, slots := {}, dst := true, pmFree := true }
  | .qctlAssign _ => { op := 217, element := false, control := true, level := .s, slots := {}, dst := true, pmFree := true }
  | .placeLaunch _ => { op := 218, element := false, control := true, level := .s, slots := {}, dst := true, pmFree := true }
  | .placeMove _ => { op := 218, element := false, control := true, level := .s, slots := {}, dst := true, pmFree := true }
  | .placeCompact _ => { op := 218, element := false, control := true, level := .s, slots := {}, dst := true, pmFree := true }
  | .placeDiscard _ => { op := 218, element := false, control := true, level := .s, slots := {}, dst := true, pmFree := true }
  | .psnapCut _ => { op := 219, element := false, control := true, level := .s, slots := {}, dst := true, pmFree := true }
  | .psnapMarker _ => { op := 219, element := false, control := true, level := .s, slots := {}, dst := true, pmFree := true }
  | .prest _ => { op := 220, element := false, control := true, level := .s, slots := {}, dst := true, pmFree := true }
  | .plsw _ => { op := 221, element := false, control := true, level := .s, slots := {}, dst := true, pmFree := true }
  | .rinvPages _ => { op := 224, element := false, control := true, level := .s, slots := {}, dst := false, pmFree := true }
  | .rinvRange _ => { op := 224, element := false, control := true, level := .s, slots := {}, dst := false, pmFree := true }
  | .rinvContext _ => { op := 224, element := false, control := true, level := .s, slots := {}, dst := false, pmFree := true }
  | .rinvPart _ => { op := 224, element := false, control := true, level := .s, slots := {}, dst := false, pmFree := true }
  | .xinvFrames _ => { op := 225, element := false, control := true, level := .h, slots := {}, dst := false, pmFree := true }
  | .xinvPart _ => { op := 225, element := false, control := true, level := .h, slots := {}, dst := false, pmFree := true }
  | .kshrAssign _ => { op := 232, element := false, control := true, level := .s, slots := {}, dst := true, pmFree := true }
  | .kshrBegin _ => { op := 232, element := false, control := true, level := .s, slots := {}, dst := true, pmFree := true }
  | .kshrFinish _ => { op := 232, element := false, control := true, level := .s, slots := {}, dst := true, pmFree := true }
  | .kshrErase _ => { op := 232, element := false, control := true, level := .s, slots := {}, dst := true, pmFree := true }
  | .mtrdRead _ => { op := 233, element := false, control := true, level := .s, slots := {}, dst := true, pmFree := true }
  | .mtrdRecord _ => { op := 233, element := false, control := true, level := .s, slots := {}, dst := true, pmFree := true }
  | .mtrdQuote _ => { op := 233, element := false, control := true, level := .s, slots := {}, dst := true, pmFree := true }
  | .dbgMtdata _ => { op := 211, element := false, control := true, level := .s, slots := {}, dst := true, pmFree := true }
  | .trapHAck _ _ => eventRow
  | .privWake _ _ => eventRow
  | .shepPaddock _ _ => eventRow
  | .shepPlown _ _ => eventRow
  | .shepPlmap _ _ => eventRow
  | .schedCgtab _ _ => eventRow
  | .xlS2base _ _ => eventRow
  | .partCtlOpen _ => eventRow
  | .partCtlStart _ => eventRow
  | .partCtlStop _ => eventRow
  | .partFtag _ _ => eventRow
  | .controlBlockEntry _ => eventRow
  | .controlBlockCommit _ => eventRow
  | .recordStart _ _ _ => eventRow
  | .recordCommit _ _ _ => eventRow
  | .roundBoundary _ => eventRow
  | .roundResume _ => eventRow
  | .roundVoid _ => eventRow
  | .tokenArrival _ => eventRow
  | .bankOwnershipTokenArrival _ _ _ => eventRow
  | .fillPortToken _ _ _ => eventRow
  | .reconfigTokenPass _ _ => eventRow
  | .lengthMismatch _ _ _ _ => eventRow
  | .stallWatchdog _ => eventRow
  | .operatorJoin _ _ _ => eventRow
  | .operatorMerge _ _ _ => eventRow
  | .operatorSplay _ _ _ => eventRow
  | .operatorZip _ _ _ => eventRow
  | .operatorUnzip _ _ _ => eventRow
  | .operatorScan _ _ _ => eventRow
  | .operatorReduce _ _ _ => eventRow
  | .operatorCompact _ _ _ => eventRow
  | .operatorQuant _ _ _ => eventRow
  | .operatorDequant _ _ _ => eventRow
  | .operatorTranspose _ _ _ => eventRow
  | .scoreboardCommandStart _ _ => eventRow
  | .streamFetch _ _ => eventRow
  | .streamDeliver _ _ => eventRow
  | .streamFetchFaultRaise _ _ => eventRow
  | .streamOutputStage _ _ => eventRow
  | .gatherIndexToken _ _ => eventRow
  | .scatterIndexToken _ _ => eventRow
  | .updateIndexToken _ _ => eventRow
  | .copyComplete _ => eventRow
  | .copyFault _ => eventRow
  | .collectiveComplete _ _ => eventRow
  | .teMarkerReport => eventRow
  | .teFetchAction _ _ => eventRow
  | .teEvictAction _ _ => eventRow
  | .teFillComplete _ _ => eventRow
  | .teDrainComplete _ _ => eventRow
  | .dispatchDecision => eventRow
  | .dependenceReread _ => eventRow
  | .queuePromotion _ => eventRow
  | .install => eventRow
  | .restoreSourcesResume _ => eventRow
  | .instanceEnd _ => eventRow
  | .shepherdMove _ => eventRow
  | .compactTimeout _ => eventRow
  | .snapshotCut _ => eventRow
  | .snapshotMarkerArrival _ _ => eventRow
  | .snapshotImageWrite _ => eventRow
  | .planeSwitch _ => eventRow
  | .edgeDepthApply _ _ _ => eventRow
  | .trapEntry _ => eventRow
  | .hQueueTake => eventRow
  | .eventRingWrite _ => eventRow
  | .eventRingAck _ _ => eventRow
  | .wfiTimeout _ => eventRow
  | .clearLine _ _ => eventRow
  | .memoryLineRead _ => eventRow
  | .memoryLineWrite _ => eventRow
  | .bandSample _ => eventRow
  | .hbmGroupRetrain _ => eventRow
  | .patrolPassComplete _ => eventRow
  | .governorDecision _ => eventRow
  | .meterPeriodicRecord _ => eventRow
  | .kshrBeginServe => eventRow
  | .kshrFinishServe => eventRow
  | .mtrdRecordServe => eventRow
  | .mtrdQuoteServe => eventRow
  | .boot => eventRow
  | .powerLoss => eventRow
  | .mgmtOpen _ => eventRow
  | .mgmtConfirm _ => eventRow
  | .mgmtClose _ => eventRow
  | .mgmtLock _ => eventRow
  | .mgmtRenew _ => eventRow
  | .mgmtUnlock _ => eventRow
  | .mgmtWrite _ => eventRow
  | .mgmtActivate _ => eventRow
  | .mgmtSetkeys _ => eventRow
  | .mgmtCool _ => eventRow
  | .mgmtWarm _ => eventRow
  | .mgmtExport _ => eventRow
  | .mgmtSetival _ => eventRow
  | .mgmtReset _ => eventRow
  | .mgmtPowerOff _ => eventRow
  | .lockLeaseExpiry _ => eventRow
  | .sessionTimeout _ => eventRow
  | .peerReadRequest _ => eventRow
  | .peerReadData _ => eventRow
  | .peerWrite _ => eventRow
  | .peerWriteAck _ => eventRow
  | .peerUpdate _ => eventRow
  | .peerCollective _ => eventRow
  | .peerTokenData _ => eventRow
  | .peerCreditReturn _ => eventRow
  | .peerReservedFlit _ => eventRow
  | .linkDown _ => eventRow
  | .t2ReadData _ => eventRow
  | .t2WriteAck _ => eventRow
  | .t2CreditReturn _ => eventRow
  | .t2ReservedFlit _ => eventRow
  | .rdmaWriteInbound _ => eventRow
  | .rdmaReadInbound _ => eventRow
  | .rdmaSendInbound _ => eventRow
  | .roceUnsupportedRequest _ => eventRow
  | .retreatRowRefreshComplete => eventRow
  | .roceResponseInbound _ => eventRow
  | .priorityFlowControlFrame _ _ _ => eventRow
  | .congestionNotificationPacket _ => eventRow
  | .flitAcknowledgement _ _ => eventRow

/-- The entry accepts the fields of the word in a block of mode `m` (R85, R97). -/
def Instr.fieldsOk (m : BlkMode) : Instr → Bool
  | .nop o => okG o tyZero false false (o.fn == 0)
  | .rdp o => okI o tyZero (o.imm.toNat < 16) (o.fn == 0)
  | .movi o => okI o tyAll (o.imm.toNat < 2 ^ moviBits o.ty) (o.fn == 0)
  | .movh o => okI o tyWide true (o.fn.toNat < o.ty.width / 16)
  | .fan o => okG o tyZero false false (o.fn == 0)
  | .null o => okG o tyZero false false (o.fn == 0)
  | .drop o => okG o tyZero false false (o.fn == 0)
  | .gate o => okG o tyZero false false (o.fn == 0)
  | .sel o => okG o tyAll false false (o.fn == 0)
  | .lcnt o => okI o ty32 (o.imm.toNat < 4) (o.fn == 0)
  | .lidx o => okI o ty32 (o.imm &&& 0xFF0C == 0) (o.fn == 0)
  | .pois o => okI o (· == .w32) (o.imm != 0 && o.imm &&& 0xFE01 == 0) (o.fn == 0)
  | .poisc o => okG o tyZero false false (o.fn == 0)
  | .mark o => okI o tyZero (o.imm.toNat < 4096) (o.fn == 0)
  | .route o => o.ga == 0 && o.gb == 0 && o.off == 0
  | .bro o => o.ga == 0 && o.gb == 0 && o.exg == 0
  | .brx o => o.ga == 0 && o.gb == 0 && o.exg == 0 && o.off == 0
  | .callb o => o.gb == 0 && o.exg == 0
  | .retb o => o.gb == 0 && o.exg == 0 && o.off == 0
  | .halt o => o.ga == 0 && o.gb == 0 && o.exg == 0 && o.off == 0
  | .rdg o => o.gb == 0 && o.exg == 0 && o.off == 0
  | .wrg o => o.gb == 0 && o.exg == 0 && o.off == 0
  | .add o => okG o tyIW false true (o.fn == 0)
  | .addi o => okI o tyIW true (o.fn.toNat < 2)
  | .sub o => okG o tyIW false true (o.fn == 0)
  | .adds o => okG o tyIW false false (o.fn == 0)
  | .subs o => okG o tyIW false false (o.fn == 0)
  | .neg o => okG o Ty.isI false true (o.fn == 0)
  | .abs o => okG o Ty.isI false true (o.fn == 0)
  | .mul o => okG o tyIW false true (o.fn == 0)
  | .mulh o => okG o Ty.isI false false (o.fn == 0)
  | .mulhw o => okG o Ty.isW false false (o.fn == 0)
  | .madd o => okG o tyIW false true (o.fn == 0)
  | .div o => okG o Ty.isI false false (o.fn == 0)
  | .divw o => okG o Ty.isW false false (o.fn == 0)
  | .rem o => okG o Ty.isI false false (o.fn == 0)
  | .remw o => okG o Ty.isW false false (o.fn == 0)
  | .lea o => okG o tyIW false false (o.fn.toNat < 8)
  | .min o => okG o Ty.isI false false (o.fn == 0)
  | .max o => okG o Ty.isI false false (o.fn == 0)
  | .minw o => okG o Ty.isW false false (o.fn == 0)
  | .maxw o => okG o Ty.isW false false (o.fn == 0)
  | .and o => okG o tyIW false false (o.fn == 0)
  | .or o => okG o tyIW false false (o.fn == 0)
  | .xor o => okG o tyIW false false (o.fn == 0)
  | .andn o => okG o tyIW false false (o.fn == 0)
  | .shl o => okG o tyIW false false (o.fn == 0)
  | .shr o => okG o tyIW false false (o.fn == 0)
  | .sra o => okG o Ty.isI false false (o.fn == 0)
  | .rotl o => okG o tyIW false false (o.fn == 0)
  | .clz o => okG o tyIW false false (o.fn == 0)
  | .popc o => okG o tyIW false false (o.fn == 0)
  | .brev o => okG o tyIW false false (o.fn == 0)
  | .cmp o => okG o tyIW false false (o.fn.toNat < 6)
  | .cmpi o => okI o tyIW true (o.fn.toNat < 6)
  | .bfx o => okI o tyIW (o.imm.toNat < 4096 && o.imm.toNat % 64 + o.imm.toNat / 64 + 1 ≤ o.ty.width) (o.fn == 0)
  | .bfi o => okI o tyIW (o.imm.toNat < 4096 && o.imm.toNat % 64 + o.imm.toNat / 64 + 1 ≤ o.ty.width) (o.fn == 0)
  | .fadd o => okG o Ty.isA true true (o.fn == 0)
  | .fsub o => okG o Ty.isA true true (o.fn == 0)
  | .fmul o => okG o Ty.isA true true (o.fn == 0)
  | .ffma o => okG o Ty.isA true true (o.fn == 0)
  | .fmin o => okG o Ty.isF false false (o.fn == 0)
  | .fmax o => okG o Ty.isF false false (o.fn == 0)
  | .famax o => okG o Ty.isF false false (o.fn == 0)
  | .fabs o => okG o Ty.isF false false (o.fn == 0)
  | .fneg o => okG o Ty.isF false false (o.fn == 0)
  | .fcpys o => okG o Ty.isF false false (o.fn == 0)
  | .fcmp o => okG o Ty.isF false false (o.fn.toNat < 8)
  | .fclass o => okG o Ty.isF false false (o.fn == 0)
  | .fcvt o => okG o tyAll true true (fcvtFnOk m o)
  | .frnd o => okG o Ty.isA true false (o.fn == 0)
  | .frcp o => okG o Ty.isA true true (o.fn == 0)
  | .frsq o => okG o Ty.isA true true (o.fn == 0)
  | .fsqrt o => okG o Ty.isA true true (o.fn == 0)
  | .fexp2 o => okG o Ty.isA true true (o.fn == 0)
  | .flog2 o => okG o Ty.isA true true (o.fn == 0)
  | .fsint o => okG o Ty.isA true true (o.fn == 0)
  | .fcost o => okG o Ty.isA true true (o.fn == 0)
  | .ftanh o => okG o Ty.isA true true (o.fn == 0)
  | .fscale o => okG o Ty.isA true true (o.fn == 0)
  | .fdot2 o => okG o (fun t => t == .bf16 || t == .fp16) true true (o.fn == 0)
  | .fdot4 o => okG o (fun t => t.isF && !t.isA) true true (o.fn == 0)
  | .lswp o => okI o tyAll (lswpImmOk o) (o.fn == 0)
  | .lperm o => okG o tyAll false false (o.fn == 0)
  | .lbcst o => okI o tyAll (o.imm.toNat < o.ty.lanes) (o.fn == 0)
  | .lsld o => okI o tyAll (o.imm.toNat < o.ty.lanes) (o.fn == 0)
  | .lred o => okG o (redTyOk o.fn.toNat) (o.fn == 0 && o.ty.isA) (o.fn == 0) (o.fn.toNat < 7)
  | .lscan o => okG o (redTyOk o.fn.toNat) (o.fn == 0 && o.ty.isA) (o.fn == 0) (o.fn.toNat < 7)
  | .lvote o => okG o tyAll false false (o.fn.toNat < 4)
  | .lmsk o => okG o tyAll false false (o.fn.toNat < 2)
  | .lcmpr o => okG o tyAll false false (o.fn == 0)
  | .lexpd o => okG o tyAll false false (o.fn == 0)
  | .lpack o => okG o tyPack false (o.ty == .i8) (o.fn.toNat < (if packBits o.ty == 6 then 3 else 1))
  | .lunpk o => okG o tyPack false false (o.fn.toNat < (if packBits o.ty == 6 then 4 else 2))
  | .mbind o => okI o tyZero (o.imm.toNat < 4096) (o.fn == 0)
  | .mma o => mmaOk false o
  | .mmasp o => mmaOk true o && !o.tra && o.afmt != .fp32
  | .mzero o => xRest o && o.acc == .add && o.ks == 0 && o.afmt == .e4m3 && o.ba == 0 && o.bb == 0
  | .macci o => xRest o && o.bb == 0 && ((o.ks == 0 && o.afmt == .e4m3 && o.ba == 0) || (o.ks == 1 && (o.afmt == .bf16 || o.afmt == .fp32)))
  | .mout o => okG o tyMout true true true && moutTargetsOk o
  | .mswap o => xRest o && o.acc == .add && o.ks == 0 && o.afmt == .e4m3 && o.ba == 0 && o.bb.val < 4 && o.bb.val != o.bank.val
  | .mscls o => xRest o && o.acc == .add && o.afmt == .e4m3 && o.bank == 0 && 1024 * o.bb.val + 256 * (o.ks.toNat + 1) ≤ 16384
  | .lds o => memOk m o (tyMem m)
  | .sts o => memOk m o (tyMem m)
  | .ldb o => rowOk m o
  | .stb o => rowOk m o
  | .ldv o => bindOk m o (fun t => ty32 t || t == .fp32 || ty64 m t)
  | .stv o => bindOk m o (fun t => ty32 t || t == .fp32 || ty64 m t)
  | .vrecl o => bindOk m o (· == .w32)
  | .wfa o => bindOk m o (fun t => ty32 t || ty64 m t)
  | .uwait o => bindOk m o (fun t => ty32 t || ty64 m t)
  | .ldg o => bindOk m o (tyMem m)
  | .stg o => bindOk m o (tyMem m)
  | .upd o => updOk m o && updTyOk m o.auxl.toNat o.ty && (m == .element || o.auxh == 0)
  | .updf o => updOk m o && updTyOk m o.auxl.toNat o.ty
  | .ucas o => updOk m o && o.auxl == 0 && (ty32 o.ty || ty64 m o.ty)
  | .fence o => okI o tyZero (fenceImmOk m o.imm) (o.fn == 0)
  | .bara o => barOk m o
  | .barw o => barOk m o && o.off == 0
  | .apset o => o.gb == 0 && o.sub.toNat < 8 && o.aux == 0 && o.vp == 0
  | .apcpy o => o.vp == 0 && o.ga == 0 && o.gb == 0 && o.sub == 0 && o.aux.toNat < 16
  | .apld o => o.vp == 0 && o.gb == 0 && o.sub == 0 && o.aux == 0
  | .apclr o => o.vp == 0 && o.ga == 0 && o.gb == 0 && o.sub == 0 && o.aux == 0
  | .sbind o => o.ga == 0 && o.gb == 0 && o.sub == 0 && o.aux == 0
  | .sbindw o => o.ga == 0 && o.gb == 0 && o.sub == 0 && o.aux == 0
  | .sgath o => o.ga == 0 && o.gb == 0 && o.sub == 0 && o.aux.toNat < 64
  | .sscat o => o.ga == 0 && o.gb == 0 && o.sub == 0 && o.aux.toNat < 64
  | .supd o => o.ga == 0 && o.gb == 0 && o.aux.toNat < 64 && updTyOk .element (o.sub.toNat % 16) (Ty.ofCode (o.sub.toNat / 16))
  | .scopy o => scopyOk o
  | .sscl o => ssclOk o
  | .swait o => o.ap == 0 && o.ga == 0 && o.gb == 0 && o.sub == 0 && o.aux == 0
  | .sstat o => o.ap == 0 && o.gb == 0 && o.sub == 0 && o.aux == 0
  | .skill o => o.ap == 0 && o.ga == 0 && o.gb == 0 && o.sub == 0 && o.aux == 0
  | .sbar o => o.vp == 0 && o.ap == 0 && o.ga == 0 && o.gb == 0 && o.sub == 0 && o.aux == 0
  | .cred o => collOk m o && (m == .element || o.ga == 0) && redTyOk (o.sub.toNat % 16) (Ty.ofCode (o.sub.toNat / 16)) && o.sub.toNat % 16 < 7
  | .cbcst o => collOk m o && o.sub.toNat % 16 == 0
  | .cagth o => collOk m o && (m == .element || o.ga == 0) && o.sub.toNat % 16 == 0 && (m == .control || cagthTargetsOk o)
  | .cfgnx o => o.vp == 0 && o.ap == 0 && o.gb == 0 && o.sub == 0 && o.aux == 0 && (m == .control || o.ga == 0)
  | .btok o => okI o tyZero (if m == .element then o.imm.toNat < 16 else o.imm == 0) (o.fn == 0) && !o.lrl && !o.lrr
  | .ttld o => o.vp == 0 && o.ap == 0 && o.gb == 0 && o.sub == 0 && o.aux == 0
  | .ttldClear o => o.vp == 0 && o.ap == 0 && o.ga == 0 && o.gb == 0 && o.sub == 1 && o.aux == 0
  | .tfetch o => o.vp == 0 && o.ap == 0 && o.sub.toNat < 2 && o.aux == 0
  | .tevict o => o.vp == 0 && o.ap == 0 && o.sub.toNat < 2 && o.aux == 0
  | .tpin o => o.vp == 0 && o.ap == 0 && o.sub == 0 && o.aux == 0
  | .tpinUnpin o => o.vp == 0 && o.ap == 0 && o.sub == 1 && o.aux == 0
  | .tresStatus o => o.vp == 0 && o.ap == 0 && o.gb == 0 && o.sub == 0 && o.aux == 0
  | .tresResume o => o.vp == 0 && o.ap == 0 && o.gb == 0 && o.sub == 1 && o.aux == 0
  | .tresResident o => o.vp == 0 && o.ap == 0 && o.gb == 0 && o.sub == 2 && o.aux == 0
  | .scopyk o => o.vp == 0 && o.aux.toNat < 16 && (o.sub == 0 || o.sub == 4) && cwPairOk (o.sub == 4) o.gb
  | .kopen o => o.vp == 0 && o.ap == 0 && o.gb == 0 && o.sub == 0 && o.aux.toNat < 16
  | .kclose o => o.vp == 0 && o.ap == 0 && o.ga == 0 && o.gb == 0 && o.sub == 0 && o.aux.toNat < 16
  | .trap o => o.sub == 0 && o.ga == 0 && o.gb == 0
  | .brk o => o.sub == 0 && o.ga == 0 && o.gb == 0
  | .rte o => o.sub == 0 && o.ga == 0 && o.gb == 0 && o.imm == 0
  | .srd o => o.sub == 0 && o.ga == 0 && o.gb == 0 && o.imm.toNat < 4096 && o.imm.toNat != 0xB03
  | .swr o => o.sub == 0 && o.ga == 0 && o.gb == 0 && o.imm.toNat < 4096
  | .hcall o => o.sub == 0
  | .wfi o => o.ga == 0 && o.imm == 0 && (o.sub == 1 || (o.sub == 0 && o.gb == 0))
  | .qpost o => o.sub == 0 && o.imm == 0
  | .qctlStatus o => o.sub == 0 && o.imm == 0
  | .qctlPrio o => o.sub == 1 && o.imm == 0
  | .qctlEnable o => o.sub == 2 && o.imm == 0
  | .qctlDisable o => o.sub == 3 && o.imm == 0
  | .qctlFlush o => o.sub == 4 && o.imm == 0
  | .qctlAssign o => o.sub == 5 && o.imm == 0
  | .placeLaunch o => o.sub == 0 && o.gb == 0 && orgOk o.imm
  | .placeMove o => o.sub == 1 && o.gb == 0 && orgOk o.imm
  | .placeCompact o => o.sub == 2 && o.gb == 0 && o.imm == 0
  | .placeDiscard o => o.sub == 3 && o.gb == 0 && o.imm == 0
  | .psnapCut o => (o.sub == 0 || o.sub == 2) && o.imm != 0
  | .psnapMarker o => (o.sub == 1 || o.sub == 3) && o.imm != 0
  | .prest o => o.sub == 0 && o.gb == 0 && orgOk o.imm
  | .plsw o => o.sub == 0 && o.imm.toNat < 4
  | .rinvPages o => o.sub == 0
  | .rinvRange o => o.sub == 1 && o.ga == 0 && o.imm == 0
  | .rinvContext o => o.sub == 2 && o.ga == 0 && o.imm == 0
  | .rinvPart o => o.sub == 3 && o.ga == 0 && o.gb == 0 && o.imm == 0
  | .xinvFrames o => o.sub == 0
  | .xinvPart o => o.sub == 1 && o.ga == 0 && o.imm == 0
  | .kshrAssign o => o.sub == 0 && o.gb == 0 && o.imm.toNat < 16
  | .kshrBegin o => o.sub == 1 && o.imm.toNat < 32
  | .kshrFinish o => o.sub == 2 && o.imm.toNat < 32
  | .kshrErase o => o.sub == 3 && o.ga == 0 && o.gb == 0 && o.imm.toNat < 16
  | .mtrdRead o => o.sub == 0 && o.ga == 0 && o.gb == 0 && o.imm.toNat < 7
  | .mtrdRecord o => o.sub == 1 && o.imm == 0
  | .mtrdQuote o => o.sub == 2 && o.imm == 0
  | .dbgMtdata o => o.sub == 0 && o.ga == 0 && o.gb == 0 && o.imm.toNat == 0xB03
  | .trapHAck _ _ => false
  | .privWake _ _ => false
  | .shepPaddock _ _ => false
  | .shepPlown _ _ => false
  | .shepPlmap _ _ => false
  | .schedCgtab _ _ => false
  | .xlS2base _ _ => false
  | .partCtlOpen _ => false
  | .partCtlStart _ => false
  | .partCtlStop _ => false
  | .partFtag _ _ => false
  | .controlBlockEntry _ => false
  | .controlBlockCommit _ => false
  | .recordStart _ _ _ => false
  | .recordCommit _ _ _ => false
  | .roundBoundary _ => false
  | .roundResume _ => false
  | .roundVoid _ => false
  | .tokenArrival _ => false
  | .bankOwnershipTokenArrival _ _ _ => false
  | .fillPortToken _ _ _ => false
  | .reconfigTokenPass _ _ => false
  | .lengthMismatch _ _ _ _ => false
  | .stallWatchdog _ => false
  | .operatorJoin _ _ _ => false
  | .operatorMerge _ _ _ => false
  | .operatorSplay _ _ _ => false
  | .operatorZip _ _ _ => false
  | .operatorUnzip _ _ _ => false
  | .operatorScan _ _ _ => false
  | .operatorReduce _ _ _ => false
  | .operatorCompact _ _ _ => false
  | .operatorQuant _ _ _ => false
  | .operatorDequant _ _ _ => false
  | .operatorTranspose _ _ _ => false
  | .scoreboardCommandStart _ _ => false
  | .streamFetch _ _ => false
  | .streamDeliver _ _ => false
  | .streamFetchFaultRaise _ _ => false
  | .streamOutputStage _ _ => false
  | .gatherIndexToken _ _ => false
  | .scatterIndexToken _ _ => false
  | .updateIndexToken _ _ => false
  | .copyComplete _ => false
  | .copyFault _ => false
  | .collectiveComplete _ _ => false
  | .teMarkerReport => false
  | .teFetchAction _ _ => false
  | .teEvictAction _ _ => false
  | .teFillComplete _ _ => false
  | .teDrainComplete _ _ => false
  | .dispatchDecision => false
  | .dependenceReread _ => false
  | .queuePromotion _ => false
  | .install => false
  | .restoreSourcesResume _ => false
  | .instanceEnd _ => false
  | .shepherdMove _ => false
  | .compactTimeout _ => false
  | .snapshotCut _ => false
  | .snapshotMarkerArrival _ _ => false
  | .snapshotImageWrite _ => false
  | .planeSwitch _ => false
  | .edgeDepthApply _ _ _ => false
  | .trapEntry _ => false
  | .hQueueTake => false
  | .eventRingWrite _ => false
  | .eventRingAck _ _ => false
  | .wfiTimeout _ => false
  | .clearLine _ _ => false
  | .memoryLineRead _ => false
  | .memoryLineWrite _ => false
  | .bandSample _ => false
  | .hbmGroupRetrain _ => false
  | .patrolPassComplete _ => false
  | .governorDecision _ => false
  | .meterPeriodicRecord _ => false
  | .kshrBeginServe => false
  | .kshrFinishServe => false
  | .mtrdRecordServe => false
  | .mtrdQuoteServe => false
  | .boot => false
  | .powerLoss => false
  | .mgmtOpen _ => false
  | .mgmtConfirm _ => false
  | .mgmtClose _ => false
  | .mgmtLock _ => false
  | .mgmtRenew _ => false
  | .mgmtUnlock _ => false
  | .mgmtWrite _ => false
  | .mgmtActivate _ => false
  | .mgmtSetkeys _ => false
  | .mgmtCool _ => false
  | .mgmtWarm _ => false
  | .mgmtExport _ => false
  | .mgmtSetival _ => false
  | .mgmtReset _ => false
  | .mgmtPowerOff _ => false
  | .lockLeaseExpiry _ => false
  | .sessionTimeout _ => false
  | .peerReadRequest _ => false
  | .peerReadData _ => false
  | .peerWrite _ => false
  | .peerWriteAck _ => false
  | .peerUpdate _ => false
  | .peerCollective _ => false
  | .peerTokenData _ => false
  | .peerCreditReturn _ => false
  | .peerReservedFlit _ => false
  | .linkDown _ => false
  | .t2ReadData _ => false
  | .t2WriteAck _ => false
  | .t2CreditReturn _ => false
  | .t2ReservedFlit _ => false
  | .rdmaWriteInbound _ => false
  | .rdmaReadInbound _ => false
  | .rdmaSendInbound _ => false
  | .roceUnsupportedRequest _ => false
  | .retreatRowRefreshComplete => false
  | .roceResponseInbound _ => false
  | .priorityFlowControlFrame _ _ _ => false
  | .congestionNotificationPacket _ => false
  | .flitAcknowledgement _ _ => false

/-- The fields every format shares, with TY, RM and the last-read marks where the format has them
(R82, R86, R87, R91). -/
structure Common where
  hd : Head
  ty : Ty := .i32
  rm : Rm := .rne
  lrl : Bool := false
  lrr : Bool := false
  /-- GA and GB are zero. -/
  gZero : Bool := true
  deriving DecidableEq, Repr

/-- Conditions on targets, PM, TY, RM and marks that hold whatever the entry (R52, R58, R84, R85,
R118). -/
def Common.ok (c : Common) (m : BlkMode) (r : Row) : Bool :=
  (r.pmFree || c.hd.pm == .none) &&
  (r.dst || (c.hd.t0 == .none && c.hd.t1 == .none)) &&
  (c.hd.t0 != .none || c.hd.t1 == .none) &&
  (c.hd.t0 == .none || c.hd.t0 != c.hd.t1) &&
  (!c.lrl || r.slots.l) && (!c.lrr || r.slots.r) &&
  match m with
  | .element => r.element && c.ty != .i64 && c.ty != .w64 && c.gZero
  | .control => r.control && c.rm != .rsto && !c.lrl && !c.lrr

/-- The shared fields of an instruction read from a word; other steps have none. -/
def Instr.common : Instr → Option Common
  | .nop o => some { hd := o.hd, ty := o.ty, rm := o.rm, lrl := o.lrl, lrr := o.lrr }
  | .rdp o => some { hd := o.hd, ty := o.ty, lrl := o.lrl, lrr := o.lrr }
  | .movi o => some { hd := o.hd, ty := o.ty, lrl := o.lrl, lrr := o.lrr }
  | .movh o => some { hd := o.hd, ty := o.ty, lrl := o.lrl, lrr := o.lrr }
  | .fan o => some { hd := o.hd, ty := o.ty, rm := o.rm, lrl := o.lrl, lrr := o.lrr }
  | .null o => some { hd := o.hd, ty := o.ty, rm := o.rm, lrl := o.lrl, lrr := o.lrr }
  | .drop o => some { hd := o.hd, ty := o.ty, rm := o.rm, lrl := o.lrl, lrr := o.lrr }
  | .gate o => some { hd := o.hd, ty := o.ty, rm := o.rm, lrl := o.lrl, lrr := o.lrr }
  | .sel o => some { hd := o.hd, ty := o.ty, rm := o.rm, lrl := o.lrl, lrr := o.lrr }
  | .lcnt o => some { hd := o.hd, ty := o.ty, lrl := o.lrl, lrr := o.lrr }
  | .lidx o => some { hd := o.hd, ty := o.ty, lrl := o.lrl, lrr := o.lrr }
  | .pois o => some { hd := o.hd, ty := o.ty, lrl := o.lrl, lrr := o.lrr }
  | .poisc o => some { hd := o.hd, ty := o.ty, rm := o.rm, lrl := o.lrl, lrr := o.lrr }
  | .mark o => some { hd := o.hd, ty := o.ty, lrl := o.lrl, lrr := o.lrr }
  | .route o => some { hd := o.hd, gZero := o.ga == 0 && o.gb == 0 }
  | .bro o => some { hd := o.hd, gZero := o.ga == 0 && o.gb == 0 }
  | .brx o => some { hd := o.hd, gZero := o.ga == 0 && o.gb == 0 }
  | .callb o => some { hd := o.hd, gZero := o.ga == 0 && o.gb == 0 }
  | .retb o => some { hd := o.hd, gZero := o.ga == 0 && o.gb == 0 }
  | .halt o => some { hd := o.hd, gZero := o.ga == 0 && o.gb == 0 }
  | .rdg o => some { hd := o.hd, gZero := o.ga == 0 && o.gb == 0 }
  | .wrg o => some { hd := o.hd, gZero := o.ga == 0 && o.gb == 0 }
  | .add o => some { hd := o.hd, ty := o.ty, rm := o.rm, lrl := o.lrl, lrr := o.lrr }
  | .addi o => some { hd := o.hd, ty := o.ty, lrl := o.lrl, lrr := o.lrr }
  | .sub o => some { hd := o.hd, ty := o.ty, rm := o.rm, lrl := o.lrl, lrr := o.lrr }
  | .adds o => some { hd := o.hd, ty := o.ty, rm := o.rm, lrl := o.lrl, lrr := o.lrr }
  | .subs o => some { hd := o.hd, ty := o.ty, rm := o.rm, lrl := o.lrl, lrr := o.lrr }
  | .neg o => some { hd := o.hd, ty := o.ty, rm := o.rm, lrl := o.lrl, lrr := o.lrr }
  | .abs o => some { hd := o.hd, ty := o.ty, rm := o.rm, lrl := o.lrl, lrr := o.lrr }
  | .mul o => some { hd := o.hd, ty := o.ty, rm := o.rm, lrl := o.lrl, lrr := o.lrr }
  | .mulh o => some { hd := o.hd, ty := o.ty, rm := o.rm, lrl := o.lrl, lrr := o.lrr }
  | .mulhw o => some { hd := o.hd, ty := o.ty, rm := o.rm, lrl := o.lrl, lrr := o.lrr }
  | .madd o => some { hd := o.hd, ty := o.ty, rm := o.rm, lrl := o.lrl, lrr := o.lrr }
  | .div o => some { hd := o.hd, ty := o.ty, rm := o.rm, lrl := o.lrl, lrr := o.lrr }
  | .divw o => some { hd := o.hd, ty := o.ty, rm := o.rm, lrl := o.lrl, lrr := o.lrr }
  | .rem o => some { hd := o.hd, ty := o.ty, rm := o.rm, lrl := o.lrl, lrr := o.lrr }
  | .remw o => some { hd := o.hd, ty := o.ty, rm := o.rm, lrl := o.lrl, lrr := o.lrr }
  | .lea o => some { hd := o.hd, ty := o.ty, rm := o.rm, lrl := o.lrl, lrr := o.lrr }
  | .min o => some { hd := o.hd, ty := o.ty, rm := o.rm, lrl := o.lrl, lrr := o.lrr }
  | .max o => some { hd := o.hd, ty := o.ty, rm := o.rm, lrl := o.lrl, lrr := o.lrr }
  | .minw o => some { hd := o.hd, ty := o.ty, rm := o.rm, lrl := o.lrl, lrr := o.lrr }
  | .maxw o => some { hd := o.hd, ty := o.ty, rm := o.rm, lrl := o.lrl, lrr := o.lrr }
  | .and o => some { hd := o.hd, ty := o.ty, rm := o.rm, lrl := o.lrl, lrr := o.lrr }
  | .or o => some { hd := o.hd, ty := o.ty, rm := o.rm, lrl := o.lrl, lrr := o.lrr }
  | .xor o => some { hd := o.hd, ty := o.ty, rm := o.rm, lrl := o.lrl, lrr := o.lrr }
  | .andn o => some { hd := o.hd, ty := o.ty, rm := o.rm, lrl := o.lrl, lrr := o.lrr }
  | .shl o => some { hd := o.hd, ty := o.ty, rm := o.rm, lrl := o.lrl, lrr := o.lrr }
  | .shr o => some { hd := o.hd, ty := o.ty, rm := o.rm, lrl := o.lrl, lrr := o.lrr }
  | .sra o => some { hd := o.hd, ty := o.ty, rm := o.rm, lrl := o.lrl, lrr := o.lrr }
  | .rotl o => some { hd := o.hd, ty := o.ty, rm := o.rm, lrl := o.lrl, lrr := o.lrr }
  | .clz o => some { hd := o.hd, ty := o.ty, rm := o.rm, lrl := o.lrl, lrr := o.lrr }
  | .popc o => some { hd := o.hd, ty := o.ty, rm := o.rm, lrl := o.lrl, lrr := o.lrr }
  | .brev o => some { hd := o.hd, ty := o.ty, rm := o.rm, lrl := o.lrl, lrr := o.lrr }
  | .cmp o => some { hd := o.hd, ty := o.ty, rm := o.rm, lrl := o.lrl, lrr := o.lrr }
  | .cmpi o => some { hd := o.hd, ty := o.ty, lrl := o.lrl, lrr := o.lrr }
  | .bfx o => some { hd := o.hd, ty := o.ty, lrl := o.lrl, lrr := o.lrr }
  | .bfi o => some { hd := o.hd, ty := o.ty, lrl := o.lrl, lrr := o.lrr }
  | .fadd o => some { hd := o.hd, ty := o.ty, rm := o.rm, lrl := o.lrl, lrr := o.lrr }
  | .fsub o => some { hd := o.hd, ty := o.ty, rm := o.rm, lrl := o.lrl, lrr := o.lrr }
  | .fmul o => some { hd := o.hd, ty := o.ty, rm := o.rm, lrl := o.lrl, lrr := o.lrr }
  | .ffma o => some { hd := o.hd, ty := o.ty, rm := o.rm, lrl := o.lrl, lrr := o.lrr }
  | .fmin o => some { hd := o.hd, ty := o.ty, rm := o.rm, lrl := o.lrl, lrr := o.lrr }
  | .fmax o => some { hd := o.hd, ty := o.ty, rm := o.rm, lrl := o.lrl, lrr := o.lrr }
  | .famax o => some { hd := o.hd, ty := o.ty, rm := o.rm, lrl := o.lrl, lrr := o.lrr }
  | .fabs o => some { hd := o.hd, ty := o.ty, rm := o.rm, lrl := o.lrl, lrr := o.lrr }
  | .fneg o => some { hd := o.hd, ty := o.ty, rm := o.rm, lrl := o.lrl, lrr := o.lrr }
  | .fcpys o => some { hd := o.hd, ty := o.ty, rm := o.rm, lrl := o.lrl, lrr := o.lrr }
  | .fcmp o => some { hd := o.hd, ty := o.ty, rm := o.rm, lrl := o.lrl, lrr := o.lrr }
  | .fclass o => some { hd := o.hd, ty := o.ty, rm := o.rm, lrl := o.lrl, lrr := o.lrr }
  | .fcvt o => some { hd := o.hd, ty := o.ty, rm := o.rm, lrl := o.lrl, lrr := o.lrr }
  | .frnd o => some { hd := o.hd, ty := o.ty, rm := o.rm, lrl := o.lrl, lrr := o.lrr }
  | .frcp o => some { hd := o.hd, ty := o.ty, rm := o.rm, lrl := o.lrl, lrr := o.lrr }
  | .frsq o => some { hd := o.hd, ty := o.ty, rm := o.rm, lrl := o.lrl, lrr := o.lrr }
  | .fsqrt o => some { hd := o.hd, ty := o.ty, rm := o.rm, lrl := o.lrl, lrr := o.lrr }
  | .fexp2 o => some { hd := o.hd, ty := o.ty, rm := o.rm, lrl := o.lrl, lrr := o.lrr }
  | .flog2 o => some { hd := o.hd, ty := o.ty, rm := o.rm, lrl := o.lrl, lrr := o.lrr }
  | .fsint o => some { hd := o.hd, ty := o.ty, rm := o.rm, lrl := o.lrl, lrr := o.lrr }
  | .fcost o => some { hd := o.hd, ty := o.ty, rm := o.rm, lrl := o.lrl, lrr := o.lrr }
  | .ftanh o => some { hd := o.hd, ty := o.ty, rm := o.rm, lrl := o.lrl, lrr := o.lrr }
  | .fscale o => some { hd := o.hd, ty := o.ty, rm := o.rm, lrl := o.lrl, lrr := o.lrr }
  | .fdot2 o => some { hd := o.hd, ty := o.ty, rm := o.rm, lrl := o.lrl, lrr := o.lrr }
  | .fdot4 o => some { hd := o.hd, ty := o.ty, rm := o.rm, lrl := o.lrl, lrr := o.lrr }
  | .lswp o => some { hd := o.hd, ty := o.ty, lrl := o.lrl, lrr := o.lrr }
  | .lperm o => some { hd := o.hd, ty := o.ty, rm := o.rm, lrl := o.lrl, lrr := o.lrr }
  | .lbcst o => some { hd := o.hd, ty := o.ty, lrl := o.lrl, lrr := o.lrr }
  | .lsld o => some { hd := o.hd, ty := o.ty, lrl := o.lrl, lrr := o.lrr }
  | .lred o => some { hd := o.hd, ty := o.ty, rm := o.rm, lrl := o.lrl, lrr := o.lrr }
  | .lscan o => some { hd := o.hd, ty := o.ty, rm := o.rm, lrl := o.lrl, lrr := o.lrr }
  | .lvote o => some { hd := o.hd, ty := o.ty, rm := o.rm, lrl := o.lrl, lrr := o.lrr }
  | .lmsk o => some { hd := o.hd, ty := o.ty, rm := o.rm, lrl := o.lrl, lrr := o.lrr }
  | .lcmpr o => some { hd := o.hd, ty := o.ty, rm := o.rm, lrl := o.lrl, lrr := o.lrr }
  | .lexpd o => some { hd := o.hd, ty := o.ty, rm := o.rm, lrl := o.lrl, lrr := o.lrr }
  | .lpack o => some { hd := o.hd, ty := o.ty, rm := o.rm, lrl := o.lrl, lrr := o.lrr }
  | .lunpk o => some { hd := o.hd, ty := o.ty, rm := o.rm, lrl := o.lrl, lrr := o.lrr }
  | .mbind o => some { hd := o.hd, ty := o.ty, lrl := o.lrl, lrr := o.lrr }
  | .mma o => some { hd := o.hd }
  | .mmasp o => some { hd := o.hd }
  | .mzero o => some { hd := o.hd }
  | .macci o => some { hd := o.hd }
  | .mout o => some { hd := o.hd, ty := o.ty, rm := o.rm, lrl := o.lrl, lrr := o.lrr }
  | .mswap o => some { hd := o.hd }
  | .mscls o => some { hd := o.hd }
  | .lds o => some { hd := o.hd, ty := o.ty }
  | .sts o => some { hd := o.hd, ty := o.ty }
  | .ldb o => some { hd := o.hd, ty := o.ty }
  | .stb o => some { hd := o.hd, ty := o.ty }
  | .ldv o => some { hd := o.hd, ty := o.ty }
  | .stv o => some { hd := o.hd, ty := o.ty }
  | .vrecl o => some { hd := o.hd, ty := o.ty }
  | .wfa o => some { hd := o.hd, ty := o.ty }
  | .uwait o => some { hd := o.hd, ty := o.ty }
  | .ldg o => some { hd := o.hd, ty := o.ty }
  | .stg o => some { hd := o.hd, ty := o.ty }
  | .upd o => some { hd := o.hd, ty := o.ty }
  | .updf o => some { hd := o.hd, ty := o.ty }
  | .ucas o => some { hd := o.hd, ty := o.ty }
  | .fence o => some { hd := o.hd, ty := o.ty, lrl := o.lrl, lrr := o.lrr }
  | .bara o => some { hd := o.hd, ty := o.ty }
  | .barw o => some { hd := o.hd, ty := o.ty }
  | .apset o => some { hd := o.hd, gZero := o.ga == 0 && o.gb == 0 }
  | .apcpy o => some { hd := o.hd, gZero := o.ga == 0 && o.gb == 0 }
  | .apld o => some { hd := o.hd, gZero := o.ga == 0 && o.gb == 0 }
  | .apclr o => some { hd := o.hd, gZero := o.ga == 0 && o.gb == 0 }
  | .sbind o => some { hd := o.hd, gZero := o.ga == 0 && o.gb == 0 }
  | .sbindw o => some { hd := o.hd, gZero := o.ga == 0 && o.gb == 0 }
  | .sgath o => some { hd := o.hd, gZero := o.ga == 0 && o.gb == 0 }
  | .sscat o => some { hd := o.hd, gZero := o.ga == 0 && o.gb == 0 }
  | .supd o => some { hd := o.hd, gZero := o.ga == 0 && o.gb == 0 }
  | .scopy o => some { hd := o.hd, gZero := o.ga == 0 && o.gb == 0 }
  | .sscl o => some { hd := o.hd, gZero := o.ga == 0 && o.gb == 0 }
  | .swait o => some { hd := o.hd, gZero := o.ga == 0 && o.gb == 0 }
  | .sstat o => some { hd := o.hd, gZero := o.ga == 0 && o.gb == 0 }
  | .skill o => some { hd := o.hd, gZero := o.ga == 0 && o.gb == 0 }
  | .sbar o => some { hd := o.hd, gZero := o.ga == 0 && o.gb == 0 }
  | .cred o => some { hd := o.hd, gZero := o.ga == 0 && o.gb == 0 }
  | .cbcst o => some { hd := o.hd, gZero := o.ga == 0 && o.gb == 0 }
  | .cagth o => some { hd := o.hd, gZero := o.ga == 0 && o.gb == 0 }
  | .cfgnx o => some { hd := o.hd, gZero := o.ga == 0 && o.gb == 0 }
  | .btok o => some { hd := o.hd, ty := o.ty, lrl := o.lrl, lrr := o.lrr }
  | .ttld o => some { hd := o.hd, gZero := o.ga == 0 && o.gb == 0 }
  | .ttldClear o => some { hd := o.hd, gZero := o.ga == 0 && o.gb == 0 }
  | .tfetch o => some { hd := o.hd, gZero := o.ga == 0 && o.gb == 0 }
  | .tevict o => some { hd := o.hd, gZero := o.ga == 0 && o.gb == 0 }
  | .tpin o => some { hd := o.hd, gZero := o.ga == 0 && o.gb == 0 }
  | .tpinUnpin o => some { hd := o.hd, gZero := o.ga == 0 && o.gb == 0 }
  | .tresStatus o => some { hd := o.hd, gZero := o.ga == 0 && o.gb == 0 }
  | .tresResume o => some { hd := o.hd, gZero := o.ga == 0 && o.gb == 0 }
  | .tresResident o => some { hd := o.hd, gZero := o.ga == 0 && o.gb == 0 }
  | .scopyk o => some { hd := o.hd, gZero := o.ga == 0 && o.gb == 0 }
  | .kopen o => some { hd := o.hd, gZero := o.ga == 0 && o.gb == 0 }
  | .kclose o => some { hd := o.hd, gZero := o.ga == 0 && o.gb == 0 }
  | .trap o => some { hd := o.hd, gZero := o.ga == 0 && o.gb == 0 }
  | .brk o => some { hd := o.hd, gZero := o.ga == 0 && o.gb == 0 }
  | .rte o => some { hd := o.hd, gZero := o.ga == 0 && o.gb == 0 }
  | .srd o => some { hd := o.hd, gZero := o.ga == 0 && o.gb == 0 }
  | .swr o => some { hd := o.hd, gZero := o.ga == 0 && o.gb == 0 }
  | .hcall o => some { hd := o.hd, gZero := o.ga == 0 && o.gb == 0 }
  | .wfi o => some { hd := o.hd, gZero := o.ga == 0 && o.gb == 0 }
  | .qpost o => some { hd := o.hd, gZero := o.ga == 0 && o.gb == 0 }
  | .qctlStatus o => some { hd := o.hd, gZero := o.ga == 0 && o.gb == 0 }
  | .qctlPrio o => some { hd := o.hd, gZero := o.ga == 0 && o.gb == 0 }
  | .qctlEnable o => some { hd := o.hd, gZero := o.ga == 0 && o.gb == 0 }
  | .qctlDisable o => some { hd := o.hd, gZero := o.ga == 0 && o.gb == 0 }
  | .qctlFlush o => some { hd := o.hd, gZero := o.ga == 0 && o.gb == 0 }
  | .qctlAssign o => some { hd := o.hd, gZero := o.ga == 0 && o.gb == 0 }
  | .placeLaunch o => some { hd := o.hd, gZero := o.ga == 0 && o.gb == 0 }
  | .placeMove o => some { hd := o.hd, gZero := o.ga == 0 && o.gb == 0 }
  | .placeCompact o => some { hd := o.hd, gZero := o.ga == 0 && o.gb == 0 }
  | .placeDiscard o => some { hd := o.hd, gZero := o.ga == 0 && o.gb == 0 }
  | .psnapCut o => some { hd := o.hd, gZero := o.ga == 0 && o.gb == 0 }
  | .psnapMarker o => some { hd := o.hd, gZero := o.ga == 0 && o.gb == 0 }
  | .prest o => some { hd := o.hd, gZero := o.ga == 0 && o.gb == 0 }
  | .plsw o => some { hd := o.hd, gZero := o.ga == 0 && o.gb == 0 }
  | .rinvPages o => some { hd := o.hd, gZero := o.ga == 0 && o.gb == 0 }
  | .rinvRange o => some { hd := o.hd, gZero := o.ga == 0 && o.gb == 0 }
  | .rinvContext o => some { hd := o.hd, gZero := o.ga == 0 && o.gb == 0 }
  | .rinvPart o => some { hd := o.hd, gZero := o.ga == 0 && o.gb == 0 }
  | .xinvFrames o => some { hd := o.hd, gZero := o.ga == 0 && o.gb == 0 }
  | .xinvPart o => some { hd := o.hd, gZero := o.ga == 0 && o.gb == 0 }
  | .kshrAssign o => some { hd := o.hd, gZero := o.ga == 0 && o.gb == 0 }
  | .kshrBegin o => some { hd := o.hd, gZero := o.ga == 0 && o.gb == 0 }
  | .kshrFinish o => some { hd := o.hd, gZero := o.ga == 0 && o.gb == 0 }
  | .kshrErase o => some { hd := o.hd, gZero := o.ga == 0 && o.gb == 0 }
  | .mtrdRead o => some { hd := o.hd, gZero := o.ga == 0 && o.gb == 0 }
  | .mtrdRecord o => some { hd := o.hd, gZero := o.ga == 0 && o.gb == 0 }
  | .mtrdQuote o => some { hd := o.hd, gZero := o.ga == 0 && o.gb == 0 }
  | .dbgMtdata o => some { hd := o.hd, gZero := o.ga == 0 && o.gb == 0 }
  | .trapHAck _ _ => none
  | .privWake _ _ => none
  | .shepPaddock _ _ => none
  | .shepPlown _ _ => none
  | .shepPlmap _ _ => none
  | .schedCgtab _ _ => none
  | .xlS2base _ _ => none
  | .partCtlOpen _ => none
  | .partCtlStart _ => none
  | .partCtlStop _ => none
  | .partFtag _ _ => none
  | .controlBlockEntry _ => none
  | .controlBlockCommit _ => none
  | .recordStart _ _ _ => none
  | .recordCommit _ _ _ => none
  | .roundBoundary _ => none
  | .roundResume _ => none
  | .roundVoid _ => none
  | .tokenArrival _ => none
  | .bankOwnershipTokenArrival _ _ _ => none
  | .fillPortToken _ _ _ => none
  | .reconfigTokenPass _ _ => none
  | .lengthMismatch _ _ _ _ => none
  | .stallWatchdog _ => none
  | .operatorJoin _ _ _ => none
  | .operatorMerge _ _ _ => none
  | .operatorSplay _ _ _ => none
  | .operatorZip _ _ _ => none
  | .operatorUnzip _ _ _ => none
  | .operatorScan _ _ _ => none
  | .operatorReduce _ _ _ => none
  | .operatorCompact _ _ _ => none
  | .operatorQuant _ _ _ => none
  | .operatorDequant _ _ _ => none
  | .operatorTranspose _ _ _ => none
  | .scoreboardCommandStart _ _ => none
  | .streamFetch _ _ => none
  | .streamDeliver _ _ => none
  | .streamFetchFaultRaise _ _ => none
  | .streamOutputStage _ _ => none
  | .gatherIndexToken _ _ => none
  | .scatterIndexToken _ _ => none
  | .updateIndexToken _ _ => none
  | .copyComplete _ => none
  | .copyFault _ => none
  | .collectiveComplete _ _ => none
  | .teMarkerReport => none
  | .teFetchAction _ _ => none
  | .teEvictAction _ _ => none
  | .teFillComplete _ _ => none
  | .teDrainComplete _ _ => none
  | .dispatchDecision => none
  | .dependenceReread _ => none
  | .queuePromotion _ => none
  | .install => none
  | .restoreSourcesResume _ => none
  | .instanceEnd _ => none
  | .shepherdMove _ => none
  | .compactTimeout _ => none
  | .snapshotCut _ => none
  | .snapshotMarkerArrival _ _ => none
  | .snapshotImageWrite _ => none
  | .planeSwitch _ => none
  | .edgeDepthApply _ _ _ => none
  | .trapEntry _ => none
  | .hQueueTake => none
  | .eventRingWrite _ => none
  | .eventRingAck _ _ => none
  | .wfiTimeout _ => none
  | .clearLine _ _ => none
  | .memoryLineRead _ => none
  | .memoryLineWrite _ => none
  | .bandSample _ => none
  | .hbmGroupRetrain _ => none
  | .patrolPassComplete _ => none
  | .governorDecision _ => none
  | .meterPeriodicRecord _ => none
  | .kshrBeginServe => none
  | .kshrFinishServe => none
  | .mtrdRecordServe => none
  | .mtrdQuoteServe => none
  | .boot => none
  | .powerLoss => none
  | .mgmtOpen _ => none
  | .mgmtConfirm _ => none
  | .mgmtClose _ => none
  | .mgmtLock _ => none
  | .mgmtRenew _ => none
  | .mgmtUnlock _ => none
  | .mgmtWrite _ => none
  | .mgmtActivate _ => none
  | .mgmtSetkeys _ => none
  | .mgmtCool _ => none
  | .mgmtWarm _ => none
  | .mgmtExport _ => none
  | .mgmtSetival _ => none
  | .mgmtReset _ => none
  | .mgmtPowerOff _ => none
  | .lockLeaseExpiry _ => none
  | .sessionTimeout _ => none
  | .peerReadRequest _ => none
  | .peerReadData _ => none
  | .peerWrite _ => none
  | .peerWriteAck _ => none
  | .peerUpdate _ => none
  | .peerCollective _ => none
  | .peerTokenData _ => none
  | .peerCreditReturn _ => none
  | .peerReservedFlit _ => none
  | .linkDown _ => none
  | .t2ReadData _ => none
  | .t2WriteAck _ => none
  | .t2CreditReturn _ => none
  | .t2ReservedFlit _ => none
  | .rdmaWriteInbound _ => none
  | .rdmaReadInbound _ => none
  | .rdmaSendInbound _ => none
  | .roceUnsupportedRequest _ => none
  | .retreatRowRefreshComplete => none
  | .roceResponseInbound _ => none
  | .priorityFlowControlFrame _ _ _ => none
  | .congestionNotificationPacket _ => none
  | .flitAcknowledgement _ _ => none

/-- The word is legal in a block of mode `m` (R97). -/
def Instr.legalIn (m : BlkMode) (i : Instr) : Bool :=
  match i.common with
  | some c => c.ok m (i.row m) && i.fieldsOk m
  | none => false

end Sys2Proof
end

