-- ==== Sys2Proof/WellFormed.lean ====
section
/-! DEFINITION. When an instruction is well formed: its word is legal in a block of some mode (R84,
R85, R96, R97). Conditions that need the whole block, such as the index of a target against NINS, are
checked when a block is entered or installed (R97, R98, R99). -/

namespace Sys2Proof

/-- The word is legal in a block of some mode. -/
def Instr.wellFormed (i : Instr) : Bool := i.legalIn .element || i.legalIn .control

end Sys2Proof
end

