-- ==== Sys2Proof/Decode.lean ====
section
/-! DEFINITION. The decoder and the encoder of instruction words (R79 to R95). Decoding is total on
any 64 bits and rejects by name. -/

namespace Sys2Proof

/-- Why a word is no instruction (R97). -/
inductive DecodeError
  /-- OP is 0x00, 0xFF or reserved. -/
  | reservedOpcode
  /-- PM is 11. -/
  | reservedPm
  /-- A target breaks R83. -/
  | reservedTarget
  /-- A field holds a reserved code or a reserved bit is set. -/
  | reservedField
  /-- A field value, or a combination of values, is one the entry does not accept in any mode. -/
  | unaccepted
  deriving DecidableEq, Repr

/-- The formats (R86 to R92). -/
inductive Format
  | g | i | m | x | c | s | y
  deriving DecidableEq, Repr

/-- The fields of a word, by format. -/
inductive WordOp
  | g (o : OpG)
  | i (o : OpI)
  | m (o : OpM)
  | x (o : OpX)
  | c (o : OpC)
  | s (o : OpS)
  | y (o : OpY)
  deriving DecidableEq, Repr

/-! ### Codes of the fields -/

/-- RM of its code; 6 and 7 are reserved (R57). -/
def Rm.ofCode (x : BitVec 3) : Option Rm :=
  match x.toNat with
  | 0 => some .rne | 1 => some .rtz | 2 => some .rdn | 3 => some .rup | 4 => some .rna
  | 5 => some .rsto | _ => none

/-- Code of RM (R57). -/
def Rm.bits : Rm → BitVec 3
  | .rne => 0 | .rtz => 1 | .rdn => 2 | .rup => 3 | .rna => 4 | .rsto => 5

/-- PM of its code; 11 is reserved (R82). -/
def Pm.ofCode (x : BitVec 2) : Option Pm :=
  match x.toNat with
  | 0 => some .none | 1 => some .onTrue | 2 => some .onFalse | _ => Option.none

/-- Code of PM (R82). -/
def Pm.bits : Pm → BitVec 2
  | .none => 0 | .onTrue => 1 | .onFalse => 2

/-- A target of its 9 bits (R83). -/
def Tgt.ofCode (x : BitVec 9) : Option Tgt :=
  let idx : BitVec 7 := x.extractLsb' 0 7
  match (x.extractLsb' 7 2).toNat with
  | 0 => if idx.toNat == 0 then some .none
    else if idx.extractLsb' 4 3 == 1 then some (.out (idx.extractLsb' 0 4).toFin) else Option.none
  | 1 => some (.left idx.toFin)
  | 2 => some (.right idx.toFin)
  | _ => some (.pred idx.toFin)

/-- The 9 bits of a target (R83). -/
def Tgt.bits : Tgt → BitVec 9
  | .none => 0
  | .out k => 0#2 ++ (1#3 ++ (BitVec.ofFin (w := 4) k))
  | .left i => 1#2 ++ (BitVec.ofFin (w := 7) i)
  | .right i => 2#2 ++ (BitVec.ofFin (w := 7) i)
  | .pred i => 3#2 ++ (BitVec.ofFin (w := 7) i)

/-- The 4-bit code of TY (R52). -/
def Ty.bits (t : Ty) : BitVec 4 := BitVec.ofNat 4 t.code

/-- MODE of its code; 4 to 7 are reserved (R88). -/
def MemMode.ofCode (x : BitVec 3) : Option MemMode :=
  match x.toNat with
  | 0 => some .scalar | 1 => some .lane | 2 => some .bcast | 3 => some .strided | _ => none

/-- Code of MODE (R88). -/
def MemMode.bits : MemMode → BitVec 3
  | .scalar => 0 | .lane => 1 | .bcast => 2 | .strided => 3

/-- A matrix format of its code; 10 to 15 are reserved (R89). -/
def MFmt.ofCode (x : BitVec 4) : Option MFmt :=
  match x.toNat with
  | 0 => some .e4m3 | 1 => some .e5m2 | 2 => some .e3m2 | 3 => some .e2m3 | 4 => some .e2m1
  | 5 => some .i8 | 6 => some .i4 | 7 => some .bf16 | 8 => some .fp16 | 9 => some .fp32
  | _ => none

/-- Code of a matrix format (R89). -/
def MFmt.bits : MFmt → BitVec 4
  | .e4m3 => 0 | .e5m2 => 1 | .e3m2 => 2 | .e2m3 => 3 | .e2m1 => 4 | .i8 => 5 | .i4 => 6
  | .bf16 => 7 | .fp16 => 8 | .fp32 => 9

/-- ACC of its code; 10 and 11 are reserved (R89). -/
def AccMode.ofCode (x : BitVec 2) : Option AccMode :=
  match x.toNat with
  | 0 => some .add | 1 => some .set | _ => none

/-- Code of ACC (R89). -/
def AccMode.bits : AccMode → BitVec 2
  | .add => 0 | .set => 1

/-- A 4-bit field of which 4 to 15 are reserved (SCM and BANK, R89). -/
def low4OfCode (x : BitVec 4) : Option (Fin 4) :=
  if x.extractLsb' 2 2 == 0 then some (x.extractLsb' 0 2).toFin else none

/-- The 4 bits of SCM or BANK. -/
def low4Bits (k : Fin 4) : BitVec 4 := 0#2 ++ (BitVec.ofFin (w := 2) k)

/-! ### Fields of a word -/

/-- Bits 55:36 (R82). -/
def readHead (w : Word) : Except DecodeError Head :=
  match Pm.ofCode (w.extractLsb' 54 2), Tgt.ofCode (w.extractLsb' 45 9),
      Tgt.ofCode (w.extractLsb' 36 9) with
  | some pm, some t0, some t1 => .ok { pm := pm, t0 := t0, t1 := t1 }
  | none, _, _ => .error .reservedPm
  | _, none, _ => .error .reservedTarget
  | _, _, none => .error .reservedTarget

/-- The 28 bits OP to T1 (R82). -/
def headBits (op : Nat) (h : Head) : BitVec 28 :=
  BitVec.ofNat 8 op ++ (h.pm.bits ++ (h.t0.bits ++ h.t1.bits))

/-- Format G (R86). -/
def readG (h : Head) (w : Word) : Option OpG :=
  match Rm.ofCode (w.extractLsb' 29 3) with
  | some rm =>
    if w.extractLsb' 0 20 == 0 then
      some { hd := h, ty := Ty.ofCode (w.extractLsb' 32 4).toNat, rm := rm
             sat := w.getLsbD 28, lrl := w.getLsbD 27, lrr := w.getLsbD 26
             fn := w.extractLsb' 20 6 }
    else none
  | none => none

/-- The bits of format G (R86). -/
def bitsG (o : OpG) : BitVec 36 :=
  o.ty.bits ++ (o.rm.bits ++ (BitVec.ofBool o.sat ++ (BitVec.ofBool o.lrl ++
    (BitVec.ofBool o.lrr ++ (o.fn ++ 0#20)))))

/-- Format I (R87). -/
def readI (h : Head) (w : Word) : Option OpI :=
  if w.extractLsb' 0 8 == 0 then
    some { hd := h, ty := Ty.ofCode (w.extractLsb' 32 4).toNat, imm := w.extractLsb' 16 16
           fn := w.extractLsb' 10 6, lrl := w.getLsbD 9, lrr := w.getLsbD 8 }
  else none

/-- The bits of format I (R87). -/
def bitsI (o : OpI) : BitVec 36 :=
  o.ty.bits ++ (o.imm ++ (o.fn ++ (BitVec.ofBool o.lrl ++ (BitVec.ofBool o.lrr ++ 0#8))))

/-- Format M (R88). -/
def readM (h : Head) (w : Word) : Option OpM :=
  match MemMode.ofCode (w.extractLsb' 24 3) with
  | some md =>
    some { hd := h, ty := Ty.ofCode (w.extractLsb' 32 4).toNat
           lsid := (w.extractLsb' 27 5).toFin, mode := md, off := w.extractLsb' 8 16
           auxh := w.extractLsb' 4 4, auxl := w.extractLsb' 0 4 }
  | none => none

/-- The bits of format M (R88). -/
def bitsM (o : OpM) : BitVec 36 :=
  o.ty.bits ++ (BitVec.ofFin (w := 5) o.lsid ++ (o.mode.bits ++ (o.off ++ (o.auxh ++ o.auxl))))

/-- Format X (R89). -/
def readX (h : Head) (w : Word) : Option OpX :=
  match MFmt.ofCode (w.extractLsb' 32 4), MFmt.ofCode (w.extractLsb' 28 4),
      AccMode.ofCode (w.extractLsb' 26 2), low4OfCode (w.extractLsb' 16 4),
      low4OfCode (w.extractLsb' 12 4) with
  | some a, some b, some acc, some scm, some bank =>
    if w.extractLsb' 2 2 == 0 then
      some { hd := h, afmt := a, bfmt := b, acc := acc, ks := w.extractLsb' 20 6, scm := scm
             bank := bank, ba := (w.extractLsb' 8 4).toFin, bb := (w.extractLsb' 4 4).toFin
             tra := w.getLsbD 0, trb := w.getLsbD 1 }
    else none
  | _, _, _, _, _ => none

/-- The bits of format X (R89). -/
def bitsX (o : OpX) : BitVec 36 :=
  o.afmt.bits ++ (o.bfmt.bits ++ (o.acc.bits ++ (o.ks ++ (low4Bits o.scm ++ (low4Bits o.bank ++
    (BitVec.ofFin (w := 4) o.ba ++ (BitVec.ofFin (w := 4) o.bb ++ (0#2 ++
      (BitVec.ofBool o.trb ++ BitVec.ofBool o.tra)))))))))

/-- Format C (R90). -/
def readC (h : Head) (w : Word) : Option OpC :=
  if w.extractLsb' 22 2 == 0 then
    some { hd := h, ga := (w.extractLsb' 31 5).toFin, gb := (w.extractLsb' 26 5).toFin
           exg := (w.extractLsb' 24 2).toFin, off := w.extractLsb' 0 22 }
  else none

/-- The bits of format C (R90). -/
def bitsC (o : OpC) : BitVec 36 :=
  BitVec.ofFin (w := 5) o.ga ++ (BitVec.ofFin (w := 5) o.gb ++
    (BitVec.ofFin (w := 2) o.exg ++ (0#2 ++ o.off)))

/-- Format S (R91). -/
def readS (h : Head) (w : Word) : Option OpS :=
  some { hd := h, vp := (w.extractLsb' 30 6).toFin, ap := (w.extractLsb' 26 4).toFin
         ga := (w.extractLsb' 21 5).toFin, gb := (w.extractLsb' 16 5).toFin
         sub := w.extractLsb' 8 8, aux := w.extractLsb' 0 8 }

/-- The bits of format S (R91). -/
def bitsS (o : OpS) : BitVec 36 :=
  BitVec.ofFin (w := 6) o.vp ++ (BitVec.ofFin (w := 4) o.ap ++ (BitVec.ofFin (w := 5) o.ga ++
    (BitVec.ofFin (w := 5) o.gb ++ (o.sub ++ o.aux))))

/-- Format Y (R92). -/
def readY (h : Head) (w : Word) : Option OpY :=
  some { hd := h, sub := w.extractLsb' 30 6, ga := (w.extractLsb' 25 5).toFin
         gb := (w.extractLsb' 20 5).toFin, imm := w.extractLsb' 0 20 }

/-- The bits of format Y (R92). -/
def bitsY (o : OpY) : BitVec 36 :=
  o.sub ++ (BitVec.ofFin (w := 5) o.ga ++ (BitVec.ofFin (w := 5) o.gb ++ o.imm))

/-! ### Opcodes -/

/-- The format of an opcode; a reserved or illegal one has none (R95, R96). -/
def formatOf (op : Nat) : Option Format :=
  match op with
  | 1 | 5 | 6 | 7 | 8 | 9 | 13 | 32 | 34 | 35 | 36 | 37 | 38 | 39 => some .g
  | 40 | 41 | 42 | 43 | 44 | 45 | 46 | 47 | 48 | 49 | 50 | 51 | 52 | 53 => some .g
  | 54 | 55 | 56 | 57 | 58 | 59 | 60 | 61 | 62 | 63 | 72 | 73 | 74 | 75 => some .g
  | 76 | 77 | 78 | 79 | 80 | 81 | 82 | 83 | 84 | 85 | 86 | 87 | 88 | 89 => some .g
  | 90 | 91 | 92 | 93 | 94 | 95 | 96 | 105 | 108 | 109 | 110 | 111 | 112 | 113 => some .g
  | 114 | 115 | 125 => some .g
  | 2 | 3 | 4 | 10 | 11 | 12 | 14 | 33 | 64 | 65 | 66 | 104 | 106 | 107 => some .i
  | 120 | 148 | 185 => some .i
  | 128 | 129 | 130 | 131 | 132 | 133 | 134 | 135 | 136 | 137 | 144 | 145 | 146 | 147 => some .m
  | 149 | 150 => some .m
  | 121 | 122 | 123 | 124 | 126 | 127 => some .x
  | 16 | 17 | 18 | 19 | 20 | 21 | 22 | 23 => some .c
  | 160 | 161 | 162 | 163 | 164 | 165 | 166 | 167 | 168 | 169 | 170 | 171 | 172 | 173 => some .s
  | 174 | 176 | 177 | 178 | 184 | 192 | 193 | 194 | 195 | 196 | 200 | 201 | 202 => some .s
  | 208 | 209 | 210 | 211 | 212 | 213 | 214 | 216 | 217 | 218 | 219 | 220 | 221 | 224 => some .y
  | 225 | 232 | 233 => some .y
  | _ => none

/-- The opcode and the fields of an instruction read from a word; other steps have none (R95). -/
def Instr.parts : Instr → Option (Nat × WordOp)
  | .nop o => some (1, .g o)
  | .rdp o => some (2, .i o)
  | .movi o => some (3, .i o)
  | .movh o => some (4, .i o)
  | .fan o => some (5, .g o)
  | .null o => some (6, .g o)
  | .drop o => some (7, .g o)
  | .gate o => some (8, .g o)
  | .sel o => some (9, .g o)
  | .lcnt o => some (10, .i o)
  | .lidx o => some (11, .i o)
  | .pois o => some (12, .i o)
  | .poisc o => some (13, .g o)
  | .mark o => some (14, .i o)
  | .route o => some (16, .c o)
  | .bro o => some (17, .c o)
  | .brx o => some (18, .c o)
  | .callb o => some (19, .c o)
  | .retb o => some (20, .c o)
  | .halt o => some (21, .c o)
  | .rdg o => some (22, .c o)
  | .wrg o => some (23, .c o)
  | .add o => some (32, .g o)
  | .addi o => some (33, .i o)
  | .sub o => some (34, .g o)
  | .adds o => some (35, .g o)
  | .subs o => some (36, .g o)
  | .neg o => some (37, .g o)
  | .abs o => some (38, .g o)
  | .mul o => some (39, .g o)
  | .mulh o => some (40, .g o)
  | .mulhw o => some (41, .g o)
  | .madd o => some (42, .g o)
  | .div o => some (43, .g o)
  | .divw o => some (44, .g o)
  | .rem o => some (45, .g o)
  | .remw o => some (46, .g o)
  | .lea o => some (47, .g o)
  | .min o => some (48, .g o)
  | .max o => some (49, .g o)
  | .minw o => some (50, .g o)
  | .maxw o => some (51, .g o)
  | .and o => some (52, .g o)
  | .or o => some (53, .g o)
  | .xor o => some (54, .g o)
  | .andn o => some (55, .g o)
  | .shl o => some (56, .g o)
  | .shr o => some (57, .g o)
  | .sra o => some (58, .g o)
  | .rotl o => some (59, .g o)
  | .clz o => some (60, .g o)
  | .popc o => some (61, .g o)
  | .brev o => some (62, .g o)
  | .cmp o => some (63, .g o)
  | .cmpi o => some (64, .i o)
  | .bfx o => some (65, .i o)
  | .bfi o => some (66, .i o)
  | .fadd o => some (72, .g o)
  | .fsub o => some (73, .g o)
  | .fmul o => some (74, .g o)
  | .ffma o => some (75, .g o)
  | .fmin o => some (76, .g o)
  | .fmax o => some (77, .g o)
  | .famax o => some (96, .g o)
  | .fabs o => some (78, .g o)
  | .fneg o => some (79, .g o)
  | .fcpys o => some (80, .g o)
  | .fcmp o => some (81, .g o)
  | .fclass o => some (82, .g o)
  | .fcvt o => some (83, .g o)
  | .frnd o => some (84, .g o)
  | .frcp o => some (85, .g o)
  | .frsq o => some (86, .g o)
  | .fsqrt o => some (87, .g o)
  | .fexp2 o => some (88, .g o)
  | .flog2 o => some (89, .g o)
  | .fsint o => some (90, .g o)
  | .fcost o => some (91, .g o)
  | .ftanh o => some (92, .g o)
  | .fscale o => some (93, .g o)
  | .fdot2 o => some (94, .g o)
  | .fdot4 o => some (95, .g o)
  | .lswp o => some (104, .i o)
  | .lperm o => some (105, .g o)
  | .lbcst o => some (106, .i o)
  | .lsld o => some (107, .i o)
  | .lred o => some (108, .g o)
  | .lscan o => some (109, .g o)
  | .lvote o => some (110, .g o)
  | .lmsk o => some (115, .g o)
  | .lcmpr o => some (111, .g o)
  | .lexpd o => some (112, .g o)
  | .lpack o => some (113, .g o)
  | .lunpk o => some (114, .g o)
  | .mbind o => some (120, .i o)
  | .mma o => some (121, .x o)
  | .mmasp o => some (122, .x o)
  | .mzero o => some (123, .x o)
  | .macci o => some (124, .x o)
  | .mout o => some (125, .g o)
  | .mswap o => some (126, .x o)
  | .mscls o => some (127, .x o)
  | .lds o => some (128, .m o)
  | .sts o => some (129, .m o)
  | .ldb o => some (130, .m o)
  | .stb o => some (131, .m o)
  | .ldv o => some (132, .m o)
  | .stv o => some (133, .m o)
  | .vrecl o => some (134, .m o)
  | .wfa o => some (135, .m o)
  | .uwait o => some (147, .m o)
  | .ldg o => some (136, .m o)
  | .stg o => some (137, .m o)
  | .upd o => some (144, .m o)
  | .updf o => some (145, .m o)
  | .ucas o => some (146, .m o)
  | .fence o => some (148, .i o)
  | .bara o => some (149, .m o)
  | .barw o => some (150, .m o)
  | .apset o => some (160, .s o)
  | .apcpy o => some (161, .s o)
  | .apld o => some (162, .s o)
  | .apclr o => some (163, .s o)
  | .sbind o => some (164, .s o)
  | .sbindw o => some (165, .s o)
  | .sgath o => some (166, .s o)
  | .sscat o => some (167, .s o)
  | .supd o => some (168, .s o)
  | .scopy o => some (169, .s o)
  | .sscl o => some (170, .s o)
  | .swait o => some (171, .s o)
  | .sstat o => some (172, .s o)
  | .skill o => some (173, .s o)
  | .sbar o => some (174, .s o)
  | .cred o => some (176, .s o)
  | .cbcst o => some (177, .s o)
  | .cagth o => some (178, .s o)
  | .cfgnx o => some (184, .s o)
  | .btok o => some (185, .i o)
  | .ttld o => some (192, .s o)
  | .ttldClear o => some (192, .s o)
  | .tfetch o => some (193, .s o)
  | .tevict o => some (194, .s o)
  | .tpin o => some (195, .s o)
  | .tpinUnpin o => some (195, .s o)
  | .tresStatus o => some (196, .s o)
  | .tresResume o => some (196, .s o)
  | .tresResident o => some (196, .s o)
  | .scopyk o => some (200, .s o)
  | .kopen o => some (201, .s o)
  | .kclose o => some (202, .s o)
  | .trap o => some (208, .y o)
  | .brk o => some (209, .y o)
  | .rte o => some (210, .y o)
  | .srd o => some (211, .y o)
  | .swr o => some (212, .y o)
  | .hcall o => some (213, .y o)
  | .wfi o => some (214, .y o)
  | .qpost o => some (216, .y o)
  | .qctlStatus o => some (217, .y o)
  | .qctlPrio o => some (217, .y o)
  | .qctlEnable o => some (217, .y o)
  | .qctlDisable o => some (217, .y o)
  | .qctlFlush o => some (217, .y o)
  | .qctlAssign o => some (217, .y o)
  | .placeLaunch o => some (218, .y o)
  | .placeMove o => some (218, .y o)
  | .placeCompact o => some (218, .y o)
  | .placeDiscard o => some (218, .y o)
  | .psnapCut o => some (219, .y o)
  | .psnapMarker o => some (219, .y o)
  | .prest o => some (220, .y o)
  | .plsw o => some (221, .y o)
  | .rinvPages o => some (224, .y o)
  | .rinvRange o => some (224, .y o)
  | .rinvContext o => some (224, .y o)
  | .rinvPart o => some (224, .y o)
  | .xinvFrames o => some (225, .y o)
  | .xinvPart o => some (225, .y o)
  | .kshrAssign o => some (232, .y o)
  | .kshrBegin o => some (232, .y o)
  | .kshrFinish o => some (232, .y o)
  | .kshrErase o => some (232, .y o)
  | .mtrdRead o => some (233, .y o)
  | .mtrdRecord o => some (233, .y o)
  | .mtrdQuote o => some (233, .y o)
  | .dbgMtdata o => some (211, .y o)
  | .trapHAck _ _ => none
  | .privWake _ _ => none
  | .shepPaddock _ _ => none
  | .shepPlown _ _ => none
  | .shepPlmap _ _ => none
  | .schedCgtab _ _ => none
  | .xlS2base _ _ => none
  | .partCtlOpen _ => none
  | .partCtlStart _ => none
  | .partCtlStop _ => none
  | .partFtag _ _ => none
  | .controlBlockEntry _ => none
  | .controlBlockCommit _ => none
  | .recordStart _ _ _ => none
  | .recordCommit _ _ _ => none
  | .roundBoundary _ => none
  | .roundResume _ => none
  | .roundVoid _ => none
  | .tokenArrival _ => none
  | .bankOwnershipTokenArrival _ _ _ => none
  | .fillPortToken _ _ _ => none
  | .reconfigTokenPass _ _ => none
  | .lengthMismatch _ _ _ _ => none
  | .stallWatchdog _ => none
  | .operatorJoin _ _ _ => none
  | .operatorMerge _ _ _ => none
  | .operatorSplay _ _ _ => none
  | .operatorZip _ _ _ => none
  | .operatorUnzip _ _ _ => none
  | .operatorScan _ _ _ => none
  | .operatorReduce _ _ _ => none
  | .operatorCompact _ _ _ => none
  | .operatorQuant _ _ _ => none
  | .operatorDequant _ _ _ => none
  | .operatorTranspose _ _ _ => none
  | .scoreboardCommandStart _ _ => none
  | .streamFetch _ _ => none
  | .streamDeliver _ _ => none
  | .streamFetchFaultRaise _ _ => none
  | .streamOutputStage _ _ => none
  | .gatherIndexToken _ _ => none
  | .scatterIndexToken _ _ => none
  | .updateIndexToken _ _ => none
  | .copyComplete _ => none
  | .copyFault _ => none
  | .collectiveComplete _ _ => none
  | .teMarkerReport => none
  | .teFetchAction _ _ => none
  | .teEvictAction _ _ => none
  | .teFillComplete _ _ => none
  | .teDrainComplete _ _ => none
  | .dispatchDecision => none
  | .dependenceReread _ => none
  | .queuePromotion _ => none
  | .install => none
  | .restoreSourcesResume _ => none
  | .instanceEnd _ => none
  | .shepherdMove _ => none
  | .compactTimeout _ => none
  | .snapshotCut _ => none
  | .snapshotMarkerArrival _ _ => none
  | .snapshotImageWrite _ => none
  | .planeSwitch _ => none
  | .edgeDepthApply _ _ _ => none
  | .trapEntry _ => none
  | .hQueueTake => none
  | .eventRingWrite _ => none
  | .eventRingAck _ _ => none
  | .wfiTimeout _ => none
  | .clearLine _ _ => none
  | .memoryLineRead _ => none
  | .memoryLineWrite _ => none
  | .bandSample _ => none
  | .hbmGroupRetrain _ => none
  | .patrolPassComplete _ => none
  | .governorDecision _ => none
  | .meterPeriodicRecord _ => none
  | .kshrBeginServe => none
  | .kshrFinishServe => none
  | .mtrdRecordServe => none
  | .mtrdQuoteServe => none
  | .boot => none
  | .powerLoss => none
  | .mgmtOpen _ => none
  | .mgmtConfirm _ => none
  | .mgmtClose _ => none
  | .mgmtLock _ => none
  | .mgmtRenew _ => none
  | .mgmtUnlock _ => none
  | .mgmtWrite _ => none
  | .mgmtActivate _ => none
  | .mgmtSetkeys _ => none
  | .mgmtCool _ => none
  | .mgmtWarm _ => none
  | .mgmtExport _ => none
  | .mgmtSetival _ => none
  | .mgmtReset _ => none
  | .mgmtPowerOff _ => none
  | .lockLeaseExpiry _ => none
  | .sessionTimeout _ => none
  | .peerReadRequest _ => none
  | .peerReadData _ => none
  | .peerWrite _ => none
  | .peerWriteAck _ => none
  | .peerUpdate _ => none
  | .peerCollective _ => none
  | .peerTokenData _ => none
  | .peerCreditReturn _ => none
  | .peerReservedFlit _ => none
  | .linkDown _ => none
  | .t2ReadData _ => none
  | .t2WriteAck _ => none
  | .t2CreditReturn _ => none
  | .t2ReservedFlit _ => none
  | .rdmaWriteInbound _ => none
  | .rdmaReadInbound _ => none
  | .rdmaSendInbound _ => none
  | .roceUnsupportedRequest _ => none
  | .retreatRowRefreshComplete => none
  | .roceResponseInbound _ => none
  | .priorityFlowControlFrame _ _ _ => none
  | .congestionNotificationPacket _ => none
  | .flitAcknowledgement _ _ => none

/-- The instruction of a format-G opcode (R95). -/
def ofG (op : Nat) (o : OpG) : Option Instr :=
  match op with
  | 1 => some (.nop o)
  | 5 => some (.fan o)
  | 6 => some (.null o)
  | 7 => some (.drop o)
  | 8 => some (.gate o)
  | 9 => some (.sel o)
  | 13 => some (.poisc o)
  | 32 => some (.add o)
  | 34 => some (.sub o)
  | 35 => some (.adds o)
  | 36 => some (.subs o)
  | 37 => some (.neg o)
  | 38 => some (.abs o)
  | 39 => some (.mul o)
  | 40 => some (.mulh o)
  | 41 => some (.mulhw o)
  | 42 => some (.madd o)
  | 43 => some (.div o)
  | 44 => some (.divw o)
  | 45 => some (.rem o)
  | 46 => some (.remw o)
  | 47 => some (.lea o)
  | 48 => some (.min o)
  | 49 => some (.max o)
  | 50 => some (.minw o)
  | 51 => some (.maxw o)
  | 52 => some (.and o)
  | 53 => some (.or o)
  | 54 => some (.xor o)
  | 55 => some (.andn o)
  | 56 => some (.shl o)
  | 57 => some (.shr o)
  | 58 => some (.sra o)
  | 59 => some (.rotl o)
  | 60 => some (.clz o)
  | 61 => some (.popc o)
  | 62 => some (.brev o)
  | 63 => some (.cmp o)
  | 72 => some (.fadd o)
  | 73 => some (.fsub o)
  | 74 => some (.fmul o)
  | 75 => some (.ffma o)
  | 76 => some (.fmin o)
  | 77 => some (.fmax o)
  | 78 => some (.fabs o)
  | 79 => some (.fneg o)
  | 80 => some (.fcpys o)
  | 81 => some (.fcmp o)
  | 82 => some (.fclass o)
  | 83 => some (.fcvt o)
  | 84 => some (.frnd o)
  | 85 => some (.frcp o)
  | 86 => some (.frsq o)
  | 87 => some (.fsqrt o)
  | 88 => some (.fexp2 o)
  | 89 => some (.flog2 o)
  | 90 => some (.fsint o)
  | 91 => some (.fcost o)
  | 92 => some (.ftanh o)
  | 93 => some (.fscale o)
  | 94 => some (.fdot2 o)
  | 95 => some (.fdot4 o)
  | 96 => some (.famax o)
  | 105 => some (.lperm o)
  | 108 => some (.lred o)
  | 109 => some (.lscan o)
  | 110 => some (.lvote o)
  | 111 => some (.lcmpr o)
  | 112 => some (.lexpd o)
  | 113 => some (.lpack o)
  | 114 => some (.lunpk o)
  | 115 => some (.lmsk o)
  | 125 => some (.mout o)
  | _ => none

/-- The instruction of a format-I opcode (R95). -/
def ofI (op : Nat) (o : OpI) : Option Instr :=
  match op with
  | 2 => some (.rdp o)
  | 3 => some (.movi o)
  | 4 => some (.movh o)
  | 10 => some (.lcnt o)
  | 11 => some (.lidx o)
  | 12 => some (.pois o)
  | 14 => some (.mark o)
  | 33 => some (.addi o)
  | 64 => some (.cmpi o)
  | 65 => some (.bfx o)
  | 66 => some (.bfi o)
  | 104 => some (.lswp o)
  | 106 => some (.lbcst o)
  | 107 => some (.lsld o)
  | 120 => some (.mbind o)
  | 148 => some (.fence o)
  | 185 => some (.btok o)
  | _ => none

/-- The instruction of a format-M opcode (R95). -/
def ofM (op : Nat) (o : OpM) : Option Instr :=
  match op with
  | 128 => some (.lds o)
  | 129 => some (.sts o)
  | 130 => some (.ldb o)
  | 131 => some (.stb o)
  | 132 => some (.ldv o)
  | 133 => some (.stv o)
  | 134 => some (.vrecl o)
  | 135 => some (.wfa o)
  | 136 => some (.ldg o)
  | 137 => some (.stg o)
  | 144 => some (.upd o)
  | 145 => some (.updf o)
  | 146 => some (.ucas o)
  | 147 => some (.uwait o)
  | 149 => some (.bara o)
  | 150 => some (.barw o)
  | _ => none

/-- The instruction of a format-X opcode (R95). -/
def ofX (op : Nat) (o : OpX) : Option Instr :=
  match op with
  | 121 => some (.mma o)
  | 122 => some (.mmasp o)
  | 123 => some (.mzero o)
  | 124 => some (.macci o)
  | 126 => some (.mswap o)
  | 127 => some (.mscls o)
  | _ => none

/-- The instruction of a format-C opcode (R95). -/
def ofC (op : Nat) (o : OpC) : Option Instr :=
  match op with
  | 16 => some (.route o)
  | 17 => some (.bro o)
  | 18 => some (.brx o)
  | 19 => some (.callb o)
  | 20 => some (.retb o)
  | 21 => some (.halt o)
  | 22 => some (.rdg o)
  | 23 => some (.wrg o)
  | _ => none

/-- The instruction of a format-S opcode and SUB (R95, R268). -/
def ofS (op : Nat) (o : OpS) : Option Instr :=
  match op with
  | 160 => some (.apset o)
  | 161 => some (.apcpy o)
  | 162 => some (.apld o)
  | 163 => some (.apclr o)
  | 164 => some (.sbind o)
  | 165 => some (.sbindw o)
  | 166 => some (.sgath o)
  | 167 => some (.sscat o)
  | 168 => some (.supd o)
  | 169 => some (.scopy o)
  | 170 => some (.sscl o)
  | 171 => some (.swait o)
  | 172 => some (.sstat o)
  | 173 => some (.skill o)
  | 174 => some (.sbar o)
  | 176 => some (.cred o)
  | 177 => some (.cbcst o)
  | 178 => some (.cagth o)
  | 184 => some (.cfgnx o)
  | 192 => match o.sub.toNat with
    | 0 => some (.ttld o)
    | 1 => some (.ttldClear o)
    | _ => none
  | 193 => some (.tfetch o)
  | 194 => some (.tevict o)
  | 195 => match o.sub.toNat with
    | 0 => some (.tpin o)
    | 1 => some (.tpinUnpin o)
    | _ => none
  | 196 => match o.sub.toNat with
    | 0 => some (.tresStatus o)
    | 1 => some (.tresResume o)
    | 2 => some (.tresResident o)
    | _ => none
  | 200 => some (.scopyk o)
  | 201 => some (.kopen o)
  | 202 => some (.kclose o)
  | _ => none

/-- The instruction of a format-Y opcode and SUB (R95, R320, R352, R372, R402). An SRD of register
0xB03 is the row DBG_MTDATA (R319). -/
def ofY (op : Nat) (o : OpY) : Option Instr :=
  match op with
  | 208 => some (.trap o)
  | 209 => some (.brk o)
  | 210 => some (.rte o)
  | 211 => some (if o.imm.toNat == 0xB03 then .dbgMtdata o else .srd o)
  | 212 => some (.swr o)
  | 213 => some (.hcall o)
  | 214 => some (.wfi o)
  | 216 => some (.qpost o)
  | 217 => match o.sub.toNat with
    | 0 => some (.qctlStatus o)
    | 1 => some (.qctlPrio o)
    | 2 => some (.qctlEnable o)
    | 3 => some (.qctlDisable o)
    | 4 => some (.qctlFlush o)
    | 5 => some (.qctlAssign o)
    | _ => none
  | 218 => match o.sub.toNat with
    | 0 => some (.placeLaunch o)
    | 1 => some (.placeMove o)
    | 2 => some (.placeCompact o)
    | 3 => some (.placeDiscard o)
    | _ => none
  | 219 => match o.sub.toNat with
    | 0 | 2 => some (.psnapCut o)
    | 1 | 3 => some (.psnapMarker o)
    | _ => none
  | 220 => some (.prest o)
  | 221 => some (.plsw o)
  | 224 => match o.sub.toNat with
    | 0 => some (.rinvPages o)
    | 1 => some (.rinvRange o)
    | 2 => some (.rinvContext o)
    | 3 => some (.rinvPart o)
    | _ => none
  | 225 => match o.sub.toNat with
    | 0 => some (.xinvFrames o)
    | 1 => some (.xinvPart o)
    | _ => none
  | 232 => match o.sub.toNat with
    | 0 => some (.kshrAssign o)
    | 1 => some (.kshrBegin o)
    | 2 => some (.kshrFinish o)
    | 3 => some (.kshrErase o)
    | _ => none
  | 233 => match o.sub.toNat with
    | 0 => some (.mtrdRead o)
    | 1 => some (.mtrdRecord o)
    | 2 => some (.mtrdQuote o)
    | _ => none
  | _ => none

/-- The instruction of an opcode and its fields. -/
def ofParts (op : Nat) : WordOp → Option Instr
  | .g o => ofG op o
  | .i o => ofI op o
  | .m o => ofM op o
  | .x o => ofX op o
  | .c o => ofC op o
  | .s o => ofS op o
  | .y o => ofY op o

/-- The fields of a word by its format, or none where one is reserved. -/
def readFields (f : Format) (h : Head) (w : Word) : Option WordOp :=
  match f with
  | .g => (readG h w).map .g
  | .i => (readI h w).map .i
  | .m => (readM h w).map .m
  | .x => (readX h w).map .x
  | .c => (readC h w).map .c
  | .s => (readS h w).map .s
  | .y => (readY h w).map .y

/-- The header of a word's fields. -/
def WordOp.hd : WordOp → Head
  | .g o => o.hd
  | .i o => o.hd
  | .m o => o.hd
  | .x o => o.hd
  | .c o => o.hd
  | .s o => o.hd
  | .y o => o.hd

/-- The format of a word's fields. -/
def WordOp.format : WordOp → Format
  | .g _ => .g
  | .i _ => .i
  | .m _ => .m
  | .x _ => .x
  | .c _ => .c
  | .s _ => .s
  | .y _ => .y

/-- Bits 35:0 of a word (R86 to R92). -/
def WordOp.bits : WordOp → BitVec 36
  | .g o => bitsG o
  | .i o => bitsI o
  | .m o => bitsM o
  | .x o => bitsX o
  | .c o => bitsC o
  | .s o => bitsS o
  | .y o => bitsY o

/-- The instruction of a 64-bit word, or why there is none (R82, R95, R97). -/
def decode (w : Word) : Except DecodeError Instr :=
  let op := (w.extractLsb' 56 8).toNat
  match formatOf op with
  | none => .error .reservedOpcode
  | some f =>
    match readHead w with
    | .error e => .error e
    | .ok h =>
      match readFields f h w with
      | none => .error .reservedField
      | some p =>
        match ofParts op p with
        | none => .error .reservedField
        | some i => if i.wellFormed then .ok i else .error .unaccepted

/-- The word of an instruction read from words (R82 to R92); other steps have none. -/
def encode (i : Instr) : Option Word :=
  match i.parts with
  | some (op, p) => some (headBits op p.hd ++ p.bits)
  | none => none

/-- The instruction the decoder reads from bits numbered as the opcode table numbers them: a word is
64 bits, stored little-endian, bit 0 least significant (R7, R79) (DESIGN CHOICE, log entry 13). -/
def decodeTableWord (nbits w : Nat) : Option Instr :=
  if nbits ≤ 64 then (decode (BitVec.ofNat 64 w)).toOption else none

end Sys2Proof
end

