-- ==== Sys2Proof/Machine/Token.lean ====
section
/-! DEFINITION. Tokens (R21, R22, R63) and the state of a switch's operator slot (R232). -/

namespace Sys2Proof.Machine

/-- A token with its side bits and its poison origin word (R21, R22, R63). A control-mode value is
the token whose DATA holds it in bits 63:0. -/
structure Tok where
  data : Data := 0
  p : Bool := false
  l : Bool := false
  n : Bool := false
  s : Bool := false
  c : Bool := false
  /-- Kind of a control token (R22). -/
  ck : Nat := 0
  org : BitVec 24 := 0
  deriving DecidableEq, Repr

/-- Operator kinds (R232). -/
inductive OpKind
  | join | merge | splay | zip | unzip | scan | reduce | compact | quant | dequant | transpose
  deriving DecidableEq, Repr

/-- An operator slot: its record (R232) and the data it holds (R38, R51). -/
structure OpState where
  kind : OpKind
  in0 : Option Nat
  in1 : Option Nat
  out0 : Option Nat
  out1 : Option Nat
  /-- OPP0 to OPP7. -/
  opp : List Nat
  /-- Pairs of JOIN and MERGE taken from a token and not yet compared. -/
  buf0 : List (Nat × Nat) := []
  buf1 : List (Nat × Nat) := []
  /-- The run's token with L = 1 has been taken. -/
  end0 : Bool := false
  end1 : Bool := false
  /-- Tokens JOIN or MERGE has taken in the run; number and origin of the token last taken from each input when it
  is poisoned; and the first such of those whose data the output being built takes (R233). -/
  taken : Nat := 0
  org0 : Option (Nat × BitVec 24) := none
  org1 : Option (Nat × BitVec 24) := none
  pois0 : Option (Nat × BitVec 24) := none
  pois1 : Option (Nat × BitVec 24) := none
  /-- Emitted pairs not yet in a full token. -/
  acc0 : List (Nat × Nat) := []
  acc1 : List (Nat × Nat) := []
  /-- Origin of the poison the output that COMPACT builds carries. -/
  pois : Option (BitVec 24) := none
  /-- Tokens held: the running token of SCAN and REDUCE, the block of TRANSPOSE, QUANT or DEQUANT. -/
  toks : List Tok := []
  /-- Lanes COMPACT has gathered. -/
  lanes : List Nat := []
  /-- Tokens passed in the current phase of SPLAY, ZIP or UNZIP. -/
  count : Nat := 0
  deriving DecidableEq, Repr

end Sys2Proof.Machine
end

