-- ==== Sys2Proof/Machine/OpAlu.lean ====
section
/-! DEFINITION. One step of each stream operator as a pure function of its slot and the head tokens
of its input ports (R233 to R240). -/

namespace Sys2Proof.Machine

/-- What an operator's step does: tokens taken from its inputs, tokens sent to its outputs, and the
slot after it. -/
structure OpOut where
  st : OpState
  take0 : Bool := false
  take1 : Bool := false
  out0 : List Tok := []
  out1 : List Tok := []
  deriving DecidableEq, Repr

/-- No effect: the operator waits. -/
def opWait (o : OpState) : OpOut := { st := o }

/-- A parameter register. -/
def OpState.par (o : OpState) (k : Nat) : Nat := o.opp.getD k 0

/-- The origin of a poisoned token. -/
def Tok.origin? (t : Tok) : Option (BitVec 24) := if t.p then some t.org else none

/-- A token marked with an origin when there is one (R233). -/
def Tok.poison (t : Tok) (o : Option (BitVec 24)) : Tok :=
  match o with
  | some w => { t with p := true, org := w }
  | none => t

/-- The first of two poison origins in arrival order (R233). -/
def firstOrg (a b : Option (BitVec 24)) : Option (BitVec 24) :=
  match a with
  | some x => some x
  | none => b

/-- A control token passes to OUT0 in its place (R233). -/
def passCtl0 (o : OpState) (t : Tok) : OpOut := { st := o, take0 := true, out0 := [t] }
/-- A control token of IN1 passes to OUT0 in its place (R233). -/
def passCtl1 (o : OpState) (t : Tok) : OpOut := { st := o, take1 := true, out0 := [t] }

/-! ### JOIN and MERGE -/

/-- The non-empty pairs of a coordinate-tagged token (R209). -/
def tokPairs (t : Tok) : List (Nat × Nat) :=
  ((List.range 16).map fun i => (laneOf 32 t.data (2 * i), laneOf 32 t.data (2 * i + 1))).filter
    fun p => p.1 != 0xFFFFFFFF

/-- A token of up to 16 pairs, padded with empty pairs (R209). -/
def pairTok (ps : List (Nat × Nat)) (l : Bool) (org : Option (BitVec 24)) : Tok :=
  let lanes := ps.flatMap fun p => [p.1, p.2]
  let pad := (List.range (16 - ps.length)).flatMap fun _ => [0xFFFFFFFF, 0]
  Tok.poison { data := packLanes 32 (lanes ++ pad), l := l } org

/-- The earlier of two poisoned tokens, each by its number (R233). -/
def earliest (a b : Option (Nat × BitVec 24)) : Option (Nat × BitVec 24) :=
  match a, b with
  | some x, some y => if y.1 < x.1 then some y else some x
  | some x, none => some x
  | none, y => y

/-- Adds one triple to both outputs, sending tokens that become full; `w0` and `w1` are the poison of the tokens
whose data go to OUT0 and to OUT1 (R233, R234) (DEDUCED, log entry 56). -/
def emitTriple (o : OpState) (c x y : Nat) (w0 w1 : Option (Nat × BitVec 24)) : OpOut :=
  let a := o.acc0 ++ [(c, x)]
  let b := o.acc1 ++ [(c, y)]
  let p0 := earliest o.pois0 w0
  let p1 := earliest o.pois1 w1
  if a.length == 16 then
    { st := { o with acc0 := [], acc1 := [], pois0 := none, pois1 := none }
      out0 := [pairTok a false (p0.map (·.2))], out1 := [pairTok b false (p1.map (·.2))] }
  else { st := { o with acc0 := a, acc1 := b, pois0 := p0, pois1 := p1 } }

/-- Flush: both outputs' current tokens close with L = 1, and both inputs begin new runs (R234). -/
def flushPairs (o : OpState) : OpOut :=
  { st := { o with
      acc0 := [], acc1 := [], taken := 0, pois0 := none, pois1 := none, end0 := false, end1 := false }
    out0 := [pairTok o.acc0 true (o.pois0.map (·.2))], out1 := [pairTok o.acc1 true (o.pois1.map (·.2))] }

/-- One comparison of JOIN (`union = false`) or MERGE (R234), both next pairs being known; an empty
buffer whose run has ended stands for its end. -/
def comparePairs (union : Bool) (o : OpState) : OpOut :=
  let fill := o.par 0
  let only0 (x : Nat × Nat) (rest : List (Nat × Nat)) : OpOut :=
    let o' := { o with buf0 := rest }
    if union then emitTriple o' x.1 x.2 fill o.org0 o.org0 else { st := o' }
  let only1 (y : Nat × Nat) (rest : List (Nat × Nat)) : OpOut :=
    let o' := { o with buf1 := rest }
    if union then emitTriple o' y.1 fill y.2 o.org1 o.org1 else { st := o' }
  match o.buf0, o.buf1 with
  | [], [] => flushPairs o
  | [], y :: ys => only1 y ys
  | x :: xs, [] => only0 x xs
  | x :: xs, y :: ys =>
    if x.1 == y.1 then
      emitTriple { o with buf0 := xs, buf1 := ys } x.1 x.2 y.2 o.org0 o.org1
    else if x.1 < y.1 then only0 x xs
    else only1 y ys

/-- The slot with one more token taken, and its number and origin when it is poisoned (R233). -/
def OpState.arrive (o : OpState) (t : Tok) : OpState × Option (Nat × BitVec 24) :=
  ({ o with taken := o.taken + 1 }, t.origin?.map fun w => (o.taken, w))

/-- One step of JOIN or MERGE: a token is taken when an input has no pair and its run has not
ended; otherwise the next pairs are compared (R233, R234). -/
def stepPairs (union : Bool) (o : OpState) (h0 h1 : Option Tok) : OpOut :=
  if o.buf0.isEmpty && !o.end0 then
    match h0 with
    | none => opWait o
    | some t =>
      if t.c then passCtl0 o t
      else if t.n then { st := o, take0 := true }
      else
        let (o, w) := o.arrive t
        { st := { o with buf0 := tokPairs t, end0 := t.l, org0 := w }, take0 := true }
  else if o.buf1.isEmpty && !o.end1 then
    match h1 with
    | none => opWait o
    | some t =>
      if t.c then passCtl1 o t
      else if t.n then { st := o, take1 := true }
      else
        let (o, w) := o.arrive t
        { st := { o with buf1 := tokPairs t, end1 := t.l, org1 := w }, take1 := true }
  else comparePairs union o

/-! ### SPLAY, ZIP, UNZIP -/

/-- One copy of SPLAY (R235). -/
def stepSplay (o : OpState) (h0 : Option Tok) : OpOut :=
  match h0 with
  | none => opWait o
  | some t =>
    if t.c then passCtl0 o t
    else
      let last := o.count + 1 ≥ o.par 0
      { st := { o with count := if last then 0 else o.count + 1 }, take0 := last, out0 := [t]
        out1 := if o.out1.isSome then [t] else [] }

/-- The place after one more token of a cycle of `n0 + n1`. -/
def nextPhase (o : OpState) : OpState :=
  { o with count := if o.count + 1 ≥ o.par 0 + o.par 1 then 0 else o.count + 1 }

/-- One token of ZIP (R235). -/
def stepZip (o : OpState) (h0 h1 : Option Tok) : OpOut :=
  if o.count < o.par 0 then
    match h0 with
    | none => opWait o
    | some t =>
      if t.c then passCtl0 o t else { st := nextPhase o, take0 := true, out0 := [t] }
  else
    match h1 with
    | none => opWait o
    | some t =>
      if t.c then passCtl1 o t else { st := nextPhase o, take1 := true, out0 := [t] }

/-- One token of UNZIP (R235). -/
def stepUnzip (o : OpState) (h0 : Option Tok) : OpOut :=
  match h0 with
  | none => opWait o
  | some t =>
    if t.c then passCtl0 o t
    else if o.count < o.par 0 then { st := nextPhase o, take0 := true, out0 := [t] }
    else { st := nextPhase o, take0 := true, out1 := [t] }

/-! ### SCAN and REDUCE -/

/-- `Op(acc, x)` of R236 on whole tokens. -/
def scanOp (o : OpState) (acc x : Data) : Data :=
  let t := Ty.ofCode (o.par 1)
  let rm : Rm := match o.par 2 with
    | 0 => .rne | 1 => .rtz | 2 => .rdn | 3 => .rup | _ => .rna
  packLanes t.laneWidth ((List.range t.lanes).map fun l =>
    (redLanes t (o.par 0) rm false 0 [laneOf t.laneWidth acc l, laneOf t.laneWidth x l]).code)

/-- One token of SCAN or REDUCE (R236). -/
def stepScan (reduce : Bool) (o : OpState) (h0 : Option Tok) : OpOut :=
  match h0 with
  | none => opWait o
  | some t =>
    if t.c then passCtl0 o t
    else if t.n then { st := o, take0 := true }
    else
      let r : Tok := match o.toks with
        | [] => { t with s := false, l := t.l }
        | a :: _ => Tok.poison { data := scanOp o a.data t.data, l := t.l }
            (firstOrg a.origin? t.origin?)
      { st := { o with toks := if t.l then [] else [r] }, take0 := true
        out0 := if reduce && !t.l then [] else [r] }

/-! ### COMPACT -/

/-- One data token and one mask token of COMPACT (R237). -/
def stepCompact (o : OpState) (h0 h1 : Option Tok) : OpOut :=
  match h0, h1 with
  | some t, some m =>
    if t.c then passCtl0 o t
    else if m.c then passCtl1 o m
    else if t.n then { st := o, take0 := true }
    else if m.n then { st := o, take1 := true }
    else
      let ty := Ty.ofCode (o.par 0)
      let kept := ((List.range ty.lanes).filter (laneTrue ty m.data)).map (laneOf ty.laneWidth t.data)
      let all := o.lanes ++ kept
      let w := firstOrg o.pois (if kept.isEmpty && !t.l then none else t.origin?)
      let tok : List Nat → Bool → Tok := fun xs l =>
        Tok.poison { data := packLanes ty.laneWidth xs, l := l } w
      let n := ty.lanes
      if t.l then
        { st := { o with lanes := [], pois := none }, take0 := true, take1 := true
          out0 := if all.length > n then
              [tok (all.take n) false,
               Tok.poison { data := packLanes ty.laneWidth (all.drop n), l := true } t.origin?]
            else [tok all true] }
      else if all.length ≥ n then
        { st := { o with lanes := all.drop n, pois := if all.length > n then t.origin? else none }
          take0 := true, take1 := true, out0 := [tok (all.take n) false] }
      else { st := { o with lanes := all, pois := w }, take0 := true, take1 := true }
  | some t, none => if t.c then passCtl0 o t else opWait o
  | none, some m => if m.c then passCtl1 o m else opWait o
  | none, none => opWait o

/-! ### TRANSPOSE -/

/-- One token of TRANSPOSE; the block leaves when it is complete or cut short (R238). -/
def stepTranspose (o : OpState) (h0 : Option Tok) : OpOut :=
  match h0 with
  | none => opWait o
  | some t =>
    if t.c then passCtl0 o t
    else if t.n then { st := o, take0 := true }
    else
      let w := o.par 0
      let m := 1024 / w
      let blk := o.toks ++ [t]
      if blk.length < m && !t.l then { st := { o with toks := blk }, take0 := true }
      else
        let org := blk.foldl (fun acc x => firstOrg acc x.origin?) none
        let outs := (List.range m).map fun j =>
          Tok.poison
            { data := packLanes w ((List.range m).map fun i => laneOf w (blk.getD i {}).data j)
              l := t.l && j + 1 == m } org
        { st := { o with toks := [] }, take0 := true, out0 := outs }

/-! ### QUANT and DEQUANT -/

/-- The narrow format of OPP0 of QUANT and DEQUANT (R233). -/
def quantFmt (k : Nat) : FFmt :=
  match k with
  | 0 => .e4m3 | 1 => .e5m2 | 2 => .e3m2 | 3 => .e2m3 | _ => .e2m1

/-- `emax` of R239. -/
def quantEmax (k : Nat) : Int :=
  match k with
  | 0 => 8 | 1 => 15 | 2 => 4 | _ => 2

/-- Width of a packed element (R177). -/
def quantWidth (k : Nat) : Nat :=
  match k with
  | 0 | 1 => 8 | 2 | 3 => 6 | _ => 4

/-- `Floor(log2 |x|)` of a finite value that is not zero. -/
def Fv.floorLog2 : Fv → Int
  | .fin _ m e => (Nat.log2 m : Int) + e
  | .nan | .inf _ => 0

/-- The larger magnitude of two finite values. -/
def Fv.maxMag (a b : Fv) : Fv :=
  match a, b with
  | .fin _ m e, .fin _ n d => if dyadicGt n d m e then .fin false n d else .fin false m e
  | x, _ => x

/-- One row of QUANT: its scale byte and its 32 codes (R239). -/
def quantRow (k : Nat) (xs : List Fv) : Nat × List Nat :=
  if xs.any (fun x => x == .nan || x.isInf) then (0xFF, xs.map fun _ => 0)
  else
    let amax := xs.foldl Fv.maxMag (.fin false 0 0)
    let e : Int := if amax.isZero then 127
      else max 0 (min 254 (Fv.floorLog2 amax - quantEmax k + 127))
    (e.toNat, xs.map fun x => match x with
      | .fin n m d => (quantFmt k).roundFin .rne true 0 n m (d + 127 - e)
      | .nan | .inf _ => 0)

/-- The rows one input token of QUANT supplies (R239). -/
def quantRowsOf (o : OpState) (t : Tok) : List (List Fv) :=
  if o.par 1 == 7 then
    [(List.range 32).map fun l => FFmt.bf16.decode (laneOf 16 t.data l),
     (List.range 32).map fun l => FFmt.bf16.decode (laneOf 16 t.data (32 + l))]
  else [(List.range 32).map fun l => FFmt.fp32.decode (laneOf 32 t.data l)]

/-- 128-byte tokens cut from a number of `n` tokens. -/
def cutTokens (x : Nat) (n : Nat) : List Data :=
  (List.range n).map fun i => BitVec.ofNat 1024 (x >>> (1024 * i))

/-- The tokens of one K-group of QUANT (R239); `org` is the origin word of cause OPERATOR. -/
def quantGroup (o : OpState) (blk : List Tok) (org : BitVec 24) (l : Bool) : List Tok :=
  let k := o.par 0
  let z := quantWidth k
  let perTok := if o.par 1 == 7 then 2 else 1
  let rows := blk.flatMap (quantRowsOf o)
  let q := rows.map (quantRow k)
  let scales := q.map (·.1) ++ (List.range (128 - q.length)).map fun _ => 127
  let bad := q.any (·.1 == 0xFF)
  let body := packBitsOf z (q.flatMap (·.2))
  let inOrg : Nat → Nat → Option (BitVec 24) := fun lo hi =>
    ((List.range blk.length).foldl (fun acc i =>
      if i * perTok ≤ hi && lo < (i + 1) * perTok then
        firstOrg acc (blk.getD i {}).origin? else acc) none)
  let mark : Tok → Option (BitVec 24) → Tok := fun t w =>
    t.poison (firstOrg w (if bad then some org else none))
  mark { data := packLanes 8 scales, s := true } (inOrg 0 127) ::
    (cutTokens body (4 * z)).mapIdx fun i d =>
      mark { data := d, l := l && i + 1 == 4 * z }
        (inOrg (i * 128 / (4 * z)) ((i * 128 + 127) / (4 * z)))

/-- One input token of QUANT (R239). -/
def stepQuant (o : OpState) (org : BitVec 24) (h0 : Option Tok) : OpOut :=
  match h0 with
  | none => opWait o
  | some t =>
    if t.c then passCtl0 o t
    else if t.n then { st := o, take0 := true }
    else
      let blk := o.toks ++ [t]
      let full := blk.length * (if o.par 1 == 7 then 2 else 1) ≥ 128
      if full || t.l then
        { st := { o with toks := [] }, take0 := true, out0 := quantGroup o blk org t.l }
      else { st := { o with toks := blk }, take0 := true }

/-- The 128 tokens of one group of DEQUANT (R240). -/
def dequantGroup (o : OpState) (blk : List Tok) (l : Bool) : List Tok :=
  let k := o.par 0
  let z := quantWidth k
  let sat := (o.par 1).testBit 0
  let scaleTok : Tok := blk.getD 0 { data := packLanes 8 ((List.range 128).map fun _ => 127) }
  let body := blk.drop 1
  let sBad := (!blk.isEmpty && !scaleTok.s) || body.any (·.s)
  let bits := body.foldr (fun t acc => acc * 2 ^ 1024 + t.data.toNat) 0
  (List.range 128).map fun r =>
    let have_ := r * 4 * z < body.length * 128
    let lo := r * 4 * z / 128
    let hi := (r * 4 * z + 4 * z - 1) / 128
    let org := (scaleTok :: (body.drop lo).take (hi + 1 - lo)).foldl
      (fun acc x => firstOrg acc x.origin?) none
    let e := if sBad then 0xFF else laneOf 8 scaleTok.data r
    let lanes := (List.range 32).map fun c =>
      let x := (quantFmt k).decode ((bits >>> (r * 32 * z + c * z)) % 2 ^ z)
      if !have_ then 0
      else if e == 0xFF then 0x7FC00000
      else match x with
        | .fin n m d => FFmt.fp32.roundFin .rne sat 0 n m (d + e - 127)
        | .inf n => (FFmt.fp32.roundTo .rne sat 0 (.inf n)).code
        | .nan => 0x7FC00000
    Tok.poison { data := packLanes 32 lanes, l := l && r == 127 } org

/-- One input token of DEQUANT (R240). -/
def stepDequant (o : OpState) (h0 : Option Tok) : OpOut :=
  match h0 with
  | none => opWait o
  | some t =>
    if t.c then passCtl0 o t
    else if t.n then { st := o, take0 := true }
    else
      let blk := o.toks ++ [t]
      if blk.length ≥ 1 + 4 * quantWidth (o.par 0) || t.l then
        { st := { o with toks := [] }, take0 := true, out0 := dequantGroup o blk t.l }
      else { st := { o with toks := blk }, take0 := true }

/-- One step of an operator by its kind; `org` is the origin word of its own poison. -/
def opStep (o : OpState) (org : BitVec 24) (h0 h1 : Option Tok) : OpOut :=
  match o.kind with
  | .join => stepPairs false o h0 h1
  | .merge => stepPairs true o h0 h1
  | .splay => stepSplay o h0
  | .zip => stepZip o h0 h1
  | .unzip => stepUnzip o h0
  | .scan => stepScan false o h0
  | .reduce => stepScan true o h0
  | .compact => stepCompact o h0 h1
  | .quant => stepQuant o org h0
  | .dequant => stepDequant o h0
  | .transpose => stepTranspose o h0

end Sys2Proof.Machine
end

