-- ==== Sys2Proof/Machine/Memory.lean ====
section
/-! DEFINITION. Byte memories as sorted lists of cells (R7, R193, R355). An address that is not listed
reads as 0, and no cell holds 0, so equal memories are equal lists; log entry 1. -/

namespace Sys2Proof.Machine

/-- A byte memory in its canonical form. -/
abbrev Mem := List Host.Cell

/-- What an address that no cell lists reads as (log entry 1). -/
def unlisted : Byte := 0

/-- Addresses above `lo` strictly rise, and no cell holds what an unlisted address reads as. -/
def memWfFrom (lo : Nat) : Mem → Bool
  | [] => true
  | c :: cs => decide (lo ≤ c.1) && c.2 != unlisted && memWfFrom (c.1 + 1) cs

/-- The canonical form. -/
def Mem.wf (m : Mem) : Bool := memWfFrom 0 m

/-- The byte at an address (DESIGN CHOICE, log entry 1). -/
def readByte : Mem → Nat → Byte
  | [], _ => unlisted
  | c :: cs, a => if c.1 = a then c.2 else readByte cs a

/-- A byte written at an address; writing what an unlisted address reads as removes the cell. -/
def writeByte : Mem → Nat → Byte → Mem
  | [], a, v => if v = unlisted then [] else [(a, v)]
  | c :: cs, a, v =>
    if a < c.1 then
      (if v = unlisted then c :: cs else (a, v) :: c :: cs)
    else if c.1 = a then (if v = unlisted then cs else (a, v) :: cs)
    else c :: writeByte cs a v

/-- Bytes written in order. -/
def writeAll (m : Mem) (ws : List (Nat × Byte)) : Mem :=
  ws.foldl (fun m w => writeByte m w.1 w.2) m

/-- `n` bytes from an address up. -/
def readBytes (m : Mem) (a n : Nat) : List Byte := (List.range n).map fun i => readByte m (a + i)

/-- `n` bytes from an address, little-endian (R7). -/
def readLe (m : Mem) (a n : Nat) : Nat := Word.ofBytes (readBytes m a n)

/-- The writes of some bytes from an address up. -/
def bytesAt (a : Nat) (bs : List Byte) : List (Nat × Byte) := bs.mapIdx fun i b => (a + i, b)

/-- The writes of a little-endian value of `n` bytes (R7). -/
def leAt (a n v : Nat) : List (Nat × Byte) := bytesAt a (Word.toBytes n v)

end Sys2Proof.Machine
end

