-- ==== Sys2Proof/Machine/Parts.lean ====
section
/-! DEFINITION. The parts of the state that belong to a configuration instance: blocks and their
slots, tiles, banks, matrix elements, virtual ports and the instance itself (R14, R23 to R45, R170 to
R179, R198, R204, R214 to R218, R331, R337, R437). -/

namespace Sys2Proof.Machine

/-- The header of a block (R80). -/
structure BlkHdr where
  nins : Nat
  mode : BlkMode
  stmask : BitVec 32
  portmask : BitVec 16
  pgrp : BitVec 32
  lcen : BitVec 4
  marker : Nat
  markf : Bool
  roundb : Bool
  ppol : Ppol
  heavy : Nat
  deriving DecidableEq, Repr

/-- Discards of a LENGTH mismatch in progress at an instruction (R116). -/
structure Disc where
  /-- Slots still discarding. -/
  l : Bool
  r : Bool
  t : Bool
  nl : Nat := 0
  nr : Nat := 0
  nt : Nat := 0
  /-- Discarded tokens that had P = 1. -/
  npois : Nat := 0
  /-- Null tokens delivered so far. -/
  nulls : Nat := 0
  /-- Round and record of the mismatched firing. -/
  round : Nat
  record : Nat
  deriving DecidableEq, Repr

/-- An instruction slot of a block with its operand queues (R24). -/
structure Slot where
  ins : Instr
  word : Word := 0
  l : List Tok := []
  r : List Tok := []
  /-- The slot target kind 11 names: predicate or third operand. -/
  t : List Tok := []
  /-- Records for which the instruction has fired. -/
  fired : Nat := 0
  /-- Stream-fed slots (R117), by l, r and t. -/
  fedL : Bool := false
  fedR : Bool := false
  fedT : Bool := false
  disc : Option Disc := none
  deriving DecidableEq, Repr

/-- A loop counter's parameters (R33). -/
structure LoopCtr where
  start : Int
  step : Int
  count : Nat
  deriving DecidableEq, Repr

/-- A block held by a vector element, or the block a control core runs (R25, R26, R79). -/
structure Blk where
  hdr : BlkHdr
  slots : List Slot
  lcs : List LoopCtr := []
  /-- Records started and committed (R23, R25, R31). -/
  started : Nat := 0
  committed : Nat := 0
  /-- Records started when the round began (R36). -/
  base : Nat := 0
  /-- Group chosen by ROUTE for each record since the last boundary; 0 is none (R30). -/
  chosen : List (Nat × Nat) := []
  deriving DecidableEq, Repr

/-- One accumulator bank (R74, R176): words row-major, 0 where the list ends, and poisoned rows. -/
structure AccBank where
  persist : Bool := false
  words : List (BitVec 32) := []
  pois : List (Nat × BitVec 24) := []
  deriving DecidableEq, Repr

/-- How a bank's fill was made, for R437. -/
structure CapFill where
  /-- Source pattern of the captured command. -/
  pat : BitVec 512
  ctx : Nat
  part : Nat
  /-- Number of the fill among the bank's fills, and the buffer it occupies. -/
  index : Nat
  buf : Nat
  /-- Key slot and its erase generation for a keyed command, and its handle (R281). -/
  key : Option (Nat × Nat) := none
  handle : Nat := 0
  layout : BitVec 512 := 0
  scale : Bool := false
  released : Bool := false
  /-- Number of the fill among those made into the instance's banks: the order of refetches. -/
  made : Nat := 0
  deriving DecidableEq, Repr

/-- Bytes of scale memory that MSCLS moved from a sealed fill: the fill, the first byte moved, where in scale
memory it stands, and how many (R278, R437). -/
structure ScaleCap where
  cap : CapFill
  src : Nat
  ofs : Nat
  len : Nat
  deriving DecidableEq, Repr

/-- The matrix element (R176, R179). -/
structure Me where
  acc : List AccBank := [{}, {}, {}, {}]
  scale : Mem := []
  /-- The parts of scale memory that hold bytes of sealed fills (R278). -/
  scaleCaps : List ScaleCap := []
  deriving DecidableEq, Repr

/-- A binding slot: the tile and bank it names (R172). -/
structure Binding where
  tile : Nat
  bank : Nat
  deriving DecidableEq, Repr

/-- A compute tile's own state. -/
structure Ct where
  blks : List Blk := []
  /-- Stochastic-rounding generator (R59). -/
  rng : Word := 0
  binds : List (Option Binding) := []
  /-- Binding slots skipped, by binding and record (R178). -/
  skips : List (Nat × Nat) := []
  me : Me := {}
  deriving DecidableEq, Repr

/-- Bank modes (R170). -/
inductive BankMode
  | tile | fifo | line | version | scale
  deriving DecidableEq, Repr

/-- Persistence classes (R39). -/
inductive Persist
  | round | persist | input
  deriving DecidableEq, Repr

/-- A versioned word: its floor and live pairs (R198). -/
structure VWord where
  floor : Nat := 0
  live : List (Nat × Word) := []
  /-- The highest floor that control code has set: a rewind does not undo it (R200). -/
  ctl : Nat := 0
  deriving DecidableEq, Repr

/-- What the read port removes from a row that a keyed copy wrote: the key and the nonce of its handle's
binding, and the row's offset in the layout (R273, R274). -/
structure OwnerLayer where
  key : BitVec 128
  nonce : Word
  ofs : Nat
  deriving DecidableEq, Repr

/-- One MT bank (R170, R171, R195, R198). -/
structure Bank where
  mode : BankMode := .tile
  cls : Persist := .round
  nbuf : Nat := 1
  bytes : Mem := []
  /-- Rows whose S flag is set (R171). -/
  sflags : List Nat := []
  full : List Nat := []
  fillPtr : Nat := 0
  readPtr : Nat := 0
  /-- Armed fills: of a binding, as 16 × its tile + its slot, the hold count and the record that armed it
  (R178). -/
  holds : List (Nat × Nat × Nat) := []
  /-- Rows written of the fill in progress through a fill port (R286). -/
  fillRow : Nat := 0
  /-- FIFO and LINE positions: rows pushed, and rows popped or retired (R195). -/
  head : Nat := 0
  tail : Nat := 0
  words : List (Nat × VWord) := []
  sealed : Bool := false
  /-- The ownership token stands here; its owner may access the bank (R42, R172). -/
  owned : Bool := true
  passed : Bool := false
  caps : List CapFill := []
  /-- Granules with an uncorrectable error (R175). -/
  bad : List Nat := []
  /-- Writes of each 32-byte granule since the instance began (R274). -/
  writes : List (Nat × Nat) := []
  /-- The rows that keyed copies wrote, whose bytes are the owner's ciphertext (R274). -/
  layers : List (Nat × OwnerLayer) := []
  deriving DecidableEq, Repr

/-- What an MT undoes at a rewind (R200). -/
inductive Undo
  | stv (bank word ver : Nat)
  /-- A VRECL: the floor it found, and the pairs it removed. -/
  | vrecl (bank word floor : Nat) (gone : List (Nat × Word))
  | bara (ctr : Nat) (inc : BitVec 32)
  deriving DecidableEq, Repr

/-- A memory tile's own state. -/
structure Mt where
  banks : List Bank := []
  bc : List (BitVec 32) := []
  undo : List Undo := []
  deriving DecidableEq, Repr

/-- A token waiting at an output port, with its block and its record (R131). -/
structure OutTok where
  blk : Nat
  record : Nat
  tok : Tok
  /-- Written by MOUT, which has made its own poison-log entry (R188). -/
  mout : Bool := false
  deriving DecidableEq, Repr

/-- Where the tokens of an output port go (R435). -/
inductive Sink
  | route (tile port depth : Nat)
  | delay (port depth : Nat)
  | vport (vp : Nat)
  /-- No route, delay line or virtual port takes them. -/
  | unused
  deriving DecidableEq, Repr

/-- What feeds an input port (R435). -/
inductive Feeder
  | route | delay | vport (vp : Nat)
  deriving DecidableEq, Repr

/-- An input port (R23, R34, R222). -/
structure InPort where
  feeder : Feeder
  depth : Nat := 4
  q : List Tok := []
  /-- Bank the port fills, in an MT (R286). -/
  fills : Option Nat := none
  /-- An end-of-tile token has arrived (R22). -/
  eot : Bool := false
  /-- Depth the edge takes once it is empty (R349). -/
  newDepth : Option Nat := none
  /-- Tokens a fill port has taken: the record number of the next (R286). -/
  taken : Nat := 0
  /-- Tokens caught on the link behind it during a MARKER snapshot, in arrival order (R342). -/
  caught : List Tok := []
  deriving DecidableEq, Repr

/-- An output port (R30, R131). -/
structure OutPort where
  sink : Sink
  q : List OutTok := []
  /-- Writes made by each block (R31). -/
  writes : List (Nat × Nat) := []
  deriving DecidableEq, Repr

/-- What a tile holds besides its switch. -/
inductive TileKind
  | ct (c : Ct)
  | mt (m : Mt)
  deriving DecidableEq, Repr

/-- A virtual tile: its element and its switch (R14, R15). -/
structure Tile where
  kind : TileKind
  inp : List (Nat × InPort) := []
  out : List (Nat × OutPort) := []
  ops : List (Nat × OpState) := []
  deriving DecidableEq, Repr

/-- Commands that bind a virtual port (R210, R223). -/
inductive BindKind
  | input | output | gather | scatter | update | copyIn
  deriving DecidableEq, Repr

/-- A binding of a virtual port (R214 to R218). -/
structure VpBind where
  /-- The command that made it, of those of its core. -/
  id : Nat := 0
  kind : BindKind
  pat : BitVec 512
  /-- The index port of a gather, scatter or update stream (R225). -/
  idxVp : Nat := 0
  /-- Operation and type of an update stream (R226). -/
  op : Nat := 0
  ty : Ty := .i32
  ctx : Nat
  part : Nat
  /-- Elements fetched, passed (delivered or staged) and performed; index tokens for a gather, scatter or
  update stream, whose COUNT0 counts those (R225). -/
  fetched : Nat := 0
  passed : Nat := 0
  done : Nat := 0
  /-- Tokens fetched and not delivered, with the host frames they were read from (R217, R393). -/
  window : List Tok := []
  srcs : List (List Nat) := []
  /-- Bytes of the token, or of the run of a gather's index token, being fetched: with the origins of their
  poison and their frames, by offset. -/
  part0 : List Byte := []
  part0Org : List (Nat × BitVec 24) := []
  part0Src : List (Nat × Nat) := []
  /-- A fetch-ahead fault waits for its element: cause and address (R375). -/
  pendFault : Option (Nat × Nat) := none
  /-- Index tokens of a gather whose run has not been delivered, and tokens delivered so far (R225). -/
  idxs : List Tok := []
  sent : Nat := 0
  deriving DecidableEq, Repr

/-- A virtual port of an instance (R109, R212, R215). -/
structure Vp where
  tile : Nat
  port : Nat
  dirOut : Bool
  winmax : Nat
  /-- MPT that holds its stream slot and window. -/
  mpt : Nat := 0
  bind : Option VpBind := none
  /-- Status kept after a binding ends (R215). -/
  ended : Bool := false
  killed : Bool := false
  short : Bool := false
  overran : Bool := false
  fault : Nat := 0
  elems : Nat := 0
  /-- Tokens admitted in the round (R36). -/
  adm : Nat := 0
  /-- An input binding has ended and no other has started: the source is exhausted (R36). -/
  spent : Bool := false
  /-- SKILL has ended an output binding: until another starts, tokens written to the port are discarded (R216). -/
  discards : Bool := false
  deriving DecidableEq, Repr

/-- Who a binding's elements are accessed for: its context and partition (R212, R368). -/
structure BindFor where
  ctx : Nat
  part : Nat
  deriving DecidableEq, Repr

/-- A staged main-memory effect of a round (R38, R218, R226). -/
inductive Staged
  | store (vp : Nat) (who : BindFor) (addr : Nat) (bytes : List Byte)
  | update (vp : Nat) (who : BindFor) (addr op : Nat) (ty : Ty) (operand : Nat) (ordered : Bool)
  deriving DecidableEq, Repr

/-- An entry for the poison log before it is written (R68). -/
structure LogEntry where
  org : BitVec 24
  skind : Nat
  loc : Nat
  cfg : Nat
  round : Nat
  record : Nat
  deriving DecidableEq, Repr

/-- A trap record (R305) as the device passes it to its handler. -/
structure TrapRec where
  cause : Nat
  cls : Nat
  olev : Nat := 0
  more : Bool := false
  stage2 : Bool := false
  corr : Bool := false
  tid : Nat := 0
  noag : Bool := false
  count : Nat := 0
  port : Nat := 0
  pv : Bool := false
  /-- Its handler is H although its cause has S (an HCALL, a double fault). -/
  toH : Bool := false
  seqNo : Nat := 0
  part : Nat := 0
  ctx : Nat := 0
  cfgid : Nat := 0
  round : Nat := 0
  record : Nat := 0
  tcol : Nat := 0
  trow : Nat := 0
  blk : Nat := 0
  slot : Nat := 0
  hdr : Bool := false
  addr : Nat := 0
  info : Nat := 0
  /-- The record holds its agent until it is released (R310, R312). -/
  holds : Bool := false
  /-- Page of the CC that case 5 of R309 names. -/
  page : Nat := 0
  deriving DecidableEq, Repr

/-- Everything of an instance that a rewind, a move or a save image concerns (R38, R51). -/
structure Fabric where
  tiles : List (Nat × Tile) := []
  vps : List (Nat × Vp) := []
  /-- The 64-bit round number (R38). -/
  round : Nat := 0
  deriving DecidableEq, Repr

/-- A snapshot requested (R341): image address, capacity in bytes, RELEASE and the issuing core. -/
structure SnapReq where
  marker : Bool
  addr : Nat
  cap : Nat
  release : Bool
  issuer : CoreId
  deriving DecidableEq, Repr

/-- Operations the Shepherd holds pending for an instance (R340). -/
inductive PendOp
  | move (org : Option (Nat × Nat))
  | compact
  | snap (q : SnapReq)
  | plsw
  deriving DecidableEq, Repr

/-- States of an instance (CFG_INSTAT, R302). -/
inductive InstPhase
  | running | boundary | held | stalled | snapshotted | restoring | ending
  deriving DecidableEq, Repr

/-- A bank import of a launch record (R330). -/
structure Import where
  pcfg : Nat
  ptile : Nat
  pbank : Nat
  tile : Nat
  bank : Nat
  deriving DecidableEq, Repr

/-- A configuration instance (R331, R337) (DESIGN CHOICE, log entry 52). -/
structure Inst where
  ctx : Nat
  part : Nat
  row0 : Nat
  col0 : Nat
  w : Nat
  h : Nat
  plane : Nat := 0
  idhash : List Byte := []
  image : Nat := 0
  heavy : Nat := 0
  /-- Permits the governor has granted (R417). -/
  granted : Nat := 0
  roundN : Nat := 1
  /-- Round end count E (R36). -/
  roundE : Nat := 1
  phase : InstPhase := .running
  /-- Sources pause at the boundary until step 7 (R38). -/
  paused : Bool := false
  /-- Step 3 is under way: staged effects have been sent, and peers have not acknowledged them all (R38, R244). -/
  step3 : Bool := false
  last : Bool := false
  /-- Next image of the graph, or 0 (R230). -/
  nextImage : Nat := 0
  /-- Tiles the reconfiguration token has passed (R43). -/
  reconf : Option (List Nat) := none
  retired : Bool := false
  fab : Fabric := {}
  rew : Fabric := {}
  staged : List Staged := []
  logs : List LogEntry := []
  /-- Markers recorded in the round (R129). -/
  marks : List Nat := []
  /-- Element faults raised and not yet taken by ROUND_VOID (R40). -/
  faults : List TrapRec := []
  /-- SEQ of the record that holds it, if one does (R310). -/
  heldBy : Option Nat := none
  /-- Banks whose ownership token passes at the next commit (R42). -/
  btoks : List (Nat × Nat) := []
  pend : Option PendOp := none
  /-- Nodes that have saved their state for the MARKER snapshot under way (R342). -/
  snap : Option (List Nat) := none
  arg : Word := 0
  doneAddr : Nat := 0
  doneVal : Word := 0
  /-- CC that reports on its launch go to (R337). -/
  page : Nat := 0
  /-- Banks that stand for banks of producers (R330). -/
  imports : List Import := []
  /-- Banks whose ownership token is on its way, by tile and bank (R42). -/
  arriving : List (Nat × Nat) := []
  /-- Pages whose CC runs a control program the image started (R331). -/
  threads : List Nat := []
  /-- Cause that ends the instance early; its completion word is FAILVAL (R310, R331). -/
  failed : Option Nat := none
  /-- Fills that copies have made into the instance's banks (R437). -/
  fills : Nat := 0
  started : Bool := true
  stallRes : Bool := false
  stallMiss : List Nat := []
  deriving DecidableEq, Repr

end Sys2Proof.Machine
end

