-- ==== Sys2Proof/Machine/CoreParts.lean ====
section
/-! DEFINITION. The parts of the state outside the instances: control cores, contexts, partitions,
engines, the dispatcher, the security processor, the package and its links. -/

namespace Sys2Proof.Machine

/-- A general register with its P bit and origin word (R26, R63) (DESIGN CHOICE, log entry 3). -/
structure GReg where
  v : Word := 0
  p : Bool := false
  org : BitVec 24 := 0
  deriving DecidableEq, Repr

/-- Operands a slot consumed whose effect is performed at commit (R26, R94). -/
structure Capture where
  slot : Nat
  a : Tok
  b : Tok
  c : Tok
  computes : Bool
  /-- The effect has been performed in the commit under way. -/
  done : Bool := false
  deriving DecidableEq, Repr

/-- A timetable entry (R261). -/
structure TtEntry where
  trig : Nat
  action : Nat
  deadline : Option Nat
  range : Nat
  offset : Nat
  length : Nat
  deriving DecidableEq, Repr

/-- A loaded timetable (R263 to R266). -/
structure Timetable where
  stall : Bool
  entries : List TtEntry
  /-- Entries pending on their deadlines. -/
  pending : List Nat := []
  fired : List Nat := []
  misses : Nat := 0
  deriving DecidableEq, Repr

/-- The control block a core has entered and not committed (R26, R94, R99). -/
structure Frame where
  addr : Nat
  blk : Blk
  caps : List Capture := []
  /-- Ready slots found waiting since a slot last fired. -/
  waits : List Nat := []
  /-- Faults met: rank and key of R374, then slot, cause, address and INFO. -/
  faults : List (Nat × Nat × Nat × Nat × Nat × Nat) := []
  /-- Poison-log entries and markers by slot (R69, R129). -/
  plog : List (Nat × LogEntry) := []
  marks : List (Nat × Nat) := []
  /-- Writes of g-registers the commit makes: slot, a CALLB link, register and value (R135). -/
  gw : List (Nat × Bool × Fin 32 × GReg) := []
  /-- Timetables that TTLD read at entry, by slot (R270). -/
  tts : List (Nat × Timetable) := []
  /-- System registers and meters as SRD and MTRD READ read them at entry, by slot (R324, R402). -/
  srs : List (Nat × Word) := []
  /-- Launch records that QPOST, PLACE and PREST read at entry, by slot (R352). -/
  recs : List (Nat × List Byte) := []
  /-- Writes of selection registers, which act from the next block on (R324). -/
  sels : List (Nat × Word) := []
  /-- Main memory and the page's instance as they stood at entry (R94). -/
  mem0 : Mem := []
  /-- An armed skip has passed a BRK of the block (R318). -/
  skipped : Bool := false
  fab0 : Option Fabric := none
  /-- The peers' memories as they stood at entry (R94). -/
  peers0 : List (Nat × Mem) := []
  /-- Permits free in each partition, and owners of the queues, as they stood at entry (R352). -/
  state0 : Option (List (Nat × Nat) × List (Nat × Nat)) := none
  deriving DecidableEq, Repr

/-- Fields of TRAP_S_STATUS and TRAP_H_STATUS (R301, R307) (DESIGN CHOICE, log entry 3). -/
structure TrapStatus where
  ie : Bool := true
  pie : Bool := true
  plev : Level := .u
  inh : Bool := false
  hold : Bool := false
  act : Bool := false
  halted : Bool := false
  skipbrk : Bool := false
  stepOn : Bool := false
  deriving DecidableEq, Repr

/-- What a core's thread is doing (R134, R310, R325). -/
inductive Thread
  | none
  | live
  /-- Waits for an acknowledgement of a record (R312). -/
  | held (seqNo : Nat)
  /-- In WFI, with the bound of a timed one (R325). -/
  | wfi (bound : Option Nat)
  | halted
  deriving DecidableEq, Repr

/-- Where a copy writes (R223). -/
inductive CopyDst
  | pattern (pat : BitVec 512)
  | bank (cfg tile bank : Nat)
  | vport (cfg vp : Nat)
  /-- Scale memory of a tile: `len` bytes of the fill from byte `src` on, put at `ofs` (R278, R437). -/
  | scale (cfg tile src ofs len : Nat)
  deriving DecidableEq, Repr

/-- A copy or scale fill in a copy engine (R222 to R224, R281). -/
structure Copy where
  core : CoreId
  ctx : Nat
  part : Nat
  /-- Its command on a scoreboard, and the level of the thread that issued it. -/
  cmd : Nat := 0
  olev : Nat := 0
  /-- Who it is made for: the thread as it issued the command, or for a refetch the configuration (R305, R392). -/
  who : TrapRec := { cause := 0, cls := 2 }
  src : BitVec 512
  dst : CopyDst
  cw : Option (Nat × Word) := none
  scale : Bool := false
  /-- Layout record, slot, erase generation and handle of a keyed copy (R281). -/
  key : Option (BitVec 512 × Nat × Nat × Nat) := none
  /-- Source granules read, and destination granules written (R223, R243). -/
  got : List (Nat × List Byte) := []
  moved : List Nat := []
  /-- The key of a keyed copy, once a granule has been read (R274). -/
  owner : Option (BitVec 128) := none
  /-- Host messages awaited: reads by granule, queue pair and host address; writes by queue pair and host
  address (R256, R421). -/
  asked : List (Nat × Nat × Nat) := []
  unacked : List (Nat × Nat) := []
  /-- Buffer a bank fill writes, once it has begun (R171). -/
  buf : Option Nat := none
  /-- The fault that has stopped it: cause, address and INFO (R223). -/
  fault : Option (Nat × Nat × Nat) := none
  /-- A refetch of R437 enters no scoreboard and writes no completion word. -/
  refetch : Bool := false
  /-- A refetch of a fill whose buffer an earlier one holds: it is made again as a fill (R437). -/
  again : Bool := false
  /-- Place of a refetch in the order in which the fills were first made (R437). -/
  made : Nat := 0
  /-- Issued at H, with the direct window (R368). -/
  hyp : Bool := false
  /-- Instance on the issuing core's page, for a completion word in an MT (R222). -/
  cfg : Nat := 0xFFFF
  deriving DecidableEq, Repr

/-- Access paths of R362. -/
inductive Path
  | stream | scopy | ctl | ldg | key | fetch
  /-- Inbound requests of hosts (R272, R421), and the TE (R373). -/
  | rdma | te
  deriving DecidableEq, Repr

/-- Kinds of access (R363). -/
inductive AccKind
  | rd | wr | upd | fetch
  deriving DecidableEq, Repr

/-- An access to main memory. -/
structure Acc where
  unit : Nat
  /-- Which of the unit's jobs: the configuration of a stream, the command of a copy. -/
  job : Nat := 0
  /-- Made at H, with the direct window (R368). -/
  hyp : Bool := false
  part : Nat
  ctx : Nat
  path : Path
  kind : AccKind
  /-- INFO bits 3:0 of a fault (R306). -/
  code : Nat
  /-- Identity for the records of the memory path (R392), and the CC they go to. -/
  who : TrapRec
  page : Nat
  /-- The core whose code makes the access, or issued the command that does (R303, R309). -/
  core : Option CoreId := none
  deriving DecidableEq, Repr

/-- A store or an update sent to a peer package and not acknowledged yet; the unit and job that sent it name its
circuit (R220, R221, R244). -/
structure PeerWrite where
  unit : Nat
  job : Nat
  peer : Nat
  addr : Nat
  bytes : List Byte
  /-- Operation and type of an update, whose operand the bytes are (R202, R365). -/
  upd : Option (Nat × Ty) := none
  /-- It has performed at the peer. -/
  done : Bool := false
  deriving DecidableEq, Repr

/-- A completion word that waits: for room in a versioned word (R198, R222), or for the acknowledgement of bytes
written before it; with the command that ends when it is written. -/
structure LateWord where
  acc : Acc
  cfg : Nat
  addr : Nat
  v : Word
  cmd : Option Nat := none
  deriving DecidableEq, Repr

/-- One call of a collective by one rank (R227, R228). -/
structure CollCall where
  rank : Nat
  mnem : Nat
  op : Nat
  ty : Ty
  bytes : Nat
  root : Nat
  /-- The contribution: a token, or the bytes of a source pattern. -/
  tok : Tok := {}
  data : List Byte := []
  /-- Source pattern of a control rank's command. -/
  src : BitVec 512 := 0
  /-- Element rank: instance, tile, block and slot that wait for the result. -/
  elem : Option (Nat × Nat × Nat × Nat) := none
  /-- Control rank: core, destination pattern and completion pair. -/
  ctl : Option (CoreId × BitVec 512 × Nat × Word) := none
  /-- The command of a control rank, and the thread that issued it (R213, R305). -/
  cmd : Nat := 0
  who : TrapRec := { cause := 0, cls := 2 }
  ctx : Nat := 0
  part : Nat := 0
  /-- Record of an element rank's call. -/
  record : Nat := 0
  /-- Instance on the issuing CC's page, for a completion word in an MT (R222). -/
  cfg : Nat := 0xFFFF
  deriving DecidableEq, Repr

/-- A result a CLE retains for an element rank (R229). -/
structure KeptRes where
  cfg : Nat
  tile : Nat
  /-- 128 × block + slot. -/
  place : Nat
  record : Nat
  round : Nat
  toks : List Tok
  deriving DecidableEq, Repr

/-- Results that a CLE retains for an instance that a CUT snapshot has released, under a number that no instance has,
for the instance that a restore of its image makes (R229, R341). -/
structure Retained where
  ctx : Nat
  idhash : List Byte
  round : Nat
  key : Nat
  deriving DecidableEq, Repr

/-- A collective group of a context as the CLEs hold it (R227, R229, R350). -/
structure Group where
  /-- Calls made by each rank, oldest first, not yet joined. -/
  calls : List CollCall := []
  /-- Calls made so far by each rank: rank and count. -/
  counts : List (Nat × Nat) := []
  /-- Results retained for element ranks (R229). -/
  kept : List KeptRes := []
  /-- The entry as read: KIND, and per rank the package, CFGID, column and row; none when the group
  is not set up (R350). -/
  ranks : Option (Bool × List (Nat × Nat × Nat × Nat)) := none
  /-- The entry is read at the next call (R350). -/
  reread : Bool := true
  deriving DecidableEq, Repr

/-- What a queued scoreboard command does when it starts (R213). -/
inductive CmdKind
  | bind (b : VpBind)
  | copy (c : Copy)
  | coll (grp : Nat) (c : CollCall)
  | sbar
  deriving DecidableEq, Repr

/-- A command of a CC's port scoreboard (R213). -/
structure Cmd where
  id : Nat
  kind : CmdKind
  /-- The instance and virtual port it names. -/
  vp : Option (Nat × Nat) := none
  started : Bool := false
  deriving DecidableEq, Repr

/-- A condition a thread waits for before its next block (TFETCH and TEVICT with SYNC, R269). -/
structure SyncWait where
  part : Nat
  /-- Key of the granule. -/
  gran : Nat
  /-- Number of the action among those passed to the granule. -/
  n : Nat
  evict : Bool
  deriving DecidableEq, Repr

/-- A control core or a system core (R26, R297, R301) (DESIGN CHOICE, log entry 3). -/
structure Core where
  g : List GReg := List.replicate 32 {}
  ap : List (BitVec 512) := List.replicate 16 0
  level : Level := .u
  thread : Thread := .none
  /-- Address of the next block (R133). -/
  next : Nat := 0
  frame : Option Frame := none
  ctx : Nat := 0
  part : Nat := 0
  tid : Nat := 0
  board : List Cmd := []
  /-- Posted records: reports and records that hold agents (R310). -/
  queue : List TrapRec := []
  st : TrapStatus := {}
  epc : Nat := 0
  record : BitVec 512 := 0
  /-- The class 1 record of the entry under way (R310). -/
  entry : Option TrapRec := none
  save : List Word := [0, 0, 0, 0]
  lost : Nat := 0
  ctxsel : BitVec 16 := 0
  instsel : Nat := 0
  pgsel : Nat := 0
  ftsel : Nat := 0
  ftcnt : Nat := 1
  slsel : Nat := 0
  snsel : Nat := 0
  psel : Nat := 0
  mtaddr : Word := 0
  stepArmed : Bool := false
  skipArmed : Bool := false
  /-- Destination register of an HCALL whose acknowledgement is awaited (R321). -/
  callReg : Option (Fin 32) := none
  sync : List SyncWait := []
  deriving DecidableEq, Repr

/-- An open key handle (R275, R282). -/
structure Handle where
  layout : BitVec 512
  slot : Nat
  gen : Nat
  deriving DecidableEq, Repr

/-- The registers and tables of one context (R301, R351, R381). -/
structure Context where
  deleg : Word := 0
  repen : Word := 0xF
  evBase : Nat := 0
  evSize : Nat := 0
  wdog : Nat := 1000000
  plogBase : Nat := 0
  plogSize : Nat := 0
  plogHead : Nat := 0
  plogTail : Nat := 0
  plogLost : Nat := 0
  dbgCtl : Word := 0
  dbgRstop : Word := 0
  cgtab : Word := 0
  paddock : Word := 0
  /-- The key of its planes' banks, drawn at each grant of a paddock (R274, R393). -/
  worldKey : BitVec 128 := 0
  rtab : Word := 0
  acthr : Word := 0
  handles : List (Option Handle) := List.replicate 16 none
  tt : Option Timetable := none
  groups : List (Nat × Group) := []
  /-- Records delegated to the event ring and not yet written (R314). -/
  evq : List TrapRec := []
  /-- Ring entries whose ACK is awaited: entry number and record (R315). -/
  evAck : List (Nat × TrapRec) := []
  deriving DecidableEq, Repr

/-- State of a partition (R385, R386). -/
inductive PartState
  | none | config | running | stopped
  deriving DecidableEq, Repr

/-- A key slot (R394 to R396, R403). -/
structure KeySlot where
  assigned : Bool := false
  two : Bool := false
  ctx : Nat := 0
  /-- Shares installed for roles 0 and 1. -/
  share0 : Option (BitVec 128) := none
  share1 : Option (BitVec 128) := none
  bind : List Byte := []
  /-- Exchange state of a begun role: the 256 agreed bits, then SB and SA (R396). -/
  begun0 : Option (BitVec 768) := none
  begun1 : Option (BitVec 768) := none
  /-- Times the slot has been erased (R279). -/
  gen : Nat := 0
  deriving DecidableEq, Repr

/-- Residency of a granule (R258). -/
inductive Residency
  | home | pending | filling | resident | draining
  deriving DecidableEq, Repr

/-- Actions that reach the TE for a granule (R258, R269). -/
inductive TeAct
  | fetch | evict | pin | unpin
  deriving DecidableEq, Repr

/-- A granule of a tiered range in the residency directory (R257, R258). -/
structure Granule where
  res : Residency := .home
  pin : Bool := false
  dirty : Bool := false
  /-- An eviction that takes effect when the fill completes. -/
  evictNext : Bool := false
  /-- Order in which its pending fetch reached the TE. -/
  order : Nat := 0
  /-- The tier-1 frame that holds its copy while it is FILLING, RESIDENT or DRAINING (R257, R388). -/
  entry : Nat := 0
  /-- Actions passed to the TE and not yet acted on. -/
  acts : List TeAct := []
  /-- Actions passed and acted on so far, and the numbers of the last fetch and eviction passed. -/
  sent : Nat := 0
  acted : Nat := 0
  lastFetch : Nat := 0
  lastEvict : Nat := 0
  /-- Numbers of the actions that a fault dropped (R373). -/
  drops : List Nat := []
  deriving DecidableEq, Repr

/-- A partition (R351, R381, R385, R397, R419). -/
structure Partition where
  state : PartState := .none
  err : Nat := 0
  pages0 : Word := 0
  pages1 : Word := 0
  chmask : Word := 0
  t2max : Word := 0
  tcmax : Word := 0
  heavy : Word := 0
  qmax : Word := 0
  eth : Word := 0
  tid : Word := 0
  ctxr : Word := 0
  home : Word := 0
  supctx : Word := 0
  supentry : Word := 0
  svec : Nat := 0
  backfill : Word := 0
  ctmo : Word := 1000
  mqbase : Word := 0
  mqsize : Word := 0
  mqovf : Nat := 0
  /-- An overflow episode is under way, and the last CFG report kept (R378). -/
  mqEpis : Bool := false
  s2base : Word := 0
  /-- The stage-2 base in force (R381). -/
  s2cur : Word := 0
  ival : Word := 0
  rbase : Word := 0
  rsize : Word := 0
  mlost : Nat := 0
  /-- TILEUS, MEACT, BYT1, BYT2, BYTP and BYTH; MJ follows from them (R398, R418). -/
  meters : List Nat := [0, 0, 0, 0, 0, 0]
  useq : Nat := 0
  epoch : Nat := 0
  /-- Time of START (R398). -/
  startAt : Nat := 0
  /-- Time of the previous usage record, or of START (R399). -/
  tstart : Nat := 0
  /-- Time the next periodic record is due (R400). -/
  meterDue : Nat := 0
  records : List (List Byte) := []
  /-- A record has been made since boot (R399). -/
  chained : Bool := false
  share : Word := 0
  slots : List KeySlot := List.replicate 16 {}
  grans : List (Nat × Granule) := []
  teOrder : Nat := 0
  deriving DecidableEq, Repr

/-- What a request asks of the SEP (R403). -/
inductive SepKind
  | begin_ | finish | record | quote
  deriving DecidableEq, Repr

/-- A request in the SEP's queue (R403). -/
structure SepReq where
  kind : SepKind
  part : Nat
  ctx : Nat
  /-- Key slot and role of BEGIN and FINISH. -/
  slot : Nat := 0
  role : Nat := 0
  /-- Buffer, and address of the completion word. -/
  buf : Nat
  cw : Nat
  /-- Issued at H, with the direct window (R368). -/
  hyp : Bool := false
  /-- Instance on the issuing core's page, for a completion word in an MT (R222). -/
  cfg : Nat := 0xFFFF
  deriving DecidableEq, Repr

/-- The dispatcher's queue (R332, R334). -/
structure DQueue where
  owner : Nat := 0
  prio : Nat := 0
  enabled : Bool := false
  /-- Launch records, oldest first, as their 64-byte words or longer. -/
  entries : List (List Byte) := []
  /-- Dependences of the head that are met (R329). -/
  met : List Nat := []
  /-- Wait time in ns. -/
  wait : Nat := 0
  promoted : Bool := false
  deriving DecidableEq, Repr

/-- Frame-owner tag of a 2 MiB frame (R387) (DEDUCED, log entry 18). -/
structure FrameTag where
  owner : Nat := 0
  state : Nat := 0
  tc : Bool := false
  exp : Bool := false
  hyp : Bool := false
  etid : Nat := 0
  rej : Bool := false
  cleared : Nat := 0
  /-- Lines of a CLEARING frame already cleared (R393). -/
  lines : List Nat := []
  /-- The frame's lines stand under keys that have been erased, but for those written since (R386). -/
  stale : Bool := false
  rewritten : List Nat := []
  deriving DecidableEq, Repr

/-- Package states (R408). -/
inductive PkgState
  | off | service | cooling | soak | coldReady | run | retreat | warming | trip
  deriving DecidableEq, Repr

/-- Steps of an entry to RETREAT and of an exit from it (R410). -/
inductive Retreat
  /-- No entry or exit is under way. -/
  | settled
  /-- Every row is being refreshed once (steps 2 and 3). -/
  | refreshing
  /-- Channel groups retrain to set B (step 4). -/
  | toB
  /-- An exit: channel groups retrain to set C. -/
  | toC
  /-- An exit stopped: groups at set C retrain to set B. -/
  | back
  deriving DecidableEq, Repr

/-- Conditions of a 64-byte line, of data or of MACs, that the environment sets (R391, R392) (DESIGN CHOICE, log
entry 2). -/
structure LineCond where
  /-- The MAC mismatches. -/
  mac : Bool := false
  /-- The line is not correctable. -/
  ecc : Bool := false
  folded : Bool := false
  corr : Bool := false
  deriving DecidableEq, Repr

/-- Entries of translation data: XL_RTAB, a range entry, the table entry of the 512 MiB from an address, the leaf of
a page and a stage-2 entry (R356, R359, R366). -/
inductive XlKey
  | root
  | range (k : Nat)
  | table (start : Nat)
  | leaf (page : Nat)
  | s2 (ix : Nat)
  deriving DecidableEq, Repr

/-- An entry that a translation used: where it stood, its length and its value (R369, R370). -/
structure XlDep where
  key : XlKey
  at_ : Nat
  n : Nat
  v : Nat
  deriving DecidableEq, Repr

/-- A translation a unit holds: what it used of the range entry, the leaf and stage 2, and the entries themselves
(R369) (DEDUCED, log entry 17). -/
structure XlCopy where
  /-- The unit: a core's key, or 200 plus an MPT, 300 for a copy engine, 400 a CLE, 500 the TE. -/
  unit : Nat
  part : Nat
  ctx : Nat
  /-- Virtual page of 64 KiB. -/
  page : Nat
  range : Nat
  leaf : Word
  /-- Host physical address of the leaf, or of LEAF in a DIRECT range's entry. -/
  leafAt : Nat
  direct : Bool
  acbase : Nat
  /-- First virtual address of the range. -/
  vbase : Nat
  /-- Stage-2 entry of the data frame. -/
  s2 : Word
  /-- Stage-2 indexes the walk used. -/
  used : List Nat
  deps : List XlDep := []
  deriving DecidableEq, Repr

/-- A management session or an attempt at one (R404, R406). -/
structure Session where
  /-- The 256 bits of the exchange, then SB and SA. -/
  agreed : BitVec 768 := 0
  counter : Nat := 0
  opened : Bool := false
  /-- Time of OPEN or of the last valid message. -/
  lastMsg : Nat := 0
  deriving DecidableEq, Repr

/-- A bank of the configuration flash: its image, the verdict of its verification, and what the image
holds: the firmware of the SEP, Shepherd, dispatcher and TE, the hypervisor image by host physical
address, and its entry block (R401, R413, R414) (DESIGN CHOICE, log entry 5). -/
structure FlashBank where
  image : List Byte := []
  ok : Bool := false
  fw : List (List Byte) := [[], [], [], []]
  hyp : List (Nat × List Byte) := []
  hypEntry : Nat := 0
  deriving DecidableEq, Repr

/-- The grade record in the flash at reset: a VV-SK440 with every page enabled, the SM3 of the identity public key at
reset, its other fields 0, and a signature by the key in ROM at reset (R413) (DESIGN CHOICE, log entry 5). -/
def factoryRecord : List Byte :=
  Word.toBytes 4 0x44524756 ++ [1, 0, 0, 0] ++ List.replicate 16 0xFF ++ List.replicate 16 0
    ++ (Word.toBytes 32 24939250382507175752083072799416237290384799415126973411483425151740943022697).reverse
    ++ List.replicate 120 0
    ++ (Word.toBytes 64 2181138683093224096213333038295503982463553077740183491427755273861425671830011681355228888017522448278122169536458616056412105213085111097150111751995276).reverse

/-- The keys that the SEP derives from the PUF, and Vovia's public key in its ROM (R396, R401, R413): every part has
its own; the values at reset are the model's (DESIGN CHOICE, log entry 5). -/
structure SepKeys where
  ident : Nat := 1
  exch : Nat := 2
  vovia : BitVec 512 := 8877330502490404198018423822788706024518336236430741021878921909130581557410551466967151688833747587031577810330811952388101335635213641301779477096363750
  deriving DecidableEq, Repr

/-- The configuration flash: grade record, boot counter, two banks and operator keys (R2, R413, R414; log
entry 5) (DESIGN CHOICE, log entry 5). -/
structure Flash where
  boots : Nat := 0
  /-- The 256 bytes of the grade record (R413). -/
  record : List Byte := factoryRecord
  /-- The bank the next boot reads is bank 1. -/
  bank : Bool := false
  bank0 : FlashBank := { ok := true }
  bank1 : FlashBank := {}
  /-- Bytes of a WRITE under way: TOTAL, and bytes by offset. -/
  writing : Option (Nat × List (Nat × Byte)) := none
  /-- Keys of the operator area. -/
  opkeys : List (BitVec 512) := []
  deriving DecidableEq, Repr

/-- Bytes of the grade record. -/
def Flash.bytes (f : Flash) (off n : Nat) : List Byte := (f.record.drop off).take n
/-- GRADE: 0 for the VV-SK440, 1 for the VV-SK420. -/
def Flash.grade (f : Flash) : Nat := Word.ofBytes (f.bytes 6 1)
/-- DOMIDX, the package's index in the load-store domain. -/
def Flash.domIdx (f : Flash) : Nat := Word.ofBytes (f.bytes 7 1)
/-- ENABLED, a bit for each page. -/
def Flash.enabled (f : Flash) : BitVec 128 := BitVec.ofNat 128 (Word.ofBytes (f.bytes 8 16))
/-- SERIAL. -/
def Flash.serial (f : Flash) : List Byte := f.bytes 0x18 16
/-- PROVKEY, a point x ‖ y. -/
def Flash.provKey (f : Flash) : BitVec 512 := BitVec.ofNat 512 (Word.ofBytes (f.bytes 0x58 64).reverse)
/-- SIG, r ‖ s. -/
def Flash.gradeSig (f : Flash) : BitVec 512 := BitVec.ofNat 512 (Word.ofBytes (f.bytes 0xC0 64).reverse)

/-- A page that stays allocated to a graph for a bank that a consumer holds (R42). -/
structure GraphPage where
  page : Nat
  plane : Nat
  cfg : Nat
  tile : Nat
  bank : Nat
  deriving DecidableEq, Repr

/-- A launch the Shepherd has accepted, with what step 1 of R337 reserves. -/
structure Launch where
  record : List Byte
  part : Nat
  ctx : Nat
  cfg : Nat
  row0 : Nat
  col0 : Nat
  w : Nat
  h : Nat
  plane : Nat
  heavy : Nat
  /-- Virtual port, MPT and window in units of 4 KiB. -/
  mpts : List (Nat × Nat × Nat) := []
  /-- CC that reports go to. -/
  page : Nat
  /-- The operation requested of it while it is installed (R340). -/
  pend : Option PendOp := none
  deriving DecidableEq, Repr

/-- A COMPACT under way: the instance whose turn it is, with the time its turn began, and those after it
(R339). -/
structure Compaction where
  ctx : Nat
  cur : Option (Nat × Nat)
  rest : List Nat
  deriving DecidableEq, Repr

/-- A plane switch requested (R348). -/
structure PlaneSwitch where
  part : Nat
  /-- The access that writes the completion word. -/
  acc : Acc
  pages : List Nat
  plane : Nat
  /-- Address of the completion word, or 0. -/
  done : Nat
  deriving DecidableEq, Repr

/-- A marker report on its way to the TE: its source is a configuration, with the round, or a thread's core
(R260, R265) (DEDUCED, log entry 42). -/
structure Report where
  ctx : Nat
  part : Nat
  cfg : Option (Nat × Nat) := none
  core : CoreId
  markers : List Nat
  deriving DecidableEq, Repr

/-- Where a RoCEv2 message goes: the queue pair it leaves, its port, priority and VLAN, and the remote queue pair and
address, IPv4 or IPv6, of its endpoint (R5, R385, R420). -/
structure EthFlow where
  part : Nat
  qp : Nat
  port : Nat
  prio : Nat
  vlan : Nat
  remoteQp : Nat
  ipv6 : Bool
  remoteIp : BitVec 128
  deriving DecidableEq, Repr

/-- What the package sends out. -/
structure OutMsg where
  kind : Nat
  link : Nat
  body : List Nat
  /-- Where it goes over Ethernet. -/
  flow : Option EthFlow := none
  deriving DecidableEq, Repr

/-- A peer or tier-2 link (R221, R422, R423) (DESIGN CHOICE, log entry 4). -/
structure Link where
  up : Bool := true
  /-- Resends made of the flit that awaits acknowledgement. -/
  resends : Nat := 0
  /-- Request credits of a tier-2 link, and credits returned on the circuits of a peer link. -/
  credits : Nat := 64
  circCredits : List (Nat × Nat) := []
  /-- Messages of reserved kinds dropped. -/
  dropped : Nat := 0
  /-- SEQ of the next message of each circuit that has brought one. -/
  seqs : List (Nat × Nat) := []
  /-- SEQ of the next message sent on each circuit that has carried one. -/
  sent : List (Nat × Nat) := []
  /-- TAG of the next request of a tier-2 link, and the requests that wait for credits, the oldest first. -/
  tag : Nat := 0
  waiting : List OutMsg := []
  deriving DecidableEq, Repr

/-- What the environment lets happen next (log entry 6). -/
inductive Pick
  /-- A core makes its next step. -/
  | ctl (core : CoreId)
  /-- A vector element fires an instruction. -/
  | elem (cfg tile blk slot : Nat)
  /-- An indivisible step of another agent, or an input from outside. -/
  | ev (i : Instr)
  /-- Time passes. -/
  | elapse (ns : Nat)
  /-- A copy engine reads a granule of a copy's source, or writes one of its destination. -/
  | copy (id : Nat) (write : Bool) (granule : Nat)
  /-- A memory condition, or an uncorrectable granule of a bank, comes about. -/
  | lineCond (line : Nat) (c : LineCond)
  | badGranule (cfg tile bank granule : Nat)
  /-- A translating unit drops one of its copies. -/
  | dropCopy (k : Nat)
  /-- A management message arrives with an OPCODE that R406 does not list. -/
  | mgmtOther (op : Nat) (msg : MgmtMsg)
  deriving DecidableEq, Repr

/-- Where the instruction being executed stands (DESIGN CHOICE, log entry 6). -/
inductive Focus
  | none
  | fire (core : CoreId) (slot : Nat)
  | commit (core : CoreId) (slot : Nat)
  | elem (cfg tile blk slot : Nat)
  /-- An engine moves bytes of a copy that a core has issued. -/
  | engine (core : CoreId)
  deriving DecidableEq, Repr

/-- How the transaction of a block's commit stands; `ok` between steps (DESIGN CHOICE, log entry 6). -/
inductive Tx
  | ok
  | wait
  | trap (cause addr info slot : Nat)
  deriving DecidableEq, Repr

/-- Everything but main memory (DESIGN CHOICE, log entry 3). -/
structure Dev where
  cores : List (Nat × Core) := []
  ctxs : List (Nat × Context) := []
  parts : List (Nat × Partition) := []
  insts : List (Nat × Inst) := []
  copies : List (Nat × Copy) := []
  nextCopy : Nat := 0
  /-- Number of the next command put on a scoreboard (R213). -/
  nextCmd : Nat := 0
  /-- Marker reports on their way to the TE, oldest first (R260). -/
  reports : List Report := []
  queues : List (Nat × DQueue) := []
  ptr : List Nat := List.replicate 16 0
  schedAge : Word := 0
  graphPages : List GraphPage := []
  /-- Launches the Shepherd has accepted, oldest first (R337). -/
  installs : List Launch := []
  /-- CFGIDs that have been installed (R330). -/
  seen : List Nat := []
  /-- Compactions under way (R339). -/
  compacts : List Compaction := []
  /-- Threads of planes that are not active, by 4 × page + plane (R347). -/
  planeCores : List (Nat × Core) := []
  plown : List (Nat × Word) := []
  plmap : List (Nat × Word) := []
  active : List (Nat × Nat) := []
  switches : List PlaneSwitch := []
  sepq : List SepReq := []
  tags : List (Nat × FrameTag) := []
  /-- Bytes of tier 2 that the fitted devices provide (R423) (DESIGN CHOICE, log entry 62). -/
  t2Fitted : Nat := 2 ^ 42
  conds : List (Nat × LineCond) := []
  /-- Translation copies (R369). -/
  xl : List XlCopy := []
  /-- Range entries that units took at an install, with their host addresses, by unit × 4096 +
  context (R358). -/
  rcopy : List (Nat × List (Option (BitVec 512 × Nat))) := []
  /-- XL_RTAB as those units took it then, by the same keys (R358). -/
  rroot : List (Nat × Word) := []
  /-- This package's index among the peers (R361). -/
  self : Nat := 0
  /-- Peer memories by package index (R221, R241). -/
  peers : List (Nat × Mem) := []
  /-- Stores and updates that peers have not acknowledged, oldest first (R244). -/
  peerq : List PeerWrite := []
  /-- Collective results of released instances (R341). -/
  retained : List Retained := []
  /-- Completion words that wait to be written (R222). -/
  lateWords : List LateWord := []
  pkg : PkgState := .off
  /-- The grade record and the firmware were verified at the last boot (R413). -/
  bootOk : Bool := false
  /-- Time the package entered its state (R419). -/
  stateSince : Nat := 0
  /-- Readings of the sensors at the last sample, in 1/64 K; none for an invalid sensor (R407). -/
  sensors : List (Option Nat) := []
  /-- Times and hottest readings of the samples of the last 60 s, oldest first (R408). -/
  therm : List (Nat × Nat) := []
  rate : Word := 0
  /-- Passes since boot, and symbols corrected in the last pass (R419). -/
  passes : Nat := 0
  corrected : Nat := 0
  /-- Nanoseconds of the patrol pass under way, whether it has met an uncorrectable symbol, and whether a
  pass without one has ended since SOAK was entered (R408, R411). -/
  patrolNs : Nat := 0
  passBad : Bool := false
  /-- Lines with a corrected symbol that the pass under way has read. -/
  fixes : Nat := 0
  passClean : Bool := false
  /-- A retention audit's record is due at the next sample (R412). -/
  auditDue : Bool := false
  refresh : Bool := true
  /-- Timing sets of the 48 channel groups: 0 A, 1 B, 2 C (R407, R410). -/
  sets : List Nat := List.replicate 48 0
  /-- Where RETREAT stands (R410). -/
  retreat : Retreat := .settled
  /-- INFO of the THERMAL_RETREAT record of the RETREAT entry or exit under way (R412). -/
  thermInfo : Nat := 0
  /-- Time of the first of the samples below 97 K up to the last one. -/
  coolFrom : Option Nat := none
  pwrCap : Word := 3200
  /-- Modelled energy since boot in microjoules (R419). -/
  energy : Nat := 0
  /-- Clock steps of the tile domains of pages that hold an instance, by 4 × page + tile; and the domains
  the governor has lowered (R416). -/
  clk : List (Nat × Nat) := []
  lowered : List Nat := []
  time : Nat := 0
  hvec : Nat := 0
  hlost : Nat := 0
  hrval : Word := 0
  hqueue : List TrapRec := []
  /-- Agents held by records: SEQ and record (R309 to R312). -/
  heldRecs : List TrapRec := []
  seqNo : Nat := 0
  flash : Flash := {}
  sep : SepKeys := {}
  /-- The firmware images loaded at the last boot (R401). -/
  fwRun : List (List Byte) := []
  /-- Sessions by number. -/
  sessions : List (Nat × Session) := []
  nextSession : Nat := 1
  /-- Locked interfaces: interface, session and expiry time (R405). -/
  locks : List (Nat × Nat × Nat) := []
  links : List (Nat × Link) := []
  t2links : List (Nat × Link) := []
  /-- Ethernet ports and priorities paused, and flows slowed (R5). -/
  paused : List (Nat × Nat) := []
  slowed : List Nat := []
  /-- RoCEv2 messages that a pause or congestion keeps back, oldest first (R5). -/
  ethq : List OutMsg := []
  /-- Progress counters of watched agents: agent, time of last progress, reported (R317). -/
  watch : List (Watched × Nat × Bool) := []
  out : List OutMsg := []
  agenda : List Pick := []
  focus : Focus := .none
  tx : Tx := .ok
  free : Nat := 0
  /-- Granules written without a FENCE of the writer since, with the writers; and what such granules held before
  (R100). -/
  stale : List (Nat × List (List Byte)) := []
  unfenced : List (Nat × Nat) := []
  wq : List (Nat × Byte) := []
  deriving DecidableEq, Repr

end Sys2Proof.Machine
end

