-- ==== Sys2Proof/Machine/State.lean ====
section
/-! DEFINITION. The machine's state, its stops and its state after reset. -/

namespace Sys2Proof.Machine

/-- The machine: main memory in host physical bytes (R355), and everything else. -/
structure State where
  mem : Mem
  dev : Dev
  deriving DecidableEq, Repr

/-- Why the machine stops with a fault. No rule of the manual stops the machine: every exceptional
event is a trap record, and the machine goes on. -/
inductive Fault
  /-- Raised by `step` when the agenda names a step of another agent that the environment cannot
  bring about, such as an instruction word; safe: the hardware has no such input. -/
  | noSuchEvent
  deriving DecidableEq, Repr

/-- Why an instruction has no meaning here. -/
inductive Refusal
  /-- Raised by a dispatch arm whose instruction is not modelled; safe. -/
  | notModelled (mnemonic : String)
  deriving DecidableEq, Repr

/-- The machine right after reset: the package is OFF, no partition, context or instance exists, and
memory lists nothing (R301, R385, R408; values the manual leaves open: log entries 1 to 7). -/
def State.reset : State := { mem := [], dev := {} }

end Sys2Proof.Machine
end

