-- ==== Sys2Proof/Machine/Ops.lean ====
section
/-! DEFINITION. The named operations over the state: keyed tables, cores, instances, main memory, and
taking an exception and returning from one (R299 to R312). -/

namespace Sys2Proof.Machine

/-! ### Keyed tables, sorted by key -/

/-- The entry of a key. -/
def lookup {α : Type} (k : Nat) : List (Nat × α) → Option α
  | [] => none
  | (j, x) :: rest => if j = k then some x else lookup k rest

/-- A table with the entry of a key set. -/
def insert {α : Type} (k : Nat) (v : α) : List (Nat × α) → List (Nat × α)
  | [] => [(k, v)]
  | (j, x) :: rest =>
    if k < j then (k, v) :: (j, x) :: rest
    else if j = k then (k, v) :: rest
    else (j, x) :: insert k v rest

/-- A table without the entry of a key. -/
def remove {α : Type} (k : Nat) (t : List (Nat × α)) : List (Nat × α) := t.filter (·.1 != k)

/-- A list with one element replaced. -/
def setAt {α : Type} (xs : List α) (k : Nat) (v : α) : List α := xs.set k v

/-! ### Main memory within a step -/

/-- The byte a step sees at a host address: its own latest write, else memory. -/
def rdByte (m : Mem) (d : Dev) (a : Nat) : Byte :=
  match (d.wq.filter (·.1 == a)).getLast? with
  | some w => w.2
  | none => readByte m a

/-- `n` bytes a step sees from a host address. -/
def rdBytes (m : Mem) (d : Dev) (a n : Nat) : List Byte :=
  (List.range n).map fun i => rdByte m d (a + i)

/-- A little-endian value a step sees at a host address. -/
def rdLe (m : Mem) (d : Dev) (a n : Nat) : Nat := Word.ofBytes (rdBytes m d a n)

/-- Who writes in the step under way, for R100: a core's key, 1000 more for the copies it has issued, or 999 for
the agents that issue no FENCE. -/
def Dev.writer (d : Dev) : Nat :=
  match d.focus with
  | .fire id _ | .commit id _ => id.key
  | .engine id => 1000 + id.key
  | .none | .elem _ _ _ _ => 999

/-- Bytes written to host addresses by the step under way (DEDUCED, log entry 16). -/
def Dev.write (d : Dev) (ws : List (Nat × Byte)) : Dev :=
  let gs := ((ws.map fun w => w.1 / 32).eraseDups).filter fun g => !d.unfenced.contains (g, d.writer)
  { d with wq := d.wq ++ ws, unfenced := d.unfenced ++ gs.map fun g => (g, d.writer) }

/-- What unfenced granules that the step under way writes held before it, kept as what a fetch of code may still
find (R100) (DEDUCED, log entry 16). -/
def Dev.keepOld (m : Mem) (d : Dev) : Dev :=
  match d.wq with
  | [] => d
  | ws =>
    let gs := ((ws.map fun w => w.1 / 32).eraseDups).filter fun g => d.unfenced.any (·.1 == g)
    { d with stale := gs.foldl (fun t g =>
        let old := (lookup g t).getD []
        let bs := readBytes m (32 * g) 32
        if old.contains bs then t else insert g (old ++ [bs]) t) d.stale }

/-- Granules that no unfenced write names any more have no older contents (R100). -/
def Dev.settleStale (d : Dev) : Dev :=
  { d with stale := d.stale.filter fun e => d.unfenced.any (·.1 == e.1) }

/-- A FENCE of a core that covers stores at scope PART or wider: what it wrote is seen by every later entry
into a block, and with `copies` what the copies it issued wrote (R100, R203) (DEDUCED, log entry 16). -/
def Dev.fenced (d : Dev) (id : CoreId) (copies : Bool) : Dev :=
  { d with unfenced := d.unfenced.filter fun e =>
      e.2 != id.key && !(copies && e.2 == 1000 + id.key) }.settleStale

/-- Lines whose old contents nothing may find any more (R393). -/
def Dev.forgetOld (d : Dev) (a n : Nat) : Dev :=
  { d with unfenced := d.unfenced.filter fun e => !(a ≤ 32 * e.1 && 32 * e.1 < a + n) }.settleStale

/-- The step of the machine that a change of the device makes: its main-memory writes perform in
order, and the queue of writes is empty again (DESIGN CHOICE, log entry 6). -/
def act (s : State) (f : Mem → Dev → Dev) : Host.Outcome State Fault Refusal :=
  let d := f s.mem { s.dev with wq := [], tx := .ok }
  .next { mem := writeAll s.mem d.wq, dev := { d.keepOld s.mem with wq := [], tx := .ok } }

/-! ### Cores -/

/-- A core as reset leaves it: a system core runs at H (R297) (DESIGN CHOICE, log entry 3). -/
def freshCore (id : CoreId) : Core := { level := if id.isSys then .h else .u }

/-- A core's state. -/
def Dev.core (d : Dev) (id : CoreId) : Core := (lookup id.key d.cores).getD (freshCore id)

/-- The state with one core replaced. -/
def Dev.setCore (d : Dev) (id : CoreId) (c : Core) : Dev :=
  { d with cores := insert id.key c d.cores }

/-- The state with one core changed. -/
def Dev.updCore (d : Dev) (id : CoreId) (f : Core → Core) : Dev := d.setCore id (f (d.core id))

/-- A general register of a core. -/
def Core.reg (c : Core) (k : Fin 32) : GReg := c.g.getD k.val {}

/-- A core with a general register set. -/
def Core.setReg (c : Core) (k : Fin 32) (v : GReg) : Core := { c with g := setAt c.g k.val v }

/-! ### Contexts, partitions, instances -/

/-- A context's registers. -/
def Dev.ctx (d : Dev) (k : Nat) : Context := (lookup k d.ctxs).getD {}
/-- The state with one context changed. -/
def Dev.updCtx (d : Dev) (k : Nat) (f : Context → Context) : Dev :=
  { d with ctxs := insert k (f (d.ctx k)) d.ctxs }
/-- A partition's registers. -/
def Dev.part (d : Dev) (k : Nat) : Partition := (lookup k d.parts).getD {}
/-- The state with one partition changed. -/
def Dev.updPart (d : Dev) (k : Nat) (f : Partition → Partition) : Dev :=
  { d with parts := insert k (f (d.part k)) d.parts }
/-- A counter of a partition's metering increased; the counters run from START (R398) (DEDUCED, log entry 45). -/
def Dev.meter (d : Dev) (k i n : Nat) : Dev :=
  if (d.part k).state == .running then
    d.updPart k fun p => { p with meters := p.meters.modify i (· + n) }
  else d
/-- An instance. -/
def Dev.inst (d : Dev) (k : Nat) : Option Inst := lookup k d.insts
/-- The state with one instance set. -/
def Dev.setInst (d : Dev) (k : Nat) (x : Inst) : Dev := { d with insts := insert k x d.insts }
/-- The state with one instance changed, when it exists. -/
def Dev.updInst (d : Dev) (k : Nat) (f : Inst → Inst) : Dev :=
  match d.inst k with
  | some x => d.setInst k (f x)
  | none => d

/-- The lead CC of an instance: the CC of vpage (0, 0) (R230). -/
def Inst.lead (x : Inst) : Nat := 16 * x.row0 + x.col0

/-- The instance covers a physical page. -/
def Inst.covers (x : Inst) (page : Nat) : Bool :=
  x.row0 ≤ page / 16 && page / 16 < x.row0 + x.h && x.col0 ≤ page % 16 && page % 16 < x.col0 + x.w

/-- The plane active on a page (R347, R348). -/
def Dev.activePlane (d : Dev) (page : Nat) : Nat := (lookup page d.active).getD 0

/-- The instance placed on a page in its active plane, up to its end (R331). -/
def Dev.instOn (d : Dev) (page : Nat) : Option (Nat × Inst) :=
  d.insts.find? fun e => e.2.covers page && e.2.plane == d.activePlane page
    && e.2.phase != .snapshotted

/-- The instance on the page of a core; a system core has none. -/
def Dev.instOf (d : Dev) (id : CoreId) : Option (Nat × Inst) :=
  match id with
  | .cc p => d.instOn p.val
  | .sys _ => none

/-- A tile of an instance. -/
def Inst.tile (x : Inst) (t : Nat) : Option Tile := lookup t x.fab.tiles
/-- An instance with a tile set. -/
def Inst.setTile (x : Inst) (t : Nat) (v : Tile) : Inst :=
  { x with fab := { x.fab with tiles := insert t v x.fab.tiles } }
/-- A virtual port of an instance. -/
def Inst.vp (x : Inst) (v : Nat) : Option Vp := lookup v x.fab.vps
/-- A virtual port as a command names it: no port exists after retirement (R331). -/
def Inst.liveVp (x : Inst) (v : Nat) : Option Vp := if x.retired then none else x.vp v
/-- An instance with a virtual port set. -/
def Inst.setVp (x : Inst) (v : Nat) (p : Vp) : Inst :=
  { x with fab := { x.fab with vps := insert v p x.fab.vps } }

/-- Virtual tile row and column of a tile index (R173). -/
def tileRow (t : Nat) : Nat := t / 32
/-- Virtual tile column of a tile index. -/
def tileCol (t : Nat) : Nat := t % 32

/-- The tile at a corner of a vpage (R14, R109) (DESIGN CHOICE, log entry 52). -/
def tileAt (vx vy : Nat) (c : Corner) : Nat :=
  match c with
  | .nw => 64 * vy + 2 * vx
  | .ne => 64 * vy + 2 * vx + 1
  | .sw => 64 * vy + 32 + 2 * vx
  | .se => 64 * vy + 32 + 2 * vx + 1

/-- The page that holds a virtual tile of an instance. -/
def Inst.pageOf (x : Inst) (t : Nat) : Nat :=
  16 * (x.row0 + tileRow t / 2) + (x.col0 + tileCol t / 2)

/-- A bank of an instance's MT. -/
def Inst.bank (x : Inst) (t b : Nat) : Option Bank :=
  match x.tile t with
  | some { kind := .mt m, .. } => m.banks[b]?
  | _ => none

/-- An instance with a bank set. -/
def Inst.setBank (x : Inst) (t b : Nat) (v : Bank) : Inst :=
  match x.tile t with
  | some tl => match tl.kind with
    | .mt m => x.setTile t { tl with kind := .mt { m with banks := setAt m.banks b v } }
    | .ct _ => x
  | none => x

/-- The MT of an instance's tile. -/
def Inst.mt (x : Inst) (t : Nat) : Option Mt :=
  match x.tile t with
  | some { kind := .mt m, .. } => some m
  | _ => none

/-- An instance with an MT set. -/
def Inst.setMt (x : Inst) (t : Nat) (m : Mt) : Inst :=
  match x.tile t with
  | some tl => x.setTile t { tl with kind := .mt m }
  | none => x

/-- The CT of an instance's tile. -/
def Inst.ct (x : Inst) (t : Nat) : Option Ct :=
  match x.tile t with
  | some { kind := .ct c, .. } => some c
  | _ => none

/-- An instance with a CT set. -/
def Inst.setCt (x : Inst) (t : Nat) (c : Ct) : Inst :=
  match x.tile t with
  | some tl => x.setTile t { tl with kind := .ct c }
  | none => x

/-- A free value and the counter after it (log entry 7). -/
def Dev.fresh (d : Dev) : BitVec 1024 × Dev := (Config.freeBits d.free, { d with free := d.free + 1 })

/-- `n` free bytes and the state after them (log entry 7). -/
def Dev.freshBytes (d : Dev) (n : Nat) : List Byte × Dev :=
  let k := (n + 127) / 128
  (((List.range k).flatMap fun i => Word.toBytes 128 (Config.freeBits (d.free + i)).toNat).take n,
    { d with free := d.free + k })

/-! ### Who a core's accesses are made for -/

/-- The supervisor context of a partition (R297). -/
def Dev.supCtx (d : Dev) (p : Nat) : Nat := ((d.part p).supctx).toNat % 4096

/-- The context of a core's fetches and accesses: the thread's at U, the supervisor's at S (R297). -/
def Dev.accCtx (d : Dev) (id : CoreId) : Nat :=
  let c := d.core id
  match c.level with
  | .u => c.ctx
  | .s => d.supCtx c.part
  | .h => c.ctxsel.toNat % 4096

/-! ### Tenant ids -/

/-- TIDBASE of a partition (R385). -/
def Partition.tidBase (p : Partition) : Nat := Word.bits p.tid.toNat 9 0
/-- TIDCNT. -/
def Partition.tidCnt (p : Partition) : Nat := Word.bits p.tid.toNat 19 10
/-- CTXBASE. -/
def Partition.ctxBase (p : Partition) : Nat := Word.bits p.ctxr.toNat 11 0
/-- The TID of a context (R438). -/
def Dev.tidOf (d : Dev) (part ctx : Nat) : Nat :=
  let p := d.part part
  p.tidBase + (if p.tidCnt == 0 then 0 else (ctx - p.ctxBase) % p.tidCnt)

/-- The TID of H (R368). -/
def tidH : Nat := 0x3FF

/-! ### Trap records (R302 to R306) -/

/-- Priority of a cause (R303). -/
def causePriority (c : Nat) : Nat :=
  match c with
  | 0x01 => 1 | 0x02 => 2 | 0x03 => 3 | 0x04 => 4 | 0x05 => 5 | 0x06 => 6 | 0x07 => 7 | 0x08 => 8
  | 0x09 => 16 | 0x0A => 15 | 0x0B => 14 | 0x0C => 13 | 0x0D => 21 | 0x0E => 26 | 0x0F => 10
  | 0x10 => 11 | 0x11 => 24 | 0x12 => 23 | 0x13 => 22 | 0x14 => 9 | 0x15 => 19 | 0x16 => 20
  | 0x17 => 17 | 0x18 => 18 | 0x19 => 25 | 0x1A => 12 | _ => 99

/-- Names of the causes (R303). -/
def cILLEGAL : Nat := 0x01
def cPRIV : Nat := 0x02
def cMISALIGNED : Nat := 0x03
def cTRANSLATION : Nat := 0x04
def cPERMISSION : Nat := 0x05
def cREMOTE : Nat := 0x06
def cSEALED : Nat := 0x07
def cKEYMISMATCH : Nat := 0x08
def cINTEGRITY : Nat := 0x09
def cUNCORRECTABLE : Nat := 0x0A
def cMISDIRECTED : Nat := 0x0B
def cTENANT : Nat := 0x0C
def cSCHEDMISS : Nat := 0x0D
def cPOISONREPORT : Nat := 0x0E
def cVGONE : Nat := 0x0F
def cVDUP : Nat := 0x10
def cLENGTH : Nat := 0x11
def cWATCHDOG : Nat := 0x12
def cCFGINVALID : Nat := 0x13
def cKEYNOTREADY : Nat := 0x14
def cTHERMAL : Nat := 0x15
def cPREEMPT : Nat := 0x16
def cSYSCALL : Nat := 0x17
def cBREAK : Nat := 0x18
def cMIGOVF : Nat := 0x19
def cHEAVY : Nat := 0x1A

/-- A field of a wide word. -/
def fld (v pos : Nat) : Nat := v <<< pos

/-- The 512 bits of a trap record (R305). -/
def TrapRec.bits (r : TrapRec) (deleg : Bool := false) : BitVec 512 :=
  BitVec.ofNat 512
    (fld (r.cause % 256) 0 + fld (r.cls % 4) 8 + fld (r.olev % 4) 10 + fld (if deleg then 1 else 0) 12
    + fld (if r.more then 1 else 0) 13 + fld (if r.stage2 then 1 else 0) 14
    + fld (if r.corr then 1 else 0) 15 + fld (r.part % 16) 16 + fld (r.ctx % 4096) 20
    + fld (r.tid % 1024) 32 + fld (if r.noag then 1 else 0) 42 + fld (r.seqNo % 2 ^ 32) 64
    + fld (r.cfgid % 65536) 96 + fld (min r.count 65535) 112 + fld (r.addr % 2 ^ 64) 128
    + fld (r.round % 2 ^ 64) 192 + fld (r.record % 2 ^ 64) 256 + fld (r.tcol % 32) 320
    + fld (r.trow % 16) 325 + fld (r.blk % 16) 329 + fld (r.slot % 128) 333
    + fld (if r.hdr then 1 else 0) 340 + fld (r.port % 16) 341 + fld (if r.pv then 1 else 0) 345
    + fld (r.info % 2 ^ 64) 384)

/-- The record that is taken first: lowest priority number, then lowest SEQ (R304). -/
def firstRec (rs : List TrapRec) : Option TrapRec :=
  rs.foldl (fun acc r => match acc with
    | none => some r
    | some a =>
      if causePriority r.cause < causePriority a.cause ||
        (causePriority r.cause == causePriority a.cause && r.seqNo < a.seqNo) then some r
      else some a) none

/-- The handler of a cause is H: MISDIRECTED_ACCESS, TENANT_CHECK_FAIL, and the stage-2 faults
(R303). -/
def handlerH (r : TrapRec) : Bool :=
  r.cause == cMISDIRECTED || r.cause == cTENANT || r.stage2 || r.toH

/-- The bit of TRAP_DELEG for a cause (R313). -/
def delegBit (cause : Nat) : Option Nat :=
  if cause == cPOISONREPORT then some 0 else if cause == cSCHEDMISS then some 1
  else if cause == cVGONE then some 2 else if cause == cVDUP then some 3 else none

/-- The cause is delegated and the event ring is on (R309, R313). -/
def Dev.delegated (d : Dev) (r : TrapRec) : Bool :=
  let x := d.ctx r.ctx
  (r.olev == 0 || r.olev == 3) && x.evBase != 0 && x.evSize != 0 && match delegBit r.cause with
    | some k => x.deleg.getLsbD k
    | none => false

/-- Takes the next SEQ for a record (R305). -/
def Dev.stamp (d : Dev) (r : TrapRec) : TrapRec × Dev :=
  ({ r with seqNo := d.seqNo }, { d with seqNo := (d.seqNo + 1) % 2 ^ 32 })

/-- A record put into the H queue: reports find 64 entries, a record that holds an agent always has
room (R312). -/
def Dev.postH (d : Dev) (r : TrapRec) : Dev :=
  if r.holds then { d with hqueue := d.hqueue ++ [r], heldRecs := d.heldRecs ++ [r] }
  else if (d.hqueue.filter (!·.holds)).length ≥ 64 then
    { d with hlost := min (d.hlost + 1) 0xFFFFFFFF }
  else { d with hqueue := d.hqueue ++ [r] }

/-- A record put into the S queue of a CC: reports find 16 entries, a record that holds an agent
always has room (R310). -/
def Dev.postS (d : Dev) (page : Nat) (r : TrapRec) : Dev :=
  d.updCore (coreOfKey (page % 128)) fun c =>
    if r.holds || (c.queue.filter (!·.holds)).length < 16 then { c with queue := c.queue ++ [r] }
    else { c with lost := min (c.lost + 1) 0xFFFFFFFF }

/-- A record posted by cases 2, 3 and 5 of R309; `page` is the CC of case 5. UNCORRECTABLE_ECC goes
to S with a copy to H (R303). -/
def Dev.post (d : Dev) (page : Nat) (r0 : TrapRec) : Dev :=
  let (r, d) := d.stamp { r0 with page := page }
  if handlerH r then d.postH r
  else if d.delegated r then d.updCtx r.ctx fun x => { x with evq := x.evq ++ [r] }
  else
    let d := d.postS page r
    if r.cause == cUNCORRECTABLE then d.postH { r with holds := false } else d

/-- A report on the code of a core: on a system core it waits there for the next block boundary, whatever its cause
(case 1 of R309); on a CC cases 2, 3 and 5 apply (R303) (DEDUCED, log entry 63). -/
def Dev.postCore (d : Dev) (id : CoreId) (r0 : TrapRec) : Dev :=
  match id with
  | .cc p => d.post p.val r0
  | .sys _ =>
    let (r, d) := d.stamp r0
    d.updCore id fun c => { c with queue := c.queue ++ [r] }

/-! ### Taking an exception (R307, R308) -/

/-- Entry at H on a system core or at S on a CC, with the record, the block RTE returns to, and
whether a configuration is held (R308). -/
def Dev.enterTrap (d : Dev) (id : CoreId) (r : TrapRec) (epc : Nat) : Dev :=
  let vec := if id.isSys then d.hvec else (d.part (d.core id).part).svec
  d.updCore id fun c =>
    let dead := match c.thread with
      | .none | .halted => true
      | .live | .held _ | .wfi _ => false
    { c with
      record := r.bits
      epc := epc
      entry := if r.cls == 1 then some r else none
      st := { ie := false
              pie := if c.level == .u then true else c.st.ie
              plev := c.level
              inh := true
              hold := r.cls == 1
              act := false
              halted := dead && !id.isSys
              skipbrk := false
              stepOn := false }
      ctxsel := BitVec.ofNat 16 (r.ctx % 4096 + 4096 * (r.part % 16))
      level := if id.isSys then .h else .s
      next := vec / 16 * 16
      frame := none
      stepArmed := false
      skipArmed := false
      thread := .live }

/-- A precise record of class 0 or 3 raised on a core (R309): `epc` is the faulted block for class 0
and the next block for class 3. Cases 1 to 4: entry at H on a system core; held with the record at H
or in the event ring; entry at S; or a double fault. -/
def Dev.raise (d : Dev) (id : CoreId) (r0 : TrapRec) (epc : Nat) : Dev :=
  let c := d.core id
  if id.isSys then
    let (r, d) := d.stamp r0
    d.enterTrap id r epc
  else
    let hold (d : Dev) (r : TrapRec) : Dev := d.updCore id fun c =>
      { c with thread := .held r.seqNo, frame := none, next := epc
               stepArmed := false }
    let (r, d) := d.stamp { r0 with holds := true }
    if handlerH r then (hold d r).postH r
    else if d.delegated r then
      (hold d r).updCtx r.ctx fun x => { x with evq := x.evq ++ [r] }
    else if c.level == .s && c.st.inh then (hold d r).postH r
    else d.enterTrap id { r with holds := false } epc

/-- Returns a core from its handler (R323): the level, IE and INH are restored, and the next block is
EPC. The release of a held configuration is `rteRelease`. -/
def Core.returnFromTrap (c : Core) (id : CoreId) : Core :=
  { c with
    level := if id.isSys then .h else c.st.plev
    st := { c.st with ie := c.st.pie, inh := false }
    stepArmed := c.st.stepOn
    skipArmed := c.st.skipbrk
    thread := if c.st.halted then .halted else .live
    next := c.epc
    entry := none
    frame := none }

/-! ### Where a record or a poison origin stands -/

/-- Column and row of a core as origin words and records give them (R63, R305). -/
def Dev.coreLoc (d : Dev) (id : CoreId) : Nat × Nat :=
  match id with
  | .sys _ => (0x1F, 0xF)
  | .cc p => match d.instOn p.val with
    | some (_, x) => (p.val % 16 - x.col0, p.val / 16 - x.row0)
    | none => (0x10 + p.val % 16, p.val / 16)

/-- A control record of a core, without its cause. -/
def Dev.coreRec (d : Dev) (id : CoreId) : TrapRec :=
  let c := d.core id
  let (col, row) := d.coreLoc id
  { cause := 0, cls := 0, olev := c.level.rank, part := if id.isSys then 0 else c.part
    ctx := if id.isSys then 0 else d.accCtx id
    tid := if id.isSys then tidH else d.tidOf c.part (d.accCtx id)
    cfgid := match d.instOf id with
      | some (k, _) => k
      | none => 0xFFFF
    tcol := col, trow := row }

/-- A precise fault at a slot of a core's block, with its address and INFO (R306): the block does
not commit. -/
def Dev.faultAt (d : Dev) (id : CoreId) (blk cause addr info slot : Nat) : Dev :=
  let stage2 := info ≥ 2 ^ 64
  d.raise id { d.coreRec id with
    cause := cause, addr := addr, info := info % 2 ^ 64, slot := slot, stage2 := stage2 } blk

/-- The commit under way traps: nothing of the block takes effect. -/
def Dev.txTrap (d : Dev) (cause addr info slot : Nat) : Dev :=
  if d.tx = .ok then { d with tx := .trap cause addr info slot } else d

/-- The commit under way waits. -/
def Dev.txWait (d : Dev) : Dev := if d.tx = .ok then { d with tx := .wait } else d

/-- An element fault of a record, collected until the round is void (R40, R304). -/
def Dev.elemFault (d : Dev) (cfg tile blk slot record cause addr info : Nat) : Dev :=
  d.updInst cfg fun x => { x with faults := x.faults ++
    [{ cause := cause, cls := 1, olev := 3, part := x.part, ctx := x.ctx, cfgid := cfg
       round := x.fab.round, record := record, tcol := tileCol tile, trow := tileRow tile
       blk := blk, slot := slot, addr := addr, info := info % 2 ^ 64
       stage2 := info ≥ 2 ^ 64 : TrapRec }] }

end Sys2Proof.Machine
end

