-- ==== Sys2Proof/Machine/Flags.lean ====
section
/-! DEFINITION. The side bits of results: poison and its origin words (R63 to R66), null (R28, R29) and
the end mark (R116). -/

namespace Sys2Proof.Machine

/-- A poison origin word (R63). -/
def originWord (cm : Bool) (col row slot cause : Nat) : BitVec 24 :=
  BitVec.ofNat 24 ((if cm then 2 ^ 23 else 0) + col % 32 * 2 ^ 18 + row % 16 * 2 ^ 14
    + slot % 128 * 2 ^ 7 + cause % 128)

/-- The cause a lane generates: the lower code when it generates two (R64, R65, R66). -/
def laneCause (pp : Ppol) (o : LaneOut) : Option Nat :=
  match pp with
  | .off => none
  | .plain => if o.invalid then some 1 else if o.divZero then some 2
      else if o.intDiv then some 4 else none
  | .nanToo => if o.invalid then some 1 else if o.divZero then some 2
      else if o.nanIn then some 3 else if o.intDiv then some 4 else none

/-- The cause of the lowest lane that generates one (R66). -/
def lanesCause (pp : Ppol) (ls : List LaneOut) : Option Nat := ls.findSome? (laneCause pp)

/-- Bits 31:0 of a predicate token are not all zero (R28). -/
def predTrue (t : Tok) : Bool := t.data.toNat % 2 ^ 32 != 0

/-- The predicate lets the instruction compute (R28, R29). -/
def predLets (pm : Pm) (t : Tok) : Bool :=
  match pm with
  | .none => true
  | .onTrue => !t.n && predTrue t
  | .onFalse => !t.n && !predTrue t

/-- Origin of the first poisoned token (R66). -/
def firstPoison : List Tok → Option (BitVec 24)
  | [] => none
  | t :: ts => if t.p then some t.org else firstPoison ts

/-- What an instruction delivers before its side bits are settled. -/
inductive Res
  /-- No result. -/
  | none
  /-- Lanes with the causes they generate. -/
  | alu (o : AluOut)
  /-- DATA with the origin of new poison, if any. -/
  | data (x : Data) (org : Option (BitVec 24))
  /-- A done token: DATA zero and P = 0 (R196). -/
  | done
  /-- The token stands as the instruction's entry gives it. -/
  | tok (t : Tok)
  /-- A null token, of a firing that does not compute for a reason of its own (R178). -/
  | null
  deriving DecidableEq, Repr

/-- The operands a firing consumes and what follows from them. -/
structure Gathered where
  a : Tok := {}
  b : Tok := {}
  c : Tok := {}
  computes : Bool := true
  /-- The predicate is not null and is against computing. -/
  predOff : Bool := false
  /-- Origin of the first poisoned operand (R66). -/
  org : Option (BitVec 24) := .none
  /-- L of the result (R116). -/
  l : Bool := false
  /-- Data operands carry different L bits (R116). -/
  mixed : Bool := false
  /-- Data operands that carry L = 0, when they differ: l, r and t. -/
  lag : Bool × Bool × Bool := (false, false, false)
  deriving DecidableEq, Repr

/-- The token delivered, with P, L, N and origin by R29, R66, R115 and R116, in a block of
control or element mode. `origin` builds a new origin word from a cause. A MOVI, MOVH, LCNT or LIDX that
computes by a poisoned predicate delivers that poison, as R66 and R115 have it, although its own entry gives P = 0
(DESIGN CHOICE, log entry 54). -/
def settle (ctl : Bool) (pp : Ppol) (origin : Nat → BitVec 24) (g : Gathered) (r : Res) :
    Option Tok :=
  let mark : Tok → Tok := fun t =>
    if g.mixed && !t.n then
      { t with p := true, l := true, org := (g.org.getD (origin 5)) }
    else t
  let nul : Option Tok := some { n := true, l := g.l }
  let pois : Data → Option (BitVec 24) → Option Tok := fun x w =>
    some (mark { data := x, l := g.l, p := (firstOrg g.org w).isSome
                 org := (firstOrg g.org w).getD 0 })
  if !g.computes then nul
  else match r with
    | .none => .none
    | .null => nul
    | .done => some (mark { l := g.l })
    | .tok t => some (mark t)
    | .data x w => pois x w
    | .alu o => pois (o.data ctl) ((lanesCause pp o.lanes).map origin)

end Sys2Proof.Machine
end

