-- ==== Sys2Proof/Machine/Banks.lean ====
section
/-! DEFINITION. Memory-tile banks: MT addresses (R173), buffers, fills and holds (R171, R178), rows
(R195), versioned words (R198), barrier counters (R204), and the binding slots of a compute tile
(R172). -/

namespace Sys2Proof.Machine

/-- Bytes of a bank (R14). -/
def bankBytes : Nat := 393216
/-- Rows of a FIFO or LINE ring (R170). -/
def ringRows : Nat := 3072

/-- An MT address (R173). -/
def mtAddr (tile bank ofs : Nat) : Nat :=
  2 ^ 63 + tileRow tile % 16 * 2 ^ 28 + tileCol tile % 32 * 2 ^ 23 + bank % 16 * 2 ^ 19
    + ofs % 2 ^ 19

/-- Tile that VROW and VCOL of an MT address name. -/
def mtTile (a : Nat) : Nat := 32 * Word.bits a 31 28 + Word.bits a 27 23
/-- BANK of an MT address. -/
def mtBank (a : Nat) : Nat := Word.bits a 22 19
/-- OFS of an MT address. -/
def mtOfs (a : Nat) : Nat := Word.bits a 18 0
/-- MTA is 1 and RSV is zero. -/
def mtWellFormed (a : Nat) : Bool := Word.bit a 63 && Word.bits a 62 32 == 0

/-! ### Buffers, fills and holds -/

/-- Bytes of one buffer. -/
def Bank.bufSize (b : Bank) : Nat := bankBytes / b.nbuf
/-- First byte of a buffer. -/
def Bank.bufBase (b : Bank) (k : Nat) : Nat := k * b.bufSize
/-- The buffer at the fill pointer is FULL. -/
def Bank.fillFull (b : Bank) : Bool := b.full.contains b.fillPtr
/-- The buffer at the read pointer is FULL. -/
def Bank.readFull (b : Bank) : Bool := b.full.contains b.readPtr

/-- A fill completes: FULL is set and the fill pointer advances (R171). -/
def Bank.endFill (b : Bank) : Bank :=
  { b with full := b.full ++ [b.fillPtr], fillPtr := (b.fillPtr + 1) % b.nbuf, fillRow := 0 }

/-- The buffer at the read pointer is released (R171). -/
def Bank.release (b : Bank) : Bank :=
  { b with
    full := b.full.filter (· != b.readPtr)
    readPtr := (b.readPtr + 1) % b.nbuf
    holds := []
    caps := b.caps.map fun c =>
      if c.buf == b.readPtr && !c.released then { c with released := true } else c }

/-- The key of a binding among the holds of a bank: its tile and its slot. -/
def holdKey (tile k : Nat) : Nat := 16 * tile + k

/-- One hold of the fill that a binding armed is released; the buffer goes with the last hold of every binding
(R171, R178) (DEDUCED, log entry 53). -/
def Bank.dropHold (b : Bank) (key : Nat) : Bank :=
  match lookup key b.holds with
  | none => b
  | some (n, r) =>
    let left := if n ≤ 1 then remove key b.holds else insert key (n - 1, r) b.holds
    if left.isEmpty then b.release else { b with holds := left }

/-- One hold released by a reader that no binding names: the first there is (DEDUCED, log entry 53). -/
def Bank.dropAnyHold (b : Bank) : Bank :=
  match b.holds with
  | [] => b
  | (key, _) :: _ => b.dropHold key

/-- The fill that a binding armed serves record `r` (R178). -/
def Bank.armedFor (b : Bank) (key r : Nat) : Bool :=
  match lookup key b.holds with
  | some (_, n) => r ≤ n
  | none => false

/-- A bank with its buffers and its ring empty, and its pointers at 0 (R174). -/
def Bank.emptied (b : Bank) : Bank :=
  { b with full := [], fillPtr := 0, readPtr := 0, holds := [], fillRow := 0, head := 0, tail := 0 }

/-! ### Bytes, elements and rows -/

/-- A bank with bytes written from an offset on, each granule counting the write (R274). -/
def Bank.write (b : Bank) (off : Nat) (bs : List Byte) : Bank :=
  let grans := (List.range ((off + bs.length + 31) / 32 - off / 32)).map (off / 32 + ·)
  { b with
    bytes := writeAll b.bytes (bytesAt off bs)
    writes := grans.foldl (fun l g => insert g ((lookup g l).getD 0 + 1) l) b.writes }

/-- An element of `s` bytes. -/
def Bank.elem (b : Bank) (off s : Nat) : Nat := readLe b.bytes off s
/-- A bank with an element of `s` bytes written. -/
def Bank.setElem (b : Bank) (off s v : Nat) : Bank :=
  b.write off (Word.toBytes s v)
/-- A row of 128 bytes. -/
def Bank.row (b : Bank) (off : Nat) : Data := BitVec.ofNat 1024 (readLe b.bytes off 128)
/-- The S flag of a row (R171). -/
def Bank.rowS (b : Bank) (off : Nat) : Bool := b.sflags.contains (off / 128)
/-- A bank with a row and its S flag written. -/
def Bank.setRow (b : Bank) (off : Nat) (x : Data) (s : Bool) : Bank :=
  { b.write off (Word.toBytes 128 x.toNat) with
    sflags := (b.sflags.filter (· != off / 128)) ++ (if s then [off / 128] else [])
    bad := b.bad.filter fun g => !(off / 32 ≤ g && g < off / 32 + 4) }

/-- A read of `n` bytes meets an uncorrectable granule (R175). -/
def Bank.badAt (b : Bank) (off n : Nat) : Bool :=
  b.bad.any fun g => off < 32 * g + 32 && 32 * g < off + n

/-- Rows live in a FIFO or LINE ring. -/
def Bank.live (b : Bank) : Nat := b.head - b.tail
/-- Byte offset of a ring position. -/
def ringOff (p : Nat) : Nat := p % ringRows * 128

/-! ### Versioned words (R198) and barrier counters (R204) -/

/-- A versioned word. -/
def Bank.vword (b : Bank) (w : Nat) : VWord := (lookup w b.words).getD {}
/-- A bank with a versioned word set. -/
def Bank.setVword (b : Bank) (w : Nat) (v : VWord) : Bank := { b with words := insert w v b.words }

/-- How a versioned access ends. -/
inductive VRes (α : Type)
  | wait
  | gone
  | dup
  | ok (x : α)
  deriving DecidableEq, Repr

/-- STV (R198). -/
def VWord.stv (v : VWord) (n : Nat) (x : Word) : VRes VWord :=
  if v.live.length ≥ 4 then .wait
  else if n < v.floor then .gone
  else if v.live.any (·.1 == n) then .dup
  else .ok { v with live := v.live ++ [(n, x)] }

/-- LDV (R198). -/
def VWord.ldv (v : VWord) (n : Nat) : VRes Word :=
  if n < v.floor then .gone
  else match lookup n v.live with
    | some x => .ok x
    | none => .wait

/-- VRECL (R198). -/
def VWord.vrecl (v : VWord) (n : Nat) : VWord :=
  { v with floor := max v.floor n, live := v.live.filter fun p => n ≤ p.1 }

/-- VRECL by control code, which no rewind undoes (R198, R200). -/
def VWord.vreclCtl (v : VWord) (n : Nat) : VWord := { v.vrecl n with ctl := max v.ctl n }

/-- A VRECL by element code undone: the floor it found and the pairs it removed are back, but for what control
code has retired since (R200). -/
def VWord.undoVrecl (v : VWord) (floor : Nat) (gone : List (Nat × Word)) : VWord :=
  { v with floor := max floor v.ctl, live := v.live ++ gone.filter fun p => v.ctl ≤ p.1 }

/-- INFO of VERSION_GONE and VERSION_DUPLICATE (R306). -/
def vInfo (n floor : Nat) : Nat := n % 2 ^ 32 + floor % 2 ^ 32 * 2 ^ 32

/-- A barrier counter. -/
def Mt.counter (m : Mt) (k : Nat) : BitVec 32 := m.bc.getD k 0
/-- An MT with an increment added to a barrier counter (R204). -/
def Mt.bara (m : Mt) (k : Nat) (inc : BitVec 32) : Mt :=
  { m with bc := setAt (m.bc ++ List.replicate (16 - m.bc.length) 0) k (m.counter k + inc) }
/-- The test of BARW (R204). -/
def barrierMet (ctr target : BitVec 32) : Bool := (ctr - target).toNat < 2 ^ 31

/-! ### Binding slots (R172) -/

/-- The tile and bank of a binding slot. -/
def Ct.bound (c : Ct) (k : Nat) : Option Binding := (c.binds.getD k none)

/-- The bank a binding slot of a compute tile names. -/
def Inst.bound (x : Inst) (tile k : Nat) : Option (Binding × Bank) :=
  match x.ct tile with
  | none => none
  | some c => match c.bound k with
    | none => none
    | some bd => (x.bank bd.tile bd.bank).map fun b => (bd, b)

/-- The binding is skipped for a record (R178). -/
def Inst.skipped (x : Inst) (tile k r : Nat) : Bool :=
  match x.ct tile with
  | some c => c.skips.contains (k, r)
  | none => false

/-- One hold of a binding's armed fill is released for a record, unless it is skipped (R178). -/
def Inst.dropHold (x : Inst) (tile k r : Nat) : Inst :=
  if x.skipped tile k r then x
  else match x.bound tile k with
    | some (bd, b) => x.setBank bd.tile bd.bank (b.dropHold (holdKey tile k))
    | none => x

/-! ### Element addresses (R193) -/

/-- The element index each lane reaches; `none` accesses nothing (R193). -/
def laneIdx (mode : MemMode) (stx n : Nat) (a : Data) (off : Int) : List (Option Int) :=
  let a0 := laneOf 32 a 0
  match mode with
  | .lane => (List.range n).map fun l =>
      let v := laneOf 32 a l
      if v == 0xFFFFFFFF then none else some ((v : Int) + off)
  | .scalar => (List.range n).map fun (l : Nat) =>
      if a0 == 0xFFFFFFFF then none else some ((a0 : Int) + off + (l : Int))
  | .bcast => (List.range n).map fun _ => if a0 == 0xFFFFFFFF then none else some ((a0 : Int) + off)
  | .strided => (List.range n).map fun l =>
      if a0 == 0xFFFFFFFF then none else some ((a0 : Int) + off + ((l * 2 ^ stx : Nat) : Int))

/-- An element index of `s` bytes lies in the bank (R193). -/
def idxOk (s : Nat) (e : Int) : Bool := 0 ≤ e && (e.toNat + 1) * s ≤ bankBytes

/-- The first index outside the bank. -/
def badIdx (s : Nat) (es : List (Option Int)) : Option Int :=
  es.findSome? fun e => match e with
    | some v => if idxOk s v then none else some v
    | none => none

/-- OFS of a fault for an element index. -/
def faultOfs (s : Nat) (e : Int) : Nat := Word.wrap (e * (s : Int)) 19

end Sys2Proof.Machine
end

