-- ==== Sys2Proof/Machine/Crypto.lean ====
section
/-! DEFINITION. The published ciphers R5 names: SM3 (GB/T 32905), HMAC over it, and SM4 (GB/T 32907) in
counter mode (R273) and in the XTS construction of IEEE 1619 (R362). Their internals are taken from
those standards; log entry 10. -/

namespace Sys2Proof

/-- A big-endian number. -/
def Word.ofBytesBe (bs : List Byte) : Nat := bs.foldl (fun acc b => acc * 256 + b.toNat) 0
/-- The `n` big-endian bytes of a number. -/
def Word.toBytesBe (n x : Nat) : List Byte := (Word.toBytes n x).reverse

/-- Rotation of a 32-bit word to the left. -/
def rol32 (x : BitVec 32) (n : Nat) : BitVec 32 := x.rotateLeft (n % 32)

/-! ### SM3 -/

/-- The message expansion of one block: words 16 to 67 appended. -/
def sm3Expand : Nat → List (BitVec 32) → List (BitVec 32)
  | 0, w => w
  | n + 1, w =>
    let j := w.length
    let at_ := fun k => w.getD (j - k) 0
    let x := at_ 16 ^^^ at_ 9 ^^^ rol32 (at_ 3) 15
    sm3Expand n (w ++ [x ^^^ rol32 x 15 ^^^ rol32 x 23 ^^^ rol32 (at_ 13) 7 ^^^ at_ 6])

/-- The working words of SM3. -/
structure Sm3 where
  a : BitVec 32
  b : BitVec 32
  c : BitVec 32
  d : BitVec 32
  e : BitVec 32
  f : BitVec 32
  g : BitVec 32
  h : BitVec 32
  deriving DecidableEq, Repr

/-- One round of the compression function. -/
def sm3Round (w : List (BitVec 32)) (s : Sm3) (j : Nat) : Sm3 :=
  let t : BitVec 32 := if j < 16 then 0x79CC4519 else 0x7A879D8A
  let a12 := rol32 s.a 12
  let ss1 := rol32 (a12 + s.e + rol32 t j) 7
  let ff := if j < 16 then s.a ^^^ s.b ^^^ s.c
    else (s.a &&& s.b) ||| (s.a &&& s.c) ||| (s.b &&& s.c)
  let gg := if j < 16 then s.e ^^^ s.f ^^^ s.g else (s.e &&& s.f) ||| (~~~s.e &&& s.g)
  let t1 := ff + s.d + (ss1 ^^^ a12) + (w.getD j 0 ^^^ w.getD (j + 4) 0)
  let t2 := gg + s.h + ss1 + w.getD j 0
  { a := t1, b := s.a, c := rol32 s.b 9, d := s.c
    e := t2 ^^^ rol32 t2 9 ^^^ rol32 t2 17, f := s.e, g := rol32 s.f 19, h := s.g }

/-- The compression of one 64-byte block. -/
def sm3Block (v : Sm3) (blk : List Byte) : Sm3 :=
  let w0 := (List.range 16).map fun i =>
    BitVec.ofNat 32 (Word.ofBytesBe ((blk.drop (4 * i)).take 4))
  let w := sm3Expand 52 w0
  let s := (List.range 64).foldl (sm3Round w) v
  { a := v.a ^^^ s.a, b := v.b ^^^ s.b, c := v.c ^^^ s.c, d := v.d ^^^ s.d
    e := v.e ^^^ s.e, f := v.f ^^^ s.f, g := v.g ^^^ s.g, h := v.h ^^^ s.h }

/-- The SM3 hash of a byte string (PRESUMED, log entry 10). -/
def sm3 (msg : List Byte) : List Byte :=
  let n := msg.length
  let pad := msg ++ [0x80] ++ List.replicate ((119 - n % 64) % 64) 0 ++ Word.toBytesBe 8 (8 * n)
  let iv : Sm3 := { a := 0x7380166F, b := 0x4914B2B9, c := 0x172442D7, d := 0xDA8A0600
                    e := 0xA96F30BC, f := 0x163138AA, g := 0xE38DEE4D, h := 0xB0FB0E4E }
  let s := (List.range (pad.length / 64)).foldl
    (fun v i => sm3Block v ((pad.drop (64 * i)).take 64)) iv
  [s.a, s.b, s.c, s.d, s.e, s.f, s.g, s.h].flatMap fun x => Word.toBytesBe 4 x.toNat

/-- HMAC over SM3 for keys of at most 64 bytes (PRESUMED, log entry 10). -/
def hmacSm3 (key msg : List Byte) : List Byte :=
  let k := key ++ List.replicate (64 - key.length) 0
  sm3 (k.map (· ^^^ 0x5C) ++ sm3 (k.map (· ^^^ 0x36) ++ msg))

/-! ### SM4 -/

/-- Multiplication by x in the field of SM4's substitution, x^8+x^7+x^6+x^5+x^4+x^2+1. -/
def gfDouble (a : Nat) : Nat := if a < 128 then 2 * a else (2 * a) ^^^ 0x1F5
/-- Multiplication in that field. -/
def gfMul : Nat → Nat → Nat → Nat
  | 0, _, _ => 0
  | n + 1, a, b => (if b % 2 == 1 then a else 0) ^^^ gfMul n (gfDouble a) (b / 2)
/-- The square in that field. -/
def gfSq (a : Nat) : Nat := gfMul 8 a a
/-- The inverse, a^254, with 0 for 0. -/
def gfInv (a : Nat) : Nat :=
  let a2 := gfSq a
  let a4 := gfSq a2
  let a8 := gfSq a4
  let a16 := gfSq a8
  let a32 := gfSq a16
  let a64 := gfSq a32
  let a128 := gfSq a64
  let m := gfMul 8
  m a128 (m a64 (m a32 (m a16 (m a8 (m a4 a2)))))
/-- The affine map of SM4's substitution: the circulant matrix of 0xA7, then 0xD3. -/
def sm4Affine (x : Nat) : Nat :=
  (List.range 8).foldl (fun acc i =>
    let row := ((0xA7 <<< i) ||| (0xA7 >>> (8 - i))) % 256
    let par := (List.range 8).foldl (fun p k => p ^^^ ((row &&& x) >>> k) % 2) 0
    acc + par * 2 ^ i) 0 ^^^ 0xD3
/-- SM4's substitution. -/
def sm4Sub (x : Nat) : Nat := sm4Affine (gfInv (sm4Affine (x % 256)))
/-- The substitution of the four bytes of a word. -/
def sm4Tau (x : BitVec 32) : BitVec 32 :=
  BitVec.ofNat 32 (Word.ofBytes ((Word.toBytes 4 x.toNat).map fun b =>
    BitVec.ofNat 8 (sm4Sub b.toNat)))

/-- The four words of a 16-byte block. -/
def sm4Words (bs : List Byte) : List (BitVec 32) :=
  (List.range 4).map fun i => BitVec.ofNat 32 (Word.ofBytesBe ((bs.drop (4 * i)).take 4))

/-- CK of SM4's key schedule. -/
def sm4Ck (i : Nat) : BitVec 32 :=
  BitVec.ofNat 32 ((List.range 4).foldl (fun acc j => acc * 256 + (4 * i + j) * 7 % 256) 0)

/-- Round keys, newest first, from the four latest key words. -/
def sm4Keys : Nat → Nat → List (BitVec 32) → List (BitVec 32)
  | 0, _, _ => []
  | n + 1, i, k =>
    let b := sm4Tau (k.getD 1 0 ^^^ k.getD 2 0 ^^^ k.getD 3 0 ^^^ sm4Ck i)
    let x := k.getD 0 0 ^^^ b ^^^ rol32 b 13 ^^^ rol32 b 23
    x :: sm4Keys n (i + 1) (k.drop 1 ++ [x])

/-- The 32 round keys of a key. -/
def sm4Schedule (key : BitVec 128) : List (BitVec 32) :=
  let fk : List (BitVec 32) := [0xA3B1BAC6, 0x56AA3350, 0x677D9197, 0xB27022DC]
  sm4Keys 32 0 (List.zipWith (· ^^^ ·) (sm4Words (Word.toBytesBe 16 key.toNat)) fk)

/-- The rounds of SM4 under some round keys. -/
def sm4Rounds (rks : List (BitVec 32)) (x : List (BitVec 32)) : List (BitVec 32) :=
  rks.foldl (fun x rk =>
    let b := sm4Tau (x.getD 1 0 ^^^ x.getD 2 0 ^^^ x.getD 3 0 ^^^ rk)
    x.drop 1 ++ [x.getD 0 0 ^^^ b ^^^ rol32 b 2 ^^^ rol32 b 10 ^^^ rol32 b 18 ^^^ rol32 b 24]) x

/-- SM4 over one block with the round keys in the order given. -/
def sm4Run (rks : List (BitVec 32)) (blk : List Byte) : List Byte :=
  (sm4Rounds rks (sm4Words blk)).reverse.flatMap fun x => Word.toBytesBe 4 x.toNat

/-- SM4 encryption of one 16-byte block (PRESUMED, log entry 10). -/
def sm4Enc (key : BitVec 128) (blk : List Byte) : List Byte := sm4Run (sm4Schedule key) blk
/-- SM4 decryption of one 16-byte block. -/
def sm4Dec (key : BitVec 128) (blk : List Byte) : List Byte := sm4Run (sm4Schedule key).reverse blk

/-- Bytes exclusive-ored. -/
def xorBytes (a b : List Byte) : List Byte := List.zipWith (· ^^^ ·) a b

/-- The keystream block at byte offset `o` of a layout (R273). -/
def sealedPad (key : BitVec 128) (nonce : Word) (o : Nat) : List Byte :=
  sm4Enc key (Word.toBytesBe 16 (nonce.toNat * 2 ^ 64 + o / 16 % 2 ^ 64))

/-- Sealed bytes at offset `o`, a multiple of 16, opened or closed (R273). -/
def sealedXor (key : BitVec 128) (nonce : Word) (o : Nat) (bs : List Byte) : List Byte :=
  xorBytes bs ((List.range ((bs.length + 15) / 16)).flatMap fun i =>
    sealedPad key nonce (o + 16 * i))

/-- One 16-byte unit under SM4-XTS with its address as the tweak (R362): the second key of the
construction is left open by the manual (log entry 10). -/
def xtsUnit (enc : Bool) (key : BitVec 128) (addr : Nat) (blk : List Byte) : List Byte :=
  let t := sm4Enc (Config.xtsTweakKey key) (Word.toBytes 16 addr)
  xorBytes (if enc then sm4Enc key (xorBytes blk t) else sm4Dec key (xorBytes blk t)) t

/-- Whole 16-byte units from an address that is a multiple of 16. -/
def xtsBytes (enc : Bool) (key : BitVec 128) (addr : Nat) (bs : List Byte) : List Byte :=
  (List.range (bs.length / 16)).flatMap fun i =>
    xtsUnit enc key (addr + 16 * i) ((bs.drop (16 * i)).take 16)

end Sys2Proof
end

