-- ==== Sys2Proof/Machine/Sealed.lean ====
section
/-! DEFINITION. The two layers over the bytes of a memory tile's bank: the keystream of the world that owns
the plane, and the model owner's, which the read port removes (R272 to R274). -/

namespace Sys2Proof.Machine

/-- A row's bytes with the owner's layer removed (R273). -/
def OwnerLayer.remove (l : OwnerLayer) (bs : List Byte) : List Byte := sealedXor l.key l.nonce l.ofs bs

/-- The bytes of a bank as its read port gives them on the operand path (R272, R274). -/
def Bank.port (b : Bank) : Mem :=
  b.layers.foldl (fun m e =>
    writeAll m (bytesAt (128 * e.1) (e.2.remove (readBytes b.bytes (128 * e.1) 128)))) b.bytes

/-- Counter block of a 16-byte unit of a bank: the world, the physical tile, the bank, the unit's number and its
granule's write count (R274), joined from the most significant bytes on (DESIGN CHOICE, log entry 39). -/
def worldBlock (world tile bank unit count : Nat) : List Byte :=
  Word.toBytesBe 16 (((world % 16 * 2 ^ 16 + tile % 2 ^ 16) * 2 ^ 4 + bank % 16) * 2 ^ 80
    + unit % 2 ^ 16 * 2 ^ 64 + count % 2 ^ 64)

/-- A 16-byte unit of a bank as the array stores it, under the key of the plane's world (R274). -/
def Bank.stored (b : Bank) (key : BitVec 128) (world tile bank unit : Nat) : List Byte :=
  xorBytes (readBytes b.bytes (16 * unit) 16)
    (sm4Enc key (worldBlock world tile bank unit ((lookup (unit / 2) b.writes).getD 0)))

end Sys2Proof.Machine
end

