-- ==== Sys2Proof/Machine/Operands.lean ====
section
/-! DEFINITION. Firing an instruction: taking its operands from their slots, deciding whether it
computes, delivering its result to its targets, and recording what poison leaves the token stream
(R24 to R31, R66, R67, R113 to R118, R148, R178, R181, R246). -/

namespace Sys2Proof

/-! ### What an instruction's word says of its firing -/

/-- The head of an instruction's word. -/
def Instr.head (i : Instr) : Head :=
  match i.parts with
  | some (_, p) => p.hd
  | none => { pm := .none, t0 := .none, t1 := .none }

/-- The opcode of an instruction; 0 for a step that no word encodes. -/
def Instr.opcode (i : Instr) : Nat :=
  match i.parts with
  | some (op, _) => op
  | none => 0

/-- An instruction whose results round stochastically (R59). -/
def Instr.draws (i : Instr) : Bool :=
  match i.parts with
  | some (_, .g o) => o.rm == .rsto
  | some (_, _) | none => false

/-- A matrix instruction (R181). -/
def Instr.isMatrix (i : Instr) : Bool := 0x78 < i.opcode && i.opcode ≤ 0x7F

/-- The store class (R93). -/
def Instr.isStore (i : Instr) : Bool :=
  [0x81, 0x83, 0x85, 0x86, 0x89, 0x90, 0x91, 0x92, 0x95].contains i.opcode

/-- The load class (R93). -/
def Instr.isLoad (i : Instr) : Bool := [0x80, 0x82, 0x84, 0x87, 0x88, 0x93, 0x96].contains i.opcode

/-- The fields of a format-M instruction. -/
def Instr.memOp (i : Instr) : Option OpM :=
  match i.parts with
  | some (_, .m o) => some o
  | some (_, _) | none => none

/-- LSID (R93). -/
def Instr.lsid (i : Instr) : Option Nat := i.memOp.map fun o => o.lsid.val

/-- Last-read marks of the left and right slots (R118). -/
def Instr.lastReads (i : Instr) : Bool × Bool :=
  match i.parts with
  | some (_, .g o) => (o.lrl, o.lrr)
  | some (_, .i o) => (o.lrl, o.lrr)
  | some (_, _) | none => (false, false)

/-- Sink kind of an instruction that computes with a poisoned operand; 0 for none (R67, R123, R130,
R133, R196, R324). VRECL, which R67 does not name, counts as a store (DESIGN CHOICE, log entry 54). -/
def Instr.sinkKind (i : Instr) : Nat :=
  match i.opcode with
  | 0x81 | 0x83 | 0x85 | 0x86 | 0x89 => 1
  | 0x90 | 0x91 | 0x92 | 0x95 => 2
  | 0x07 | 0x10 | 0xD4 => 5
  | _ => 0

/-- R29's first rule does not apply (R125). -/
def Instr.isGate (i : Instr) : Bool := i.opcode == 0x08

/-- The format of a floating-point type; FP32 for the integer types, which no legal word of a
floating-point instruction names. -/
def Ty.fmt (t : Ty) : FFmt := t.ffmt.getD .fp32

end Sys2Proof

namespace Sys2Proof.Machine

/-! ### Operands -/

/-- The operands of a firing, when every used slot holds a head token (R24, R28, R29, R116). -/
def gather (sl : Slots) (pm : Pm) (isGate : Bool) (s : Slot) : Option Gathered :=
  let usesP := pm != .none
  let usesT := sl.t || usesP
  if (sl.l && s.l.isEmpty) || (sl.r && s.r.isEmpty) || (usesT && s.t.isEmpty) then none
  else
    let a := if sl.l then s.l.headD {} else {}
    let b := if sl.r then s.r.headD {} else {}
    let t := if usesT then s.t.headD {} else {}
    let c := if sl.t then t else {}
    let ops := (if sl.l then [a] else []) ++ (if sl.r then [b] else []) ++ (if usesT then [t] else [])
    let dl := sl.l && s.fedL
    let dr := sl.r && s.fedR
    let dt := sl.t && s.fedT
    let dat := (if dl then [a] else []) ++ (if dr then [b] else []) ++ (if dt then [t] else [])
    let mixed := dat.any (·.l) && dat.any (!·.l)
    some
      { a := a, b := b, c := c
        computes := predLets pm t && (isGate || !(a.n || b.n || c.n))
        predOff := usesP && !t.n && !predLets pm t
        org := firstPoison ops
        l := dat.any (·.l)
        mixed := mixed
        lag := (mixed && dl && !a.l, mixed && dr && !b.l, mixed && dt && !c.l) }

/-- A slot after a firing: the heads it used are removed (R24). -/
def Slot.taken (s : Slot) (sl : Slots) (pm : Pm) : Slot :=
  { s with
    l := if sl.l then s.l.tail else s.l
    r := if sl.r then s.r.tail else s.r
    t := if sl.t || pm != .none then s.t.tail else s.t
    fired := s.fired + 1 }

/-- A block with one slot changed. -/
def Blk.updSlot (b : Blk) (k : Nat) (f : Slot → Slot) : Blk :=
  { b with slots := b.slots.modify k f }

/-- A token put into the slot a target names. -/
def Blk.deliver (b : Blk) (t : Tgt) (x : Tok) : Blk :=
  match t with
  | .none | .out _ => b
  | .left k => b.updSlot k.val fun s => { s with l := s.l ++ [x] }
  | .right k => b.updSlot k.val fun s => { s with r := s.r ++ [x] }
  | .pred k => b.updSlot k.val fun s => { s with t := s.t ++ [x] }

/-- How the effect of a firing ends. -/
inductive Fired
  /-- The instruction cannot fire yet. -/
  | wait
  /-- A fault with its cause, ADDR and INFO; a stage-2 fault has 2^64 added to INFO. -/
  | fault (d : Dev) (cause addr info : Nat)
  /-- The effect is performed at the block's commit (R26, R94). -/
  | capture (d : Dev)
  /-- A change of the state while the instruction goes on waiting to fire. -/
  | hold (d : Dev)
  | done (d : Dev) (r : Res)

/-- Where and for what a firing stands. -/
structure Site where
  ctl : Bool
  core : CoreId := .sys 0
  cfg : Nat := 0
  tile : Nat := 0
  blk : Nat := 0
  slot : Nat
  /-- Record of the firing; 0 in control mode. -/
  record : Nat := 0
  hdr : BlkHdr
  lcs : List LoopCtr := []
  /-- Address of the control block. -/
  addr : Nat := 0
  col : Nat
  row : Nat

/-- A new origin word of a cause at this site (R63). -/
def Site.origin (e : Site) (cause : Nat) : BitVec 24 := originWord e.ctl e.col e.row e.slot cause

/-- A poison-log entry of a sink at this site (R68). -/
def Site.logEntry (e : Site) (cfg round skind : Nat) (org : BitVec 24) : LogEntry :=
  { org := org, skind := skind, loc := (e.origin 0).toNat / 128, cfg := cfg, round := round
    record := e.record }

/-- Sink kind of a firing: by its instruction when it computes; otherwise it consumes the poison
without delivery when it is a store or is stopped by its predicate (R67). A null predicate delivers a null
token by R29, and no entry is made for another operand's poison (DESIGN CHOICE, log entry 54). -/
def firingSink (i : Instr) (g : Gathered) : Nat :=
  if g.computes then i.sinkKind else if i.isStore || g.predOff then 5 else 0

/-! ### Firing in a control block -/

/-- The state with the frame of a core changed. -/
def Dev.updFrame (d : Dev) (id : CoreId) (f : Frame → Frame) : Dev :=
  d.updCore id fun c => { c with frame := c.frame.map f }

/-- The site of a slot of a core's control block. -/
def Dev.ctlSite (d : Dev) (id : CoreId) (fr : Frame) (slot : Nat) : Site :=
  let (col, row) := d.coreLoc id
  { ctl := true, core := id, slot := slot, hdr := fr.blk.hdr, addr := fr.addr, col := col, row := row }

/-- CFGID that records and log entries of a core carry. -/
def Dev.cfgOf (d : Dev) (id : CoreId) : Nat :=
  match d.instOf id with
  | some (k, _) => k
  | none => 0xFFFF

/-- An instruction whose accesses and checks are made as its block is entered: the load class, APLD, TTLD and KOPEN,
and the system instructions of format Y (R211, R270, R282, R352, R374). -/
def Instr.readsAtEntry (i : Instr) : Bool :=
  i.isLoad || [0xA2, 0xC0, 0xC9].contains i.opcode || (0xD8 ≤ i.opcode && i.opcode ≤ 0xDD)

/-- Rank and key of a fault in the order of R374: what is read and checked at entry by slot, then stores by LSID,
then the rest by slot. -/
def faultRank (i : Instr) (slot : Nat) : Nat × Nat :=
  if Instr.readsAtEntry i then (0, slot) else if i.isStore then (1, (i.lsid.getD 0)) else (2, slot)

/-- A control block after slot `slot` has fired: operands removed, the token delivered, and poison
that ends here logged. -/
def Frame.fired (fr : Frame) (i : Instr) (slot : Nat) (out : Option Tok)
    (log : Option LogEntry) : Frame :=
  let b := fr.blk.updSlot slot fun s => s.taken (i.row .control).slots i.head.pm
  let b := match out with
    | some t => (b.deliver i.head.t0 t).deliver i.head.t1 t
    | none => b
  { fr with
    blk := b
    waits := []
    plog := match log with
      | some e => fr.plog ++ [(slot, e)]
      | none => fr.plog }

/-- What the slot of a control block gathers and where it stands, when it can fire: it has not fired yet, and its
operands have arrived (R24, R118). -/
def Dev.ctlReady (i : Instr) (d : Dev) (id : CoreId) (slot : Nat) : Option (Site × Gathered) :=
  match (d.core id).frame with
  | none => none
  | some fr => match fr.blk.slots[slot]? with
    | none => none
    | some s =>
      if s.fired != 0 then none
      else (gather (i.row .control).slots i.head.pm i.isGate s).map fun g => (d.ctlSite id fr slot, g)

/-- The poison-log entry of a control firing that is a sink (R67). -/
def Dev.ctlLog (i : Instr) (e : Site) (g : Gathered) (d : Dev) : Option LogEntry :=
  match g.org with
  | some w => if firingSink i g == 0 then none else some (e.logEntry (d.cfgOf e.core) 0 (firingSink i g) w)
  | none => none

/-- A control firing ends with a result (R24, R118). -/
def Dev.deliverCtl (i : Instr) (e : Site) (g : Gathered) (r : Res) (d : Dev) : Dev :=
  d.updFrame e.core fun f =>
    f.fired i e.slot (settle true e.hdr.ppol e.origin g r) (d.ctlLog i e g)

/-- A control firing leaves its effect to the commit (R26). -/
def Dev.captureCtl (i : Instr) (e : Site) (g : Gathered) (d : Dev) : Dev :=
  d.updFrame e.core fun f =>
    { f.fired i e.slot none (d.ctlLog i e g) with
      caps := f.caps ++ [{ slot := e.slot, a := g.a, b := g.b, c := g.c, computes := true }] }

/-- A control firing meets a fault of its block (R99, R374). -/
def Dev.faultCtl (i : Instr) (e : Site) (cause addr info : Nat) (d : Dev) : Dev :=
  d.updFrame e.core fun f =>
    let (rank, key) := faultRank i e.slot
    { f.fired i e.slot none none with faults := f.faults ++ [(rank, key, e.slot, cause, addr, info)] }

/-- One firing of an instruction in a control block (R118): `eff` gives what it does when it
computes. -/
def Dev.fireCtl (i : Instr) (d : Dev) (id : CoreId) (slot : Nat)
    (eff : Site → Gathered → Dev → Fired) : Dev :=
  match d.ctlReady i id slot with
  | none => d
  | some (e, g) => match (if g.computes then eff e g d else .done d .none) with
    | .wait => d.updFrame id fun f => { f with waits := f.waits ++ [slot] }
    | .fault d cause addr info => d.faultCtl i e cause addr info
    | .hold d => d
    | .capture d => d.captureCtl i e g
    | .done d r => d.deliverCtl i e g r

/-! ### Firing in an element block -/

/-- Entries of an operand queue (R24) and, as the model chooses, of an output port's queue (log
entry 9) (DESIGN CHOICE, log entry 9). -/
def queueDepth : Nat := 4

/-- The exit group of an output port in a block (R30, R80). -/
def BlkHdr.group (h : BlkHdr) (port : Nat) : Nat := (h.pgrp.toNat >>> (2 * port)) % 4

/-- A target has a free entry (R24) (DESIGN CHOICE, log entry 9). -/
def roomAt (t : Tile) (b : Blk) (x : Tgt) : Bool :=
  match x with
  | .none => true
  | .left k => match b.slots[k.val]? with
    | some s => s.l.length < queueDepth
    | none => true
  | .right k => match b.slots[k.val]? with
    | some s => s.r.length < queueDepth
    | none => true
  | .pred k => match b.slots[k.val]? with
    | some s => s.t.length < queueDepth
    | none => true
  | .out p => match lookup p.val t.out with
    | some q => q.q.length < queueDepth
    | none => true

/-- Both targets have a free entry. -/
def roomFor (t : Tile) (b : Blk) (h : Head) : Bool := roomAt t b h.t0 && roomAt t b h.t1

/-- A token put into an output port; it counts as the block's write (R31) unless it is the null token of a MOUT
that does not compute (R188). -/
def Tile.emit (t : Tile) (blk record : Nat) (x : Tgt) (tok : Tok) (counts : Bool := true) : Tile :=
  match x with
  | .none | .left _ | .right _ | .pred _ => t
  | .out p => match lookup p.val t.out with
    | some q => { t with out := insert p.val { q with
        q := q.q ++ [{ blk := blk, record := record, tok := tok }]
        writes := if counts then insert blk ((lookup blk q.writes).getD 0 + 1) q.writes else q.writes } t.out }
    | none => t

/-- A token delivered to a target from a block of a tile. -/
def Tile.send (t : Tile) (c : Ct) (blk record : Nat) (x : Tgt) (tok : Tok) (counts : Bool := true) : Tile :=
  let t := t.emit blk record x tok counts
  { t with kind := .ct { c with blks := c.blks.modify blk fun b => b.deliver x tok } }

/-- Every instruction of a class that comes earlier by record, then by slot, has fired (R148,
R181). -/
def Blk.turn (b : Blk) (cls : Instr → Bool) (slot r : Nat) : Bool :=
  (List.range b.slots.length).all fun k =>
    match b.slots[k]? with
    | some s => !cls s.ins || k == slot || (if k < slot then r < s.fired else r ≤ s.fired)
    | none => true

/-- Slots a slot's targets name. -/
def Blk.feeds (b : Blk) (k : Nat) : List Nat :=
  match b.slots[k]? with
  | none => []
  | some s =>
    let one : Tgt → List Nat := fun t => match t with
      | .left j | .right j | .pred j => [j.val]
      | .none | .out _ => []
    one s.ins.head.t0 ++ one s.ins.head.t1

/-- Slots that slots of `front` feed, directly or through others. -/
def Blk.descend (b : Blk) : Nat → List Nat → List Nat → List Nat
  | 0, _, seen => seen
  | n + 1, front, seen =>
    let next := (front.flatMap b.feeds).eraseDups.filter fun k => !seen.contains k
    if next.isEmpty then seen else b.descend n next (seen ++ next)

/-- The bank that an MT access of a tile's code reaches, and for a barrier access the counter: several binding
slots may name one bank, and every bank of an MT one counter (R172, R204). -/
def Inst.memSpace (x : Inst) (tile op : Nat) (o : OpM) : Option (Binding × Option Nat) :=
  let at_ := fun (k : Nat) => (x.ct tile).bind fun c => c.bound k
  if op == 0x95 || op == 0x96 then
    (at_ o.auxh.toNat).map fun b => ({ b with bank := 0 }, some o.auxl.toNat)
  else if op == 0x90 || op == 0x91 || op == 0x92 then (at_ o.auxh.toNat).map fun b => (b, none)
  else (at_ o.auxl.toNat).map fun b => (b, none)

/-- What an LDB or an STB reaches: in a TILE bank its row in whichever buffer is its turn, and the bank's read
or fill pointer; the positions of a FIFO or LINE ring count as one element (DEDUCED, log entry 53). -/
def Bank.rowReach (b : Bank) (store : Bool) (row : Int) : List (Int × Nat) :=
  if b.mode == .tile then
    (((bankBytes + if store then 1 else 0 : Nat) : Int), 1) ::
      (List.range b.nbuf).map fun k => ((b.bufBase k : Int) + 128 * row, 128)
  else [(0, 1)]

/-- The spans of bytes, or the word or counter, that an element access reaches in its bank. -/
def memReach (b : Bank) (op : Nat) (o : OpM) (a : Data) : List (Int × Nat) :=
  match op with
  | 0x95 | 0x96 => [(0, 1)]
  | 0x82 | 0x83 => b.rowReach (op == 0x83) ((laneOf 32 a 0 : Int) + o.off.toInt)
  | 0x84 | 0x85 | 0x86 => [((laneOf 32 a 0 : Int) + o.off.toInt, 1)]
  | _ =>
    let s := o.ty.laneWidth / 8
    let n := if op == 0x87 || op == 0x93 || o.mode == .bcast then 1 else o.ty.lanes
    (laneIdx o.mode o.auxh.toNat n a o.off.toInt).filterMap fun e => e.map fun v => (v * s, s)

/-- Two accesses reach a common element. -/
def reachMeet (xs ys : List (Int × Nat)) : Bool :=
  xs.any fun x => ys.any fun y => x.1 < y.1 + y.2 && y.1 < x.1 + x.2

/-- The operand an access of slot `s` takes at place `p` of its queues meets the reach of another
access; an address that has not arrived may (R246). -/
def Slot.mayMeet (s : Slot) (b : Bank) (op : Nat) (o : OpM) (p : Nat) (mine : List (Int × Nat)) : Bool :=
  let pm := s.ins.head.pm
  let ns := [s.l[p]?, s.r[p]?, s.t[p]?].any fun t => match t with
    | some t => t.n
    | none => false
  let off := match s.t[p]? with
    | some t => pm != .none && !predLets pm t
    | none => false
  if ns || off then false
  else match s.l[p]? with
    | none => true
    | some t => reachMeet mine (memReach b op o t.data)

/-- An access of the block that is ordered before this one by R93 or R246 has not performed. -/
def Blk.memBlocked (b : Blk) (x : Inst) (tile : Nat) (i : Instr) (slot r : Nat) (a : Data) : Bool :=
  match i.memOp with
  | none => false
  | some o =>
    let sp := x.memSpace tile i.opcode o
    let bank := (sp.bind fun e => x.bank e.1.tile e.1.bank).getD {}
    let mine := memReach bank i.opcode o a
    let below := b.descend b.slots.length [slot] []
    (List.range b.slots.length).any fun k =>
      match b.slots[k]? with
      | none => false
      | some s => match s.ins.memOp with
        | none => false
        | some p =>
          let n := if p.lsid.val < o.lsid.val && !below.contains k then r + 1 else r
          k != slot && sp.isSome && x.memSpace tile s.ins.opcode p == sp &&
            (List.range (n - s.fired)).any fun q => s.mayMeet bank s.ins.opcode p q mine

/-- The binding of the LDB of a TILE bank that feeds a slot of an instruction directly (R178). -/
def Inst.lastReadOf (x : Inst) (tile : Nat) (b : Blk) (slot : Nat) (right : Bool) : Option Nat :=
  b.slots.findSome? fun s =>
    let hit : Tgt → Bool := fun t => match t with
      | .left k => !right && k.val == slot
      | .right k => right && k.val == slot
      | .none | .out _ | .pred _ => false
    if s.ins.opcode == 0x82 && (hit s.ins.head.t0 || hit s.ins.head.t1) then
      match s.ins.memOp with
      | some o => match x.bound tile o.auxl.toNat with
        | some (_, bk) => if bk.mode == .tile then some o.auxl.toNat else none
        | none => none
      | none => none
    else none

/-- Bindings whose holds a firing's last-read marks release. -/
def Inst.lastReads (x : Inst) (tile : Nat) (b : Blk) (i : Instr) (slot : Nat) : List Nat :=
  let (l, r) := i.lastReads
  (if l then (x.lastReadOf tile b slot false).toList else []) ++
    (if r then (x.lastReadOf tile b slot true).toList else [])

/-- The instance's tiles run records. -/
def Inst.fires (x : Inst) : Bool := x.phase == .running || x.phase == .boundary

/-- A node of a tile: its VE is 0, its operator slots 1 and 2, port `p` of an MT 16 + p (R342). -/
def nodeOf (tile k : Nat) : Nat := 64 * tile + k

/-- A node has stopped for a MARKER snapshot (R342). -/
def Inst.stopped (x : Inst) (tile k : Nat) : Bool :=
  match x.snap with
  | some ns => ns.contains (nodeOf tile k)
  | none => false

/-- The agent has made progress (R317) (DEDUCED, log entry 43). -/
def Dev.progress (d : Dev) (w : Watched) : Dev :=
  { d with watch := d.watch.filter (·.1 != w) ++ [(w, d.time, false)] }

/-- One discard step of a LENGTH mismatch (R116): a token from each slot still discarding, or a null
token to the targets. -/
def Inst.discard (x : Inst) (t : Tile) (c : Ct) (b : Blk) (i : Instr) (tile blk slot : Nat) (s : Slot)
    (q : Disc) : Inst :=
  let most := max q.nl (max q.nr q.nt)
  let h := i.head
  if q.nulls < most && roomFor t b h then
    let b := b.updSlot slot fun s =>
      { s with fired := s.fired + 1, disc := some { q with nulls := q.nulls + 1 } }
    let c := { c with blks := setAt c.blks blk b }
    let t := t.emit blk s.fired h.t0 { n := true }
    let t := t.emit blk s.fired h.t1 { n := true }
    let b := (b.deliver h.t0 { n := true }).deliver h.t1 { n := true }
    x.setTile tile { t with kind := .ct { c with blks := setAt c.blks blk b } }
  else
    let hl := if q.l then s.l.head? else none
    let hr := if q.r then s.r.head? else none
    let ht := if q.t then s.t.head? else none
    let n : Option Tok → Nat := fun o => if o.isSome then 1 else 0
    let p : Option Tok → Nat := fun o => match o with
      | some t => if t.p then 1 else 0
      | none => 0
    let last : Bool → Option Tok → Bool := fun going o => going && match o with
      | some t => !t.l
      | none => true
    let s := { s with
      l := if hl.isSome then s.l.tail else s.l
      r := if hr.isSome then s.r.tail else s.r
      t := if ht.isSome then s.t.tail else s.t
      disc := some { q with
        l := last q.l hl, r := last q.r hr, t := last q.t ht
        nl := q.nl + n hl, nr := q.nr + n hr, nt := q.nt + n ht
        npois := q.npois + p hl + p hr + p ht } }
    x.setTile tile { t with kind := .ct { c with blks := setAt c.blks blk (b.updSlot slot fun _ => s) } }

/-- The instance after an element firing. -/
def Inst.fired (x : Inst) (i : Instr) (e : Site) (g : Gathered) (out : Option Tok) : Inst :=
  match x.tile e.tile with
  | none => x
  | some t => match t.kind with
    | .mt _ => x
    | .ct c =>
      match c.blks[e.blk]? with
      | none => x
      | some b =>
        let lasts := x.lastReads e.tile b i e.slot
        let b' := b.updSlot e.slot fun s =>
          { s.taken (i.row .element).slots i.head.pm with
            disc := if g.mixed then
              some { l := g.lag.1, r := g.lag.2.1, t := g.lag.2.2, round := x.fab.round
                     record := e.record }
            else none }
        let c := { c with blks := setAt c.blks e.blk b' }
        let t := { t with kind := .ct c }
        let t := match out with
          | none => t
          | some tok =>
            let t := t.send c e.blk e.record i.head.t0 tok (i.opcode != 0x7D)
            match t.kind with
            | .ct c => t.send c e.blk e.record i.head.t1 tok
            | .mt _ => t
        let x := x.setTile e.tile t
        let x := lasts.foldl (fun x k => x.dropHold e.tile k e.record) x
        match g.org with
        | some w =>
          if firingSink i g == 0 then x
          else { x with logs := x.logs ++ [e.logEntry e.cfg x.fab.round (firingSink i g) w] }
        | none => x

/-- What the slot of an element block gathers and where it stands, when it can fire: its operands have arrived,
its targets have room, and what must come before it has (R24, R59, R93, R148, R178, R181, R246). -/
def Dev.elemReady (i : Instr) (d : Dev) (cfg tile blk slot : Nat) : Option (Site × Gathered) :=
  match d.inst cfg with
  | none => none
  | some x => match x.tile tile with
    | none => none
    | some t => match t.kind with
      | .mt _ => none
      | .ct c => match c.blks[blk]? with
        | none => none
        | some b => match b.slots[slot]? with
          | none => none
          | some s =>
            if !x.fires || x.stopped tile 0 || s.disc.isSome then none
            else
              let sl := (i.row .element).slots
              let pm := i.head.pm
              match gather sl pm i.isGate s with
              | none => none
              | some g0 =>
                let r := s.fired
                let slotless := !(sl.l || sl.r || sl.t) && pm == .none
                let skip := (x.lastReads tile b i slot).any fun k => x.skipped tile k r
                let g := if skip then { g0 with computes := false } else g0
                if (slotless && b.started ≤ r) || !roomFor t b i.head
                  || (i.draws && !b.turn Instr.draws slot r)
                  || (i.isMatrix && !b.turn Instr.isMatrix slot r)
                  || (g.computes && b.memBlocked x tile i slot r g.a.data) then none
                else
                  some ({ ctl := false, cfg := cfg, tile := tile, blk := blk, slot := slot
                          record := r, hdr := b.hdr, lcs := b.lcs
                          col := tileCol tile, row := tileRow tile }, g)

/-- One discard step of a slot that LENGTH holds up, if it is one (R116). -/
def Dev.discardStep (i : Instr) (d : Dev) (cfg tile blk slot : Nat) : Dev :=
  match d.inst cfg with
  | none => d
  | some x => match x.tile tile with
    | none => d
    | some t => match t.kind with
      | .mt _ => d
      | .ct c => match c.blks[blk]? with
        | none => d
        | some b => match b.slots[slot]? with
          | none => d
          | some s => match s.disc with
            | some q =>
              if !x.fires || x.stopped tile 0 then d
              else (d.setInst cfg (x.discard t c b i tile blk slot s q)).progress (.config cfg)
            | none => d

/-- An element firing ends with a result (R24, R66, R67). -/
def Dev.deliverElem (i : Instr) (e : Site) (g : Gathered) (r : Res) (d : Dev) : Dev :=
  (d.updInst e.cfg fun x =>
    x.fired i e g (settle false e.hdr.ppol e.origin g r)).progress (.config e.cfg)

/-- One firing of an instruction in an element block (R24): `eff` gives what it does when it
computes, or always when `always` holds (DESIGN CHOICE, log entry 52). -/
def Dev.fireElem (i : Instr) (d : Dev) (cfg tile blk slot : Nat) (always : Bool)
    (eff : Site → Gathered → Dev → Fired) : Dev :=
  match d.elemReady i cfg tile blk slot with
  | none => d.discardStep i cfg tile blk slot
  | some (e, g) => match (if g.computes || always then eff e g d else .done d .none) with
    | .wait => d
    | .fault d cause addr info => d.elemFault cfg tile blk slot e.record cause addr info
    | .capture d | .hold d => d
    | .done d r => d.deliverElem i e g r

/-! ### The two homes of an instruction -/

/-- What the slot that the focus names gathers and where it stands, when it can fire
(DESIGN CHOICE, log entry 52). -/
def Dev.firing (i : Instr) (d : Dev) : Option (Site × Gathered) :=
  match d.focus with
  | .none | .commit _ _ | .engine _ => none
  | .fire id slot => d.ctlReady i id slot
  | .elem cfg tile blk slot => d.elemReady i cfg tile blk slot

/-- A firing ends with a result, in the mode of its block. -/
def Dev.deliver (i : Instr) (e : Site) (g : Gathered) (r : Res) (d : Dev) : Dev :=
  if e.ctl then d.deliverCtl i e g r else d.deliverElem i e g r

/-- A firing where the focus stands; nothing happens elsewhere. -/
def Dev.fire (i : Instr) (d : Dev) (always : Bool) (eff : Site → Gathered → Dev → Fired) : Dev :=
  match d.focus with
  | .none | .commit _ _ | .engine _ => d
  | .fire id slot => d.fireCtl i id slot eff
  | .elem cfg tile blk slot => d.fireElem i cfg tile blk slot always eff

/-- An instruction whose only effect is its result. -/
def Dev.fireRes (i : Instr) (d : Dev) (f : Site → Gathered → Res) : Dev :=
  d.fire i false fun e g d => .done d (f e g)

/-- A firing whose result is computed lane by lane. -/
def Dev.alu (i : Instr) (d : Dev) (f : Bool → Gathered → AluOut) : Dev :=
  d.fireRes i fun e g => .alu (f e.ctl g)

/-- `n` draws of the generator of the tile where a firing stands, when the rounding is stochastic
(R59). -/
def Dev.draw (d : Dev) (e : Site) (rm : Rm) (n : Nat) : List Nat × Dev :=
  if rm == .rsto && !e.ctl then
    match (d.inst e.cfg).bind (·.ct e.tile) with
    | some c =>
      let (us, s) := takeDraws n c.rng
      (us, d.updInst e.cfg fun x => x.setCt e.tile { c with rng := s })
    | none => ([], d)
  else ([], d)

/-- A firing whose result is computed lane by lane with `n` draws (R59, R148). -/
def Dev.fpAlu (i : Instr) (d : Dev) (rm : Rm) (n : Nat)
    (f : Bool → List Nat → Gathered → AluOut) : Dev :=
  d.fire i false fun e g d =>
    let (us, d) := d.draw e rm n
    .done d (.alu (f e.ctl us g))

/-- The operands a control slot captured. -/
def Frame.cap (fr : Frame) (slot : Nat) : Option Capture := fr.caps.find? (·.slot == slot)

/-- A firing whose effect in a control block is `com`, performed at commit; in an element block it
is `eff`. `pre` checks what must hold at entry. -/
def Dev.fireCommit (i : Instr) (d : Dev) (always : Bool)
    (pre : Site → Gathered → Dev → Option (Nat × Nat × Nat))
    (eff : Site → Gathered → Dev → Fired)
    (com : CoreId → Frame → Capture → Dev → Dev) : Dev :=
  match d.focus with
  | .none | .engine _ => d
  | .fire id slot => d.fireCtl i id slot fun e g d =>
      match pre e g d with
      | some (cause, addr, info) => .fault d cause addr info
      | none => .capture d
  | .commit id slot =>
    match (d.core id).frame with
    | none => d
    | some fr => match fr.cap slot with
      | none => d
      | some c => if c.done then d else com id fr c d
  | .elem cfg tile blk slot => d.fireElem i cfg tile blk slot always eff

/-- A control-mode instruction whose effect is performed at commit. -/
def Dev.commits (i : Instr) (d : Dev) (com : CoreId → Frame → Capture → Dev → Dev) : Dev :=
  d.fireCommit i false (fun _ _ _ => none) (fun _ _ _ => .wait) com

/-- A g-register write that a commit makes (R135). -/
def Dev.gWrite (d : Dev) (id : CoreId) (slot : Nat) (link : Bool) (r : Fin 32) (v : GReg) : Dev :=
  d.updFrame id fun f => { f with gw := f.gw ++ [(slot, link, r, v)] }

/-- The site of a slot of the block a core is committing. -/
def Dev.commitSite (d : Dev) (id : CoreId) (slot : Nat) : Site :=
  match (d.core id).frame with
  | some fr => d.ctlSite id fr slot
  | none =>
    { ctl := true, core := id, slot := slot, col := 0, row := 0
      hdr := { nins := 0, mode := .control, stmask := 0, portmask := 0, pgrp := 0, lcen := 0, marker := 0
               markf := false, roundb := false, ppol := .plain, heavy := 0 } }

/-- A poison-log entry of a control slot that consumes poison without delivery (R67, R133). -/
def Dev.logConsumed (d : Dev) (e : Site) (org : BitVec 24) : Dev :=
  d.updFrame e.core fun f =>
    { f with plog := f.plog ++ [(e.slot, e.logEntry (d.cfgOf e.core) 0 5 org)] }

end Sys2Proof.Machine
end

