-- ==== Sys2Proof/Machine/BlockForm.lean ====
section
/-! DEFINITION. Blocks as bytes: the header and the instruction words (R79, R80), and the conditions that
a block of either mode must meet (R27, R32, R44, R81 to R85, R93, R94, R97). -/

namespace Sys2Proof.Machine

/-- A block as it is read: the 128 bits of its header and its words. -/
structure RawBlk where
  hdr : Nat
  words : List Word
  deriving DecidableEq, Repr

/-- NINS of a header. -/
def hdrNins (h : Nat) : Nat := Word.bits h 14 8

/-- Bytes a block occupies (R79). -/
def blkBytes (h : Nat) : Nat := 16 + 8 * (hdrNins h + 1)

/-- The words of `n` slots. -/
def wordsOf (bs : List Byte) (n : Nat) : List Word :=
  (List.range n).map fun k => BitVec.ofNat 64 (Word.ofBytes ((bs.drop (8 * k)).take 8))

/-- The block at the front of some bytes; none when they end too early. -/
def rawBlock (bs : List Byte) : Option RawBlk :=
  let h := Word.ofBytes (bs.take 16)
  if bs.length < 16 || bs.length < blkBytes h then none
  else some { hdr := h, words := wordsOf (bs.drop 16) (hdrNins h + 1) }

/-- The fields of a header (R80). -/
def parseHdr (h : Nat) : BlkHdr :=
  { nins := hdrNins h
    mode := if Word.bit h 15 then .control else .element
    stmask := BitVec.ofNat 32 (Word.bits h 47 16)
    portmask := BitVec.ofNat 16 (Word.bits h 63 48)
    pgrp := BitVec.ofNat 32 (Word.bits h 95 64)
    lcen := BitVec.ofNat 4 (Word.bits h 99 96)
    marker := Word.bits h 111 100
    markf := Word.bit h 112
    roundb := Word.bit h 113
    ppol := match Word.bits h 115 114 with
      | 0 => .plain
      | 1 => .nanToo
      | _ => .off
    heavy := Word.bits h 119 116 }

/-- The opcode of a word. -/
def rawOp (w : Word) : Nat := (w.extractLsb' 56 8).toNat

/-- Opcodes of the store class (R93). -/
def rawIsStore (w : Word) : Bool :=
  [0x81, 0x83, 0x85, 0x86, 0x89, 0x90, 0x91, 0x92, 0x95].contains (rawOp w)

/-- LSID of a format-M word (R88, R93). -/
def rawLsid (w : Word) : Option Nat :=
  if (0x80 ≤ rawOp w && rawOp w ≤ 0x89) || (0x90 ≤ rawOp w && rawOp w ≤ 0x93) || rawOp w == 0x95
      || rawOp w == 0x96 then some (w.extractLsb' 27 5).toNat
  else none

/-- Targets that the 18 bits of T0 and T1 name (R83). -/
def rawTargets (w : Word) : List Tgt :=
  ([Tgt.ofCode (w.extractLsb' 45 9), Tgt.ofCode (w.extractLsb' 36 9)].filterMap id).filter (· != .none)

/-- STMASK a block's store class gives (R32, R93). -/
def storeMask (ws : List Word) : BitVec 32 :=
  ws.foldl (fun m w => match rawLsid w with
    | some k => if rawIsStore w then m ||| (1#32 <<< k) else m
    | none => m) 0

/-- The header of a block of mode `m` is legal (R32, R44, R81, R93). -/
def hdrOk (m : BlkMode) (b : RawBlk) : Bool :=
  let h := b.hdr
  let p := parseHdr h
  let routes := (b.words.filter fun w => rawOp w == 0x10).length
  let matrix := b.words.any fun w => 0x79 ≤ rawOp w && rawOp w ≤ 0x7F
  Word.bits h 7 0 == 0xB7 && p.mode == m && Word.bits h 127 120 == 0 && Word.bits h 115 114 != 3
    && (p.markf || p.marker == 0) && p.stmask == storeMask b.words
    && match m with
      | .control => p.portmask == 0 && p.pgrp == 0 && p.lcen == 0 && p.marker == 0 && !p.markf
          && !p.roundb && p.heavy == 0
      | .element => p.heavy ≤ 8 && (p.heavy != 0 || !matrix)
          && ((List.range 16).all fun k => p.portmask.getLsbD k || p.group k == 0)
          && (if p.pgrp == 0 then routes == 0 else routes == 1)

/-- Slots that slots of `front` lead to, directly or through others. -/
def reachable (succ : Nat → List Nat) : Nat → List Nat → List Nat → List Nat
  | 0, _, seen => seen
  | n + 1, front, seen =>
    let next := (front.flatMap succ).eraseDups.filter fun k => !seen.contains k
    if next.isEmpty then seen else reachable succ n next (seen ++ next)

/-- Slots that a word's targets name. -/
def rawFeeds (ws : List Word) (k : Nat) : List Nat :=
  match ws[k]? with
  | none => []
  | some w => (rawTargets w).filterMap fun t => match t with
    | .left j | .right j | .pred j => if j.val < ws.length then some j.val else none
    | .none | .out _ => none

/-- Slots a slot's result reaches (R84, R148, R181). -/
def descendants (ws : List Word) (k : Nat) : List Nat :=
  reachable (rawFeeds ws) (ws.length + 1) [k] []

/-- How often a block's targets name an operand slot. -/
def producers (ws : List Word) (t : Tgt) : Nat :=
  ((ws.flatMap rawTargets).filter (· == t)).length

/-- The operand slots an instruction uses each have one producer, and no other slot of it is named (R27,
R84). -/
def slotsFed (m : BlkMode) (ws : List Word) (i : Instr) (k : Fin 128) : Bool :=
  let s := (i.row m).slots
  let one := fun (used : Bool) (t : Tgt) => producers ws t == if used then 1 else 0
  one s.l (.left k) && one s.r (.right k) && one (s.t || i.head.pm != .none) (.pred k)

/-- The instruction of slot `k` meets every condition of R97 but those of privilege. An LSID named twice is the
later slot's breach, and a target whose PORTMASK bit is clear is its slot's (R32, R98) (DESIGN CHOICE, log
entry 30). -/
def slotOk (m : BlkMode) (b : RawBlk) (k : Nat) (w : Word) : Bool :=
  match decode w with
  | .error _ => false
  | .ok i =>
    i.legalIn m && slotsFed m b.words i (Fin.ofNat 128 k)
      && ((rawTargets w).all fun t => match t with
        | .left j | .right j | .pred j => j.val < b.words.length
        | .out p => m == .element && (parseHdr b.hdr).portmask.getLsbD p.val
        | .none => true)
      && !(descendants b.words k).contains k
      && (match rawLsid w with
        | some l => (b.words.take k).all fun v => rawLsid v != some l
        | none => true)

/-- The lowest slot of a block that breaks R97 (R98, R99). -/
def badSlot (m : BlkMode) (b : RawBlk) : Option Nat :=
  (b.words.mapIdx fun k w => (k, w)).findSome? fun (k, w) => if slotOk m b k w then none else some k

/-- Where an element-mode block breaks a condition of R97: its header (none) or a slot (R98). -/
def blockBreach (m : BlkMode) (b : RawBlk) : Option (Option Nat) :=
  if !hdrOk m b then some none else (badSlot m b).map some

/-- A block whose words are legal, with every queue empty. -/
def RawBlk.build (b : RawBlk) (lcs : List LoopCtr) : Blk :=
  { hdr := parseHdr b.hdr
    slots := b.words.map fun w => match decode w with
      | .ok i => { ins := i, word := w }
      | .error _ => { ins := .nop { hd := { pm := .none, t0 := .none, t1 := .none }, ty := .i32, rm := .rne
                                    sat := false, lrl := false, lrr := false, fn := 0 }, word := w }
    lcs := lcs }

end Sys2Proof.Machine
end

