-- ==== Sys2Proof/Machine/Translate.lean ====
section
/-! DEFINITION. Address translation and the checks of the memory path: line outcomes (R387 to R392),
stage 2 (R366, R367), the stage-1 walk (R356 to R362), permissions (R363, R365) and their order
(R436). -/

namespace Sys2Proof.Machine

/-! ### Frames and lines -/

/-- Bytes of a host frame. -/
def frameBytes : Nat := 2 ^ 21

/-- A host physical address lies in tier 1 (R355). -/
def inTier1 (a : Nat) : Bool := a < 0xC000000000
/-- A host physical address lies in tier 2 (R355). -/
def inTier2 (a : Nat) : Bool := 0x40000000000 ≤ a && a < 0x80000000000

/-- A host physical address lies in a tier as fitted: tier 2 reaches as far as its devices (R355, R423). -/
def Dev.fitted (d : Dev) (a : Nat) : Bool := inTier1 a || (inTier2 a && a < 0x40000000000 + d.t2Fitted)

/-- Frames that read RESERVED at reset: the MAC regions and firmware spans, and every frame outside
the two tiers as fitted (R387, R391, R423). -/
def Dev.reservedFrame (d : Dev) (hfn : Nat) : Bool :=
  let a := hfn * frameBytes
  !((a < 0xA800000000) || (0x40000000000 ≤ a && a < 0x78000000000 && d.fitted a))

/-- The line of the MAC region that holds the MAC of a line of a covered span (R391). -/
def macLine (host : Nat) : Option Nat :=
  let at_ := fun (t base : Nat) => (base + 8 * ((host - t) / 64)) / 64 * 64
  if host < 0xA800000000 then some (at_ 0 0xA800000000)
  else if 0x40000000000 ≤ host && host < 0x78000000000 then some (at_ 0x40000000000 0x78000000000)
  else none

/-- The lines that `n` bytes from an address touch. -/
def linesOf (host n : Nat) : List Nat :=
  (List.range ((host + n + 63) / 64 - host / 64)).map fun i => (host / 64 + i) * 64

/-- The frame-owner tag of a frame (R387). -/
def Dev.tag (d : Dev) (hfn : Nat) : FrameTag :=
  (lookup hfn d.tags).getD { state := if d.reservedFrame hfn then 3 else 0 }

/-- CTXCNT. -/
def Partition.ctxCnt (p : Partition) : Nat := Word.bits p.ctxr.toNat 24 12
/-- A context is one of the partition's. -/
def Partition.hasCtx (p : Partition) (c : Nat) : Bool :=
  p.state != .none && p.ctxBase ≤ c && c < p.ctxBase + p.ctxCnt

/-- Bytes that pass between this package and the outside counted for the partition of a TID (R398). -/
def Dev.meterTid (d : Dev) (tid i n : Nat) : Dev :=
  match d.parts.find? fun e =>
      e.2.state != .none && e.2.tidBase ≤ tid && tid < e.2.tidBase + e.2.tidCnt with
  | some (k, _) => d.meter k i n
  | none => d

/-- The tag check of R389. -/
def Dev.tagPass (d : Dev) (tid : Nat) (peer : Bool) (host : Nat) : Bool :=
  let t := d.tag (host / frameBytes)
  let o := d.part t.owner
  (!t.hyp && (t.state == 1 || t.state == 2) && o.tidBase ≤ tid && tid < o.tidBase + o.tidCnt)
    || (t.hyp && tid == tidH) || (peer && t.exp && t.etid == tid)

/-- How the passage of a line ends (R392). -/
inductive LineOut
  | ok
  | corrected
  | tenant
  | clearing
  | folded
  | ecc (macLine : Bool)
  | integ (corr : Bool)
  /-- The tier-2 link of the line is down (R422). -/
  | down
  deriving DecidableEq, Repr

/-- A link of a table is up. -/
def linkUp (ls : List (Nat × Link)) (k : Nat) : Bool := ((lookup k ls).getD {}).up

/-- A host address lies in tier 2 behind a link that is down (R422, R423). -/
def Dev.t2Down (d : Dev) (host : Nat) : Bool :=
  inTier2 host && !linkUp d.t2links (Word.bits host 11 8)

/-- Outcome of the stages behind the tag check in a read of the line at a host address (R392): the first condition
that holds. The MAC line is read and decoded as the data line is (R391, R392) (DESIGN CHOICE, log entry 2). -/
def Dev.lineCode (d : Dev) (host : Nat) : LineOut :=
  let hfn := host / frameBytes
  let line := host / 64
  let t := d.tag hfn
  let c := (lookup line d.conds).getD {}
  let mc : LineCond := match macLine host with
    | some k => (lookup (k / 64) d.conds).getD {}
    | none => {}
  if d.t2Down host then .down
  else if t.state == 2 && !t.lines.contains (line % 32768) then .clearing
  else if c.folded || mc.folded then .folded
  else if c.ecc || mc.ecc then .ecc (!c.ecc)
  else if c.mac || (t.stale && !t.rewritten.contains (line % 32768)) then .integ (c.corr || mc.corr)
  else if c.corr || mc.corr then .corrected
  else .ok

/-- Outcome of a read of the line at a host address: the tag check, then the other stages (R389, R392). -/
def Dev.lineOut (d : Dev) (tid : Nat) (peer : Bool) (host : Nat) : LineOut :=
  if d.tagPass tid peer host then d.lineCode host else .tenant

/-- Poison cause a line is delivered with (R392). -/
def LineOut.poison : LineOut → Option Nat
  | .ok | .corrected | .clearing => none
  | .tenant | .integ _ => some 6
  | .folded | .ecc _ | .down => some 7

/-- The line is delivered as zeros (R392). -/
def LineOut.zeros : LineOut → Bool
  | .tenant | .clearing | .folded => true
  | .ok | .corrected | .ecc _ | .integ _ | .down => false

/-- The line is delivered as decrypted although its symbols or its key are wrong, so that the manual
states no value for it; where the MAC line alone failed, the data are right (R392). -/
def LineOut.open (o : LineOut) : Bool :=
  match o with
  | .ecc mac => !mac
  | .integ _ | .down => true
  | .ok | .corrected | .tenant | .clearing | .folded => false

/-- A line whose passage raises a record: its outcome, host address and TID. -/
structure BadLine where
  out : LineOut
  host : Nat
  tid : Nat
  deriving DecidableEq, Repr

/-- The record of a line, for the agent it was read for (R389, R392). -/
def Dev.lineRec (d : Dev) (who : TrapRec) (va : Nat) (b : BadLine) : Option TrapRec :=
  let r := { who with cls := 2, addr := va, info := b.host % 2 ^ 48 }
  match b.out with
  | .ok | .corrected | .clearing | .down => none
  | .tenant => some { r with
      cause := cTENANT
      info := b.host % 2 ^ 48 + b.tid % 1024 * 2 ^ 48
        + (d.tag (b.host / frameBytes)).owner % 16 * 2 ^ 58 }
  | .folded => some { r with cause := cMISDIRECTED }
  | .ecc mac => some { r with cause := cUNCORRECTABLE, info := r.info + if mac then 2 ^ 62 else 0 }
  | .integ corr => some { r with cause := cINTEGRITY, corr := corr }

/-! ### What a translation is asked and what it answers -/

/-- A translation fault: its cause, the guest physical address of a stage-2 fault, and the key slot
of a key fault. -/
structure XlFault where
  cause : Nat
  s2 : Option Nat := none
  kslot : Nat := 0
  deriving DecidableEq, Repr

/-- INFO of a translation fault with 2^64 added for stage 2 (R306, R367). -/
def XlFault.info (f : XlFault) (code : Nat) : Nat :=
  if f.cause == cKEYNOTREADY || f.cause == cKEYMISMATCH then f.kslot * 16
  else match f.s2 with
    | none => code
    | some gpa => code + gpa % 2 ^ 44 * 2 ^ 20 + 2 ^ 64

/-- Where an access reaches. -/
structure Hit where
  va : Nat
  host : Nat
  /-- The package, when it is a peer (R367). -/
  peer : Option Nat := none
  /-- The host window of APER 15 and the byte within it. -/
  window : Option Nat := none
  typ : Nat := 0
  kslot : Nat := 0
  tid : Nat
  gpa : Nat := 0
  /-- The copy that the access used; none through the direct window. -/
  copy : Option XlCopy := none
  deriving DecidableEq, Repr

/-- A walk under way: the state after its draws, the bad lines it met, the entries it used, and its answer. -/
structure Walk (α : Type) where
  d : Dev
  bad : List BadLine := []
  deps : List XlDep := []
  r : Except XlFault α

/-- A walk continued with its result. -/
def Walk.andThen {α β : Type} (x : Walk α) (f : Dev → α → Walk β) : Walk β :=
  match x.r with
  | .error e => { d := x.d, bad := x.bad, deps := x.deps, r := .error e }
  | .ok a =>
    let y := f x.d a
    { d := y.d, bad := x.bad ++ y.bad, deps := x.deps ++ y.deps, r := y.r }

/-- A walk that fails. -/
def Walk.fail {α : Type} (d : Dev) (f : XlFault) : Walk α := { d := d, r := .error f }
/-- A walk that answers. -/
def Walk.pure {α : Type} (d : Dev) (a : α) : Walk α := { d := d, r := .ok a }

/-- A read of translation data at a host address, line by line; poison is a fault (R359). -/
def Dev.readData (m : Mem) (d : Dev) (tid host n : Nat) (onPoison : XlFault) : Walk Nat :=
  let ls := (linesOf host n).map fun line => (line, d.lineOut tid false line)
  let bad := ls.filter fun e => e.2.poison.isSome
  if !bad.isEmpty then
    { d := d, bad := bad.map fun e => { out := e.2, host := e.1, tid := tid }, r := .error onPoison }
  else
    let bytes := ls.flatMap fun e =>
      let lo := max e.1 host
      let k := min (e.1 + 64) (host + n) - lo
      if e.2.zeros then List.replicate k 0 else rdBytes m d lo k
    Walk.pure d (Word.ofBytes bytes)

/-- The valid bit of an entry (R356, R359, R361, R366). -/
def XlDep.valid (e : XlDep) : Bool :=
  match e.key with
  | .root => e.v != 0
  | .range _ => Word.bit e.v 128
  | .table _ | .leaf _ | .s2 _ => Word.bit e.v 0

/-- A value of an entry without the dirty bit that the device itself sets (R364). -/
def XlKey.plain (k : XlKey) (v : Nat) : Nat :=
  match k with
  | .leaf _ => if Word.bit v 10 then v - 2 ^ 10 else v
  | .range _ => if !Word.bit v 129 && Word.bit v 202 then v - 2 ^ 202 else v
  | .root | .table _ | .s2 _ => v

/-- The entry has changed since it was used (R370). -/
def XlDep.stale (m : Mem) (d : Dev) (ctx : Nat) (e : XlDep) : Bool :=
  let now := match e.key with
    | .root => (d.ctx ctx).rtab.toNat
    | .range _ | .table _ | .leaf _ | .s2 _ => rdLe m d e.at_ e.n
  e.key.plain now != e.key.plain e.v

/-- Older values of an entry that a unit holds (R369, R370). -/
def Dev.oldEntries (d : Dev) (unit part ctx : Nat) (key : XlKey) (now : Nat) : List Nat :=
  let s2 := match key with
    | .s2 _ => true
    | .root | .range _ | .table _ | .leaf _ => false
  ((d.xl.filter fun c => c.unit == unit && c.part == part && (s2 || c.ctx == ctx)).flatMap fun c =>
    (c.deps.filter fun e => e.key == key && e.valid && key.plain e.v != key.plain now).map (·.v)).eraseDups

/-- One entry of translation data as a unit uses it: as it stands in memory or, by a free draw, an older value that
the unit holds (R369, R370) (DEDUCED, log entry 17). -/
def Dev.readEntry (m : Mem) (d : Dev) (unit part ctx : Nat) (key : XlKey) (tid host n : Nat) (onPoison : XlFault) :
    Walk Nat :=
  let used := fun (w : Walk Nat) => w.andThen fun d v =>
    { d := d, deps := [{ key := key, at_ := host, n := n, v := v }], r := .ok v }
  match d.oldEntries unit part ctx key (rdLe m d host n) with
  | [] => used (d.readData m tid host n onPoison)
  | olds =>
    let (bits, d) := d.fresh
    match olds[bits.toNat % (olds.length + 1)]? with
    | some v => used (Walk.pure d v)
    | none => used (d.readData m tid host n onPoison)

/-! ### Stage 2 -/

/-- What uses a guest physical address (R367). -/
inductive S2Use
  | table | counter
  | leaf (aper : Nat)
  deriving DecidableEq, Repr

/-- The region of R367 for a use; the frame of a REMOTE entry may lie anywhere. -/
def S2Use.regionOk (u : S2Use) (host : Nat) : Bool :=
  match u with
  | .table | .leaf 0 => inTier1 host
  | .counter => inTier1 host || inTier2 host
  | .leaf 1 => inTier2 host
  | .leaf _ => true

/-- FSTATE of R367 for a use. -/
def S2Use.stateOk (u : S2Use) (fstate : Nat) : Bool :=
  match u with
  | .leaf 2 => fstate == 2
  | .table | .counter | .leaf _ => fstate < 2

/-- HFN × 2^21 of a stage-2 entry plus the offset (R366). -/
def s2Host (e gpa : Nat) : Nat := Word.bits e 47 21 * 2 ^ 21 + gpa % 2 ^ 21

/-- The checks of a stage-2 entry (R366, R367, R388, R423): V and the fitted region before the others (R304). -/
def Dev.s2Check (d : Dev) (e gpa : Nat) (u : S2Use) (wr : Bool) : Option XlFault :=
  let host := s2Host e gpa
  let remote := u == .leaf 2
  let t := d.tag (host / frameBytes)
  if !Word.bit e 0 || (!remote && inTier2 host && !d.fitted host) then some { cause := cTRANSLATION, s2 := some gpa }
  else if (wr && !Word.bit e 1) || Word.bits e 20 4 != 0 || Word.bits e 63 48 != 0
      || !u.stateOk (Word.bits e 3 2) || !u.regionOk host || (!remote && (t.tc || t.hyp)) then
    some { cause := cPERMISSION, s2 := some gpa }
  else none

/-- The stage-2 entry of a guest physical address, checked (R366, R367). -/
def Dev.stage2 (m : Mem) (d : Dev) (unit part gpa : Nat) (u : S2Use) (wr : Bool) : Walk Nat :=
  let base := (d.part part).s2cur.toNat
  let ix := Word.bits gpa 43 21
  (d.readEntry m unit part 0 (.s2 ix) tidH (base + 8 * ix) 8
    { cause := cTRANSLATION, s2 := some gpa }).andThen fun d e =>
    match d.s2Check e gpa u wr with
    | some f => Walk.fail d f
    | none => Walk.pure d e

/-- A read of translation data at a guest physical address (R359, R368). -/
def Dev.readGuest (m : Mem) (d : Dev) (unit part ctx gpa n : Nat) (key : Option XlKey := none) : Walk (Nat × Nat) :=
  (d.stage2 m unit part gpa .table false).andThen fun d e =>
    let host := s2Host e gpa
    let tid := d.tidOf part ctx
    (match key with
      | some k => d.readEntry m unit part ctx k tid host n { cause := cTRANSLATION }
      | none => d.readData m tid host n { cause := cTRANSLATION }).andThen fun d v => Walk.pure d (v, host)

/-! ### Stage 1 -/

/-- A range entry's limits hold (R356). -/
def rangeOk (e : Nat) : Bool :=
  let vbase := Word.bits e 63 0
  let vsize := Word.bits e 127 64
  let leaf := Word.bits e 255 192
  let ac := Word.bits e 319 256
  vbase % 65536 == 0 && vbase < 2 ^ 63 && vsize != 0 && vsize % 65536 == 0 && vsize ≤ 2 ^ 42
    && vbase + vsize ≤ 2 ^ 63 && Word.bits e 191 130 == 0 && Word.bits e 511 320 == 0
    && ac % 4 == 0
    && (if Word.bit e 129 then leaf % 65536 == 0 && leaf < 2 ^ 44
        else !Word.bit leaf 9 && Word.bits leaf 43 16 + vsize / 65536 ≤ 2 ^ 28)

/-- A valid range entry contains a virtual address (R357). -/
def rangeHas (e va : Nat) : Bool :=
  let vbase := Word.bits e 63 0
  let vsize := min (Word.bits e 127 64) (2 ^ 63 - vbase)
  Word.bit e 128 && vbase ≤ va && va < vbase + vsize

/-- Range entry `k` of a context as a unit sees it, with its host address: the copy the unit took at
an install, else the entry in memory, which a unit that takes copies then holds when it is valid (R358, R369). -/
def Dev.readRange (m : Mem) (d : Dev) (unit part ctx rtab k : Nat) : Walk (Nat × Nat) :=
  let at_ := unit * 4096 + ctx
  match lookup at_ d.rcopy with
  | none => d.readGuest m unit part ctx (rtab + 64 * k) 64 (some (.range k))
  | some es => match es.getD k none with
    | some (e, host) => Walk.pure d (e.toNat, host)
    | none => (d.readGuest m unit part ctx (rtab + 64 * k) 64 (some (.range k))).andThen fun d r =>
        Walk.pure (if Word.bit r.1 128 then
          { d with rcopy := insert at_ ((es ++ List.replicate (k + 1 - es.length) none).set k
              (some (BitVec.ofNat 512 r.1, r.2))) d.rcopy }
        else d) r

/-- The lowest range entry that contains an address, from entry `k` on (R356, R357). -/
def Dev.findRange (m : Mem) (d : Dev) (unit part ctx rtab va : Nat) : Nat → Nat → Walk (Nat × Nat × Nat)
  | 0, _ => Walk.fail d { cause := cTRANSLATION }
  | n + 1, k =>
    (d.readRange m unit part ctx rtab k).andThen fun d (e, host) =>
      if rangeHas e va then Walk.pure d (k, e, host)
      else d.findRange m unit part ctx rtab va n (k + 1)

/-- XL_RTAB as a unit sees it: as it took it at an install, else as it stands or, by a free draw, an older value that
the unit holds (R358, R370). -/
def Dev.rootOf (d : Dev) (unit part ctx : Nat) : Walk Nat :=
  let now := (d.ctx ctx).rtab.toNat
  match lookup (unit * 4096 + ctx) d.rroot with
  | some v => Walk.pure d v.toNat
  | none =>
    let used := fun (d : Dev) (v : Nat) => ({ d := d, deps := [{ key := .root, at_ := 0, n := 8, v := v }], r := .ok v } : Walk Nat)
    match d.oldEntries unit part ctx .root now with
    | [] => used d now
    | olds =>
      let (bits, d) := d.fresh
      used d (olds.getD (bits.toNat % (olds.length + 1)) now)

/-- Fields and combinations of a valid leaf (R361, R362). -/
def Dev.leafFieldsOk (d : Dev) (leaf : Nat) : Bool :=
  let typ := Word.bits leaf 6 4
  let aper := Word.bits leaf 15 12
  let peer := Word.bits leaf 51 44
  Word.bit leaf 0 && Word.bits leaf 63 56 == 0
    && (match typ with
      | 0 => [0, 1, 2, 15].contains aper
      | 1 | 2 => [0, 1, 2].contains aper
      | 3 => aper == 0
      | 4 => aper == 2
      | _ => false)
    && (!Word.bit leaf 11 || aper == 1)
    && (aper == 15 || (if aper == 2 then peer != d.self else peer == 0))
    && (typ == 1 || typ == 2 || Word.bits leaf 55 52 == 0)

/-- The role whose key a leaf of type ENCRYPTED uses, and the key when the slot is READY (R394). -/
def KeySlot.pageKey (s : KeySlot) : Option (BitVec 128) :=
  if s.two then (if s.share0.isSome then s.share1 else none) else s.share0

/-- Causes a leaf gives an access: by path (R362), permission (R363) and permit (R365). -/
def Dev.leafCauses (d : Dev) (part : Nat) (leaf : Nat) (path : Path) (kind : AccKind) : List Nat :=
  let typ := Word.bits leaf 6 4
  let aper := Word.bits leaf 15 12
  let r := Word.bit leaf 1
  let w := Word.bit leaf 2
  let byPath : List Nat := match path with
    | .fetch => if (typ == 0 || typ == 1) && aper < 2 then [] else [cPERMISSION]
    | .stream => if typ == 2 then [cSEALED] else if typ == 3 || aper == 15 then [cPERMISSION] else []
    | .scopy => if typ == 2 then [cSEALED] else if typ == 3 then [cPERMISSION] else []
    | .ctl => if typ == 2 then [cSEALED] else if aper == 15 then [cPERMISSION] else []
    | .ldg => if aper == 15 then [cPERMISSION] else []
    | .key => if typ == 2 then [] else [cKEYMISMATCH]
    | .rdma => if typ == 3 || aper == 15 then [cPERMISSION] else []
    | .te => []
  let byPerm : List Nat := match kind with
    | .rd => if r then [] else [cPERMISSION]
    | .wr => if w then [] else [cPERMISSION]
    | .upd => if r && w then [] else [cPERMISSION]
    | .fetch => if Word.bit leaf 3 then [] else [cPERMISSION]
  let byRap : List Nat :=
    if kind == .upd && aper == 2 && !Word.bit leaf 7 then [cREMOTE] else []
  let byKey : List Nat :=
    if typ == 1 && (((d.part part).slots.getD (Word.bits leaf 55 52) {}).pageKey).isNone then
      [cKEYNOTREADY] else []
  if path == .te then [] else byPath ++ byPerm ++ byRap ++ byKey

/-- The cause of lowest priority number (R304). -/
def firstCause (cs : List Nat) : Option Nat :=
  cs.foldl (fun acc c => match acc with
    | none => some c
    | some b => if causePriority c < causePriority b then some c else some b) none

/-- The 2 MiB group of a leaf with CONTIG meets R360. -/
def groupOk (leaves : List Nat) : Bool :=
  let l0 := leaves.getD 0 0
  let strip := fun l : Nat => l - Word.bits l 43 16 * 2 ^ 16 - (if Word.bit l 10 then 2 ^ 10 else 0)
  Word.bits l0 43 16 % 32 == 0 && (leaves.mapIdx fun i l =>
    Word.bit l 9 && Word.bits l 43 16 == Word.bits l0 43 16 + i && strip l == strip l0).all id

/-- What a stage-1 walk finds. -/
structure Stage1 where
  range : Nat
  leaf : Nat
  leafAt : Nat
  direct : Bool
  acbase : Nat
  vbase : Nat
  used : List Nat
  deriving DecidableEq, Repr

/-- The leaf of a virtual address (R357, R359, R360). -/
def Dev.stage1 (m : Mem) (d : Dev) (unit part ctx va : Nat) : Walk Stage1 :=
  (d.rootOf unit part ctx).andThen fun d rtab =>
  if rtab == 0 || va ≥ 2 ^ 63 then Walk.fail d { cause := cTRANSLATION }
  else
    (d.findRange m unit part ctx rtab va 64 0).andThen fun d (k, e, at_) =>
      if !rangeOk e then Walk.fail d { cause := cTRANSLATION }
      else
        let o := va - Word.bits e 63 0
        let tmpl := Word.bits e 255 192
        let ac := Word.bits e 319 256
        let vbase := Word.bits e 63 0
        let ix := fun gpa : Nat => Word.bits gpa 43 21
        if !Word.bit e 129 then
          Walk.pure d { range := k, leaf := tmpl + o / 65536 * 65536, leafAt := at_ + 24, direct := true
                        acbase := ac, vbase := vbase, used := [ix rtab] }
        else
          let ta := Word.bits tmpl 43 16 * 65536 + 8 * Word.bits o 41 29
          (d.readGuest m unit part ctx ta 8 (some (.table (vbase + o / 2 ^ 29 * 2 ^ 29)))).andThen fun d (te, _) =>
            if !Word.bit te 0 || Word.bits te 15 1 != 0 || Word.bits te 63 44 != 0 then
              Walk.fail d { cause := cTRANSLATION }
            else
              let lt := Word.bits te 43 16 * 65536
              let j := Word.bits o 28 16
              (d.readGuest m unit part ctx (lt + 8 * j) 8 (some (.leaf (va / 65536)))).andThen fun d (leaf, lat) =>
                let s : Stage1 := { range := k, leaf := leaf, leafAt := lat, direct := false
                                    acbase := ac, vbase := vbase, used := [ix rtab, ix ta, ix lt] }
                if Word.bit leaf 0 && Word.bit leaf 9 then
                  (d.readGuest m unit part ctx (lt + 8 * (j / 32 * 32)) 256).andThen fun d (g, _) =>
                    if groupOk ((List.range 32).map fun i => if i == j % 32 then leaf else (g >>> (64 * i)) % 2 ^ 64) then
                      Walk.pure d s
                    else Walk.fail d { cause := cTRANSLATION }
                else Walk.pure d s

/-- The leaf's checks for an access (step 4 of R436). -/
def Dev.leafFault (d : Dev) (a : Acc) (leaf : Nat) : Option XlFault :=
  if !d.leafFieldsOk leaf then some { cause := cTRANSLATION }
  else (firstCause (d.leafCauses a.part leaf a.path a.kind)).map fun c =>
    { cause := c, kslot := Word.bits leaf 55 52 }

/-- Where a leaf and its stage-2 entry put a virtual address. -/
def hitOf (d : Dev) (a : Acc) (va : Nat) (c : XlCopy) : Hit :=
  let leaf := c.leaf.toNat
  let aper := Word.bits leaf 15 12
  let gpa := Word.bits leaf 43 16 * 65536 + va % 65536
  { va := va, host := s2Host c.s2.toNat gpa
    peer := if aper == 2 then some (Word.bits leaf 51 44) else none
    window := if aper == 15 then some (Word.bits leaf 51 44) else none
    typ := Word.bits leaf 6 4, kslot := Word.bits leaf 55 52
    tid := d.tidOf a.part a.ctx, gpa := gpa, copy := some c }

/-- A walk: stage 1, its checks, stage 2 and its checks (R436). -/
def Dev.walk (m : Mem) (d : Dev) (a : Acc) (va : Nat) : Walk XlCopy :=
  let w := (d.stage1 m a.unit a.part a.ctx va).andThen fun d s =>
    match d.leafFault a s.leaf with
    | some f => Walk.fail d f
    | none =>
      let aper := Word.bits s.leaf 15 12
      let gpa := Word.bits s.leaf 43 16 * 65536 + va % 65536
      let mk := fun (e : Nat) (used : List Nat) => ({
        unit := a.unit, part := a.part, ctx := a.ctx, page := va / 65536, range := s.range
        leaf := BitVec.ofNat 64 s.leaf, leafAt := s.leafAt, direct := s.direct, acbase := s.acbase
        vbase := s.vbase, s2 := BitVec.ofNat 64 e, used := used } : XlCopy)
      if aper == 15 then Walk.pure d (mk 0 s.used)
      else
        (d.stage2 m a.unit a.part gpa (.leaf aper) (a.kind == .wr || a.kind == .upd)).andThen fun d e =>
          Walk.pure d (mk e (s.used ++ [Word.bits gpa 43 21]))
  { w with r := w.r.map fun c => { c with deps := w.deps } }

/-- A copy may still serve: no entry that was not valid when it was made has changed (R370). -/
def XlCopy.usable (m : Mem) (d : Dev) (c : XlCopy) : Bool := c.deps.all fun e => e.valid || !e.stale m d c.ctx

/-- Entries of a copy have changed since it was made. -/
def XlCopy.stale (m : Mem) (d : Dev) (c : XlCopy) : Bool := c.deps.any (·.stale m d c.ctx)

/-- A unit's copies for an access (R369) (DEDUCED, log entry 17). -/
def Dev.held (m : Mem) (d : Dev) (a : Acc) (va : Nat) : List XlCopy :=
  d.xl.filter fun c =>
    c.unit == a.unit && c.part == a.part && c.ctx == a.ctx && c.page == va / 65536 && c.usable m d

/-- The copy that an access uses, or none when it walks: while nothing of a copy has changed, that copy; else, by a
free draw, one that the unit holds or a walk (R369, R370) (DEDUCED, log entry 17). -/
def Dev.chosenCopy (m : Mem) (d : Dev) (a : Acc) (va : Nat) : Dev × Option XlCopy :=
  match d.held m a va with
  | [] => (d, none)
  | c :: cs =>
    if cs.isEmpty && !c.stale m d then (d, some c)
    else
      let (bits, d) := d.fresh
      (d, (c :: cs)[bits.toNat % (cs.length + 2)]?)

/-- The checks of an access against a copy. -/
def Dev.copyFault (d : Dev) (a : Acc) (va : Nat) (c : XlCopy) : Option XlFault :=
  let leaf := c.leaf.toNat
  match d.leafFault a leaf with
  | some f => some f
  | none =>
    if Word.bits leaf 15 12 == 15 then none
    else d.s2Check c.s2.toNat (Word.bits leaf 43 16 * 65536 + va % 65536)
      (.leaf (Word.bits leaf 15 12)) (a.kind == .wr || a.kind == .upd)

/-- A record for the agent of an access: code of a system core takes its own (R303, R309). -/
def Dev.postAcc (d : Dev) (a : Acc) (r : TrapRec) : Dev :=
  match a.core with
  | some id => d.postCore id r
  | none => d.post a.page r

/-- Records of bad lines posted for an access. -/
def Dev.postLines (d : Dev) (a : Acc) (va : Nat) (bs : List BadLine) : Dev :=
  bs.foldl (fun d b => match d.lineRec a.who va b with
    | some r => d.postAcc a r
    | none => d) d

/-- The record of a request made for no agent, whose PART is the owner of the frame (R392). -/
def Dev.noAgent (d : Dev) (tid host : Nat) : TrapRec :=
  { cause := 0, cls := 2, noag := true, cfgid := 0xFFFF, tid := tid, part := (d.tag (host / frameBytes)).owner }

/-- The records of bad lines of a request made for no agent posted (R309, R392) (DESIGN CHOICE, log entry 24). -/
def Dev.postNoAgent (d : Dev) (tid host : Nat) (bs : List BadLine) : Dev :=
  let who := d.noAgent tid host
  bs.foldl (fun d b => match d.lineRec who 0 b with
    | some r => d.post (Word.bits (d.part who.part).home.toNat 6 0) r
    | none => d) d

/-- A walk's answer, with the records of the lines it met posted. -/
def Walk.posted {α : Type} (w : Walk α) (a : Acc) (va : Nat) : Dev × Except XlFault α :=
  (w.d.postLines a va w.bad, w.r)

/-- A copy kept by its unit, beside older ones for the page (R369, R370) (DEDUCED, log entry 17). -/
def Dev.keepCopy (d : Dev) (c : XlCopy) : Dev := { d with xl := d.xl.filter (· != c) ++ [c] }

/-- A copy that its unit has changed. -/
def Dev.renewCopy (d : Dev) (c c' : XlCopy) : Dev := { d with xl := d.xl.filter (· != c) ++ [c'] }

/-- A unit's copies for the page of an access dropped. -/
def Dev.dropCopyOf (d : Dev) (a : Acc) (va : Nat) : Dev :=
  { d with xl := d.xl.filter fun c =>
      !(c.unit == a.unit && c.part == a.part && c.ctx == a.ctx && c.page == va / 65536) }

/-- No unit holds an entry whose use has faulted: the leaf of the page, or the stage-2 entry, by which its unit's
copies go (R369). -/
def Dev.dropFaulted (d : Dev) (a : Acc) (va : Nat) (f : XlFault) : Dev :=
  match f.s2 with
  | none => d.dropCopyOf a va
  | some gpa => { d with xl := d.xl.filter fun c =>
      !(c.unit == a.unit && c.part == a.part && c.used.contains (Word.bits gpa 43 21)) }

/-- The direct window of H (R368). -/
def inWindow (va : Nat) : Bool := 0x400000000000 ≤ va && va < 0x800000000000

/-- The context an access is made for is one of its partition's (R368). -/
def Dev.accCtxOk (d : Dev) (a : Acc) : Bool := (d.part a.part).hasCtx a.ctx

/-- Translation of one address (R357 to R368, R436), by a copy of the unit or by a walk; an entry whose use faults
is not held (R369) (DEDUCED, log entry 17). -/
def Dev.xlate (m : Mem) (d : Dev) (a : Acc) (va : Nat) : Dev × Except XlFault Hit :=
  if a.hyp && inWindow va then
    let host := va - 0x400000000000
    if d.fitted host then
      (d, .ok { va := va, host := host, tid := tidH })
    else (d, .error { cause := cTRANSLATION })
  else if a.hyp && (a.kind == .fetch || !d.accCtxOk a) then (d, .error { cause := cTRANSLATION })
  else
    let (d, c) := d.chosenCopy m a va
    match c with
    | some c => match d.copyFault a va c with
      | some f => (d.dropFaulted a va f, .error f)
      | none => (d, .ok (hitOf d a va c))
    | none =>
      let (d, r) := (d.walk m a va).posted a va
      match r with
      | .error f => (d.dropFaulted a va f, .error f)
      | .ok c => (d.keepCopy c, .ok (hitOf d a va c))

end Sys2Proof.Machine
end

