-- ==== Sys2Proof/Machine/MemPath.lean ====
section
/-! DEFINITION. Main-memory accesses: reading and writing lines with their outcomes (R389, R392, R393),
inner encryption (R362), the dirty bit (R364), access counters and the migration queue (R376 to
R380). -/

namespace Sys2Proof.Machine

/-- Bytes of another package's memory. -/
def Dev.remote (d : Dev) (p : Nat) : Mem := (lookup p d.peers).getD []

/-- The state with bytes of another package's memory written. -/
def Dev.setRemote (d : Dev) (p addr : Nat) (bs : List Byte) : Dev :=
  { d with peers := insert p (writeAll (d.remote p) (bytesAt addr bs)) d.peers }

/-- The header of a peer-link message but for its CRC, and its payload, as the body of what is sent: CIRC, SEQ,
KIND, NPAY, TID, PART, SRCPKG and ADDR (R221). -/
def Dev.sendPeer (d : Dev) (link circ kind tid part addr : Nat) (bs : List Byte) : Dev :=
  let l := (lookup link d.links).getD {}
  let n := (lookup circ l.sent).getD 0
  { d with
    links := insert link { l with sent := insert circ ((n + 1) % 2 ^ 16) l.sent } d.links
    out := d.out ++ [({ kind := kind, link := link
                        body := [circ, n, kind, (bs.length + 63) / 64, tid, part, d.self, addr]
                          ++ bs.map fun (b : Byte) => b.toNat } : OutMsg)] }

/-- Two messages travel in one circuit. -/
def PeerWrite.sameCircuit (w e : PeerWrite) : Bool := w.unit == e.unit && w.job == e.job && w.peer == e.peer

/-- `Op(old, b)` of R202. -/
def updateOp (op : Nat) (t : Ty) (old b : Nat) : Nat :=
  let w := t.width
  let x := t.intVal old
  let y := t.intVal b
  match op with
  | 0 => Word.wrap (x + y) w
  | 1 => if y < x then b % 2 ^ w else old % 2 ^ w
  | 2 => if y > x then b % 2 ^ w else old % 2 ^ w
  | 3 => (old &&& b) % 2 ^ w
  | 4 => (old ||| b) % 2 ^ w
  | 5 => (old ^^^ b) % 2 ^ w
  | 6 => b % 2 ^ w
  | 7 =>
    let (v, _) := Fv.sum .rne [FFmt.fp32.decode old, FFmt.fp32.decode b]
    FFmt.fp32.deliver .rne false 0 v
  | 8 => Extremum.pick .min .fp32 old b
  | _ => Extremum.pick .max .fp32 old b

/-- A message performed at its peer's home slice (R244, R365). -/
def Dev.peerApply (d : Dev) (w : PeerWrite) : Dev :=
  match w.upd with
  | none => d.setRemote w.peer w.addr w.bytes
  | some (op, ty) =>
    let n := w.bytes.length
    let old := Word.ofBytes (readBytes (d.remote w.peer) w.addr n)
    d.setRemote w.peer w.addr (Word.toBytes n (updateOp op ty old (Word.ofBytes w.bytes)))

/-- Messages on their way to peers perform: those that `go` names by their place, each behind the earlier ones of
its circuit (R255). -/
def Dev.peerAdvance (d : Dev) (go : Nat → PeerWrite → Bool) : Dev :=
  let (d, q) := d.peerq.foldl (fun (acc : Dev × List PeerWrite) w =>
    if !w.done && go acc.2.length w && acc.2.all (fun e => e.done || !e.sameCircuit w) then
      (acc.1.peerApply w, acc.2 ++ [{ w with done := true }])
    else (acc.1, acc.2 ++ [w])) (d, [])
  { d with peerq := q }

/-- Messages that may have performed by now, as free draws choose, and those of one circuit's sender (R244, R248)
(DESIGN CHOICE, log entry 7). -/
def Dev.peerSettle (d : Dev) (own : PeerWrite → Bool) : Dev :=
  if d.peerq.all (·.done) then d
  else
    let (v, d) := d.fresh
    d.peerAdvance fun i w => own w || v.getLsbD i

/-- A store or an update sent to a peer (R244). -/
def Dev.peerSend (d : Dev) (a : Acc) (tid peer addr : Nat) (bs : List Byte) (upd : Option (Nat × Ty)) : Dev :=
  let d := (d.sendPeer (Config.peerLink peer) (Config.peerCircuit peer a.unit a.job) (if upd.isSome then 4 else 2)
    tid a.part addr bs).meterTid tid 4 bs.length
  { d with peerq := d.peerq ++
      [{ unit := a.unit, job := a.job, peer := peer, addr := addr, bytes := bs, upd := upd }] }

/-- Messages of a unit's job that no peer has acknowledged. -/
def Dev.peerAwaits (d : Dev) (unit job : Nat) : Bool := d.peerq.any fun w => w.unit == unit && w.job == job

/-- A line of a CLEARING frame counted as cleared (R393) (DEDUCED, log entry 18). -/
def Dev.markCleared (d : Dev) (host : Nat) : Dev :=
  let hfn := host / frameBytes
  let k := host / 64 % 32768
  let t0 := d.tag hfn
  let t := if t0.stale && !t0.rewritten.contains k then { t0 with rewritten := t0.rewritten ++ [k] } else t0
  let d := if t == t0 then d else { d with tags := insert hfn t d.tags }
  if t.state != 2 || t.lines.contains k then d
  else
    let n := t.cleared + 1
    { d with tags := insert hfn (if n ≥ 32768 then { t with state := 1, cleared := 32768, lines := [] }
        else { t with cleared := n, lines := t.lines ++ [k] }) d.tags }

/-- The conditions of a line after it is written anew, or after a corrected symbol is written back: its MAC line,
which holds those of seven other lines, is written in part (R391, R392) (DESIGN CHOICE, log entry 2). -/
def Dev.cureLine (d : Dev) (host : Nat) : Dev :=
  let cs := remove (host / 64) d.conds
  { d with conds := match macLine host with
      | some k => match lookup (k / 64) cs with
        | some c => if c.ecc || c.folded then cs else remove (k / 64) cs
        | none => cs
      | none => cs }

/-- Where the line of a granule's current copy stands: in its tier-1 frame while it is RESIDENT or DRAINING
(R258). -/
def Dev.copyLine (d : Dev) (h : Hit) (line : Nat) : Nat :=
  match h.copy with
  | none => line
  | some c =>
    if !c.leaf.getLsbD 11 then line
    else match lookup (c.ctx * 2 ^ 42 + h.va / 2 ^ 21) (d.part c.part).grans with
      | none => line
      | some g =>
        if g.res == .resident || g.res == .draining then
          g.entry * frameBytes + (h.va + 2 ^ 21 + line - h.host) % 2 ^ 21
        else line

/-- Device address of a host physical address of tier 2 (R423). -/
def t2Daddr (host : Nat) : Nat := 256 * ((host - 0x40000000000) / 4096) + host % 256

/-- The requests that a tier-2 link has credits for go out, the oldest first (R423). -/
def Link.drain (l : Link) : Link × List OutMsg :=
  let n := min l.credits l.waiting.length
  ({ l with credits := l.credits - n, waiting := l.waiting.drop n }, l.waiting.take n)

/-- A request for lines of tier 2: the header of a read or a write but for its CRC is KIND, TAG, NPAY, TID, DADDR and
LINES; what a write carries is the ciphertext, which the model does not compute (R423) (DEDUCED, log entry 25). -/
def Dev.t2Request (d : Dev) (tid host : Nat) (wr : Bool) (lines : Nat) : Dev :=
  let k := Word.bits host 11 8
  let l := (lookup k d.t2links).getD {}
  let kind := if wr then 2 else 0
  let q : OutMsg := { kind := 0x40 + kind, link := k
                      body := [kind, l.tag, if wr then lines + 1 else 0, tid, t2Daddr host, lines - 1] }
  let r := { l with tag := (l.tag + 1) % 4096, waiting := l.waiting ++ [q] }.drain
  { d with t2links := insert k r.1 d.t2links, out := d.out ++ r.2 }

/-- A line accessed for a TID counted in BYT1 or BYT2 (R398): how many lines pass its channel for the
access is open, since the manual leaves the LLC's contents open (DESIGN CHOICE, log entry 47). One that passes a
tier-2 link that is up is asked of its device (R423). -/
def Dev.meterLine (d : Dev) (tid host : Nat) (wr : Bool) : Dev :=
  let (v, d) := d.fresh
  let n := v.toNat % 4
  let d := if inTier2 host && !d.t2Down host && n != 0 then d.t2Request tid host wr 1 else d
  d.meterTid tid (if inTier1 host then 2 else 3) (64 * n)

/-- `n` bytes of this package's memory with the poison they carry (R392); `via` gives the line of the copy that is
read, which for a tiered granule may stand in tier 1 (R258). -/
def Dev.readLocal (m : Mem) (d : Dev) (tid : Nat) (peer : Bool) (host n : Nat) (via : Nat → Nat := id) :
    List BadLine × List Byte × Option Nat × Dev :=
  let one := fun (acc : List BadLine × List Byte × Option Nat × Dev) (line : Nat) =>
    let (bad, bs, p, d) := acc
    let lo := max line host
    let hi := min (line + 64) (host + n)
    let at_ := via line
    let o := d.lineOut tid peer at_
    let (v, d) := if o.open then d.fresh else (0, d)
    let got := if o.zeros then List.replicate (hi - lo) 0
      else if o.open then Word.toBytes (hi - lo) v.toNat else rdBytes m d lo (hi - lo)
    (if o.poison.isSome then bad ++ [{ out := o, host := at_, tid := tid }] else bad,
      bs ++ got, (match p with
        | some c => some c
        | none => o.poison),
      if o == .tenant then d else (if o == .corrected then d.cureLine at_ else d).meterLine tid at_ false)
  (linesOf host n).foldl one ([], [], none, d)

/-! ### The patrol (R411) -/

/-- Time of a patrol pass (R411) (DEDUCED, log entry 23). -/
def passNs : Nat := 3600 * 10 ^ 9

/-- When in a pass a line of tier 1 is read: the pace is uniform (R411). -/
def patrolAt (line : Nat) : Nat := line * passNs / (0xC000000000 / 64)

/-- The data lines whose MACs a line of the MAC region holds (R391). -/
def macCovers (line : Nat) : List Nat :=
  if 0xA800000000 ≤ 64 * line && inTier1 (64 * line) then
    (List.range 8).map (8 * (line - 0xA800000000 / 64) + ·)
  else []

/-- The patrol reads a line, for no agent: a corrected symbol is written back and counted, and a bad line is recorded
(R392, R411) (DEDUCED, log entry 23). -/
def Dev.patrolLine (d : Dev) (line : Nat) : Dev :=
  let o := d.lineCode (64 * line)
  let (v, d) := d.fresh
  match o with
  | .corrected => { d.cureLine (64 * line) with fixes := d.fixes + 1 }
  | .ok | .clearing | .tenant | .down => d
  | .ecc _ | .folded | .integ _ =>
    { d with passBad := d.passBad || !(o matches .integ _) }.postNoAgent (v.toNat % 1024) (64 * line)
      [{ out := o, host := 64 * line, tid := v.toNat % 1024 }]

/-- The lines of tier 1 that the patrol reads from one time of its pass to another, in ascending address, where a
condition of a line or of its MAC line stands (R411). -/
def Dev.patrol (d : Dev) (t0 t1 : Nat) : Dev :=
  let ls := (d.conds.map (·.1)) ++ d.conds.flatMap fun e => macCovers e.1
  let due := (ls.eraseDups.filter fun l => inTier1 (64 * l) && t0 ≤ patrolAt l && patrolAt l < t1).mergeSort
  due.foldl Dev.patrolLine d

/-! ### Writes -/

/-- Bytes written to this package's memory, line by line (R389, R392, R393); `via` as for a read. -/
def Dev.writeLocal (d : Dev) (tid : Nat) (peer : Bool) (host : Nat) (bs : List Byte) (via : Nat → Nat := id) :
    List BadLine × Dev :=
  let n := bs.length
  let one := fun (acc : List BadLine × Dev) (line : Nat) =>
    let (bad, d) := acc
    let lo := max line host
    let hi := min (line + 64) (host + n)
    let part := (bs.drop (lo - host)).take (hi - lo)
    let at_ := via line
    let (v, d) := if d.t2Down at_ then d.fresh else (1, d)
    if !d.tagPass tid peer at_ then (bad ++ [{ out := .tenant, host := at_, tid := tid }], d)
    else if !v.getLsbD 0 then (bad, d)
    else if hi - lo == 64 then
      (bad, (((d.write (bytesAt lo part)).markCleared at_).cureLine at_).meterLine tid at_ true)
    else
      let o := d.lineOut tid peer at_
      let d := if o.zeros then d.write (bytesAt line (List.replicate 64 0))
        else if o.open then d.fresh.2.write (bytesAt line (Word.toBytes 64 d.fresh.1.toNat)) else d
      (if o.poison.isSome then bad ++ [{ out := o, host := at_, tid := tid }] else bad,
        (((d.write (bytesAt lo part)).markCleared at_).cureLine at_).meterLine tid at_ true)
  (linesOf host n).foldl one ([], d)

/-- The bytes a translated access reads, before inner decryption. Copies alone reach a host window, by
messages of their own (R421) (DEDUCED, log entry 15). -/
def Dev.readRaw (m : Mem) (d : Dev) (a : Acc) (h : Hit) (host n : Nat) :
    List Byte × Option Nat × Dev :=
  match h.window, h.peer with
  | some _, _ => (List.replicate n 0, none, d)
  | none, some p =>
    if linkUp d.links (Config.peerLink p) then
      let d := (d.sendPeer (Config.peerLink p) (Config.peerCircuit p a.unit a.job) 0 h.tid a.part host []).peerSettle
        fun w => w.peer == p && w.unit == a.unit && w.job == a.job
      (readBytes (d.remote p) host n, none, d.meterTid h.tid 4 n)
    else
      let (bs, d) := d.freshBytes n
      (bs, some 7, d)
  | none, none =>
    let (bad, bs, p, d) := d.readLocal m h.tid false host n (d.copyLine h)
    (bs, p, d.postLines a h.va bad)

/-- The bytes a translated access writes, after inner encryption (DESIGN CHOICE, log entry 19). -/
def Dev.writeRaw (d : Dev) (a : Acc) (h : Hit) (host : Nat) (bs : List Byte) : Dev :=
  match h.window, h.peer with
  | some _, _ => d
  | none, some p =>
    if linkUp d.links (Config.peerLink p) then d.peerSend a h.tid p host bs none
    else if d.fresh.1.getLsbD 0 then d.fresh.2.setRemote p host bs else d.fresh.2
  | none, none =>
    let (bad, d) := d.writeLocal h.tid false host bs (d.copyLine h)
    d.postLines a h.va bad

/-- The address of an access in the host window, or its host physical address. -/
def Hit.place (h : Hit) : Nat :=
  match h.window with
  | some _ => h.gpa
  | none => h.host

/-- The inner key of a page of type ENCRYPTED (R362, R394). -/
def Dev.innerKey (d : Dev) (a : Acc) (h : Hit) : Option (BitVec 128) :=
  if h.typ == 1 then ((d.part a.part).slots.getD h.kslot {}).pageKey else none

/-- `n` bytes as a translated access reads them (R362, R392). -/
def Dev.readHit (m : Mem) (d : Dev) (a : Acc) (h : Hit) (n : Nat) : List Byte × Option Nat × Dev :=
  match d.innerKey a h with
  | none => d.readRaw m a h h.place n
  | some k =>
    let pad := h.gpa % 16
    let len := Word.alignUp (pad + n) 16
    let (bs, p, d) := d.readRaw m a h (h.place - pad) len
    (((xtsBytes false k (h.gpa - pad) bs).drop pad).take n, p, d)

/-- A write to a RESIDENT granule of a tiered range sets its dirty bit (R257, R258). -/
def Dev.markDirty (d : Dev) (h : Hit) : Dev :=
  match h.copy with
  | none => d
  | some c =>
    let k := c.ctx * 2 ^ 42 + h.va / 2 ^ 21
    match lookup k (d.part c.part).grans with
    | none => d
    | some g =>
      if c.leaf.getLsbD 11 && g.res == .resident then
        d.updPart c.part fun p => { p with grans := insert k { g with dirty := true } p.grans }
      else d

/-- Bytes written as a translated access writes them (R362, R392). -/
def Dev.writeHit (m : Mem) (d : Dev) (a : Acc) (h : Hit) (bs : List Byte) : Dev :=
  let d := d.markDirty h
  match d.innerKey a h with
  | none => d.writeRaw a h h.place bs
  | some k =>
    let pad := h.gpa % 16
    let len := Word.alignUp (pad + bs.length) 16
    let (old, _, d) := d.readRaw m a h (h.place - pad) len
    let plain := xtsBytes false k (h.gpa - pad) old
    let new := plain.take pad ++ bs ++ plain.drop (pad + bs.length)
    d.writeRaw a h (h.place - pad) (xtsBytes true k (h.gpa - pad) new)

/-! ### The dirty bit (R364) -/

/-- The leaf in memory equals the leaf of a copy: of a DIRECT range, its template (R359, R364). -/
def XlCopy.same (c : XlCopy) (memLeaf : Nat) : Bool :=
  memLeaf == (if c.direct then c.leaf.toNat - (c.page * 65536 - c.vbase) else c.leaf.toNat)

/-- A unit's copies for the page of an access discarded, with the range entry they came from (R364). -/
def Dev.discardLeaf (d : Dev) (a : Acc) (va : Nat) (c : XlCopy) : Dev :=
  let k := a.unit * 4096 + a.ctx
  let d := d.dropCopyOf a va
  if c.direct then match lookup k d.rcopy with
    | some es => { d with rcopy := insert k (es.set c.range none) d.rcopy }
    | none => d
  else d

/-- The step of R364 before a write through a clean leaf: sets D, or translates again. It carries the TID of the leaf
read, and what fails its check is not used (R359, R368, R389). -/
def Dev.dirtyStep (m : Mem) (d : Dev) (a : Acc) (va : Nat) (h : Hit) : Dev × Except XlFault Hit :=
  let setD := fun (d : Dev) (c : XlCopy) (leaf : Nat) =>
    let (bad, d) := d.writeLocal h.tid false c.leafAt (Word.toBytes 8 (leaf ||| 2 ^ 10))
    (d.postLines a va bad).renewCopy c { c with leaf := c.leaf ||| 0x400 }
  match h.copy with
  | none => (d, .ok h)
  | some c =>
    if c.leaf.getLsbD 10 then (d, .ok h)
    else
      let (d, r) := (d.readData m h.tid c.leafAt 8 { cause := cTRANSLATION }).posted a va
      match r with
      | .error f => (d.discardLeaf a va c, .error f)
      | .ok leaf =>
        if c.same leaf then (setD d c leaf, .ok h)
        else
          let (d, r) := (d.discardLeaf a va c).xlate m a va
          match r with
          | .error f => (d, .error f)
          | .ok h => match h.copy with
            | none => (d, .ok h)
            | some c =>
              if c.leaf.getLsbD 10 then (d, .ok h)
              else
                let (d, r) := (d.readData m h.tid c.leafAt 8 { cause := cTRANSLATION }).posted a va
                match r with
                | .error f => (d.discardLeaf a va c, .error f)
                | .ok leaf => if c.same leaf then (setD d c leaf, .ok h)
                  else (d.discardLeaf a va c, .error { cause := cTRANSLATION })

/-! ### Access without counting -/

/-- A load: its bytes with the poison they carry, or the fault. -/
def Dev.loadPlain (m : Mem) (d : Dev) (a : Acc) (va n : Nat) :
    Dev × Except XlFault (Hit × List Byte × Option Nat) :=
  let (d, r) := d.xlate m a va
  match r with
  | .error f => (d, .error f)
  | .ok h => let (bs, p, d) := d.readHit m a h n; (d, .ok (h, bs, p))

/-- A store, or its fault. -/
def Dev.storePlain (m : Mem) (d : Dev) (a : Acc) (va : Nat) (bs : List Byte) :
    Dev × Except XlFault Hit :=
  let (d, r) := d.xlate m a va
  match r with
  | .error f => (d, .error f)
  | .ok h =>
    let (d, r) := d.dirtyStep m a va h
    match r with
    | .error f => (d, .error f)
    | .ok h => (d.writeHit m a h bs, .ok h)

/-! ### Access counters and the migration queue (R376 to R380) -/

/-- The unit of the device's own accesses for a context. -/
def unitDevice : Nat := 600

/-- A device access for a context (R309, R389). -/
def Dev.deviceAcc (d : Dev) (part ctx : Nat) (kind : AccKind) (code : Nat) : Acc :=
  { unit := unitDevice, part := part, ctx := ctx, path := .ctl, kind := kind, code := code
    who := { cause := 0, cls := 2, part := part, ctx := ctx, tid := d.tidOf part ctx, cfgid := 0xFFFF }
    page := Word.bits (d.part part).home.toNat 6 0 }

/-- The home CC's page of a partition (R297). -/
def Dev.homePage (d : Dev) (part : Nat) : Nat := Word.bits (d.part part).home.toNat 6 0

/-- A post into the partition's migration queue, when it has room and its writes perform (R379); a
control area that reads as poison fails it. Its own accesses count too, by `count` (R377) (DEDUCED, log entry 47). -/
def Dev.migPost (m : Mem) (count : Hit → Nat → Dev → Dev) (d : Dev) (part ctx range leaf n va : Nat) : Option Dev :=
  let p := d.part part
  let sup := d.supCtx part
  let size := p.mqsize.toNat
  let base := p.mqbase.toNat
  if size == 0 then none
  else
    let (d1, r) := d.loadPlain m (d.deviceAcc part sup .rd 0) base 16
    match r with
    | .error _ => none
    | .ok (_, _, some _) => none
    | .ok (h, bs, none) =>
      let d1 := count h 16 d1
      let prod := Word.ofBytes (bs.take 8)
      let cons := Word.ofBytes (bs.drop 8)
      if (prod + 2 ^ 64 - cons) % 2 ^ 64 == size then none
      else
        let e := ctx % 4096 + range % 64 * 2 ^ 12 + Word.bits leaf 15 12 * 2 ^ 20
          + Word.bits leaf 51 44 * 2 ^ 24 + n % 2 ^ 32 * 2 ^ 32 + va / 65536 * 65536 * 2 ^ 64
          + d1.time % 2 ^ 64 * 2 ^ 128
        let a := d1.deviceAcc part sup .wr 1
        let (d2, r2) := d1.storePlain m a (base + 64 + 32 * (prod % size)) (Word.toBytes 32 e)
        match r2 with
        | .error _ => none
        | .ok h2 =>
          let (d3, r3) := (count h2 32 d2).storePlain m a base (Word.toBytes 8 (prod + 1))
          match r3 with
          | .error _ => none
          | .ok h3 => some (count h3 8 d3)

/-- The increments of an access of `n` bytes, one for each line it touches, each made by `step` (R377). -/
def Dev.countLines (d : Dev) (step : XlCopy → Nat → Dev → Dev) (h : Hit) (n : Nat) : Dev :=
  match h.copy with
  | none => d
  | some c =>
    let leaf := c.leaf.toNat
    let aper := Word.bits leaf 15 12
    if Word.bit leaf 8 && (aper == 1 || aper == 2) && c.acbase != 0 then
      (linesOf h.va n).foldl (fun d _ => step c h.va d) d
    else d

/-- One increment of a page's counter word with the decision to post (R378); a word that
reads as poison is not counted. A post's own accesses count too, to a depth of `fuel` posts (DEDUCED, log entry
47). -/
def Dev.countStep (m : Mem) : Nat → XlCopy → Nat → Dev → Dev
  | 0, _, _, d => d
  | fuel + 1, c, va, d =>
    let gpa := c.acbase + 4 * ((va - c.vbase) / 65536)
    let w := d.stage2 m c.unit c.part gpa .counter true
    match w.r with
    | .error _ => d
    | .ok e =>
      let d := w.d
      let host := s2Host e gpa
      let tid := d.tidOf c.part c.ctx
      let o := d.lineOut tid false host
      if o.poison.isSome then d
      else
        let w := if o.zeros then 0 else rdLe m d host 4
        let n := min (Word.bits w 23 0 + 1) 0xFFFFFF
        let thr := Word.bits (d.ctx c.ctx).acthr.toNat 23 0
        let put := fun (d : Dev) (count : Nat) (queued : Bool) =>
          (d.writeLocal tid false host (Word.toBytes 4 (count + if queued then 2 ^ 24 else 0))).2
        if thr == 0 || Word.bit w 24 || n < thr then put d n (Word.bit w 24)
        else match (put d n true).migPost m (fun h k d => d.countLines (Dev.countStep m fuel) h k)
            c.part c.ctx c.range c.leaf.toNat n va with
          | some d => d.updPart c.part fun p => { p with mqEpis := false }
          | none =>
            let d := (put d thr false).updPart c.part fun p =>
              { p with mqovf := min (p.mqovf + 1) 0xFFFFFFFF }
            if (d.part c.part).mqEpis then d
            else
              (d.post (d.homePage c.part)
                { cause := cMIGOVF, cls := 2, part := c.part, ctx := c.ctx, tid := tid, cfgid := 0xFFFF
                  addr := va / 65536 * 65536, info := (d.part c.part).mqovf }).updPart c.part fun p =>
                { p with mqEpis := true }

/-- Depth to which posts of the migration queue count themselves. -/
def postDepth : Nat := 4

/-- The increments of an access of `n` bytes (R377). -/
def Dev.countAccess (m : Mem) (d : Dev) (h : Hit) (n : Nat) : Dev := d.countLines (Dev.countStep m postDepth) h n

/-! ### Accesses -/

/-- A load of `n` bytes (R362, R363, R377, R392). -/
def Dev.load (m : Mem) (d : Dev) (a : Acc) (va n : Nat) :
    Dev × Except XlFault (List Byte × Option Nat) :=
  let (d, r) := d.loadPlain m a va n
  match r with
  | .error f => (d, .error f)
  | .ok (h, bs, p) => (d.countAccess m h n, .ok (bs, p))

/-- A store of bytes (R362 to R364, R377, R392). -/
def Dev.store (m : Mem) (d : Dev) (a : Acc) (va : Nat) (bs : List Byte) : Dev × Option XlFault :=
  let (d, r) := d.storePlain m a va bs
  match r with
  | .error f => (d, some f)
  | .ok h => (d.countAccess m h bs.length, none)

/-- The pieces of a span that lie in one line each: address and length. -/
def pieces (va n : Nat) : List (Nat × Nat) :=
  (linesOf va n).map fun line => (max line va, min (line + 64) (va + n) - max line va)

/-- A load of pieces in order, up to the first fault. -/
def Dev.loadPieces (m : Mem) (a : Acc) :
    List (Nat × Nat) → Dev → Dev × Except XlFault (List Byte × Option Nat)
  | [], d => (d, .ok ([], none))
  | (va, n) :: rest, d =>
    let (d, r) := d.load m a va n
    match r with
    | .error f => (d, .error f)
    | .ok (bs, p) =>
      let (d, r) := Dev.loadPieces m a rest d
      (d, match r with
        | .error f => .error f
        | .ok (cs, q) => .ok (bs ++ cs, p <|> q))

/-- A load of a span that may cross pages, with the poison it met. -/
def Dev.loadSpan (m : Mem) (d : Dev) (a : Acc) (va n : Nat) :
    Dev × Except XlFault (List Byte × Option Nat) := Dev.loadPieces m a (pieces va n) d

/-- A store of pieces in order, up to the first fault, with its address. -/
def Dev.storePieces (m : Mem) (a : Acc) :
    List (Nat × Nat) → List Byte → Dev → Dev × Option (Nat × XlFault)
  | [], _, d => (d, none)
  | (va, n) :: rest, bs, d =>
    let (d, f) := d.store m a va (bs.take n)
    match f with
    | some f => (d, some (va, f))
    | none => Dev.storePieces m a rest (bs.drop n) d

/-- A store of a span that may cross pages. -/
def Dev.storeSpan (m : Mem) (d : Dev) (a : Acc) (va : Nat) (bs : List Byte) :
    Dev × Option (Nat × XlFault) := Dev.storePieces m a (pieces va bs.length) bs d

/-- An atomic update of a little-endian element of `n` bytes: the old value with the poison of its
read, or the fault (R202, R365). An update of a peer's memory whose old value nothing asks for is sent, as `late`
gives it, and performs later; one whose old value returns has performed (R244). -/
def Dev.update (m : Mem) (d : Dev) (a : Acc) (va n : Nat) (f : Nat → Nat) (late : Option (Nat × Ty × Nat) := none) :
    Dev × Except XlFault (Nat × Option Nat) :=
  let (d, r) := d.xlate m a va
  match r with
  | .error e => (d, .error e)
  | .ok h =>
    let (d, r) := d.dirtyStep m a va h
    match r with
    | .error e => (d, .error e)
    | .ok h =>
      let up := match h.peer with
        | some p => if linkUp d.links (Config.peerLink p) then some p else none
        | none => none
      match up, late, d.innerKey a h with
      | some p, some (op, ty, operand), none =>
        ((d.peerSend a h.tid p h.place (Word.toBytes n operand) (some (op, ty))).countAccess m h n, .ok (0, none))
      | up, _, _ =>
        let (bs, p, d) := d.readHit m a h n
        let old := Word.ofBytes bs
        let d := d.writeHit m a h (Word.toBytes n (f old))
        let d := if up.isNone then d
          else
            let d := d.peerAdvance fun _ w => some w.peer == up && w.unit == a.unit && w.job == a.job
            { d with peerq := d.peerq.dropLast }
        (d.countAccess m h n, .ok (old, p))

/-- Whether an access would fault, with the unit's copies after the check. -/
def Dev.probe (m : Mem) (d : Dev) (a : Acc) (va : Nat) : Dev × Option XlFault :=
  let (d, r) := d.xlate m a va
  match r with
  | .error f => (d, some f)
  | .ok _ => (d, none)

/-! ### Who makes an access -/

/-- Access of a control core at its level (R297, R368). -/
def Dev.coreAcc (d : Dev) (id : CoreId) (path : Path) (kind : AccKind) (code : Nat) : Acc :=
  let c := d.core id
  let sel := c.ctxsel.toNat
  let hyp := c.level == .h
  { unit := id.key, hyp := hyp
    part := if hyp then sel / 4096 else c.part
    ctx := d.accCtx id, path := path, kind := kind, code := code
    who := { d.coreRec id with cls := 2 }
    page := match id with
      | .cc p => p.val
      | .sys _ => d.homePage (sel / 4096)
    core := some id }

end Sys2Proof.Machine
end

