-- ==== Sys2Proof/Machine/Access.lean ====
section
/-! DEFINITION. How an instruction reaches an MT bank: through a binding slot of its tile (R172, R193,
R197), or by an MT address in control code (R173); and what the reads, writes and updates of a bank
compute (R175, R194, R202). -/

namespace Sys2Proof.Machine

/-! ### Records of an instruction -/

/-- A record of a firing, without its cause (R305). -/
def Dev.siteRec (d : Dev) (e : Site) : TrapRec :=
  if e.ctl then { d.coreRec e.core with slot := e.slot }
  else match d.inst e.cfg with
    | none => { cause := 0, cls := 2 }
    | some x =>
      { cause := 0, cls := 2, olev := 3, part := x.part, ctx := x.ctx, tid := d.tidOf x.part x.ctx
        cfgid := e.cfg, round := x.fab.round, record := e.record, tcol := e.col, trow := e.row
        blk := e.blk, slot := e.slot }

/-- A report on a firing posted for its agent: the core, or the configuration, whose reports go to its lead CC
(R309). -/
def Dev.postSite (d : Dev) (e : Site) (r : TrapRec) : Dev :=
  if e.ctl then d.postCore e.core r
  else match d.inst e.cfg with
    | some x => d.post x.lead r
    | none => d

/-- A bank read of `n` bytes: when it meets an uncorrectable granule, the report is posted and the
origin of the poison given (R175); `port` stands as the input port (DEDUCED, log entry 38). -/
def Dev.bankPoison (d : Dev) (e : Site) (port tile bank : Nat) (b : Bank) (off n : Nat) :
    Dev × Option (BitVec 24) :=
  if b.badAt off n then
    (d.postSite e { d.siteRec e with
        cause := cUNCORRECTABLE, cls := 2, addr := mtAddr tile bank off, port := port, pv := true },
      some (originWord e.ctl e.col e.row port 7))
  else (d, none)

/-! ### Through a binding slot -/

/-- Faults of an element access to a bank whose ownership is settled, in the order of R197: `wr` is a
store, `out` an address outside the bank. -/
def Bank.elemFault (b : Bank) (wr out : Bool) : Option Nat :=
  if b.passed || (wr && b.cls == .input) || out then some cPERMISSION
  else if b.sealed then some cSEALED else none

/-- An element access through a binding slot: it waits for the ownership token, faults, or goes on
(R172, R193, R197). `at_` gives the offset that a fault names and whether it lies outside. -/
def Dev.withBank (d : Dev) (e : Site) (k : Nat) (wr : Bool) (kind : Nat) (at_ : Bank → Nat × Bool)
    (f : Inst → Binding → Bank → Fired) : Fired :=
  match d.inst e.cfg with
  | none => .wait
  | some x => match x.bound e.tile k with
    | none => .wait
    | some (bd, b) =>
      if !b.owned && !b.passed then .wait
      else
        let (ofs, out) := at_ b
        match b.elemFault wr out with
        | some cause => .fault d cause (mtAddr bd.tile bd.bank ofs) kind
        | none => f x bd b

/-- The state with a bank of an instance set. -/
def Dev.putBank (d : Dev) (cfg tile bank : Nat) (b : Bank) : Dev :=
  d.updInst cfg fun x => x.setBank tile bank b

/-- Bytes of one element (R193). -/
def eltBytes (o : OpM) : Nat := o.ty.laneWidth / 8

/-- Element indexes that an element access reaches, by lane (R193). -/
def eltIdx (o : OpM) (a : Data) (n : Nat) : List (Option Int) :=
  laneIdx o.mode o.auxh.toNat n a o.off.toInt

/-- Offset a fault names for an element access, and whether the access leaves the bank. -/
def eltOutside (o : OpM) (es : List (Option Int)) : Nat × Bool :=
  match badIdx (eltBytes o) es with
  | some v => (faultOfs (eltBytes o) v, true)
  | none => match es.findSome? id with
    | some v => (faultOfs (eltBytes o) v, false)
    | none => (0, false)

/-- First byte offset of an uncorrectable granule that the elements touch. -/
def Bank.badElem (b : Bank) (s : Nat) (es : List (Option Int)) : Option Nat :=
  es.findSome? fun e => match e with
    | some v => if b.badAt (v.toNat * s) s then some (v.toNat * s) else none
    | none => none

/-- Poison of a read of some elements (R175). -/
def Dev.elemsPoison (d : Dev) (e : Site) (port : Nat) (bd : Binding) (b : Bank) (s : Nat)
    (es : List (Option Int)) : Dev × Option (BitVec 24) :=
  match b.badElem s es with
  | some off => d.bankPoison e port bd.tile bd.bank b off s
  | none => (d, none)

/-- Elements a load reads; a lane that accesses nothing gives 0 (R193). -/
def Bank.loadElems (b : Bank) (s : Nat) (es : List (Option Int)) : List Nat :=
  es.map fun e => match e with
    | some v => b.elem (v.toNat * s) s
    | none => 0

/-- A bank after a store of elements, lane by lane (R193). -/
def Bank.storeElems (b : Bank) (s : Nat) : List (Option Int) → List Nat → Bank
  | some e :: es, v :: vs => (b.setElem (e.toNat * s) s v).storeElems s es vs
  | none :: es, _ :: vs => b.storeElems s es vs
  | [], _ | _, [] => b

/-! ### By an MT address -/

/-- `a + SignExtend(OFF16) × s` (R201). -/
def effAddr (a : Tok) (off : BitVec 16) (s : Nat) : Nat :=
  Word.wrap (((a.data.toNat % 2 ^ 64 : Nat) : Int) + off.toInt * (s : Int)) 64

/-- How a control access to an MT stands. -/
inductive CtlBank
  | wait
  | fault (cause : Nat)
  | ok (cfg : Nat) (x : Inst) (tile bank : Nat) (b : Bank)

/-- The MT that an address names in the configuration on a core's page (R173). -/
def Dev.mtOf (d : Dev) (id : CoreId) (a : Nat) : Option (Nat × Inst × Nat × Mt) :=
  if !mtWellFormed a then none
  else match d.instOf id with
    | none => none
    | some (k, x) => (x.mt (mtTile a)).map fun mt => (k, x, mtTile a, mt)

/-- A control access to a bank (R172, R173, R197): `align` is the element size when OFS counts bytes,
`lim` the units of OFS in the bank, `n` the units accessed, `modes` the modes that admit it. -/
def Dev.ctlBank (d : Dev) (id : CoreId) (a align n lim : Nat) (modes : List BankMode) : CtlBank :=
  if Word.bit a 63 && mtOfs a % align != 0 then .fault cMISALIGNED
  else match d.mtOf id a with
    | none => .fault cPERMISSION
    | some (k, x, t, mt) => match mt.banks[mtBank a]? with
      | none => .fault cPERMISSION
      | some b =>
        if !modes.contains b.mode || b.passed || mtOfs a + n > lim then .fault cPERMISSION
        else if b.sealed then .fault cSEALED
        else if !b.owned then .wait
        else .ok k x t (mtBank a) b

/-- A control access to a bank at commit: it waits or traps the block, or goes on (DEDUCED, log entry 36). -/
def Dev.atBank (d : Dev) (r : CtlBank) (a kind slot : Nat)
    (f : Nat → Inst → Nat → Nat → Bank → Dev) : Dev :=
  match r with
  | .wait => d.txWait
  | .fault cause => d.txTrap cause a kind slot
  | .ok cfg x t k b => f cfg x t k b

/-- A control access to a bank when its slot fires. -/
def CtlBank.fire (r : CtlBank) (d : Dev) (a kind : Nat) (f : Nat → Inst → Nat → Nat → Bank → Fired) : Fired :=
  match r with
  | .wait => .wait
  | .fault cause => .fault d cause a kind
  | .ok cfg x t k b => f cfg x t k b

/-! ### What a control block reads at entry (R94) -/

/-- The banks of the page's instance and the peers' memories as they stood when a core entered its block
(DEDUCED, log entry 35). -/
def Dev.atFrame (d : Dev) (id : CoreId) (fr : Frame) : Dev :=
  let d := { d with peers := fr.peers0, peerq := [] }
  match d.instOf id, fr.fab0 with
  | some (k, x), some f => d.setInst k { x with fab := f }
  | _, _ => d

/-- What a block without stores of its own sees (DEDUCED, log entry 35). -/
def Dev.atEntry (d : Dev) (id : CoreId) : Dev :=
  match (d.core id).frame with
  | some fr => d.atFrame id fr
  | none => d

/-- Main memory as it stood when a core entered its block (DEDUCED, log entry 35). -/
def Dev.entryMem (d : Dev) (id : CoreId) (m : Mem) : Mem :=
  match (d.core id).frame with
  | some fr => fr.mem0
  | none => m

/-- A load with its faults and records as they come now, and the bytes that another view of the device and of
memory gives. -/
def Dev.loadAs (view : Dev) (m0 m : Mem) (d : Dev) (acc : Acc) (a n : Nat) :
    Dev × Except XlFault (List Byte × Option Nat) :=
  let seen := (view.load m0 acc a n).2
  let (d, r) := d.load m acc a n
  (d, match r, seen with
    | .ok (_, p), .ok (bs, _) => .ok (bs, p)
    | r, _ => r)

/-- A load of control code with no LSID: the values at entry (R94) (DEDUCED, log entry 35). -/
def Dev.entryLoad (m : Mem) (d : Dev) (id : CoreId) (acc : Acc) (a n : Nat) :
    Dev × Except XlFault (List Byte × Option Nat) :=
  Dev.loadAs (d.atEntry id) (d.entryMem id m) m d acc a n

/-! ### Updates -/

/-- UCAS's new value (R202). -/
def casOp (w old cmp new : Nat) : Nat := if old % 2 ^ w == cmp % 2 ^ w then new % 2 ^ w else old

/-- Updates applied in ascending lane order: the bank after them and the old values (R202). -/
def Bank.updateElems (b : Bank) (s : Nat) (f : Nat → Nat → Nat) :
    Nat → List (Option Int) → Bank × List Nat
  | _, [] => (b, [])
  | l, none :: es => let (b, os) := b.updateElems s f (l + 1) es; (b, 0 :: os)
  | l, some e :: es =>
    let old := b.elem (e.toNat * s) s
    let (b, os) := (b.setElem (e.toNat * s) s (f l old)).updateElems s f (l + 1) es
    (b, old :: os)

/-! ### Control-mode values -/

/-- A control-mode value of an element, extended by R54. -/
def ctlValue (t : Ty) (v : Nat) : Data := (AluOut.mk [{ code := v }] t.laneWidth t.sx).data true

/-- Poison cause of a main-memory read of control code as a new origin: its token entered by no port, so OSLOT
is the instruction's slot (R63, R201; log entry 12). -/
def Site.memOrigin (e : Site) (p : Option Nat) : Option (BitVec 24) := p.map e.origin

end Sys2Proof.Machine
end

