-- ==== Sys2Proof/Machine/Pattern.lean ====
section
/-! DEFINITION. Access-pattern records (R206 to R209): their fields, checks, element addresses and the
tokens they map to. -/

namespace Sys2Proof.Machine

/-- Field BASE of a pattern. -/
def patBase (p : BitVec 512) : Nat := Word.bits p.toNat 63 0
/-- Field ESZ. -/
def patEsz (p : BitVec 512) : Nat := Word.bits p.toNat 66 64
/-- Bytes of an element. -/
def patBytes (p : BitVec 512) : Nat := 2 ^ patEsz p
/-- Field NDIM. -/
def patNdim (p : BitVec 512) : Nat := Word.bits p.toNat 69 67
/-- Field LDIM. -/
def patLdim (p : BitVec 512) : Nat := Word.bits p.toNat 72 70
/-- Field CTAG. -/
def patCtag (p : BitVec 512) : Bool := p.getLsbD 73
/-- Field ORDER. -/
def patOrder (p : BitVec 512) : Bool := p.getLsbD 74
/-- Field KEYED. -/
def patKeyed (p : BitVec 512) : Bool := p.getLsbD 77
/-- Field KH. -/
def patKh (p : BitVec 512) : Nat := Word.bits p.toNat 83 80
/-- Field WIN. -/
def patWin (p : BitVec 512) : Nat := Word.bits p.toNat 105 96
/-- Field HIGH; 0 means WIN. -/
def patHigh (p : BitVec 512) : Nat :=
  let h := Word.bits p.toNat 121 112
  if h == 0 then patWin p else h
/-- Field COUNTd. -/
def patCount (p : BitVec 512) (d : Nat) : Nat := Word.bits p.toNat (64 * d + 159) (64 * d + 128)
/-- Field STRIDEd. -/
def patStride (p : BitVec 512) (d : Nat) : Int :=
  Word.toSigned 32 (Word.bits p.toNat (64 * d + 191) (64 * d + 160))

/-- Elements of a pattern, T (R207). -/
def patTotal (p : BitVec 512) : Nat :=
  ((List.range (patNdim p)).map (patCount p)).foldl (· * ·) 1

/-- Elements of a run of dimension LDIM (R209). -/
def patRun (p : BitVec 512) : Nat :=
  ((List.range (patLdim p + 1)).map (patCount p)).foldl (· * ·) 1

/-- The conditions of R208 that raise ILLEGAL_INSTR. -/
def patIllegal (p : BitVec 512) (keyedOk : Bool) : Bool :=
  let n := patNdim p
  n == 0 || n > 5 || p.getLsbD 76 || Word.bits p.toNat 79 78 != 0 || Word.bits p.toNat 95 90 != 0
    || Word.bits p.toNat 111 106 != 0 || Word.bits p.toNat 127 122 != 0 || Word.bits p.toNat 511 448 != 0
    || (!patKeyed p && patKh p != 0) || (patKeyed p && !keyedOk)
    || (List.range 5).any (fun d => if d < n then patCount p d == 0
        else patCount p d != 0 || patStride p d != 0)
    || patWin p == 0 || patWin p > 512 || Word.bits p.toNat 121 112 > patWin p
    || patLdim p ≥ n || Word.bit (patBase p) 63

/-- The cause a pattern raises (R208). -/
def patFault (p : BitVec 512) (keyedOk : Bool) : Option Nat :=
  if patIllegal p keyedOk then some cILLEGAL
  else if patBase p % patBytes p != 0 then some cMISALIGNED
  else none

/-- The sum of index times stride over dimensions from `d` up (R207). -/
def patOffset (p : BitVec 512) : Nat → Nat → Nat → Int
  | 0, _, _ => 0
  | k + 1, d, n =>
    let c := patCount p d
    if c == 0 then 0
    else ((n % c : Nat) : Int) * patStride p d + patOffset p k (d + 1) (n / c)

/-- `addr(n)` of R207, exact; none outside 0 to 2^63 − 1. -/
def patAddr (p : BitVec 512) (n : Nat) : Option Nat :=
  let a := ((patBase p : Nat) : Int) + ((patBytes p : Nat) : Int) * patOffset p (patNdim p) 0 n
  if a < 0 || a ≥ ((2 ^ 63 : Nat) : Int) then none else some a.toNat

/-- ADDR of a fault of element `n`: its address, in 64 bits (R207, R373). -/
def patVa (p : BitVec 512) (n : Nat) : Nat :=
  Word.wrap (((patBase p : Nat) : Int) + ((patBytes p : Nat) : Int) * patOffset p (patNdim p) 0 n) 64

/-- The next input token from element `s`: how many elements it holds, and its L mark (R209). -/
def patToken (p : BitVec 512) (s : Nat) : Nat × Bool :=
  let r := patRun p
  let per := 128 / patBytes p
  if r == 0 then (0, false)
  else
    let left := min (r - s % r) (patTotal p - s)
    if left ≤ per then (left, true) else (per, false)

/-- Elements an output token supplies from element `s`: a token with L = 1 supplies none beyond the
current run (R209). -/
def patTaken (p : BitVec 512) (s : Nat) (l : Bool) : Nat :=
  let r := patRun p
  let per := 128 / patBytes p
  let left := patTotal p - s
  if l && r != 0 then min (min per (r - s % r)) left else min per left

/-- Padding of a token closed early: zeros, or empty pairs when CTAG = 1 (R209). -/
def patPad (p : BitVec 512) (bs : List Byte) : List Byte :=
  if patCtag p then
    bs ++ ((List.range 16).drop (bs.length / 8)).flatMap fun _ =>
      [0xFF, 0xFF, 0xFF, 0xFF, 0, 0, 0, 0]
  else bs ++ List.replicate (128 - bs.length) 0

/-- DATA of 128 bytes. -/
def dataOf (bs : List Byte) : Data := BitVec.ofNat 1024 (Word.ofBytes bs)

/-- Index of lane `l` of an index token; none for 0xFFFFFFFF (R225). -/
def idxLane (x : Data) (l : Nat) : Option Nat :=
  let v := laneOf 32 x l
  if v == 0xFFFFFFFF then none else some v

/-- Address of the element an index names (R225). -/
def idxAddr (p : BitVec 512) (i : Nat) : Option Nat :=
  let a := ((patBase p : Nat) : Int) + ((patBytes p : Nat) : Int) * ((i : Int) * patStride p 0)
  if a < 0 || a ≥ ((2 ^ 63 : Nat) : Int) then none else some a.toNat

/-- ADDR of a fault of the element an index names. -/
def idxVa (p : BitVec 512) (i : Nat) : Nat :=
  Word.wrap (((patBase p : Nat) : Int) + ((patBytes p : Nat) : Int) * ((i : Int) * patStride p 0)) 64

/-- Tokens that carry the elements of one index token (R225). -/
def idxTokens (p : BitVec 512) : Nat := Word.ceilDiv (32 * patBytes p) 128

end Sys2Proof.Machine
end

