-- ==== Sys2Proof/Machine/Scratch.lean ====
section
/-! DEFINITION. Scratchpad and synchronisation instructions: LDS to WFA, UWAIT, the updates, LDG and
STG, FENCE, BARA and BARW (R191 to R205), in both block modes. -/

namespace Sys2Proof.Machine

/-! ### Store-class effects of a control block, performed at commit (R94, R202) -/

/-- The value a control slot captured from l, r or t. -/
def ctlBits (t : Tok) (w : Nat) : Nat := t.data.toNat % 2 ^ w

/-- Rows in one buffer, or words of a VERSION bank. -/
def versionWords : Nat := 8192

/-- STS at commit (R194). -/
def stsCom (o : OpM) (id : CoreId) (c : Capture) (d : Dev) : Dev :=
  let s := eltBytes o
  let a := effAddr c.a o.off s
  d.atBank (d.ctlBank id a s s bankBytes [.tile]) a 1 c.slot fun cfg _ t k b =>
    d.putBank cfg t k (b.setElem (mtOfs a) s (ctlBits c.b (8 * s)))

/-- A row pushed into a FIFO or LINE ring; a full ring waits (R195). -/
def Bank.push (b : Bank) (x : Data) (s : Bool) : Option Bank :=
  if b.live ≥ ringRows then none else some { b.setRow (ringOff b.head) x s with head := b.head + 1 }

/-- A row written into the buffer at the fill pointer, with LAST ending the fill (R195). -/
def Bank.putRow (b : Bank) (row : Nat) (x : Data) (s last : Bool) : Bank :=
  let b := b.setRow (b.bufBase b.fillPtr + 128 * row) x s
  if last then b.endFill else b

/-- Rows of a buffer of a bank, or of its ring. -/
def Bank.rowLimit (b : Bank) : Nat := if b.mode == .tile then b.bufSize / 128 else 2 ^ 32

/-- STB at commit: a control value is the low 64 bits of the row (R54, R195). -/
def stbCom (o : OpM) (id : CoreId) (c : Capture) (d : Dev) : Dev :=
  let a := effAddr c.a o.off 1
  let last := o.auxh.getLsbD 0
  d.atBank (d.ctlBank id a 1 0 (2 ^ 19) [.tile, .fifo, .line]) a 1 c.slot fun cfg _ t k b =>
    if b.mode == .tile then
      if mtOfs a ≥ b.rowLimit then d.txTrap cPERMISSION a 1 c.slot
      else if b.fillFull then d.txWait
      else d.putBank cfg t k (b.putRow (mtOfs a) (BitVec.ofNat 1024 (ctlBits c.b 64)) false last)
    else match b.push (BitVec.ofNat 1024 (ctlBits c.b 64)) false with
      | none => d.txWait
      | some b => d.putBank cfg t k b

/-- STV at commit (R198). -/
def stvCom (o : OpM) (id : CoreId) (c : Capture) (d : Dev) : Dev :=
  let a := effAddr c.a o.off 1
  let n := ctlBits c.c 32
  d.atBank (d.ctlBank id a 1 1 versionWords [.version]) a 1 c.slot fun cfg _ t k b =>
    let w := b.vword (mtOfs a)
    match w.stv n (BitVec.ofNat 64 (ctlBits c.b o.ty.width)) with
    | .wait => d.txWait
    | .gone => d.txTrap cVGONE a (vInfo n w.floor) c.slot
    | .dup => d.txTrap cVDUP a (vInfo n w.floor) c.slot
    | .ok w => d.putBank cfg t k (b.setVword (mtOfs a) w)

/-- VRECL at commit (R198). -/
def vreclCom (o : OpM) (id : CoreId) (c : Capture) (d : Dev) : Dev :=
  let a := effAddr c.a o.off 1
  d.atBank (d.ctlBank id a 1 1 versionWords [.version]) a 1 c.slot fun cfg _ t k b =>
    d.putBank cfg t k (b.setVword (mtOfs a) ((b.vword (mtOfs a)).vreclCtl (ctlBits c.b 32)))

/-- STG at commit (R201). -/
def stgCom (o : OpM) (m : Mem) (id : CoreId) (c : Capture) (d : Dev) : Dev :=
  let s := eltBytes o
  let a := effAddr c.a o.off s
  if a % s != 0 then d.txTrap cMISALIGNED a 1 c.slot
  else
    let (d, f) := d.store m (d.coreAcc id .ctl .wr 1) a (Word.toBytes s (ctlBits c.b (8 * s)))
    match f with
    | some f => d.txTrap f.cause a (f.info 1) c.slot
    | none => d

/-- An update at commit: `f` gives the new value from the old one, and `result` writes the old value
to the register AUXH names (R202). -/
def updateCom (o : OpM) (m : Mem) (id : CoreId) (c : Capture) (result : Bool) (f : Nat → Nat)
    (d : Dev) (late : Option (Nat × Ty × Nat) := none) : Dev :=
  let s := eltBytes o
  let a := effAddr c.a o.off s
  let org := firstPoison [c.a, c.b, c.c]
  let deliver : Nat → Option (BitVec 24) → Dev → Dev := fun old w d =>
    if result then
      let p := firstOrg org w
      d.gWrite id c.slot false ⟨o.auxh.toNat, by omega⟩
        { v := BitVec.ofNat 64 (ctlValue o.ty old).toNat, p := p.isSome, org := p.getD 0 }
    else d
  if Word.bit a 63 then
    d.atBank (d.ctlBank id a s s bankBytes [.tile]) a 2 c.slot fun cfg _ t k b =>
      let old := b.elem (mtOfs a) s
      let (d, w) := d.bankPoison (d.commitSite id c.slot) 0 t k b (mtOfs a) s
      deliver old w (d.putBank cfg t k (b.setElem (mtOfs a) s (f old)))
  else if a % s != 0 then d.txTrap cMISALIGNED a 2 c.slot
  else
    let (d, r) := d.update m (d.coreAcc id .ctl .upd 2) a s f late
    match r with
    | .error x => d.txTrap x.cause a (x.info 2) c.slot
    | .ok (old, p) => deliver old ((d.commitSite id c.slot).memOrigin p) d

/-- UPD and UPDF at commit. -/
def updCom (o : OpM) (m : Mem) (id : CoreId) (c : Capture) (result : Bool) (d : Dev) : Dev :=
  let b := ctlBits c.b o.ty.width
  updateCom o m id c result (fun old => updateOp o.auxl.toNat o.ty old b) d
    (if result then none else some (o.auxl.toNat, o.ty, b))

/-- UCAS at commit. -/
def ucasCom (o : OpM) (m : Mem) (id : CoreId) (c : Capture) (d : Dev) : Dev :=
  updateCom o m id c true (fun old => casOp o.ty.width old (ctlBits c.b o.ty.width)
    (ctlBits c.c o.ty.width)) d

/-- BARA at commit (R204). -/
def baraCom (o : OpM) (id : CoreId) (c : Capture) (d : Dev) : Dev :=
  let a := ctlBits c.a 64
  match d.mtOf id a with
  | none => d.txTrap cPERMISSION a 2 c.slot
  | some (cfg, _, t, mt) =>
    d.updInst cfg fun x => x.setMt t (mt.bara o.auxl.toNat (BitVec.ofInt 32 o.off.toInt))

/-- A bank after an LDB: a FIFO pops, LAST retires a LINE row, or makes a release of the binding's hold: of any,
when no binding reads (R178, R195). -/
def Bank.afterRead (b : Bank) (last : Bool) (key : Option Nat) : Bank :=
  match b.mode with
  | .fifo => { b with tail := b.tail + 1 }
  | .line => if last then { b with tail := b.tail + 1 } else b
  | .tile =>
    if last then match key with
      | some k => b.dropHold k
      | none => b.dropAnyHold
    else b
  | .version | .scale => b

/-- The read position of an LDB at commit. -/
def ldbCom (o : OpM) (id : CoreId) (c : Capture) (d : Dev) : Dev :=
  let a := effAddr c.a o.off 1
  d.atBank (d.ctlBank id a 1 0 (2 ^ 19) [.tile, .fifo, .line]) a 0 c.slot fun cfg _ t k b =>
    d.putBank cfg t k (b.afterRead (o.auxh.getLsbD 0) none)

/-- The effect on memory that an instruction performs at commit: of the store class, and the read position that
an LDB moves. -/
def storeCom (i : Instr) (m : Mem) (id : CoreId) (c : Capture) (d : Dev) : Dev :=
  match i.memOp with
  | none => d
  | some o => match i.opcode with
    | 0x81 => stsCom o id c d
    | 0x82 => ldbCom o id c d
    | 0x83 => stbCom o id c d
    | 0x85 => stvCom o id c d
    | 0x86 => vreclCom o id c d
    | 0x89 => stgCom o m id c d
    | 0x90 => updCom o m id c false d
    | 0x91 => updCom o m id c true d
    | 0x92 => ucasCom o m id c d
    | 0x95 => baraCom o id c d
    | _ => d

/-! ### What a control block's loads see (R94) -/

/-- Captured effects of a block on memory, in LSID order. -/
def Frame.stores (fr : Frame) : List (Nat × Instr × Capture) :=
  let all := fr.caps.filterMap fun c => match fr.blk.slots[c.slot]? with
    | some s => if s.ins.isStore || s.ins.opcode == 0x82 then s.ins.lsid.map fun k => (k, s.ins, c) else none
    | none => none
  (List.range 32).flatMap fun k => all.filter (·.1 == k)

/-- The state with the stores of lower LSID performed on it. -/
def Dev.afterStores (m : Mem) (d : Dev) (id : CoreId) (fr : Frame) (lsid : Nat) : Dev :=
  fr.stores.foldl (fun d s =>
    if s.1 < lsid then
      let d' := storeCom s.2.1 m id s.2.2 d
      if d'.tx = .ok then d' else d
    else d) d

/-- What a load of a block sees: the values at entry, under the block's stores of lower LSID
(DEDUCED, log entry 35). -/
def Dev.entryView (d : Dev) (id : CoreId) (fr : Frame) (lsid : Nat) : Dev :=
  (d.atFrame id fr).afterStores fr.mem0 id fr lsid

/-- The block a core runs, with what its loads see (DEDUCED, log entry 35). -/
def Dev.viewOf (d : Dev) (id : CoreId) (o : OpM) : Dev :=
  match (d.core id).frame with
  | some fr => d.entryView id fr o.lsid.val
  | none => d

/-- The state now, under the stores of lower LSID of the block a core runs: what a wait of that block watches
(R94, R199) (DEDUCED, log entry 35). -/
def Dev.underOwn (m : Mem) (d : Dev) (id : CoreId) (o : OpM) : Dev :=
  match (d.core id).frame with
  | some fr => d.afterStores m id fr o.lsid.val
  | none => d

/-- The bank a load of a control block reads from. -/
def CtlBank.seen (r : CtlBank) (b : Bank) : Bank :=
  match r with
  | .ok _ _ _ _ v => v
  | .wait | .fault _ => b

/-- An effect added to a block's commit beside a result delivered now. -/
def Dev.alsoCommit (d : Dev) (e : Site) (g : Gathered) : Dev :=
  d.updFrame e.core fun f =>
    { f with caps := f.caps ++ [{ slot := e.slot, a := g.a, b := g.b, c := g.c, computes := true }] }

/-! ### LDS, STS -/

/-- LDS in a control block. -/
def ldsCtl (o : OpM) (e : Site) (g : Gathered) (d : Dev) : Fired :=
  let s := eltBytes o
  let a := effAddr g.a o.off s
  (d.ctlBank e.core a s s bankBytes [.tile]).fire d a 0 fun _ _ t k b =>
    let v := ((d.viewOf e.core o).ctlBank e.core a s s bankBytes [.tile]).seen b
    let (d, w) := d.bankPoison e 0 t k b (mtOfs a) s
    .done d (.data (ctlValue o.ty (v.elem (mtOfs a) s)) w)

/-- LDS in an element block. -/
def ldsElem (o : OpM) (e : Site) (g : Gathered) (d : Dev) : Fired :=
  let es := eltIdx o g.a.data o.ty.lanes
  d.withBank e o.auxl.toNat false 0 (fun _ => eltOutside o es) fun _ bd b =>
    let (d, w) := d.elemsPoison e o.auxl.toNat bd b (eltBytes o) es
    .done d (.data (packLanes o.ty.laneWidth (b.loadElems (eltBytes o) es)) w)

/-- LDS (R193, R194). -/
def bodyLds (o : OpM) (_ : Mem) (d : Dev) : Dev :=
  d.fire (.lds o) false fun e g d => if e.ctl then ldsCtl o e g d else ldsElem o e g d

/-- Lanes a store takes from its data operand. -/
def storeLanes (o : OpM) (x : Data) : List Nat :=
  (List.range (if o.mode == .bcast then 1 else o.ty.lanes)).map (laneOf o.ty.laneWidth x)

/-- STS in an element block. -/
def stsElem (o : OpM) (e : Site) (g : Gathered) (d : Dev) : Fired :=
  let es := eltIdx o g.a.data (if o.mode == .bcast then 1 else o.ty.lanes)
  d.withBank e o.auxl.toNat true 1 (fun _ => eltOutside o es) fun _ bd b =>
    .done (d.putBank e.cfg bd.tile bd.bank (b.storeElems (eltBytes o) es (storeLanes o g.b.data))) .done

/-- STS (R193, R194). -/
def bodySts (o : OpM) (_ : Mem) (d : Dev) : Dev :=
  d.fireCommit (.sts o) false (fun _ _ _ => none) (stsElem o) fun id _ c d => stsCom o id c d

/-! ### LDB, STB -/

/-- A row an LDB reads: where it lies, or a wait, or a row outside the buffer. -/
inductive RowAt
  | wait
  | beyond
  | at_ (off : Nat)
  /-- A LINE row below row0, of which the manual states no contents. -/
  | gone
  deriving DecidableEq, Repr

/-- The row an LDB of a bank reads (R195); `ready` is the armed fill of a TILE bank. -/
def Bank.rowAt (b : Bank) (ready : Bool) (row : Int) : RowAt :=
  match b.mode with
  | .tile =>
    if !ready then .wait
    else if row < 0 || row.toNat ≥ b.rowLimit then .beyond
    else .at_ (b.bufBase b.readPtr + 128 * row.toNat)
  | .fifo => if b.live == 0 then .wait else .at_ (ringOff b.tail)
  | .line =>
    if (b.tail : Int) + row ≥ (b.head : Int) then .wait
    else if row < 0 then .gone
    else .at_ (ringOff (b.tail + row.toNat))
  | .version | .scale => .beyond

/-- The row an LDB of control code reads, in the bank as it stood at entry under the block's own stores, or as
it stands now under them when the row was not there at entry (R94, R195) (DEDUCED, log entry 35). -/
def Bank.rowSeen (entry now : Bank) (row : Int) : Bank × RowAt :=
  match entry.rowAt (!entry.holds.isEmpty) row with
  | .wait => (now, now.rowAt (!now.holds.isEmpty) row)
  | r => (entry, r)

/-- LDB in a control block: the pop, the retirement or the release is performed at commit. LAST on a FIFO, where
it must be 0, faults PERMISSION_FAULT (R195) (DEDUCED, log entries 35 and 57). -/
def ldbCtl (o : OpM) (m : Mem) (e : Site) (g : Gathered) (d : Dev) : Fired :=
  let a := effAddr g.a o.off 1
  let last := o.auxh.getLsbD 0
  let bank := fun (v : Dev) => v.ctlBank e.core a 1 0 (2 ^ 19) [.tile, .fifo, .line]
  (bank d).fire d a 0 fun _ _ t k b =>
    let (v, at_) := ((bank (d.viewOf e.core o)).seen b).rowSeen
      ((bank (d.underOwn m e.core o)).seen b) (mtOfs a)
    if b.mode == .fifo && last then .fault d cPERMISSION a 0
    else match at_ with
    | .wait => .wait
    | .beyond => .fault d cPERMISSION a 0
    | .gone => let (x, d) := d.fresh; .done d (.data (BitVec.ofNat 1024 (x.toNat % 2 ^ 64)) none)
    | .at_ off =>
      let (d, w) := d.bankPoison e 0 t k v off 128
      let d := if last || b.mode == .fifo then d.alsoCommit e g else d
      .done d (.data (BitVec.ofNat 1024 ((v.row off).toNat % 2 ^ 64)) w)

/-- Row an element LDB or STB names: lane 0 plus OFF16; none when the lane accesses nothing. -/
def rowIndex (o : OpM) (a : Data) : Option Int :=
  let v := laneOf 32 a 0
  if v == 0xFFFFFFFF then none else some ((v : Int) + o.off.toInt)

/-- The tile bank that an LDB of element code reads waits for its armed fill, or skips it (R178). -/
def Dev.unarmed (d : Dev) (e : Site) (k : Nat) (last : Bool) : Option Fired :=
  match (d.inst e.cfg).bind fun x => (x.bound e.tile k).map fun p => (x, p.2) with
  | none => some .wait
  | some (x, b) =>
    if b.mode != .tile || b.passed then none
    else if last && x.skipped e.tile k e.record then some (.done d .null)
    else if !b.armedFor (holdKey e.tile k) e.record then some .wait
    else none

/-- LDB in an element block: with LAST it releases or retires whether or not it computes; a skipped fill is not
read, and one not yet armed is waited for before its row is looked at (R178, R195). -/
def ldbElem (o : OpM) (e : Site) (g : Gathered) (d : Dev) : Fired :=
  let k := o.auxl.toNat
  let last := o.auxh.getLsbD 0
  let row := rowIndex o g.a.data
  let overran : Bank → Nat × Bool := fun b =>
    let r := row.getD 0
    (faultOfs 128 r, g.computes && b.mode == .tile && row.isSome && (r < 0 || r.toNat ≥ b.rowLimit))
  if !g.computes && !last then .done d .none
  else match d.unarmed e k last with
  | some r => r
  | none => d.withBank e k false 0 overran fun _ bd b =>
    let after := fun (d : Dev) =>
      d.putBank e.cfg bd.tile bd.bank (b.afterRead last (some (holdKey e.tile k)))
    if !g.computes then
      .done (if b.mode == .tile then after d else d) .none
    else if b.mode != .fifo && row.isNone then
      .done (after d) (.tok { p := g.org.isSome, org := g.org.getD 0 })
    else match b.rowAt true (row.getD 0) with
      | .wait | .beyond => .wait
      | .gone =>
        let (x, d) := d.fresh
        .done (after d) (.tok { data := x, p := g.org.isSome, org := g.org.getD 0 })
      | .at_ off =>
        let (d, w) := d.bankPoison e k bd.tile bd.bank b off 128
        let p := firstOrg g.org w
        .done (after d) (.tok { data := b.row off, s := b.rowS off, p := p.isSome, org := p.getD 0 })

/-- LDB (R195). -/
def bodyLdb (o : OpM) (m : Mem) (d : Dev) : Dev :=
  match d.focus with
  | .commit id slot => match ((d.core id).frame).bind (·.cap slot) with
    | some c => ldbCom o id c d
    | none => d
  | .none | .fire _ _ | .elem _ _ _ _ | .engine _ =>
    d.fire (.ldb o) true fun e g d => if e.ctl then ldbCtl o m e g d else ldbElem o e g d

/-- STB in an element block (R195). -/
def stbElem (o : OpM) (e : Site) (g : Gathered) (d : Dev) : Fired :=
  let row := rowIndex o g.a.data
  let last := o.auxh.getLsbD 0
  let overran : Bank → Nat × Bool := fun b =>
    let r := row.getD 0
    (faultOfs 128 r, b.mode == .tile && row.isSome && (r < 0 || r.toNat ≥ b.rowLimit))
  d.withBank e o.auxl.toNat true 1 overran fun _ bd b =>
    let put := fun (b : Bank) => Fired.done (d.putBank e.cfg bd.tile bd.bank b) .done
    if b.mode == .tile then
      if b.fillFull then .wait
      else match row with
        | some r => put (b.putRow r.toNat g.b.data g.b.s last)
        | none => put (if last then b.endFill else b)
    else match b.push g.b.data g.b.s with
      | none => .wait
      | some b => put b

/-- STB (R195). -/
def bodyStb (o : OpM) (_ : Mem) (d : Dev) : Dev :=
  d.fireCommit (.stb o) false (fun _ _ _ => none) (stbElem o) fun id _ c d => stbCom o id c d

/-! ### Versioned words -/

/-- Word an element versioned access names, and whether it lies outside the bank. -/
def wordOut (row : Option Int) : Nat × Bool :=
  match row with
  | none => (0, false)
  | some r => (Word.wrap r 19, r < 0 || r.toNat ≥ versionWords)

/-- Bytes of a bank that one versioned word takes: an uncorrectable granule spoils the words it lies under (R175)
(DESIGN CHOICE, log entry 55). -/
def wordBytes : Nat := bankBytes / versionWords

/-- LDV in a control block. -/
def ldvCtl (o : OpM) (e : Site) (g : Gathered) (d : Dev) : Fired :=
  let a := effAddr g.a o.off 1
  let n := ctlBits g.b 32
  let d' := match (d.core e.core).frame with
    | some fr => d.afterStores fr.mem0 e.core fr o.lsid.val
    | none => d
  (d'.ctlBank e.core a 1 1 versionWords [.version]).fire d a 0 fun _ _ t k b =>
    let w := b.vword (mtOfs a)
    match w.ldv n with
    | .wait | .dup => .wait
    | .gone => .fault d cVGONE a (vInfo n w.floor)
    | .ok x =>
      let (d, p) := d.bankPoison e 0 t k b (wordBytes * mtOfs a) wordBytes
      .done d (.data (ctlValue o.ty (x.toNat % 2 ^ o.ty.width)) p)

/-- LDV in an element block. -/
def ldvElem (o : OpM) (e : Site) (g : Gathered) (d : Dev) : Fired :=
  let row := rowIndex o g.a.data
  let n := laneOf 32 g.b.data 0
  d.withBank e o.auxl.toNat false 0 (fun _ => wordOut row) fun _ bd b =>
    match row with
    | none => .done d (.data 0 none)
    | some r =>
      let w := b.vword r.toNat
      match w.ldv n with
      | .wait | .dup => .wait
      | .gone => .fault d cVGONE (mtAddr bd.tile bd.bank r.toNat) (vInfo n w.floor)
      | .ok x =>
        let (d, p) := d.bankPoison e o.auxl.toNat bd.tile bd.bank b (wordBytes * r.toNat) wordBytes
        .done d (.data ((splat false o.ty (x.toNat % 2 ^ o.ty.width)).data false) p)

/-- LDV (R198). -/
def bodyLdv (o : OpM) (_ : Mem) (d : Dev) : Dev :=
  d.fire (.ldv o) false fun e g d => if e.ctl then ldvCtl o e g d else ldvElem o e g d

/-- The MT of a bank with one more step to undo at a rewind (R200). -/
def Dev.undoable (d : Dev) (cfg tile : Nat) (u : Undo) : Dev :=
  d.updInst cfg fun x => match x.mt tile with
    | some mt => x.setMt tile { mt with undo := mt.undo ++ [u] }
    | none => x

/-- STV in an element block. -/
def stvElem (o : OpM) (e : Site) (g : Gathered) (d : Dev) : Fired :=
  let row := rowIndex o g.a.data
  let n := laneOf 32 g.c.data 0
  d.withBank e o.auxl.toNat true 1 (fun _ => wordOut row) fun _ bd b =>
    match row with
    | none => .done d .done
    | some r =>
      let w := b.vword r.toNat
      let at_ := mtAddr bd.tile bd.bank r.toNat
      match w.stv n (BitVec.ofNat 64 (laneOf 32 g.b.data 0)) with
      | .wait => .wait
      | .gone => .fault d cVGONE at_ (vInfo n w.floor)
      | .dup => .fault d cVDUP at_ (vInfo n w.floor)
      | .ok w => .done ((d.putBank e.cfg bd.tile bd.bank (b.setVword r.toNat w)).undoable e.cfg bd.tile
          (.stv bd.bank r.toNat n)) .done

/-- STV (R198). -/
def bodyStv (o : OpM) (_ : Mem) (d : Dev) : Dev :=
  d.fireCommit (.stv o) false (fun _ _ _ => none) (stvElem o) fun id _ c d => stvCom o id c d

/-- VRECL in an element block. -/
def vreclElem (o : OpM) (e : Site) (g : Gathered) (d : Dev) : Fired :=
  let row := rowIndex o g.a.data
  d.withBank e o.auxl.toNat true 1 (fun _ => wordOut row) fun _ bd b =>
    match row with
    | none => .done d .done
    | some r =>
      let w := b.vword r.toNat
      .done ((d.putBank e.cfg bd.tile bd.bank
        (b.setVword r.toNat (w.vrecl (laneOf 32 g.b.data 0)))).undoable e.cfg bd.tile
          (.vrecl bd.bank r.toNat w.floor (w.live.filter fun p => p.1 < laneOf 32 g.b.data 0))) .done

/-- VRECL (R198). -/
def bodyVrecl (o : OpM) (_ : Mem) (d : Dev) : Dev :=
  d.fireCommit (.vrecl o) false (fun _ _ _ => none) (vreclElem o) fun id _ c d => vreclCom o id c d

/-! ### Waits -/

/-- The condition of WFA, and of UWAIT (R199). -/
def waitMet (least : Bool) (t : Ty) (cur want : Nat) : Bool :=
  if least then decide (t.intVal cur ≥ t.intVal want) else cur % 2 ^ t.width == want % 2 ^ t.width

/-- WFA and UWAIT in a control block, on an MT or on main memory. -/
def waitCtl (least : Bool) (o : OpM) (m : Mem) (e : Site) (g : Gathered) (d : Dev) : Fired :=
  let s := eltBytes o
  let a := effAddr g.a o.off s
  let want := ctlBits g.b o.ty.width
  if Word.bit a 63 then
    (d.ctlBank e.core a s s bankBytes [.tile]).fire d a 0 fun _ _ t k b =>
      let v := ((d.underOwn m e.core o).ctlBank e.core a s s bankBytes [.tile]).seen b
      let cur := v.elem (mtOfs a) s
      if waitMet least o.ty cur want then
        let (d, w) := d.bankPoison e 0 t k b (mtOfs a) s
        .done d (.data (ctlValue o.ty cur) w)
      else .wait
  else if a % s != 0 then .fault d cMISALIGNED a 0
  else
    let (d, r) := Dev.loadAs (d.underOwn m e.core o) m m d (d.coreAcc e.core .ctl .rd 0) a s
    match r with
    | .error f => .fault d f.cause a (f.info 0)
    | .ok (bs, p) =>
      let cur := Word.ofBytes bs
      if waitMet least o.ty cur want then .done d (.data (ctlValue o.ty cur) (e.memOrigin p)) else .wait

/-- WFA and UWAIT in an element block: lane 0, delivered in every lane. -/
def waitElem (least : Bool) (o : OpM) (e : Site) (g : Gathered) (d : Dev) : Fired :=
  let es := eltIdx o g.a.data 1
  d.withBank e o.auxl.toNat false 0 (fun _ => eltOutside o es) fun _ bd b =>
    let cur := (b.loadElems (eltBytes o) es).headD 0
    if waitMet least o.ty cur (laneOf o.ty.laneWidth g.b.data 0) then
      let (d, w) := d.elemsPoison e o.auxl.toNat bd b (eltBytes o) es
      .done d (.data ((splat false o.ty cur).data false) w)
    else .wait

/-- WFA (R199). -/
def bodyWfa (o : OpM) (m : Mem) (d : Dev) : Dev :=
  d.fire (.wfa o) false fun e g d => if e.ctl then waitCtl false o m e g d else waitElem false o e g d

/-- UWAIT (R199). -/
def bodyUwait (o : OpM) (m : Mem) (d : Dev) : Dev :=
  d.fire (.uwait o) false fun e g d => if e.ctl then waitCtl true o m e g d else waitElem true o e g d

/-! ### Main memory -/

/-- LDG: the value at entry, under the block's stores of lower LSID (R94, R201). -/
def ldgCtl (o : OpM) (m : Mem) (e : Site) (g : Gathered) (d : Dev) : Fired :=
  let s := eltBytes o
  let a := effAddr g.a o.off s
  if a % s != 0 then .fault d cMISALIGNED a 0
  else
    let (d, r) := Dev.loadAs (d.viewOf e.core o) (d.entryMem e.core m) m d (d.coreAcc e.core .ldg .rd 0) a s
    match r with
    | .error f => .fault d f.cause a (f.info 0)
    | .ok (bs, p) =>
      .done d (.data (ctlValue o.ty (Word.ofBytes bs)) (e.memOrigin p))

/-- LDG (R201). -/
def bodyLdg (o : OpM) (m : Mem) (d : Dev) : Dev :=
  d.fire (.ldg o) false fun e g d => ldgCtl o m e g d

/-- STG (R201). -/
def bodyStg (o : OpM) (m : Mem) (d : Dev) : Dev :=
  d.fireCommit (.stg o) false (fun _ _ _ => none) (fun _ _ _ => .wait) fun id _ c d => stgCom o m id c d

/-! ### Updates -/

/-- An update of a TILE bank by element code; `result` delivers the old values (R202). -/
def updateElem (o : OpM) (result : Bool) (f : Nat → Nat → Nat) (e : Site) (g : Gathered) (d : Dev) :
    Fired :=
  let es := eltIdx o g.a.data o.ty.lanes
  let k := o.auxh.toNat
  d.withBank e k true 2 (fun _ => eltOutside o es) fun _ bd b =>
    let (b', olds) := b.updateElems (eltBytes o) f 0 es
    let (d, w) := d.elemsPoison e k bd b (eltBytes o) es
    let d := d.putBank e.cfg bd.tile bd.bank b'
    .done d (if result then .data (packLanes o.ty.laneWidth olds) w else .done)

/-- The operation of UPD and UPDF on the lanes of their operand. -/
def updLane (o : OpM) (g : Gathered) (l old : Nat) : Nat :=
  updateOp o.auxl.toNat o.ty old (laneOf o.ty.laneWidth g.b.data l)

/-- UPD (R202). -/
def bodyUpd (o : OpM) (m : Mem) (d : Dev) : Dev :=
  d.fireCommit (.upd o) false (fun _ _ _ => none) (fun e g d => updateElem o false (updLane o g) e g d)
    fun id _ c d => updCom o m id c false d

/-- UPDF (R202). -/
def bodyUpdf (o : OpM) (m : Mem) (d : Dev) : Dev :=
  d.fireCommit (.updf o) false (fun _ _ _ => none) (fun e g d => updateElem o true (updLane o g) e g d)
    fun id _ c d => updCom o m id c true d

/-- UCAS (R202). -/
def bodyUcas (o : OpM) (m : Mem) (d : Dev) : Dev :=
  d.fireCommit (.ucas o) false (fun _ _ _ => none)
    (fun e g d => updateElem o true (fun l old =>
      casOp o.ty.width old (laneOf o.ty.laneWidth g.b.data l) (laneOf o.ty.laneWidth g.c.data l)) e g d)
    fun id _ c d => ucasCom o m id c d

/-! ### FENCE -/

/-- Every store or update that R203 makes an element FENCE of record `r` wait for has performed. -/
def Blk.fenceMet (b : Blk) (stores updates : Bool) (r : Nat) : Bool :=
  b.slots.all fun s =>
    let op := s.ins.opcode
    !((stores && [0x81, 0x83, 0x85, 0x86].contains op)
        || (updates && [0x90, 0x91, 0x92, 0x95].contains op)) || r ≤ s.fired

/-- FENCE in an element block. -/
def fenceElem (o : OpI) (e : Site) (g : Gathered) (d : Dev) : Fired :=
  match (d.inst e.cfg).bind (·.ct e.tile) with
  | none => .wait
  | some c => match c.blks[e.blk]? with
    | none => .wait
    | some b =>
      if b.fenceMet (o.imm.getLsbD 8) (o.imm.getLsbD 9) e.record then .done d (.data g.a.data none)
      else .wait

/-- A peer has not acknowledged a store or an update of a thread, of the kinds a FENCE selects (R203, R244). -/
def Dev.fencePeers (d : Dev) (id : CoreId) (stores updates : Bool) : Bool :=
  d.peerq.any fun w => w.unit == id.key && (if w.upd.isSome then updates else stores)

/-- FENCE: in a control block stores and updates have performed on the package when it commits; with scope DOMAIN
the commit waits for the acknowledgements of peers, and with the streams kind until the thread's commands have ended
(R203, R244). -/
def bodyFence (o : OpI) (_ : Mem) (d : Dev) : Dev :=
  d.fireCommit (.fence o) false (fun _ _ _ => none) (fenceElem o) fun id _ _ d =>
    if o.imm.getLsbD 10 && !(d.core id).board.isEmpty then d.txWait
    else if o.imm.toNat % 8 == 4 && d.fencePeers id (o.imm.getLsbD 8) (o.imm.getLsbD 9) then d.txWait
    else if o.imm.getLsbD 8 && o.imm.toNat % 8 ≥ 2 then d.fenced id (o.imm.getLsbD 10) else d

/-! ### Barrier counters -/

/-- BARA in an element block (R204). -/
def baraElem (o : OpM) (e : Site) (_ : Gathered) (d : Dev) : Fired :=
  match d.inst e.cfg with
  | none => .wait
  | some x => match x.bound e.tile o.auxh.toNat with
    | none => .wait
    | some (bd, _) => match x.mt bd.tile with
      | none => .wait
      | some mt =>
        let inc := BitVec.ofInt 32 o.off.toInt
        .done ((d.updInst e.cfg fun x => x.setMt bd.tile (mt.bara o.auxl.toNat inc)).undoable e.cfg
          bd.tile (.bara o.auxl.toNat inc)) .done

/-- BARA (R204). -/
def bodyBara (o : OpM) (_ : Mem) (d : Dev) : Dev :=
  d.fireCommit (.bara o) false (fun _ _ _ => none) (baraElem o) fun id _ c d => baraCom o id c d

/-- BARW in a control block (DEDUCED, log entry 36). -/
def barwCtl (o : OpM) (e : Site) (g : Gathered) (d : Dev) : Fired :=
  let a := ctlBits g.a 64
  match d.mtOf e.core a with
  | none => .fault d cPERMISSION a 0
  | some (_, _, _, mt) =>
    let v := mt.counter o.auxl.toNat
    if barrierMet v (BitVec.ofNat 32 (ctlBits g.b 32)) then .done d (.data (ctlValue o.ty v.toNat) none)
    else .wait

/-- BARW in an element block. -/
def barwElem (o : OpM) (e : Site) (g : Gathered) (d : Dev) : Fired :=
  match d.inst e.cfg with
  | none => .wait
  | some x => match (x.bound e.tile o.auxh.toNat).bind fun p => x.mt p.1.tile with
    | none => .wait
    | some mt =>
      let v := mt.counter o.auxl.toNat
      if barrierMet v (BitVec.ofNat 32 (laneOf 32 g.b.data 0)) then
        .done d (.alu (splat false o.ty v.toNat))
      else .wait

/-- BARW (R204). -/
def bodyBarw (o : OpM) (_ : Mem) (d : Dev) : Dev :=
  d.fire (.barw o) false fun e g d => if e.ctl then barwCtl o e g d else barwElem o e g d

/-- One step of LDS. -/
def execLds (o : OpM) (s : State) : Host.Outcome State Fault Refusal :=
  act s (bodyLds o)

/-- One step of STS. -/
def execSts (o : OpM) (s : State) : Host.Outcome State Fault Refusal :=
  act s (bodySts o)

/-- One step of LDB. -/
def execLdb (o : OpM) (s : State) : Host.Outcome State Fault Refusal :=
  act s (bodyLdb o)

/-- One step of STB. -/
def execStb (o : OpM) (s : State) : Host.Outcome State Fault Refusal :=
  act s (bodyStb o)

/-- One step of LDV. -/
def execLdv (o : OpM) (s : State) : Host.Outcome State Fault Refusal :=
  act s (bodyLdv o)

/-- One step of STV. -/
def execStv (o : OpM) (s : State) : Host.Outcome State Fault Refusal :=
  act s (bodyStv o)

/-- One step of VRECL. -/
def execVrecl (o : OpM) (s : State) : Host.Outcome State Fault Refusal :=
  act s (bodyVrecl o)

/-- One step of WFA. -/
def execWfa (o : OpM) (s : State) : Host.Outcome State Fault Refusal :=
  act s (bodyWfa o)

/-- One step of UWAIT. -/
def execUwait (o : OpM) (s : State) : Host.Outcome State Fault Refusal :=
  act s (bodyUwait o)

/-- One step of LDG. -/
def execLdg (o : OpM) (s : State) : Host.Outcome State Fault Refusal :=
  act s (bodyLdg o)

/-- One step of STG. -/
def execStg (o : OpM) (s : State) : Host.Outcome State Fault Refusal :=
  act s (bodyStg o)

/-- One step of UPD. -/
def execUpd (o : OpM) (s : State) : Host.Outcome State Fault Refusal :=
  act s (bodyUpd o)

/-- One step of UPDF. -/
def execUpdf (o : OpM) (s : State) : Host.Outcome State Fault Refusal :=
  act s (bodyUpdf o)

/-- One step of UCAS. -/
def execUcas (o : OpM) (s : State) : Host.Outcome State Fault Refusal :=
  act s (bodyUcas o)

/-- One step of FENCE. -/
def execFence (o : OpI) (s : State) : Host.Outcome State Fault Refusal :=
  act s (bodyFence o)

/-- One step of BARA. -/
def execBara (o : OpM) (s : State) : Host.Outcome State Fault Refusal :=
  act s (bodyBara o)

/-- One step of BARW. -/
def execBarw (o : OpM) (s : State) : Host.Outcome State Fault Refusal :=
  act s (bodyBarw o)

end Sys2Proof.Machine
end

