-- ==== Sys2Proof/Machine/Streams.lean ====
section
/-! DEFINITION. Access-pattern registers and stream commands (R206 to R216, R222 to R226): what they
check as their block is entered, and what they queue or change at its commit. -/

namespace Sys2Proof.Machine

/-! ### Traps of commands -/

/-- The instruction word of a slot of a control block. -/
def Frame.word (fr : Frame) (slot : Nat) : Nat :=
  match fr.blk.slots[slot]? with
  | some s => s.word.toNat
  | none => 0

/-- ILLEGAL_INSTR of a slot (R306). -/
def Dev.txIllegal (d : Dev) (fr : Frame) (slot : Nat) : Dev :=
  d.txTrap cILLEGAL fr.addr (fr.word slot) slot

/-- A cause that a pattern raises; MISALIGNED names its BASE (R208). -/
def Dev.txPattern (d : Dev) (fr : Frame) (slot cause kind : Nat) (p : BitVec 512) : Dev :=
  if cause == cILLEGAL then d.txIllegal fr slot else d.txTrap cause (patBase p) kind slot

/-! ### Access-pattern registers (R211) -/

/-- A pattern register of a core. -/
def Core.pat (c : Core) (k : Nat) : BitVec 512 := c.ap.getD k 0

/-- A core with a pattern register set. -/
def Dev.setPat (d : Dev) (id : CoreId) (k : Nat) (p : BitVec 512) : Dev :=
  d.updCore id fun c => { c with ap := setAt c.ap k p }

/-- A 512-bit value with 64-bit word `k` replaced. -/
def setWord (p : BitVec 512) (k : Nat) (v : Word) : BitVec 512 :=
  (p &&& ~~~(BitVec.ofNat 512 ((2 ^ 64 - 1) * 2 ^ (64 * k)))) ||| BitVec.ofNat 512 (v.toNat * 2 ^ (64 * k))

/-- APSET (R211). -/
def bodyApset (o : OpS) (_ : Mem) (d : Dev) : Dev :=
  d.commits (.apset o) fun id _ _ d =>
    let c := d.core id
    d.setPat id o.ap.val (setWord (c.pat o.ap.val) (o.sub.toNat % 8) (c.reg o.ga).v)

/-- APCPY (R211). -/
def bodyApcpy (o : OpS) (_ : Mem) (d : Dev) : Dev :=
  d.commits (.apcpy o) fun id _ _ d => d.setPat id o.ap.val ((d.core id).pat (o.aux.toNat % 16))

/-- APCLR (R211). -/
def bodyApclr (o : OpS) (_ : Mem) (d : Dev) : Dev :=
  d.commits (.apclr o) fun id _ _ d => d.setPat id o.ap.val 0

/-- The 64 bytes APLD reads as its block is entered, from main memory or from an MT (R211). -/
def apldFire (o : OpS) (m : Mem) (e : Site) (g : Gathered) (d : Dev) : Fired :=
  let a := ((d.core e.core).reg o.ga).v.toNat
  let keep : Dev → Nat → Fired := fun d v =>
    .done (d.alsoCommit e { g with b := { data := BitVec.ofNat 1024 v } }) .none
  if a % 64 != 0 then .fault d cMISALIGNED a 0
  else if Word.bit a 63 then
    (d.ctlBank e.core a 64 64 bankBytes [.tile]).fire d a 0 fun _ _ t k b =>
      let v := ((d.atEntry e.core).ctlBank e.core a 64 64 bankBytes [.tile]).seen b
      keep (d.bankPoison e 0 t k v (mtOfs a) 64).1 (v.elem (mtOfs a) 64)
  else
    let (d, r) := d.entryLoad m e.core (d.coreAcc e.core .ldg .rd 0) a 64
    match r with
    | .error f => .fault d f.cause a (f.info 0)
    | .ok (bs, _) => keep d (Word.ofBytes bs)

/-- APLD (R211). -/
def bodyApld (o : OpS) (m : Mem) (d : Dev) : Dev :=
  match d.focus with
  | .commit id slot => match ((d.core id).frame).bind (·.cap slot) with
    | some c => d.setPat id o.ap.val (BitVec.ofNat 512 c.b.data.toNat)
    | none => d
  | .none | .fire _ _ | .elem _ _ _ _ | .engine _ =>
    d.fire (.apld o) false fun e g d => apldFire o m e g d

/-! ### Virtual ports -/

/-- A command may not use a virtual port: its cause, ADDR and INFO (R212). `out` is the direction it
needs, if any (DEDUCED, log entry 36). -/
def Dev.vpFault (d : Dev) (id : CoreId) (vp : Nat) (out : Option Bool) : Option (Nat × Nat × Nat) :=
  let bad := some (cPERMISSION, 0, 4)
  match id with
  | .sys _ => bad
  | .cc page => match d.instOn page.val with
    | none => bad
    | some (_, x) => match x.liveVp vp with
      | none => bad
      | some v => if x.pageOf v.tile != page.val || (out.isSome && out != some v.dirOut) then bad else none

/-- The first of some checks that fails. -/
def firstFault : List (Option (Nat × Nat × Nat)) → Option (Nat × Nat × Nat)
  | [] => none
  | none :: rest => firstFault rest
  | some f :: _ => some f

/-- Entries of a scoreboard queue (R213). -/
def boardSize : Nat := 32

/-- A command put at the end of the scoreboard queue of a core. -/
def Dev.addCmd (d : Dev) (id : CoreId) (vp : Option (Nat × Nat)) (k : CmdKind) : Dev :=
  ({ d with nextCmd := d.nextCmd + 1 } : Dev).updCore id fun c =>
    { c with board := c.board ++ [{ id := d.nextCmd, kind := k, vp := vp }] }

/-- Entries of its queue that a core's commands take: an SBAR marks a place between them (R213)
(DEDUCED, log entry 36). -/
def Core.boardUse (c : Core) : Nat := (c.board.filter fun q => q.kind != .sbar).length

/-- A command put into the scoreboard queue of a core; the commit waits while it has no room
(R213). -/
def Dev.queueCmd (d : Dev) (id : CoreId) (vp : Option (Nat × Nat)) (k : CmdKind) : Dev :=
  if (d.core id).boardUse ≥ boardSize then d.txWait else d.addCmd id vp k

/-- The window of a pattern exceeds the virtual port's (R212). -/
def overWindow (v : Vp) (p : BitVec 512) : Bool := patWin p > (if v.winmax == 0 then 16 else v.winmax)

/-- Whose accesses the commands of a core are: context, partition and TID, and whether at H (R368). -/
def Dev.issuer (d : Dev) (id : CoreId) : Nat × Nat × Nat × Bool :=
  let c := d.core id
  let hyp := c.level == .h
  let part := if hyp then c.ctxsel.toNat / 4096 else c.part
  let ctx := d.accCtx id
  (ctx, part, d.tidOf part ctx, hyp)

/-- A binding command at commit (R208, R212, R213) (DEDUCED, log entry 36). -/
def bindCom (kind : BindKind) (o : OpS) (id : CoreId) (fr : Frame) (c : Capture) (d : Dev) : Dev :=
  let p := (d.core id).pat o.ap.val
  let gathers := kind == .gather || kind == .scatter || kind == .update
  match d.instOf id with
  | none => d.txTrap cPERMISSION 0 4 c.slot
  | some (k, x) => match x.liveVp o.vp.val with
    | none => d.txTrap cPERMISSION 0 4 c.slot
    | some v =>
      if patIllegal p false || (gathers && patNdim p != 1) || (kind == .update && patEsz p != 2) then
        d.txIllegal fr c.slot
      else match patFault p false with
        | some cause => d.txPattern fr c.slot cause 4 p
        | none =>
          if overWindow v p then d.txTrap cPERMISSION 0 4 c.slot
          else
            let (ctx, part, _, _) := d.issuer id
            d.queueCmd id (some (k, o.vp.val)) (.bind
              { kind := kind, pat := p, ctx := ctx, part := part
                idxVp := if gathers then o.aux.toNat % 64 else 0
                op := if kind == .update then o.sub.toNat % 16 else 0
                ty := if kind == .update then Ty.ofCode (o.sub.toNat / 16) else .i32 })

/-- A binding command: the virtual ports it names, with their directions, are checked at entry. -/
def Dev.bindCmd (d : Dev) (i : Instr) (kind : BindKind) (o : OpS) (out : Bool) : Dev :=
  let gathers := kind == .gather || kind == .scatter || kind == .update
  d.fireCommit i false (fun e _ d => firstFault [d.vpFault e.core o.vp.val (some out),
      if gathers then d.vpFault e.core (o.aux.toNat % 64) (some true) else none])
    (fun _ _ _ => .wait) (bindCom kind o)

/-- SBIND (R210, R214). -/
def bodySbind (o : OpS) (_ : Mem) (d : Dev) : Dev := d.bindCmd (.sbind o) .input o false
/-- SBINDW (R210, R214). -/
def bodySbindw (o : OpS) (_ : Mem) (d : Dev) : Dev := d.bindCmd (.sbindw o) .output o true
/-- SGATH (R210, R225). -/
def bodySgath (o : OpS) (_ : Mem) (d : Dev) : Dev := d.bindCmd (.sgath o) .gather o false
/-- SSCAT (R210, R225). -/
def bodySscat (o : OpS) (_ : Mem) (d : Dev) : Dev := d.bindCmd (.sscat o) .scatter o true
/-- SUPD (R210, R226). -/
def bodySupd (o : OpS) (_ : Mem) (d : Dev) : Dev := d.bindCmd (.supd o) .update o true

/-! ### Copies -/

/-- Completion pair of a command: gGB holds its address and gGB+1 its value (R222). -/
def Core.cwPair (c : Core) (cw : Bool) (gb : Fin 32) : Option (Nat × Word) :=
  if cw then some ((c.reg gb).v.toNat, (c.g.getD (gb.val + 1) {}).v) else none

/-- A completion word may lie at an address (R222). -/
def Dev.cwOk (d : Dev) (id : CoreId) (a : Nat) : Bool :=
  if !Word.bit a 63 then a % 8 == 0
  else match d.mtOf id a with
    | none => false
    | some (_, _, _, mt) => match mt.banks[mtBank a]? with
      | none => false
      | some b => (b.mode == .tile && mtOfs a % 8 == 0 && mtOfs a < bankBytes)
          || (b.mode == .version && mtOfs a < versionWords)

/-- The check of a completion address, which raises MISALIGNED at commit (R222). -/
def Dev.cwFault (d : Dev) (id : CoreId) (cw : Option (Nat × Word)) : Option Nat :=
  match cw with
  | some (a, _) => if d.cwOk id a then none else some a
  | none => none

/-- The copy of a command, with its source and destination. -/
def Dev.newCopy (d : Dev) (id : CoreId) (src : BitVec 512) (dst : CopyDst) (cw : Option (Nat × Word)) :
    Copy :=
  let (ctx, part, _, hyp) := d.issuer id
  { core := id, ctx := ctx, part := part, olev := (d.core id).level.rank, who := { d.coreRec id with cls := 2 }, src := src, dst := dst, cw := cw, hyp := hyp
    cfg := match d.instOf id with
      | some (k, _) => k
      | none => 0xFFFF }

/-- The commit goes on when a command meets no cause; otherwise it traps with the cause of lowest
priority number (R304), each given with its ADDR and INFO. -/
def Dev.orTrap (d : Dev) (fr : Frame) (slot : Nat) (cs : List (Nat × Nat × Nat)) (go : Dev) : Dev :=
  match firstCause (cs.map (·.1)) with
  | none => go
  | some c => if c == cILLEGAL then d.txIllegal fr slot
    else match lookup c cs with
      | some (addr, info) => d.txTrap c addr info slot
      | none => go

/-- Causes a pattern raises (R208). -/
def patCauses (p : BitVec 512) (keyedOk : Bool) : List (Nat × Nat × Nat) :=
  match patFault p keyedOk with
  | some c => [(c, patBase p, 5)]
  | none => []

/-- Causes of a completion address (R222). -/
def Dev.cwCauses (d : Dev) (id : CoreId) (cw : Option (Nat × Word)) : List (Nat × Nat × Nat) :=
  match d.cwFault id cw with
  | some a => [(cMISALIGNED, a, 5)]
  | none => []

/-- The bank of a copy command into an MT address and the causes it raises: `modes` are the bank modes
it accepts and `ok` what more it asks of the bank (R173, R223, R224, R281). -/
def Dev.bankCauses (d : Dev) (id : CoreId) (a : Nat) (src : BitVec 512) (modes : List BankMode)
    (ok : Bank → Bool) : List (Nat × Nat × Nat) × Option CopyDst :=
  match d.mtOf id a with
  | none => ([(cPERMISSION, a, 5)], none)
  | some (k, x, t, mt) => match mt.banks[mtBank a]? with
    | none => ([(cPERMISSION, a, 5)], none)
    | some b =>
      let routed := match (x.tile t).bind fun tl => lookup (mtBank a) tl.inp with
        | some p => p.feeder == .route && p.fills.isSome
        | none => false
      ((if !modes.contains b.mode || mtOfs a != 0 || routed || !ok b then [(cPERMISSION, a, 5)] else [])
        ++ (if patTotal src * patBytes src > b.bufSize then [(cILLEGAL, 0, 0)] else []),
        some (.bank k t (mtBank a)))

/-- SCOPY at commit (R222, R223). -/
def scopyCom (o : OpS) (id : CoreId) (fr : Frame) (c : Capture) (d : Dev) : Dev :=
  let core := d.core id
  let src := core.pat o.ap.val
  let cw := core.cwPair (o.sub.getLsbD 2) o.gb
  let cs := patCauses src false ++ d.cwCauses id cw
  match o.sub.toNat % 4 with
  | 0 =>
    let dst := core.pat (o.aux.toNat % 16)
    d.orTrap fr c.slot (cs ++ patCauses dst false
        ++ if patTotal src * patBytes src != patTotal dst * patBytes dst then [(cILLEGAL, 0, 0)] else [])
      (d.queueCmd id none (.copy (d.newCopy id src (.pattern dst) cw)))
  | 1 =>
    let (bs, dst) := d.bankCauses id (core.reg o.ga).v.toNat src [.tile, .scale] fun _ => true
    d.orTrap fr c.slot (cs ++ bs) (match dst with
      | some dst => d.queueCmd id none (.copy (d.newCopy id src dst cw))
      | none => d)
  | _ => match d.instOf id with
    | none => d.txTrap cPERMISSION 0 5 c.slot
    | some (k, x) => match x.liveVp o.vp.val with
      | none => d.txTrap cPERMISSION 0 5 c.slot
      | some v =>
        d.orTrap fr c.slot (cs ++ if overWindow v src then [(cPERMISSION, 0, 5)] else [])
          (d.queueCmd id (some (k, o.vp.val)) (.copy (d.newCopy id src (.vport k o.vp.val) cw)))

/-- SCOPY (R223). -/
def bodyScopy (o : OpS) (_ : Mem) (d : Dev) : Dev :=
  d.fireCommit (.scopy o) false
    (fun e _ d => if o.sub.toNat % 4 == 2 then d.vpFault e.core o.vp.val (some false) else none)
    (fun _ _ _ => .wait) (scopyCom o)

/-! ### Waiting for commands, and their status -/

/-- A command names a virtual port of an instance. -/
def Cmd.names (c : Cmd) (cfg vp : Nat) : Bool :=
  c.vp == some (cfg, vp) || match c.kind with
    | .bind b => c.vp.map (·.1) == some cfg && b.idxVp == vp
        && (b.kind == .gather || b.kind == .scatter || b.kind == .update)
    | .copy _ | .coll _ _ | .sbar => false

/-- SWAIT: the commit waits until every command queued for the virtual port has ended (R215). -/
def bodySwait (o : OpS) (_ : Mem) (d : Dev) : Dev :=
  d.fireCommit (.swait o) false (fun e _ d => d.vpFault e.core o.vp.val none) (fun _ _ _ => .wait)
    fun id _ _ d => match d.instOf id with
      | some (k, _) => if (d.core id).board.any (·.names k o.vp.val) then d.txWait else d
      | none => d

/-- The stream status word (R215). -/
def Vp.status (v : Vp) (queued bound : Bool) : Nat :=
  let state := if bound || v.bind.isSome then 2 else if queued then 1 else if v.ended then 3 else 0
  state + (if v.killed then 4 else 0) + (if v.short then 8 else 0) + (if v.overran then 16 else 0)
    + v.fault % 256 * 2 ^ 8 + min v.elems 0xFFFFFFFF * 2 ^ 32

/-- SSTAT: the status is read and written to gGA at commit; "ended" reads once (R215). -/
def bodySstat (o : OpS) (_ : Mem) (d : Dev) : Dev :=
  d.fireCommit (.sstat o) false (fun e _ d => d.vpFault e.core o.vp.val none) (fun _ _ _ => .wait)
    fun id _ c d => match d.instOf id with
      | none => d
      | some (k, x) => match x.vp o.vp.val with
        | none => d
        | some v =>
          let cmds := (d.core id).board.filter (·.names k o.vp.val)
          let s := v.status (!cmds.isEmpty) (cmds.any (·.started))
          (d.gWrite id c.slot false o.ga { v := BitVec.ofNat 64 s }).updInst k fun x =>
            x.setVp o.vp.val { v with ended := false }

/-- A binding ended by SKILL: elements an output has staged so far commit with its round and later tokens are
discarded; an input port's consumers receive a null token with L = 1 (R216). -/
def Inst.killVp (x : Inst) (n : Nat) : Inst :=
  match x.vp n with
  | none => x
  | some v => match v.bind with
    | none => x
    | some b =>
      let feeds := b.kind == .input || b.kind == .gather || b.kind == .copyIn
      let x := x.setVp n { v with
        bind := none, ended := true, killed := true, spent := feeds, discards := !feeds, elems := b.passed }
      if feeds then match x.tile v.tile with
        | none => x
        | some t => match lookup v.port t.inp with
          | none => x
          | some q =>
            let q := { q with q := q.q ++ [{ n := true, l := true }] }
            x.setTile v.tile { t with inp := insert v.port q t.inp }
      else x

/-- SKILL: the binding ends, and its command leaves the scoreboard (R213, R216). -/
def bodySkill (o : OpS) (_ : Mem) (d : Dev) : Dev :=
  d.fireCommit (.skill o) false (fun e _ d => d.vpFault e.core o.vp.val none) (fun _ _ _ => .wait)
    fun id _ _ d => match d.instOf id with
      | none => d
      | some (k, _) =>
        let d := d.updInst k fun x => x.killVp o.vp.val
        let d := { d with copies := d.copies.filter fun e => e.2.dst != CopyDst.vport k o.vp.val }
        d.updCore id fun c =>
          { c with board := c.board.filter fun q => !(q.started && q.vp == some (k, o.vp.val)) }

/-- SBAR (R213, R216). -/
def bodySbar (o : OpS) (_ : Mem) (d : Dev) : Dev :=
  d.commits (.sbar o) fun id _ _ d => d.addCmd id none .sbar

/-- One step of APSET. -/
def execApset (o : OpS) (s : State) : Host.Outcome State Fault Refusal :=
  act s (bodyApset o)

/-- One step of APCPY. -/
def execApcpy (o : OpS) (s : State) : Host.Outcome State Fault Refusal :=
  act s (bodyApcpy o)

/-- One step of APCLR. -/
def execApclr (o : OpS) (s : State) : Host.Outcome State Fault Refusal :=
  act s (bodyApclr o)

/-- One step of APLD. -/
def execApld (o : OpS) (s : State) : Host.Outcome State Fault Refusal :=
  act s (bodyApld o)

/-- One step of SBIND. -/
def execSbind (o : OpS) (s : State) : Host.Outcome State Fault Refusal :=
  act s (bodySbind o)

/-- One step of SBINDW. -/
def execSbindw (o : OpS) (s : State) : Host.Outcome State Fault Refusal :=
  act s (bodySbindw o)

/-- One step of SGATH. -/
def execSgath (o : OpS) (s : State) : Host.Outcome State Fault Refusal :=
  act s (bodySgath o)

/-- One step of SSCAT. -/
def execSscat (o : OpS) (s : State) : Host.Outcome State Fault Refusal :=
  act s (bodySscat o)

/-- One step of SUPD. -/
def execSupd (o : OpS) (s : State) : Host.Outcome State Fault Refusal :=
  act s (bodySupd o)

/-- One step of SCOPY. -/
def execScopy (o : OpS) (s : State) : Host.Outcome State Fault Refusal :=
  act s (bodyScopy o)

/-- One step of SWAIT. -/
def execSwait (o : OpS) (s : State) : Host.Outcome State Fault Refusal :=
  act s (bodySwait o)

/-- One step of SSTAT. -/
def execSstat (o : OpS) (s : State) : Host.Outcome State Fault Refusal :=
  act s (bodySstat o)

/-- One step of SKILL. -/
def execSkill (o : OpS) (s : State) : Host.Outcome State Fault Refusal :=
  act s (bodySkill o)

/-- One step of SBAR. -/
def execSbar (o : OpS) (s : State) : Host.Outcome State Fault Refusal :=
  act s (bodySbar o)

end Sys2Proof.Machine
end

