-- ==== Sys2Proof/Machine/Key.lean ====
section
/-! DEFINITION. Scale fills and sealed weights: SSCL (R224), layout records (R275), handles (R276,
R279), SCOPYK, KOPEN and KCLOSE (R280 to R282). -/

namespace Sys2Proof.Machine

/-! ### Layout records (R275) -/

/-- Field BASE of a layout record. -/
def layBase (r : BitVec 512) : Nat := Word.bits r.toNat 63 0
/-- Field ETYPE. -/
def layEtype (r : BitVec 512) : Nat := Word.bits r.toNat 71 64
/-- Field KSLOT. -/
def laySlot (r : BitVec 512) : Nat := Word.bits r.toNat 75 72
/-- Field ROWS. -/
def layRows (r : BitVec 512) : Nat := Word.bits r.toNat 127 96
/-- Field RBYTES. -/
def layRbytes (r : BitVec 512) : Nat := Word.bits r.toNat 159 128
/-- Field RSTRIDE. -/
def layRstride (r : BitVec 512) : Nat := Word.bits r.toNat 223 160
/-- Field NONCE. -/
def layNonce (r : BitVec 512) : Word := BitVec.ofNat 64 (Word.bits r.toNat 287 224)

/-- A layout record meets R275. -/
def layoutOk (r : BitVec 512) : Bool :=
  layBase r % 128 == 0 && !Word.bit (layBase r) 63
    && (layEtype r ≤ 9 || layEtype r == 0x10)
    && Word.bits r.toNat 95 76 == 0 && layRows r != 0
    && layRbytes r != 0 && layRbytes r % 128 == 0
    && layRstride r % 128 == 0 && layRstride r ≥ layRbytes r
    && Word.bits r.toNat 511 288 == 0

/-- An element address lies in the rows of a layout (R276). -/
def layHas (r : BitVec 512) (a : Nat) : Bool :=
  let o := a - layBase r
  let c := o % layRstride r
  layRstride r != 0 && layBase r ≤ a && o / layRstride r < layRows r && c % 128 == 0
    && c + 128 ≤ layRbytes r

/-- A source pattern matches a handle's layout; `scale` is SSCL (R276). The addresses are looked at
only when the copy can fit a bank. -/
def patMatches (p : BitVec 512) (kh : Nat) (r : BitVec 512) (scale : Bool) : Bool :=
  patKeyed p && patKh p == kh && patEsz p == 7
    && (if scale then layEtype r == 0x10 else layEtype r ≤ 9)
    && patTotal p * 128 ≤ bankBytes
    && (List.range (patTotal p)).all fun n => match patAddr p n with
      | some a => layHas r a
      | none => false

/-! ### Key slots and handles -/

/-- Every share of a slot is present (R394). -/
def KeySlot.ready (s : KeySlot) : Bool := s.share0.isSome && (!s.two || s.share1.isSome)

/-- A key slot of a partition. -/
def Dev.keySlot (d : Dev) (part k : Nat) : KeySlot := (d.part part).slots.getD k {}

/-- The identity binding of a slot admits a configuration (R394). -/
def KeySlot.admits (s : KeySlot) (idhash : Option (List Byte)) : Bool :=
  s.bind.all (· == 0) || idhash == some s.bind

/-- A handle of a context. -/
def Dev.handle (d : Dev) (ctx k : Nat) : Option Handle := ((d.ctx ctx).handles.getD k none)

/-- INFO of the key causes (R306). -/
def keyInfo (kh slot : Nat) : Nat := kh % 16 + slot % 16 * 16

/-- Causes of a keyed command through handle `kh`, and the binding it captures (R276, R279). -/
def Dev.keyCauses (d : Dev) (part ctx kh : Nat) (src : BitVec 512) (scale : Bool) :
    List (Nat × Nat × Nat) × Option (BitVec 512 × Nat × Nat × Nat) :=
  match d.handle ctx kh with
  | none => ([(cKEYMISMATCH, 0, keyInfo kh 0)], none)
  | some h =>
    ((if patMatches src kh h.layout scale then [] else [(cKEYMISMATCH, patBase src, keyInfo kh h.slot)])
      ++ (if (d.keySlot part h.slot).gen != h.gen then [(cKEYNOTREADY, 0, keyInfo kh h.slot)] else []),
      some (h.layout, h.slot, h.gen, kh))

/-- Sets a handle of a context. -/
def Dev.setHandle (d : Dev) (ctx k : Nat) (h : Option Handle) : Dev :=
  d.updCtx ctx fun c => { c with handles := setAt c.handles k h }

/-! ### Keyed fills -/

/-- SSCL at commit (R208, R224). -/
def ssclCom (o : OpS) (id : CoreId) (fr : Frame) (c : Capture) (d : Dev) : Dev :=
  let core := d.core id
  let src := core.pat o.ap.val
  let cw := core.cwPair (o.sub.getLsbD 2) o.gb
  let keyed := o.sub.getLsbD 0
  let (ctx, part, _, _) := d.issuer id
  let (bs, dst) := d.bankCauses id (core.reg o.ga).v.toNat src [.scale] fun _ => true
  let (ks, key) := if keyed then d.keyCauses part ctx (o.aux.toNat % 16) src true else ([], none)
  d.orTrap fr c.slot ((if keyed != patKeyed src then [(cILLEGAL, 0, 0)] else [])
      ++ patCauses src keyed ++ d.cwCauses id cw ++ bs ++ ks)
    (match dst with
      | some dst =>
        d.queueCmd id none (.copy { d.newCopy id src dst cw with scale := true, key := key })
      | none => d)

/-- SSCL (R224). -/
def bodySscl (o : OpS) (_ : Mem) (d : Dev) : Dev :=
  d.commits (.sscl o) fun id fr c d => ssclCom o id fr c d

/-- SCOPYK at commit (R281). -/
def scopykCom (o : OpS) (id : CoreId) (fr : Frame) (c : Capture) (d : Dev) : Dev :=
  let core := d.core id
  let src := core.pat o.ap.val
  let cw := core.cwPair (o.sub.getLsbD 2) o.gb
  let (ctx, part, _, _) := d.issuer id
  let (bs, dst) := d.bankCauses id (core.reg o.ga).v.toNat src [.tile] fun b => b.cls == .input
  let (ks, key) := d.keyCauses part ctx (o.aux.toNat % 16) src false
  d.orTrap fr c.slot (patCauses src true ++ d.cwCauses id cw ++ bs ++ ks)
    (match dst with
      | some dst => d.queueCmd id none (.copy { d.newCopy id src dst cw with key := key })
      | none => d)

/-- SCOPYK (R281). -/
def bodyScopyk (o : OpS) (_ : Mem) (d : Dev) : Dev :=
  d.commits (.scopyk o) fun id fr c d => scopykCom o id fr c d

/-! ### Handles -/

/-- The record KOPEN reads as its block is entered (R282). -/
def kopenFire (o : OpS) (m : Mem) (e : Site) (g : Gathered) (d : Dev) : Fired :=
  let a := ((d.core e.core).reg o.ga).v.toNat
  let word := match (d.core e.core).frame with
    | some fr => fr.word e.slot
    | none => 0
  if a % 64 != 0 then .fault d cMISALIGNED a 0
  else
    let (d, r) := d.entryLoad m e.core (d.coreAcc e.core .ctl .rd 0) a 64
    match r with
    | .error f => .fault d f.cause a (f.info 0)
    | .ok (bs, _) =>
      let v := BitVec.ofNat 1024 (Word.ofBytes bs)
      if !layoutOk (BitVec.ofNat 512 v.toNat) then .fault d cILLEGAL e.addr word
      else .done (d.alsoCommit e { g with b := { data := v } }) .none

/-- KOPEN at commit: the checks of the slot, then the binding (R279, R282). -/
def kopenCom (o : OpS) (id : CoreId) (fr : Frame) (c : Capture) (d : Dev) : Dev :=
  let r := BitVec.ofNat 512 c.b.data.toNat
  let (ctx, part, _, _) := d.issuer id
  let k := laySlot r
  let s := d.keySlot part k
  let kh := o.aux.toNat % 16
  let a := ((d.core id).reg o.ga).v.toNat
  let hash := (d.instOf id).map fun x => x.2.idhash
  d.orTrap fr c.slot
    ((if s.assigned && s.ctx != ctx then [(cPERMISSION, a, 0)] else [])
      ++ (if s.assigned && s.ctx == ctx && !s.admits hash then [(cKEYMISMATCH, a, keyInfo kh k)] else [])
      ++ (if !s.assigned || !s.ready then [(cKEYNOTREADY, a, keyInfo kh k)] else []))
    (d.setHandle ctx kh (some { layout := r, slot := k, gen := s.gen }))

/-- KOPEN (R282). -/
def bodyKopen (o : OpS) (m : Mem) (d : Dev) : Dev :=
  match d.focus with
  | .commit id slot => match (d.core id).frame with
    | some fr => match fr.cap slot with
      | some c => kopenCom o id fr c d
      | none => d
    | none => d
  | .none | .fire _ _ | .elem _ _ _ _ | .engine _ => d.fire (.kopen o) false fun e g d => kopenFire o m e g d

/-- KCLOSE (R282). -/
def bodyKclose (o : OpS) (_ : Mem) (d : Dev) : Dev :=
  d.commits (.kclose o) fun id _ _ d => d.setHandle (d.issuer id).1 (o.aux.toNat % 16) none

/-- One step of SSCL. -/
def execSscl (o : OpS) (s : State) : Host.Outcome State Fault Refusal :=
  act s (bodySscl o)

/-- One step of SCOPYK. -/
def execScopyk (o : OpS) (s : State) : Host.Outcome State Fault Refusal :=
  act s (bodyScopyk o)

/-- One step of KOPEN. -/
def execKopen (o : OpS) (s : State) : Host.Outcome State Fault Refusal :=
  act s (bodyKopen o)

/-- One step of KCLOSE. -/
def execKclose (o : OpS) (s : State) : Host.Outcome State Fault Refusal :=
  act s (bodyKclose o)

end Sys2Proof.Machine
end

