-- ==== Sys2Proof/Machine/Sm2.lean ====
section
/-! DEFINITION. SM2 (GB/T 32918) over its recommended curve, the parts of it that R5 names: signatures and the
key exchange, in which the SEP is the responder (R396, R399, R401, R406, R413). Its internals are taken from that
standard (PRESUMED, log entry 10). -/

namespace Sys2Proof

/-! ### The field and the curve -/

/-- The prime of the field. -/
def sm2P : Nat := 0xFFFFFFFEFFFFFFFFFFFFFFFFFFFFFFFFFFFFFFFF00000000FFFFFFFFFFFFFFFF
/-- The coefficient b of the curve; a is p - 3. -/
def sm2B : Nat := 0x28E9FA9E9D9F5E344D5A9E4BCF6509A7F39789F515AB8F92DDBCBD414D940E93
/-- The order of the base point. -/
def sm2N : Nat := 0xFFFFFFFEFFFFFFFFFFFFFFFFFFFFFFFF7203DF6B21C6052B53BBF40939D54123
/-- The base point. -/
def sm2G : Nat × Nat :=
  (0x32C4AE2C1F1981195F9904466A39C9948FE30BBFF2660BE1715A4589334C74C7,
   0xBC3736A2F4F6779C59BDCEE36B692153D0A9877CC62A474002DF32E52139F0A0)

/-- The difference of two field elements. -/
def sm2Sub (a b : Nat) : Nat := (a + (sm2P - b % sm2P)) % sm2P

/-- A power modulo `m`, by the low `n` bits of the exponent. -/
def powMod : Nat → Nat → Nat → Nat → Nat
  | 0, _, _, m => 1 % m
  | n + 1, a, e, m => (if e % 2 = 1 then a else 1) * powMod n (a * a % m) (e / 2) m % m

/-- An inverse modulo a prime below 2^256. -/
def invMod (a m : Nat) : Nat := powMod 256 (a % m) (m - 2) m

/-- A point of the curve: x over z squared and y over z cubed; z is 0 at infinity. -/
structure SmPoint where
  x : Nat
  y : Nat
  z : Nat
  deriving DecidableEq, Repr

/-- The point at infinity. -/
def SmPoint.zero : SmPoint := ⟨1, 1, 0⟩
/-- A point by its coordinates. -/
def SmPoint.of (p : Nat × Nat) : SmPoint := ⟨p.1 % sm2P, p.2 % sm2P, 1⟩

/-- Twice a point. -/
def SmPoint.double (p : SmPoint) : SmPoint :=
  let zz := p.z * p.z % sm2P
  let yy := p.y * p.y % sm2P
  let s := 4 * p.x * yy % sm2P
  let m := 3 * (sm2Sub p.x zz * (p.x + zz) % sm2P) % sm2P
  let x := sm2Sub (m * m % sm2P) (2 * s)
  ⟨x, sm2Sub (m * sm2Sub s x % sm2P) (8 * (yy * yy % sm2P)), 2 * p.y * p.z % sm2P⟩

/-- The sum of two points. -/
def SmPoint.add (p q : SmPoint) : SmPoint :=
  if p.z = 0 then q
  else if q.z = 0 then p
  else
    let pz := p.z * p.z % sm2P
    let qz := q.z * q.z % sm2P
    let u1 := p.x * qz % sm2P
    let u2 := q.x * pz % sm2P
    let s1 := p.y * qz % sm2P * q.z % sm2P
    let s2 := q.y * pz % sm2P * p.z % sm2P
    if u1 = u2 then if s1 = s2 then p.double else SmPoint.zero
    else
      let h := sm2Sub u2 u1
      let r := sm2Sub s2 s1
      let hh := h * h % sm2P
      let hhh := hh * h % sm2P
      let v := u1 * hh % sm2P
      let x := sm2Sub (r * r % sm2P) (hhh + 2 * v)
      ⟨x, sm2Sub (r * sm2Sub v x % sm2P) (s1 * hhh), p.z * q.z % sm2P * h % sm2P⟩

/-- The multiple of a point by the high bits of a number, from bit `n - 1` down. -/
def SmPoint.mulBits (p : SmPoint) (k : Nat) : Nat → SmPoint → SmPoint
  | 0, acc => acc
  | n + 1, acc =>
    let d := acc.double
    SmPoint.mulBits p k n (if k.testBit n then d.add p else d)

/-- The multiple of a point by a number below 2^256. -/
def SmPoint.mul (p : SmPoint) (k : Nat) : SmPoint := p.mulBits k 256 SmPoint.zero

/-- The coordinates of a point; none at infinity. -/
def SmPoint.coords (p : SmPoint) : Option (Nat × Nat) :=
  if p.z = 0 then none
  else
    let i := invMod p.z sm2P
    let ii := i * i % sm2P
    some (p.x * ii % sm2P, p.y * (ii * i % sm2P) % sm2P)

/-- The coordinates of a point written x ‖ y. -/
def sm2Xy (p : BitVec 512) : Nat × Nat := (p.toNat / 2 ^ 256, p.toNat % 2 ^ 256)
/-- A point written x ‖ y; infinity is written as zeros. -/
def sm2Write (p : Option (Nat × Nat)) : BitVec 512 :=
  match p with
  | some (x, y) => BitVec.ofNat 512 (x * 2 ^ 256 + y)
  | none => 0

/-- A point written x ‖ y lies on the curve (R403). -/
def sm2OnCurve (p : BitVec 512) : Bool :=
  let (x, y) := sm2Xy p
  x < sm2P && y < sm2P && y * y % sm2P == (x * x % sm2P * x + (sm2P - 3) * x + sm2B) % sm2P

/-- The public key of a private one. -/
def sm2PubOf (k : Nat) : BitVec 512 := sm2Write ((SmPoint.of sm2G).mul k).coords

/-! ### Identities and signatures -/

/-- The value Z of an identity and its public key: ENTL in two bytes, the identity, the curve and the key. -/
def sm2Z (ident : List Byte) (pub : BitVec 512) : List Byte :=
  sm3 (Word.toBytesBe 2 (8 * ident.length) ++ ident ++ Word.toBytesBe 32 (sm2P - 3) ++ Word.toBytesBe 32 sm2B
    ++ Word.toBytesBe 32 sm2G.1 ++ Word.toBytesBe 32 sm2G.2 ++ Word.toBytesBe 64 pub.toNat)

/-- The digest that a signature is made over. -/
def sm2Digest (ident : List Byte) (pub : BitVec 512) (msg : List Byte) : Nat :=
  Word.ofBytesBe (sm3 (sm2Z ident pub ++ msg))

/-- The signature r ‖ s of a digest under a private key with a random scalar; none when the scalar does not do. -/
def sm2SignWith (key e k : Nat) : Option (BitVec 512) :=
  match ((SmPoint.of sm2G).mul k).coords with
  | none => none
  | some (x, _) =>
    let r := (e + x) % sm2N
    let s := invMod (1 + key) sm2N * ((k + (sm2N - r * key % sm2N)) % sm2N) % sm2N
    if r = 0 ∨ r + k = sm2N ∨ s = 0 then none else some (BitVec.ofNat 512 (r * 2 ^ 256 + s))

/-- A signature r ‖ s of a message by the owner of a public key, under an identity, verifies. -/
def sm2Verify (pub : BitVec 512) (ident msg : List Byte) (sig : BitVec 512) : Bool :=
  let (r, s) := sm2Xy sig
  let t := (r + s) % sm2N
  sm2OnCurve pub && 0 < r && r < sm2N && 0 < s && s < sm2N && t != 0
    && match (((SmPoint.of sm2G).mul s).add ((SmPoint.of (sm2Xy pub)).mul t)).coords with
      | some (x, _) => (sm2Digest ident pub msg + x) % sm2N == r
      | none => false

/-- The random scalar of a draw and an attempt, from 1 to n - 1. -/
def sm2Scalar (draw attempt : Nat) : Nat := 1 + Config.sm2Rand draw attempt % (sm2N - 1)

/-- A signature of a message under a private key and an identity, with the first random scalar of a draw that does. -/
def sm2Sign (key : Nat) (ident msg : List Byte) (draw : Nat) : BitVec 512 :=
  let e := sm2Digest ident (sm2PubOf key) msg
  ((List.range 8).findSome? fun a => sm2SignWith key e (sm2Scalar draw a)).getD 0

/-- The identity under which Vovia signs: the default one of the standard (PRESUMED, log entry 10). -/
def sm2DefaultId : List Byte := [0x31, 0x32, 0x33, 0x34, 0x35, 0x36, 0x37, 0x38, 0x31, 0x32, 0x33, 0x34, 0x35, 0x36, 0x37, 0x38]

/-! ### The key exchange -/

/-- The first `n` bits, a multiple of 8, of the key derivation function. -/
def sm2Kdf (z : List Byte) (n : Nat) : List Byte :=
  ((List.range ((n + 255) / 256)).flatMap fun i => sm3 (z ++ Word.toBytesBe 4 (i + 1))).take (n / 8)

/-- What an exchange yields its responder, of a private key, a random scalar and an identity, with an initiator of a
public key, an ephemeral point and an identity: the 256 bits of the KDF, then the confirmations SB and SA; none when
the shared point is infinity. -/
def sm2Respond (key rand : Nat) (idB : List Byte) (pa ra : BitVec 512) (idA : List Byte) : Option (BitVec 768) :=
  let half := fun x => 2 ^ 127 + x % 2 ^ 127
  let pb := sm2PubOf key
  let rb := sm2PubOf rand
  let t := (key + half (sm2Xy rb).1 * rand) % sm2N
  let (x1, y1) := sm2Xy ra
  match (((SmPoint.of (sm2Xy pa)).add ((SmPoint.of (x1, y1)).mul (half x1))).mul t).coords with
  | none => none
  | some (xv, yv) =>
    let b := Word.toBytesBe 32
    let za := sm2Z idA pa
    let zb := sm2Z idB pb
    let h := sm3 (b xv ++ za ++ zb ++ b x1 ++ b y1 ++ Word.toBytesBe 64 rb.toNat)
    let conf := fun (c : Byte) => sm3 (c :: b yv ++ h)
    some (BitVec.ofNat 768 (Word.ofBytesBe (sm2Kdf (b xv ++ b yv ++ za ++ zb) 256 ++ conf 2 ++ conf 3)))

end Sys2Proof
end

