-- ==== Sys2Proof/Machine/Registers.lean ====
section
/-! DEFINITION. The system registers: which exist, on which cores and at which level (R299, R301, R351,
R381, R385, R395, R397, R419), what SRD reads and what a plain SWR writes. -/

namespace Sys2Proof.Machine

/-! ### The register map -/

/-- How a register is banked (R299). -/
inductive SrBank
  | cc | sys | core | ctx | part | pkg
  deriving DecidableEq, Repr

/-- Lowest level and bank of a register; none when the number is unassigned (R299). -/
def srInfo (n : Nat) : Option (Level × SrBank) :=
  if n ≤ 0x001 || (0x008 ≤ n && n ≤ 0x00F) || (0x010 ≤ n && n ≤ 0x013) || n == 0x018 then some (.s, .cc)
  else if n == 0x002 then some (.s, .part)
  else if (0x020 ≤ n && n ≤ 0x024) || (0x028 ≤ n && n ≤ 0x02C) then some (.s, .ctx)
  else if n == 0x080 || n == 0x081 || (0x088 ≤ n && n ≤ 0x08F) || (0x090 ≤ n && n ≤ 0x093) then
    some (.h, .sys)
  else if n == 0x082 || n == 0x098 || n == 0x09C || n == 0x09D then some (.h, .pkg)
  else if n == 0x100 || n == 0x101 || n == 0x102 || n == 0x105 then some (.s, .core)
  else if n == 0x103 then some (.s, .cc)
  else if n == 0x104 then some (.s, .pkg)
  else if n == 0x200 || n == 0x301 || n == 0x401 then some (.s, .part)
  else if n == 0x201 || n == 0x202 then some (.s, .core)
  else if n == 0x300 then some (.h, .pkg)
  else if n == 0x302 || n == 0x400 then some (.s, .ctx)
  else if n == 0x402 || n == 0x403 || n == 0x404 then some (.h, .core)
  else if n == 0x405 || n == 0x406 then some (.s, .pkg)
  else if n == 0x500 || n == 0x501 then some (.s, .ctx)
  else if 0x502 ≤ n && n ≤ 0x504 then some (.s, .part)
  else if n == 0x580 then some (.h, .part)
  else if 0x600 ≤ n && n ≤ 0x60D then some (.h, .part)
  else if 0x610 ≤ n && n ≤ 0x612 then some (.h, .core)
  else if n == 0x700 then some (.s, .core)
  else if 0x701 ≤ n && n ≤ 0x705 then some (.s, .part)
  else if 0x706 ≤ n && n ≤ 0x70D then some (.s, .pkg)
  else if n == 0x800 then some (.h, .part)
  else if 0x801 ≤ n && n ≤ 0x803 then some (.s, .part)
  else if n == 0x901 || n == 0x902 then some (.s, .core)
  else if n == 0x900 || (0x903 ≤ n && n ≤ 0x905) then some (.s, .pkg)
  else if n == 0xA00 then some (.h, .pkg)
  else if n == 0xA01 then some (.h, .part)
  else if n == 0xA02 then some (.s, .part)
  else if n == 0xA03 || n == 0xA04 then some (.s, .core)
  else if n == 0xA05 then some (.s, .pkg)
  else if n == 0xB00 || n == 0xB01 then some (.s, .ctx)
  else if n == 0xB02 || n == 0xB03 then some (.s, .cc)
  else none

/-- The cause that an SRD or SWR of a number raises as its block is decoded (R299). -/
def srFault (sys : Bool) (level : Level) (n : Nat) : Option Nat :=
  match srInfo n with
  | none => some cILLEGAL
  | some (l, b) =>
    if (b == .cc && sys) || (b == .sys && !sys) then some cILLEGAL
    else if level.rank < l.rank then some cPRIV
    else none

/-! ### Selections -/

/-- The partition a core's registers reach (R299). -/
def Dev.selPart (d : Dev) (id : CoreId) : Nat :=
  let c := d.core id
  if id.isSys then c.ctxsel.toNat / 4096 else c.part

/-- The context that PRIV_CTXSEL selects. -/
def Dev.selCtx (d : Dev) (id : CoreId) : Nat := (d.core id).ctxsel.toNat % 4096

/-- A read or write of a per-context register faults (R301). -/
def Dev.selFault (d : Dev) (id : CoreId) (n : Nat) : Bool :=
  match srInfo n with
  | some (_, .ctx) => !(d.part (d.selPart id)).hasCtx (d.selCtx id)
  | _ => false

/-! ### Values -/

/-- TRAP_S_STATUS (R307). -/
def TrapStatus.sBits (t : TrapStatus) : Nat :=
  (if t.ie then 1 else 0) + (if t.pie then 2 else 0) + t.plev.rank * 4 + (if t.inh then 16 else 0)
    + (if t.hold then 32 else 0) + (if t.act then 64 else 0) + (if t.halted then 128 else 0)
    + (if t.skipbrk then 256 else 0) + (if t.stepOn then 512 else 0)

/-- TRAP_H_STATUS (R301). -/
def TrapStatus.hBits (t : TrapStatus) : Nat :=
  (if t.ie then 1 else 0) + (if t.pie then 2 else 0) + (if t.inh then 16 else 0)

/-- Word `k` of a 512-bit value. -/
def wordOf (x : BitVec 512) (k : Nat) : Nat := Word.bits x.toNat (64 * k + 63) (64 * k)

/-- State field of CFG_INSTAT (R351). -/
def Dev.instState (d : Dev) (x : Inst) : Nat :=
  let active := d.activePlane (16 * x.row0 + x.col0)
  if x.retired || x.phase == .ending then 7
  else if x.phase == .snapshotted then 5
  else if x.plane != active then 6
  else if x.heldBy.isSome then 4
  else if x.phase == .restoring then 2
  else 3

/-- CFG_INSTAT of an instance (R351). -/
def Dev.instStat (d : Dev) (x : Inst) : Nat :=
  d.instState x + x.ctx % 4096 * 2 ^ 4 + x.part % 16 * 2 ^ 16 + x.row0 % 8 * 2 ^ 20
    + x.col0 % 16 * 2 ^ 23 + (x.w - 1) % 16 * 2 ^ 27 + (x.h - 1) % 8 * 2 ^ 31 + x.plane % 4 * 2 ^ 34
    + x.fab.round % 2 ^ 28 * 2 ^ 36

/-- CFG_INSTAT of a launch that is being installed (R337, R351). -/
def Launch.stat (l : Launch) : Nat :=
  2 + l.ctx % 4096 * 2 ^ 4 + l.part % 16 * 2 ^ 16 + l.row0 % 8 * 2 ^ 20 + l.col0 % 16 * 2 ^ 23
    + (l.w - 1) % 16 * 2 ^ 27 + (l.h - 1) % 8 * 2 ^ 31 + l.plane % 4 * 2 ^ 34

/-- State code of THERM_STATE (R419). No code runs in OFF and TRIP, which have none (DEDUCED, log entry 22). -/
def PkgState.code : PkgState → Nat
  | .off => 0 | .service => 1 | .cooling => 2 | .soak => 3 | .coldReady => 4 | .run => 5
  | .retreat => 6 | .warming => 7 | .trip => 0

/-- Hottest valid sensor: its reading in 1/64 K and the lowest index that has it (R407, R419). -/
def hottest (ss : List (Option Nat)) : Option (Nat × Nat) :=
  (ss.mapIdx fun i r => (i, r)).foldl (fun acc e => match e.2, acc with
    | some v, none => some (v, e.1)
    | some v, some (w, _) => if v > w then some (v, e.1) else acc
    | none, _ => acc) none

/-- Coldest valid sensor. -/
def coldest (ss : List (Option Nat)) : Option (Nat × Nat) :=
  (ss.mapIdx fun i r => (i, r)).foldl (fun acc e => match e.2, acc with
    | some v, none => some (v, e.1)
    | some v, some (w, _) => if v < w then some (v, e.1) else acc
    | none, _ => acc) none

/-- A temperature in kelvin in the unit of the sensors. -/
def kelvin (k : Nat) : Nat := 64 * k

/-- Code of the band of a hottest reading: C, K, W, A (R407, R419). -/
def bandCode (h : Nat) : Nat :=
  if h < kelvin 100 then 0 else if h < kelvin 140 then 1 else if h < kelvin 250 then 2 else 3

/-- Permits a partition is granted (R417). -/
def Dev.permitsOf (d : Dev) (p : Nat) : Nat :=
  let x := d.part p
  let wh := match d.pkg with
    | .coldReady | .run => 6500
    | .retreat => 4400
    | .off | .service | .cooling | .soak | .warming | .trip => 1100
  if x.share == 0 then x.heavy.toNat else min x.heavy.toNat (x.share.toNat / wh)

/-- Permits granted to a partition's instances. -/
def Dev.permitsUsed (d : Dev) (p : Nat) : Nat :=
  ((d.insts.filter fun e => e.2.part == p).map (·.2.granted)).foldl (· + ·) 0

/-- PART_FTAG of a frame (R387). -/
def FrameTag.bits (t : FrameTag) : Nat :=
  t.owner % 16 + t.state % 4 * 16 + (if t.tc then 64 else 0) + (if t.exp then 128 else 0)
    + (if t.hyp then 256 else 0) + t.etid % 1024 * 2 ^ 9 + (if t.rej then 2 ^ 30 else 0)
    + min t.cleared 32768 * 2 ^ 32

/-- KEY_SLST of a slot (R395). -/
def KeySlot.bits (s : KeySlot) : Nat :=
  (if !s.assigned then 0 else if s.ready then 3
    else if s.share0.isSome || s.share1.isSome then 2 else 1)
    + (if s.two then 4 else 0) + (if s.share0.isSome then 8 else 0) + (if s.share1.isSome then 16 else 0)
    + (if s.begun0.isSome then 32 else 0) + (if s.begun1.isSome then 64 else 0) + s.ctx % 4096 * 2 ^ 16

/-- State field of PART_CTL. The state is NONE again when STOP ends (R386) (DEDUCED, log entry 44). -/
def PartState.code : PartState → Nat
  | .none => 0 | .config => 1 | .running => 2 | .stopped => 3

/-- PRIV_CORE of a core (R301). -/
def privCore : CoreId → Nat
  | .cc p => p.val
  | .sys k => 128 + k.val

/-- Bytes of a 512-bit value as SM2 writes them, most significant first. -/
def beBytes (x : BitVec 512) : List Byte := Word.toBytesBe 64 x.toNat

/-- The value SRD delivers for a TRAP_ or PRIV_ register (R301). -/
def Dev.srdTrap (d : Dev) (id : CoreId) (n : Nat) : Nat :=
  let c := d.core id
  let x := d.ctx (d.selCtx id)
  match n with
  | 0x000 => c.st.sBits
  | 0x001 | 0x081 => c.epc
  | 0x002 => (d.part (d.selPart id)).svec
  | 0x018 => c.lost
  | 0x020 => x.deleg.toNat
  | 0x021 => x.repen.toNat
  | 0x022 => x.evBase
  | 0x023 => x.evSize
  | 0x024 => x.wdog
  | 0x028 => x.plogBase
  | 0x029 => x.plogSize
  | 0x02A => x.plogHead
  | 0x02B => x.plogTail
  | 0x02C => x.plogLost
  | 0x080 => c.st.hBits
  | 0x082 => d.hvec
  | 0x098 => d.hlost
  | 0x09D => d.hrval.toNat
  | 0x100 => c.level.rank
  | 0x101 => privCore id
  | 0x102 => c.ctxsel.toNat
  | 0x103 => c.ctx % 4096 + c.tid % 1024 * 2 ^ 12 + c.part % 16 * 2 ^ 22
  | 0x104 => d.time % 2 ^ 64
  | _ =>
    if (0x008 ≤ n && n ≤ 0x00F) || (0x088 ≤ n && n ≤ 0x08F) then wordOf c.record (n % 8)
    else if (0x010 ≤ n && n ≤ 0x013) || (0x090 ≤ n && n ≤ 0x093) then (c.save.getD (n % 4) 0).toNat
    else 0

/-- The value SRD delivers for a CFG_, SCHED_, SHEP_ or XL_ register (R351, R381). -/
def Dev.srdPlace (d : Dev) (id : CoreId) (n : Nat) : Nat :=
  let c := d.core id
  let p := d.selPart id
  let x := d.ctx (d.selCtx id)
  match n with
  | 0x200 => ((d.insts.filter fun e => e.2.part == p).map (·.1)
      ++ (d.installs.filter (·.part == p)).map (·.cfg)).eraseDups.length
  | 0x201 => c.instsel
  | 0x202 => match d.installs.find? (·.cfg == c.instsel) with
    | some l => if id.isSys || l.part == p then l.stat else 0
    | none => match d.inst c.instsel with
      | some y => if id.isSys || y.part == p then d.instStat y else 0
      | none => 0
  | 0x300 => d.schedAge.toNat
  | 0x301 => (d.part p).backfill.toNat
  | 0x302 => x.cgtab.toNat
  | 0x400 => x.paddock.toNat
  | 0x401 => (d.part p).ctmo.toNat
  | 0x402 => c.pgsel
  | 0x403 => ((lookup c.pgsel d.plown).getD 0x10).toNat % 2 ^ 20 + d.activePlane c.pgsel % 4 * 2 ^ 20
  | 0x404 => ((lookup c.pgsel d.plmap).getD 0).toNat
  | 0x405 => d.flash.enabled.toNat % 2 ^ 64
  | 0x406 => d.flash.enabled.toNat / 2 ^ 64
  | 0x500 => x.rtab.toNat
  | 0x501 => x.acthr.toNat
  | 0x502 => (d.part p).mqbase.toNat
  | 0x503 => (d.part p).mqsize.toNat
  | 0x504 => (d.part p).mqovf + if (d.part p).mqEpis then 2 ^ 32 else 0
  | 0x580 => (d.part p).s2base.toNat
  | _ => 0

/-- The value SRD delivers for a PART_, KEY_ or METER_ register (R385, R395, R397). -/
def Dev.srdPart (d : Dev) (id : CoreId) (n : Nat) : Nat :=
  let c := d.core id
  let p := d.part (d.selPart id)
  let s := d.keySlot (d.selPart id) c.slsel
  match n with
  | 0x600 => p.state.code + p.err * 2 ^ 8
  | 0x601 => p.pages0.toNat
  | 0x602 => p.pages1.toNat
  | 0x603 => p.chmask.toNat
  | 0x604 => p.t2max.toNat
  | 0x605 => p.tcmax.toNat
  | 0x606 => p.heavy.toNat
  | 0x607 => p.qmax.toNat
  | 0x608 => p.eth.toNat
  | 0x609 => p.tid.toNat
  | 0x60A => p.ctxr.toNat
  | 0x60B => p.home.toNat
  | 0x60C => p.supctx.toNat
  | 0x60D => p.supentry.toNat
  | 0x610 => c.ftsel
  | 0x611 => c.ftcnt
  | 0x612 => (d.tag c.ftsel).bits
  | 0x700 => c.slsel
  | 0x701 => s.bits
  | 0x800 => p.ival.toNat
  | 0x801 => p.rbase.toNat
  | 0x802 => p.rsize.toNat
  | 0x803 => p.mlost
  | _ =>
    if 0x702 ≤ n && n ≤ 0x705 then Word.ofBytes ((s.bind.drop (8 * (n - 0x702))).take 8)
    else if 0x706 ≤ n && n ≤ 0x70D then
      Word.ofBytes (((beBytes (sm2PubOf d.sep.exch)).drop (8 * (n - 0x706))).take 8)
    else 0

/-- Sixteen free bits for a reading that the manual states no value for (log entry 7). -/
def Dev.freeReading (d : Dev) : Nat := (Config.freeBits d.free).toNat % 2 ^ 16

/-- The value SRD delivers for a THERM_, PWR_ or DBG_ register (R301, R419). -/
def Dev.srdPower (d : Dev) (id : CoreId) (n : Nat) : Nat :=
  let c := d.core id
  let x := d.ctx (d.selCtx id)
  match n with
  | 0x900 => d.pkg.code
      + (match hottest d.sensors with
        | some (h, _) => bandCode h
        | none => d.freeReading % 4) * 16
      + (if d.refresh then 64 else 0) + (d.time - d.stateSince) / 10 ^ 9 % 2 ^ 32 * 2 ^ 32
  | 0x901 => c.snsel
  | 0x902 => match d.sensors.getD c.snsel none with
    | some v => v % 2 ^ 16 + 2 ^ 16
    | none => d.freeReading
  | 0x903 => match hottest d.sensors, coldest d.sensors with
    | some (h, i), some (k, j) => h % 2 ^ 16 + i % 256 * 2 ^ 16 + k % 2 ^ 16 * 2 ^ 32 + j % 256 * 2 ^ 48
    | _, _ => d.freeReading
  | 0x904 => d.rate.toNat
  | 0x905 => d.passes % 2 ^ 32 + d.corrected % 2 ^ 32 * 2 ^ 32
  | 0xA00 => d.pwrCap.toNat
  | 0xA01 => (d.part (d.selPart id)).share.toNat
  | 0xA02 => d.permitsOf (d.selPart id) % 512 + d.permitsUsed (d.selPart id) % 512 * 2 ^ 16
  | 0xA03 => c.psel
  | 0xA04 => (List.range 4).foldl (fun acc k =>
      acc + (lookup (4 * c.psel + k) d.clk).getD 0 % 16 * 2 ^ (4 * k)) 0
  | 0xA05 => d.energy / 1000 % 2 ^ 64
  | 0xB00 => x.dbgCtl.toNat
  | 0xB01 => x.dbgRstop.toNat
  | 0xB02 => c.mtaddr.toNat
  | _ => 0

/-- The value SRD delivers; a write-only register reads as 0 (R9, R324). -/
def Dev.srRead (d : Dev) (id : CoreId) (n : Nat) : Word :=
  BitVec.ofNat 64 (
    if n < 0x200 then d.srdTrap id n
    else if n < 0x600 then d.srdPlace id n
    else if n < 0x900 then d.srdPart id n
    else d.srdPower id n)

/-! ### Plain writes -/

/-- A value cut to bits h to 0; RSV fields keep nothing (R9). -/
def low (v : Word) (n : Nat) : Word := BitVec.ofNat 64 (v.toNat % 2 ^ n)

/-- TRAP_S_STATUS written (R307). -/
def TrapStatus.setS (t : TrapStatus) (v : Word) : TrapStatus :=
  { t with
    ie := v.getLsbD 0, pie := v.getLsbD 1
    plev := match Word.bits v.toNat 3 2 with
      | 0 => .u
      | 1 => .s
      | _ => t.plev
    inh := v.getLsbD 4, act := v.getLsbD 6, skipbrk := v.getLsbD 8, stepOn := v.getLsbD 9 }

/-- TRAP_H_STATUS written (R301). -/
def TrapStatus.setH (t : TrapStatus) (v : Word) : TrapStatus :=
  { t with ie := v.getLsbD 0, pie := v.getLsbD 1, inh := v.getLsbD 4 }

/-- A plain SWR of a per-context register (R301, R351, R381). A register whose table gives no bit range keeps the low
bits that its meaning uses, and a TRAP_WDOG whose low 32 bits are 0 is ignored (DESIGN CHOICE, log entry 59). -/
def Context.srWrite (x : Context) (n : Nat) (v : Word) : Context :=
  match n with
  | 0x020 => { x with deleg := low v 4 }
  | 0x021 => { x with repen := low v 4 }
  | 0x022 => { x with evBase := v.toNat }
  | 0x023 => { x with evSize := if v.toNat > 65536 then 0 else v.toNat }
  | 0x024 =>
    if v.toNat % 2 ^ 32 == 0 then x else { x with wdog := v.toNat % 2 ^ 32 }
  | 0x028 => { x with plogBase := v.toNat }
  | 0x029 => { x with plogSize := v.toNat }
  | 0x02B => { x with plogTail := v.toNat % 2 ^ 32 }
  | 0x02C => { x with plogLost := v.toNat }
  | 0x500 => { x with rtab := BitVec.ofNat 64 (v.toNat / 4096 * 4096) }
  | 0x501 => { x with acthr := low v 24 }
  | 0xB00 => { x with dbgCtl := low v 2 }
  | 0xB01 => { x with dbgRstop := v }
  | _ => x

/-- The nearer limit of PWR_CAP (R419). -/
def capOf (v : Word) : Word :=
  if v.toNat < 500 then 500 else if v.toNat > 3200 then 3200 else v

/-- A plain SWR of a per-partition register (R351, R381, R385, R397, R419). -/
def Partition.srWrite (p : Partition) (n : Nat) (v : Word) : Partition :=
  let cfg := p.state == .config
  match n with
  | 0x002 => { p with svec := v.toNat / 16 * 16 }
  | 0x301 => { p with backfill := low v 16 }
  | 0x401 => { p with ctmo := v }
  | 0x502 => { p with mqbase := v }
  | 0x503 => { p with mqsize := if v.toNat > 65536 then 0 else v }
  | 0x504 => { p with mqovf := v.toNat % 2 ^ 32 }
  | 0x601 => if cfg then { p with pages0 := v } else p
  | 0x602 => if cfg then { p with pages1 := v } else p
  | 0x603 => { p with chmask := low v 48 }
  | 0x604 => { p with t2max := v }
  | 0x605 => { p with tcmax := v }
  | 0x606 => { p with heavy := v }
  | 0x607 => { p with qmax := v }
  | 0x608 => { p with eth := BitVec.ofNat 64 (v.toNat % 2 ^ 16 + Word.bits v.toNat 29 16 * 2 ^ 16) }
  | 0x609 => if cfg then { p with tid := low v 20 } else p
  | 0x60A => if cfg then { p with ctxr := low v 25 } else p
  | 0x60B => if cfg then { p with home := low v 7 } else p
  | 0x60C => if cfg then { p with supctx := low v 12 } else p
  | 0x60D => { p with supentry := v }
  | 0x800 => { p with ival := if 1 ≤ v.toNat && v.toNat ≤ 999 then 1000 else v }
  | 0x801 => { p with rbase := v }
  | 0x802 => { p with rsize := if v.toNat > 65536 then 0 else v }
  | 0xA01 => { p with share := v }
  | _ => p

/-- A plain SWR of a per-core register (R301, R351, R385, R395, R419). A register whose table gives no bit range keeps
the low bits that its meaning uses (DESIGN CHOICE, log entry 59). -/
def Core.srWrite (c : Core) (n : Nat) (v : Word) : Core :=
  match n with
  | 0x000 => { c with st := c.st.setS v }
  | 0x001 | 0x081 => { c with epc := v.toNat }
  | 0x018 => { c with lost := v.toNat % 2 ^ 32 }
  | 0x080 => { c with st := c.st.setH v }
  | 0x102 => { c with ctxsel := BitVec.ofNat 16 v.toNat }
  | 0x201 => { c with instsel := v.toNat % 2 ^ 16 }
  | 0x402 => { c with pgsel := v.toNat % 128 }
  | 0x610 => { c with ftsel := v.toNat % 2 ^ 27 }
  | 0x611 => { c with ftcnt := if v.toNat == 0 || v.toNat > 65536 then 1 else v.toNat }
  | 0x700 => { c with slsel := v.toNat % 16 }
  | 0x901 => { c with snsel := v.toNat % 256 }
  | 0xA03 => { c with psel := v.toNat % 128 }
  | 0xB02 => { c with mtaddr := v }
  | _ =>
    if (0x010 ≤ n && n ≤ 0x013) || (0x090 ≤ n && n ≤ 0x093) then
      { c with save := setAt c.save (n % 4) v }
    else c

/-- The registers that select what other registers stand for, or the context of H (R324). -/
def selects (n : Nat) : Bool := [0x102, 0x201, 0x402, 0x610, 0x611, 0x700, 0x901, 0xA03, 0xB02].contains n

/-- A plain SWR of a package register (R301, R351, R419). A register whose table gives no bit range keeps the low
bits that its meaning uses (DESIGN CHOICE, log entry 59). -/
def Dev.srWritePkg (d : Dev) (n : Nat) (v : Word) : Dev :=
  match n with
  | 0x082 => { d with hvec := v.toNat }
  | 0x098 => { d with hlost := v.toNat % 2 ^ 32 }
  | 0x09D => { d with hrval := v }
  | 0x300 => { d with schedAge := v }
  | 0xA00 => { d with pwrCap := capOf v }
  | _ => d

/-- A plain SWR (R324): a write of a read-only register changes nothing. -/
def Dev.srWrite (d : Dev) (id : CoreId) (n : Nat) (v : Word) : Dev :=
  match srInfo n with
  | none => d
  | some (_, .ctx) => d.updCtx (d.selCtx id) fun x => x.srWrite n v
  | some (_, .part) => d.updPart (d.selPart id) fun p => p.srWrite n v
  | some (_, .pkg) => d.srWritePkg n v
  | some (_, .cc) | some (_, .sys) | some (_, .core) => d.updCore id fun c => c.srWrite n v

end Sys2Proof.Machine
end

