-- ==== Sys2Proof/Machine/Tier.lean ====
section
/-! DEFINITION. Tiered ranges, the residency directory and timetables (R257 to R267), and the tier
instructions TTLD, TFETCH, TEVICT, TPIN and TRES (R268 to R271). The TE's own steps stand in
Machine/TierEngine.lean. -/

namespace Sys2Proof.Machine

/-! ### Ranges and granules -/

/-- Accesses of the TE for a context (R369). -/
def Dev.teAcc (d : Dev) (part ctx : Nat) : Acc := { d.deviceAcc part ctx .rd 0 with unit := 500, path := .te }

/-- Entry `k` of a context's range table when it is valid (R356), as the TE sees it. -/
def Dev.rangeEntry (m : Mem) (d : Dev) (part ctx k : Nat) : Dev × Option Nat :=
  let a := d.teAcc part ctx
  let (d, r) := ((d.rootOf a.unit part ctx).andThen fun d rtab =>
    if rtab == 0 then Walk.fail d { cause := cTRANSLATION } else d.readRange m a.unit part ctx rtab k).posted a 0
  match r with
  | .error _ => (d, none)
  | .ok (e, _) => (d, if Word.bit e 128 && rangeOk e then some e else none)

/-- The span from `va` lies within one range of a context (R269). -/
def Dev.spanInRange (m : Mem) (d : Dev) (part ctx va n : Nat) : Dev × Bool :=
  let a := d.teAcc part ctx
  let (d, r) := ((d.rootOf a.unit part ctx).andThen fun d rtab =>
    if rtab == 0 || va ≥ 2 ^ 63 then Walk.fail d { cause := cTRANSLATION }
    else d.findRange m a.unit part ctx rtab va 64 0).posted a va
  match r with
  | .error _ => (d, false)
  | .ok (_, e, _) => (d, rangeOk e && va + n ≤ Word.bits e 63 0 + Word.bits e 127 64)

/-- What the TE finds at an address: a fault, a range that is not tiered, or a tiered range whose home stands at a host
address (R257, R373). -/
inductive TeView
  | faults
  | plain
  | tiered (host : Nat)
  deriving DecidableEq, Repr

/-- The TE's view of an address: a range is tiered when its leaf has TIERED = 1 and APER = 1 (R257). -/
def Dev.teView (m : Mem) (d : Dev) (part ctx va : Nat) : Dev × TeView :=
  let (d, r) := d.xlate m (d.teAcc part ctx) va
  (d, match r with
    | .error _ => .faults
    | .ok h => match h.copy with
      | some c => if c.leaf.getLsbD 11 && Word.bits c.leaf.toNat 15 12 == 1 then .tiered h.host else .plain
      | none => .plain)

/-- Bytes of a granule (R257). -/
def granBytes : Nat := 2 ^ 21

/-- Key of a granule in its partition's directory. -/
def granKey (ctx va : Nat) : Nat := ctx * 2 ^ 42 + va / granBytes
/-- Context of a granule's key. -/
def granCtx (k : Nat) : Nat := k / 2 ^ 42
/-- First virtual address of a granule's key. -/
def granVa (k : Nat) : Nat := k % 2 ^ 42 * granBytes

/-- A granule's directory entry. -/
def Partition.gran (p : Partition) (k : Nat) : Granule := (lookup k p.grans).getD {}

/-- The state with a granule changed. -/
def Dev.updGran (d : Dev) (part k : Nat) (f : Granule → Granule) : Dev :=
  d.updPart part fun p => { p with grans := insert k (f (p.gran k)) p.grans }

/-- Granules of a span, in ascending address. -/
def granules (va n : Nat) : List Nat := (List.range (n / granBytes)).map fun i => va + i * granBytes

/-- Pins and unpins that stand first among a granule's actions, acted on: they take no time of the TE (R258, R269)
(DEDUCED, log entry 51). -/
def Granule.pinned (g : Granule) : List TeAct → Granule
  | .pin :: as => Granule.pinned { g with pin := true, acts := as, acted := g.acted + 1 } as
  | .unpin :: as => Granule.pinned { g with pin := false, acts := as, acted := g.acted + 1 } as
  | .fetch :: _ | .evict :: _ | [] => g

/-- An action passed to a granule: the TE acts on each granule's actions in the order in which they reach it (R258,
R264) (DEDUCED, log entry 51). -/
def Dev.passAction (d : Dev) (part k : Nat) (act : TeAct) : Dev :=
  d.updGran part k fun g =>
    let n := g.sent + 1
    let g := { g with
      acts := g.acts ++ [act]
      sent := n
      lastFetch := if act = TeAct.fetch then n else g.lastFetch
      lastEvict := if act = TeAct.evict then n else g.lastEvict }
    g.pinned g.acts

/-- A granule counts as resident: it is RESIDENT, or lies in a range that is not tiered; where the TE's access faults
it is missing (R258, R261, R373). -/
def Dev.resident (m : Mem) (d : Dev) (part ctx va : Nat) : Dev × Bool :=
  let (d, v) := d.teView m part ctx va
  (d, match v with
    | .faults => false
    | .plain => true
    | .tiered _ => ((d.part part).gran (granKey ctx va)).res == .resident)

/-! ### Timetables (R261, R263) -/

/-- Fields of a timetable entry (R261). -/
def parseTtEntry (e : Nat) : TtEntry :=
  { trig := Word.bits e 11 0
    action := Word.bits e 23 16
    deadline := if Word.bit e 47 then some (Word.bits e 43 32) else none
    range := Word.bits e 55 48
    offset := Word.bits e 127 64
    length := Word.bits e 191 128 }

/-- A timetable entry meets R261 but for its range. -/
def ttEntryOk (e : Nat) : Bool :=
  let action := Word.bits e 23 16
  Word.bits e 15 12 == 0 && action < 4
    && Word.bits e 31 24 == (if action == 1 then 2 else 1)
    && Word.bits e 46 44 == 0
    && (if Word.bit e 47 then action == 0 else Word.bits e 43 32 == 0)
    && Word.bits e 55 48 < 64 && Word.bits e 63 56 == 0
    && Word.bits e 127 64 % granBytes == 0
    && Word.bits e 191 128 != 0 && Word.bits e 191 128 % granBytes == 0
    && Word.bits e 255 192 == 0

/-- A timetable header meets R261. -/
def ttHeaderOk (h : Nat) : Bool :=
  Word.bits h 31 0 == 0x42545456 && Word.bits h 47 32 == 1
    && 1 ≤ Word.bits h 63 48 && Word.bits h 63 48 ≤ 4096
    && Word.bits h 71 64 < 2 && Word.bits h 255 72 == 0

/-- The entry's range is one the context holds and contains its span (R261, R263). -/
def Dev.ttRangeOk (m : Mem) (d : Dev) (part ctx : Nat) (e : TtEntry) : Dev × Bool :=
  let (d, r) := d.rangeEntry m part ctx e.range
  (d, match r with
    | some r => e.offset + e.length ≤ Word.bits r 127 64
    | none => false)

/-- The ranges of a timetable's entries in order, up to the first that is not right (R263). -/
def Dev.ttRangesOk (m : Mem) (part ctx : Nat) : List Nat → Dev → Dev × Bool
  | [], d => (d, true)
  | e :: es, d =>
    let (d, ok) := d.ttRangeOk m part ctx (parseTtEntry e)
    if ok then Dev.ttRangesOk m part ctx es d else (d, false)

/-- A timetable from its header and the values of its entries; none when it breaks R261 or names a
range the context does not hold (R263). -/
def Dev.timetable (m : Mem) (d : Dev) (part ctx h : Nat) (es : List Nat) : Dev × Option Timetable :=
  if ttHeaderOk h && es.length == Word.bits h 63 48 && es.all ttEntryOk then
    let (d, ok) := Dev.ttRangesOk m part ctx es d
    (d, if ok then some { stall := Word.bits h 71 64 == 1, entries := es.map parseTtEntry } else none)
  else (d, none)

/-- A timetable loaded for a context: it replaces the previous one (R263). -/
def Dev.loadTimetable (d : Dev) (ctx : Nat) (t : Option Timetable) : Dev :=
  d.updCtx ctx fun c => { c with tt := t }

/-! ### TTLD -/

/-- Entries of 32 bytes read at entry, until one faults, which its address names (R270, R373). -/
def Dev.ttRead (m : Mem) (id : CoreId) (a : Acc) : Nat → Nat → Dev → Dev × Except (Nat × XlFault) (List Nat)
  | 0, _, d => (d, .ok [])
  | n + 1, va, d =>
    let (d, r) := d.entryLoad m id a va 32
    match r with
    | .error f => (d, .error (va, f))
    | .ok (bs, _) =>
      let (d, rest) := Dev.ttRead m id a n (va + 32) d
      (d, match rest with
        | .ok vs => .ok (Word.ofBytes bs :: vs)
        | .error f => .error f)

/-- What TTLD reads as its block is entered; of SEALED memory it reads nothing (R263, R270, R362). -/
def ttldFire (o : OpS) (m : Mem) (e : Site) (g : Gathered) (d : Dev) : Fired :=
  let a := ((d.core e.core).reg o.ga).v.toNat
  let (ctx, part, _, _) := d.issuer e.core
  let word := match (d.core e.core).frame with
    | some fr => fr.word e.slot
    | none => 0
  if a % 32 != 0 then .fault d cMISALIGNED a 0
  else
    let acc := d.coreAcc e.core .ctl .rd 0
    let (d, h) := Dev.ttRead m e.core acc 1 a d
    match h with
    | .error (va, f) => .fault d f.cause va (f.info 0)
    | .ok hs =>
      let h := hs.headD 0
      if !ttHeaderOk h then .fault d cILLEGAL e.addr word
      else
        let (d, es) := Dev.ttRead m e.core acc (Word.bits h 63 48) (a + 32) d
        match es with
        | .error (va, f) => .fault d f.cause va (f.info 0)
        | .ok es =>
          let (d, t) := d.timetable m part ctx h es
          match t with
          | none => .fault d cILLEGAL e.addr word
          | some t =>
            .done ((d.alsoCommit e g).updFrame e.core fun f => { f with tts := f.tts ++ [(e.slot, t)] })
              .none

/-- TTLD (R263, R270). -/
def bodyTtld (o : OpS) (m : Mem) (d : Dev) : Dev :=
  match d.focus with
  | .commit id slot => match ((d.core id).frame).bind (fun f => lookup slot f.tts) with
    | some t => d.loadTimetable (d.issuer id).1 (some t)
    | none => d
  | .none | .fire _ _ | .elem _ _ _ _ | .engine _ => d.fire (.ttld o) false fun e g d => ttldFire o m e g d

/-- TTLD with CLR (R270). -/
def bodyTtldClear (o : OpS) (_ : Mem) (d : Dev) : Dev :=
  d.commits (.ttldClear o) fun id _ _ d => d.loadTimetable (d.issuer id).1 none

/-! ### TFETCH, TEVICT, TPIN -/

/-- The span of a tier instruction checked at commit, then its granules handled when they are tiered
(R269). -/
def Dev.tierSpan (m : Mem) (d : Dev) (id : CoreId) (fr : Frame) (slot : Nat) (o : OpS)
    (f : Nat → Nat → Dev → Dev) : Dev :=
  let c := d.core id
  let va := (c.reg o.ga).v.toNat
  let n := (c.reg o.gb).v.toNat
  let (ctx, part, _, _) := d.issuer id
  if n == 0 || n % granBytes != 0 then d.txIllegal fr slot
  else if va % granBytes != 0 then d.txTrap cMISALIGNED va 0 slot
  else
    let (d, ok) := d.spanInRange m part ctx va n
    if !ok then d.txTrap cTRANSLATION va 0 slot
    else (granules va n).foldl (fun d v =>
      let (d, w) := d.teView m part ctx v
      match w with
      | .tiered _ => f part (granKey ctx v) d
      | .faults | .plain => d) d

/-- A fetch or an eviction of a granule, with SYNC a wait of the thread for it (R269). -/
def Dev.tierAct (d : Dev) (id : CoreId) (o : OpS) (fetch : Bool) (part k : Nat) : Dev :=
  let d := d.passAction part k (if fetch then .fetch else .evict)
  if o.sub.getLsbD 0 then
    d.updCore id fun c => { c with sync := c.sync ++
      [{ part := part, gran := k, n := ((d.part part).gran k).sent, evict := !fetch }] }
  else d

/-- The TE has finished handling an action (R269), which a fault may have dropped (R373). -/
def Dev.syncDone (d : Dev) (w : SyncWait) : Bool :=
  let g := (d.part w.part).gran w.gran
  if g.drops.contains w.n then true
  else if w.evict then (g.acted ≥ w.n && g.res != .draining && !g.evictNext) || g.lastFetch > w.n
  else (g.acted ≥ w.n && g.res == .resident) || g.lastEvict > w.n

/-- TFETCH (R269). -/
def bodyTfetch (o : OpS) (m : Mem) (d : Dev) : Dev :=
  d.commits (.tfetch o) fun id fr c d =>
    d.tierSpan m id fr c.slot o fun part k d => d.tierAct id o true part k

/-- TEVICT (R269). -/
def bodyTevict (o : OpS) (m : Mem) (d : Dev) : Dev :=
  d.commits (.tevict o) fun id fr c d =>
    d.tierSpan m id fr c.slot o fun part k d => d.tierAct id o false part k

/-- TPIN (R269). -/
def bodyTpin (o : OpS) (m : Mem) (d : Dev) : Dev :=
  d.commits (.tpin o) fun id fr c d =>
    d.tierSpan m id fr c.slot o fun part k d => d.passAction part k .pin

/-- TPIN with UNPIN (R269). -/
def bodyTpinUnpin (o : OpS) (m : Mem) (d : Dev) : Dev :=
  d.commits (.tpinUnpin o) fun id fr c d =>
    d.tierSpan m id fr c.slot o fun part k d => d.passAction part k .unpin

/-! ### TRES -/

/-- The TE status word of an instance (R271). -/
def Dev.teStatus (d : Dev) (x : Inst) : Nat :=
  let st := if x.phase == .stalled then 1 else 0
  match (d.ctx x.ctx).tt with
  | none => st
  | some t => st + (if t.stall then 2 else 0) + 4 + min t.fired.length 0xFFFF * 2 ^ 16
      + min t.misses 0xFFFFFFFF * 2 ^ 32

/-- TRES at commit: the status, then the action on a stalled configuration (R266, R267, R271). -/
def Dev.tres (d : Dev) (id : CoreId) (slot : Nat) (o : OpS) (f : Inst → Inst) : Dev :=
  match d.instOf id with
  | none => d.txTrap cPERMISSION 0 4 slot
  | some (k, x) =>
    let d := d.gWrite id slot false o.ga { v := BitVec.ofNat 64 (d.teStatus x) }
    if x.phase == .stalled then d.updInst k f else d

/-- TRES (R271). -/
def bodyTresStatus (o : OpS) (_ : Mem) (d : Dev) : Dev :=
  d.commits (.tresStatus o) fun id _ c d => d.tres id c.slot o fun x => x

/-- TRES with resume (R266, R271). -/
def bodyTresResume (o : OpS) (_ : Mem) (d : Dev) : Dev :=
  d.commits (.tresResume o) fun id _ c d => d.tres id c.slot o fun x =>
    { x with phase := if x.heldBy.isSome then .held else .boundary, stallMiss := [], stallRes := false }

/-- TRES with resident: the stall ends when the missed granules are resident (R266, R271). -/
def bodyTresResident (o : OpS) (_ : Mem) (d : Dev) : Dev :=
  d.commits (.tresResident o) fun id _ c d => d.tres id c.slot o fun x => { x with stallRes := true }

/-- One step of TTLD. -/
def execTtld (o : OpS) (s : State) : Host.Outcome State Fault Refusal :=
  act s (bodyTtld o)

/-- One step of TTLD_CLEAR. -/
def execTtldClear (o : OpS) (s : State) : Host.Outcome State Fault Refusal :=
  act s (bodyTtldClear o)

/-- One step of TFETCH. -/
def execTfetch (o : OpS) (s : State) : Host.Outcome State Fault Refusal :=
  act s (bodyTfetch o)

/-- One step of TEVICT. -/
def execTevict (o : OpS) (s : State) : Host.Outcome State Fault Refusal :=
  act s (bodyTevict o)

/-- One step of TPIN. -/
def execTpin (o : OpS) (s : State) : Host.Outcome State Fault Refusal :=
  act s (bodyTpin o)

/-- One step of TPIN_UNPIN. -/
def execTpinUnpin (o : OpS) (s : State) : Host.Outcome State Fault Refusal :=
  act s (bodyTpinUnpin o)

/-- One step of TRES_STATUS. -/
def execTresStatus (o : OpS) (s : State) : Host.Outcome State Fault Refusal :=
  act s (bodyTresStatus o)

/-- One step of TRES_RESUME. -/
def execTresResume (o : OpS) (s : State) : Host.Outcome State Fault Refusal :=
  act s (bodyTresResume o)

/-- One step of TRES_RESIDENT. -/
def execTresResident (o : OpS) (s : State) : Host.Outcome State Fault Refusal :=
  act s (bodyTresResident o)

end Sys2Proof.Machine
end

