-- ==== Sys2Proof/Machine/Instances.lean ====
section
/-! DEFINITION. Shared operations on configuration instances and threads: completion words (R222, R331),
releasing held agents (R310, R312, R315), aborting and ending an instance (R310, R331). -/

namespace Sys2Proof.Machine

/-! ### Completion words -/

/-- The record of a device write made for a context, without its cause. -/
def Dev.deviceRec (d : Dev) (part ctx : Nat) : TrapRec :=
  { cause := 0, cls := 2, olev := 0, part := part, ctx := ctx, tid := d.tidOf part ctx, cfgid := 0xFFFF }

/-- A 64-bit word written in an MT of an instance as a completion word: a store to a TILE bank, an STV
to a VERSION bank, which waits for room; not into a sealed bank (R198, R222, R278). The cause of a fault is given,
or whether the word has been written. -/
def Dev.mtWord (d : Dev) (cfg a : Nat) (v : Word) : Dev × Except Nat Bool :=
  match d.inst cfg with
  | none => (d, .error cPERMISSION)
  | some x => match x.bank (mtTile a) (mtBank a) with
    | none => (d, .error cPERMISSION)
    | some b =>
      if b.passed then (d, .error cPERMISSION)
      else if b.sealed then (d, .error cSEALED)
      else if !b.owned then (d, .ok false)
      else match b.mode with
      | .tile =>
        if mtOfs a + 8 > bankBytes then (d, .error cPERMISSION)
        else (d.updInst cfg fun x => x.setBank (mtTile a) (mtBank a) (b.setElem (mtOfs a) 8 v.toNat), .ok true)
      | .version =>
        match (b.vword (mtOfs a)).stv (v.toNat % 2 ^ 32) v with
        | .ok w => (d.updInst cfg fun x => x.setBank (mtTile a) (mtBank a) (b.setVword (mtOfs a) w), .ok true)
        | .gone => (d, .error cVGONE)
        | .dup => (d, .error cVDUP)
        | .wait => (d, .ok false)
      | .fifo | .line | .scale => (d, .error cPERMISSION)

/-- A completion word written by an access `acc`, in main memory or in an MT of instance `cfg`: its fault, or
whether it has been written (R222). -/
def Dev.completionWord (m : Mem) (d : Dev) (acc : Acc) (cfg a : Nat) (v : Word) : Dev × Except XlFault Bool :=
  if Word.bit a 63 then
    let (d, r) := d.mtWord cfg a v
    (d, r.mapError fun c => { cause := c })
  else
    let (d, f) := d.store m acc a (Word.toBytes 8 v.toNat)
    (d, match f with
      | some f => .error f
      | none => .ok true)

/-- A command gone from its queue, wherever its thread stands now (R213, R338, R348). -/
def Dev.endCmd (d : Dev) (n : Nat) : Dev :=
  let gone := fun (e : Nat × Core) => (e.1, { e.2 with board := e.2.board.filter (·.id != n) })
  { d with cores := d.cores.map gone, planeCores := d.planeCores.map gone }

/-- The core of the thread that a command belongs to: it may have moved since it was issued (R338). -/
def Dev.cmdCore (d : Dev) (n : Nat) (issued : CoreId) : CoreId :=
  match (d.cores.find? fun e => e.2.board.any (·.id == n)).map (·.1),
      (d.planeCores.find? fun e => e.2.board.any (·.id == n)).map (·.1 / 4) with
  | some k, _ | none, some k => coreOfKey k
  | none, none => issued

/-- A late completion word tried: it waits on, or its command ends, with a report when it faults (R222, R303)
(DEDUCED, log entry 61). -/
def Dev.tryWord (m : Mem) (d : Dev) (w : LateWord) : Dev :=
  let ends := fun (d : Dev) => match w.cmd with
    | some n => d.endCmd n
    | none => d
  if w.cmd.isSome && d.peerAwaits w.acc.unit w.acc.job then { d with lateWords := d.lateWords ++ [w] }
  else
    let (d, r) := d.completionWord m w.acc w.cfg w.addr w.v
    match r with
    | .ok true => ends d
    | .ok false => { d with lateWords := d.lateWords ++ [w] }
    | .error f =>
      let info := f.info w.acc.code
      if w.acc.core.isNone then d
      else (ends d).postAcc { w.acc with core := w.acc.core.map (d.cmdCore (w.cmd.getD d.nextCmd)) } { w.acc.who with
        cause := f.cause, addr := w.addr, info := info % 2 ^ 64, stage2 := info ≥ 2 ^ 64 }

/-- The completion words that wait, each tried again. -/
def Dev.retryWords (m : Mem) (d : Dev) : Dev :=
  d.lateWords.foldl (fun d w => d.tryWord m w) { d with lateWords := [] }

/-- FAILVAL of a cause (R331). -/
def failVal (cause : Nat) : Word := BitVec.ofNat 64 (2 ^ 63 + cause)

/-- DONEADDR of a launch written, when it is not 0 (R331). -/
def Dev.writeDone (m : Mem) (d : Dev) (part ctx cfg a : Nat) (v : Word) : Dev :=
  if a == 0 then d else d.tryWord m { acc := d.deviceAcc part ctx .wr 1, cfg := cfg, addr := a, v := v }

/-! ### Threads -/

/-- The thread state of a page's CC in a plane (R347). -/
def Dev.ccOf (d : Dev) (page plane : Nat) : Core :=
  if d.activePlane page == plane then d.core (coreOfKey page)
  else (lookup (4 * page + plane) d.planeCores).getD {}

/-- The state with the thread state of a page's CC in a plane replaced. -/
def Dev.setCc (d : Dev) (page plane : Nat) (c : Core) : Dev :=
  if d.activePlane page == plane then d.setCore (coreOfKey page) c
  else { d with planeCores := insert (4 * page + plane) c d.planeCores }

/-- A thread has started and not halted. -/
def Core.threadLive (c : Core) : Bool :=
  match c.thread with
  | .none | .halted => false
  | .live | .held _ | .wfi _ => true

/-- A core whose thread has halted without committing its block. -/
def Core.halt (c : Core) : Core := { c with thread := .halted, frame := none, callReg := none }

/-- The thread of a CC halted without committing its block. -/
def Dev.haltThread (d : Dev) (id : CoreId) : Dev := d.updCore id Core.halt

/-- The threads of an instance's control programs halted without committing their blocks. -/
def Dev.haltThreads (d : Dev) (x : Inst) : Dev :=
  x.threads.foldl (fun d p => d.setCc p x.plane (d.ccOf p x.plane).halt) d

/-! ### Ending instances -/

/-- A binding ended by its configuration's retirement: SHORT when not all its elements had passed (R215, R310). -/
def Vp.endShort (v : Vp) : Vp :=
  match v.bind with
  | none => v
  | some b => { v with bind := none, ended := true, short := b.done < patTotal b.pat, elems := b.done }

/-- The abort of an instance: it retires as though its last committed round had been its last, and its
bindings end (R310). -/
def Inst.abort (x : Inst) (cause : Nat) : Inst :=
  { x with
    last := true
    phase := .ending
    heldBy := none
    nextImage := 0
    staged := []
    step3 := false
    faults := []
    reconf := some []
    failed := some (x.failed.getD cause)
    fab := { x.fab with vps := x.fab.vps.map fun e => (e.1, e.2.endShort) } }

/-- The instance whose tiles or ports a copy writes. -/
def CopyDst.inst (x : CopyDst) : Option Nat :=
  match x with
  | .bank k _ _ | .vport k _ | .scale k _ _ _ _ => some k
  | .pattern _ => none

/-- Commands of scoreboards that name virtual ports of an instance, ended. -/
def Dev.endVpCmds (d : Dev) (cfg : Nat) : Dev :=
  { d with
    cores := d.cores.map fun e => (e.1, { e.2 with
      board := e.2.board.filter fun c => c.vp.map (·.1) != some cfg })
    copies := d.copies.filter fun e => match e.2.dst with
      | .vport k _ => k != cfg
      | .pattern _ | .bank _ _ _ | .scale _ _ _ _ _ => true }

/-- An aborted instance (R310). -/
def Dev.abortInst (d : Dev) (cfg cause : Nat) : Dev :=
  (d.updInst cfg fun x => x.abort cause).endVpCmds cfg

/-- A live instance that imports a producer's bank, with the bank it stands as (R330). -/
def Dev.consumerOf (d : Dev) (pcfg ptile pbank : Nat) : Option (Nat × Import) :=
  d.insts.findSome? fun e =>
    (e.2.imports.find? fun i => i.pcfg == pcfg && i.ptile == ptile && i.pbank == pbank).map fun i =>
      (e.1, i)

/-- Calls that an instance's tiles await in the CLEs, and the results retained for them, gone (R229). -/
def Dev.dropCalls (d : Dev) (cfg : Nat) : Dev :=
  { d with ctxs := d.ctxs.map fun (e : Nat × Context) => (e.1, { e.2 with
      groups := e.2.groups.map fun (g : Nat × Group) => (g.1, { g.2 with
        calls := g.2.calls.filter fun c => c.elem.map (·.1) != some cfg
        kept := g.2.kept.filter (·.cfg != cfg) }) }) }

/-- Calls and retained results of one number put under another; with `copies` the first keeps its own (R229). -/
def Dev.rekeyCalls (d : Dev) (old new : Nat) (copies : Bool) : Dev :=
  let mine := fun (e : Nat × Nat × Nat × Nat) => (if e.1 == old then new else e.1, e.2)
  { d with ctxs := d.ctxs.map fun (e : Nat × Context) => (e.1, { e.2 with
      groups := e.2.groups.map fun (g : Nat × Group) => (g.1, { g.2 with
        calls := g.2.calls.map fun c => { c with elem := c.elem.map mine }
        kept := (if copies then g.2.kept else g.2.kept.filter (·.cfg != old))
          ++ (g.2.kept.filter (·.cfg == old)).map fun k => { k with cfg := new } }) }) }

/-- The collective results of an instance that a CUT snapshot releases stay retained (R341) (DEDUCED, log entry
41). -/
def Dev.retainCalls (d : Dev) (cfg : Nat) (x : Inst) : Dev :=
  let key := 2 ^ 16 + d.retained.length
  { d.rekeyCalls cfg key false with
    retained := d.retained ++ [{ ctx := x.ctx, idhash := x.idhash, round := x.fab.round, key := key }] }

/-- The instance that a CUT image makes has the results retained for the one that was released (R229, R341)
(DEDUCED, log entry 41). -/
def Dev.regainCalls (d : Dev) (cfg : Nat) (x : Inst) : Dev :=
  match d.retained.reverse.find? fun r => r.ctx == x.ctx && r.idhash == x.idhash && r.round == x.fab.round with
  | some r => d.rekeyCalls r.key cfg true
  | none => d

/-- An instance ends: its banks are zeroed and its pages, permits and slots return, but for the pages of
banks that a live consumer holds (R42, R331). -/
def Dev.removeInst (d : Dev) (cfg : Nat) : Dev :=
  match d.inst cfg with
  | none => d
  | some x =>
    let kept := x.fab.tiles.flatMap fun t => match t.2.kind with
      | .ct _ => []
      | .mt m => (m.banks.mapIdx fun i b => (i, b)).filterMap fun (i, b) =>
          if b.passed then (d.consumerOf cfg t.1 i).map fun (k, im) =>
            ({ page := x.pageOf t.1, plane := x.plane, cfg := k, tile := im.tile, bank := im.bank } : GraphPage)
          else none
    let pages := (d.graphPages.filter fun g => g.cfg != cfg) ++ kept
    { d.dropCalls cfg with
      insts := remove cfg d.insts
      graphPages := pages
      xl := d.xl.filter fun c => !(c.part == x.part && c.ctx == x.ctx && 200 ≤ c.unit && c.unit < 300)
      watch := d.watch.filter (·.1 != .config cfg) }

/-- The end of an instance, with its completion word (R331). -/
def Dev.endInst (m : Mem) (d : Dev) (cfg : Nat) : Dev :=
  match d.inst cfg with
  | none => d
  | some x =>
    let v := match x.failed with
      | some c => failVal c
      | none => x.doneVal
    (d.removeInst cfg).writeDone m x.part x.ctx cfg x.doneAddr v

/-- An instance stopped at once with its threads: FAILVAL is written (R346, R386). -/
def Dev.killInst (m : Mem) (d : Dev) (cfg cause : Nat) : Dev :=
  match d.inst cfg with
  | none => d
  | some x =>
    ((d.abortInst cfg cause).haltThreads x).endInst m cfg

/-! ### Releasing held agents -/

/-- A held configuration released: it runs the voided round again, or goes on at step 7; or it is
aborted with the cause that held it (R310). -/
def Dev.releaseConfig (d : Dev) (seqNo cause : Nat) (abort : Bool) : Dev :=
  match d.insts.find? fun e => e.2.heldBy == some seqNo with
  | none => d
  | some (k, _) =>
    if abort then d.abortInst k cause
    else (d.updInst k fun x => { x with
      heldBy := none
      phase := if x.phase == .held then .boundary else x.phase }).progress (.config k)

/-- A held thread that goes on: it enters its block again, or after a call its next block with the value
returned (R312, R321). -/
def Dev.retried (d : Dev) (c : Core) : Core :=
  let c' := { c with thread := .live, callReg := none }
  match c.callReg with
  | some r => c'.setReg r { v := d.hrval }
  | none => c'

/-- A held thread released: it goes on, or it halts (R310, R312, R321). -/
def Dev.releaseThread (d : Dev) (seqNo : Nat) (abort : Bool) : Dev :=
  let f := fun c => if abort then Core.halt c else d.retried c
  match d.cores.find? fun e => e.2.thread == .held seqNo with
  | some (k, c) => (d.setCore (coreOfKey k) (f c)).progress (.core (coreOfKey k))
  | none => match d.planeCores.find? fun e => e.2.thread == .held seqNo with
    | some (k, c) => { d with planeCores := insert k (f c) d.planeCores }
    | none => d

/-- The agent that a record holds, released by its SEQ; nothing happens when none is held (R312). -/
def Dev.release (d : Dev) (seqNo cause : Nat) (abort : Bool) : Dev :=
  let d := (d.releaseThread seqNo abort).releaseConfig seqNo cause abort
  { d with heldRecs := d.heldRecs.filter (·.seqNo != seqNo) }

end Sys2Proof.Machine
end

