-- ==== Sys2Proof/Machine/Late.lean ====
section
/-! DEFINITION. Instructions whose result is made at their block's commit: the system instructions that
deliver a result word (R352, R353, R402). -/

namespace Sys2Proof.Machine

/-- A result made at commit, delivered to the targets of a slot of the block. -/
def Dev.deliverLate (d : Dev) (id : CoreId) (slot : Nat) (v : Word) : Dev :=
  d.updFrame id fun f => match f.blk.slots[slot]? with
    | some s =>
      let t : Tok := { data := BitVec.ofNat 1024 v.toNat }
      { f with blk := (f.blk.deliver s.ins.head.t0 t).deliver s.ins.head.t1 t }
    | none => f

/-- An instruction that acts at commit and delivers a word then: `pre` holds its checks at entry, and
`com` its effect (R352, R402). -/
def Dev.late (i : Instr) (d : Dev) (pre : Site → Dev → Option (Nat × Nat × Nat))
    (com : CoreId → Frame → Capture → Dev → Dev × Word) : Dev :=
  d.fireCommit i false (fun e _ d => pre e d) (fun _ _ _ => .wait) fun id fr c d =>
    let (d, v) := com id fr c d
    d.deliverLate id c.slot v

/-- A result word (R353). -/
def resultWord (r : Nat) (cfg : Nat := 0) : Word := BitVec.ofNat 64 (r + cfg % 65536 * 256)

/-- RESULT values (R353). -/
def rOK : Nat := 0
def rFULL : Nat := 1
def rDISABLED : Nat := 2
def rNOPLACE : Nat := 3
def rBUSY : Nat := 4
def rUNSEEN : Nat := 5
def rINVALID : Nat := 6

/-- The value a slot read at entry of its block (R324, R402). -/
def Frame.sr (f : Frame) (slot : Nat) : Word := (lookup slot f.srs).getD 0

/-- A value read at entry, delivered with P, N and L zero (R324, R402). -/
def Dev.fireSr (i : Instr) (d : Dev) : Dev :=
  d.fireRes i fun e _ => .tok { data := BitVec.ofNat 1024 (match (d.core e.core).frame with
    | some f => (f.sr e.slot).toNat
    | none => 0) }

end Sys2Proof.Machine
end

