-- ==== Sys2Proof/Machine/Sep.lean ====
section
/-! DEFINITION. The security processor: key slots and KSHR (R394 to R396, R402, R403), the meters and
usage records (R398 to R400, R418), MTRD and the attestation report (R403). -/

namespace Sys2Proof.Machine

/-! ### Meters and usage records -/

/-- Millijoules of a partition: the energies of R418 with the remainder kept. -/
def Partition.mj (p : Partition) : Nat :=
  let m := fun i => p.meters.getD i 0
  (700000 * m 0 + 2900 * m 1 + 16 * (m 2 + m 3) + 5 * (m 4 + m 5)) / 10 ^ 9

/-- Counter `i` of a partition (R398). -/
def Partition.meterAt (p : Partition) (i : Nat) : Nat :=
  if i == 6 then p.mj else p.meters.getD i 0

/-- A signature under the identity key, with the device serial as the signer's identity (R399). -/
def Dev.sign (d : Dev) (msg : List Byte) : Dev × List Byte :=
  (d.fresh.2, beBytes (sm2Sign d.sep.ident d.flash.serial msg d.free))

/-- The SEP's part of a key exchange: its ephemeral point, and what the exchange yields, which is none when the shared
point is infinity (R396) (DEDUCED, log entry 40). -/
def Dev.respond (d : Dev) (pa ra : BitVec 512) (ida : List Byte) : Dev × BitVec 512 × Option (BitVec 768) :=
  let k := sm2Scalar d.free 0
  (d.fresh.2, sm2PubOf k, sm2Respond d.sep.exch k d.flash.serial pa ra ida)

/-- Bytes 0x00 to 0xBF of a usage record (R399) (DEDUCED, log entry 45). -/
def Dev.usageBody (d : Dev) (k kind : Nat) : List Byte :=
  let p := d.part k
  Word.toBytes 4 0x45535556 ++ Word.toBytes 2 1 ++ Word.toBytes 1 k ++ Word.toBytes 1 kind
    ++ Word.toBytes 8 p.useq ++ Word.toBytes 8 (d.flash.boots * 2 ^ 32 + p.epoch % 2 ^ 32)
    ++ Word.toBytes 8 p.tstart ++ Word.toBytes 8 d.time
    ++ (List.range 7).flatMap (fun i => Word.toBytes 8 (p.meterAt i))
    ++ (match p.chained, p.records.getLast? with
      | true, some r => sm3 r
      | _, _ => List.replicate 32 0)
    ++ sm3 (beBytes (sm2PubOf d.sep.ident)) ++ List.replicate 32 0

/-- A usage record put into the partition's ring, when it has room and its writes perform (R400). -/
def Dev.ringRecord (m : Mem) (d : Dev) (k : Nat) (r : List Byte) : Option Dev :=
  let p := d.part k
  let sup := d.supCtx k
  let size := p.rsize.toNat
  let base := p.rbase.toNat
  if size == 0 || base == 0 then none
  else
    let (d1, c) := d.loadPlain m (d.deviceAcc k sup .rd 0) base 16
    match c with
    | .error _ => none
    | .ok (_, _, some _) => none
    | .ok (_, bs, none) =>
      let prod := Word.ofBytes (bs.take 8)
      let cons := Word.ofBytes (bs.drop 8)
      if (prod + 2 ^ 64 - cons) % 2 ^ 64 ≥ size then none
      else
        let a := d1.deviceAcc k sup .wr 1
        let (d2, f) := d1.storeSpan m a (base + 64 + 256 * (prod % size)) r
        match f with
        | some _ => none
        | none =>
          let (d3, f) := d2.store m a base (Word.toBytes 8 (prod + 1))
          match f with
          | some _ => none
          | none => some d3

/-- A usage record made: it joins the chain and the store, and the ring when it can (R399, R400)
(DEDUCED, log entry 45). -/
def Dev.makeRecord (m : Mem) (d : Dev) (k kind : Nat) : Dev × List Byte :=
  let body := d.usageBody k kind
  let (d, sig) := d.sign body
  let r := body ++ sig
  let d := d.updPart k fun p =>
    { p with
      records := (p.records ++ [r]).drop (p.records.length + 1 - 64)
      useq := p.useq + 1, tstart := d.time, chained := true }
  (match d.ringRecord m k r with
    | some d => d
    | none => d.updPart k fun p => { p with mlost := min (p.mlost + 1) (2 ^ 64 - 1) }, r)

/-- METER_PERIODIC_RECORD: a record of KIND 0 every METER_IVAL ms of a RUNNING partition (R400). -/
def bodyMeterPeriodicRecord (k : Nat) (m : Mem) (d : Dev) : Dev :=
  let p := d.part k
  if p.state == .running && p.ival != 0 && d.time ≥ p.meterDue then
    let d := (d.makeRecord m k 0).1
    d.updPart k fun p => { p with meterDue := d.time + p.ival.toNat * 1000000 }
  else d

/-! ### KSHR and MTRD at commit -/

/-- The state with a key slot changed. -/
def Dev.updSlot (d : Dev) (part k : Nat) (f : KeySlot → KeySlot) : Dev :=
  d.updPart part fun p => { p with slots := p.slots.modify k f }

/-- KSHR ASSIGN (R403). -/
def bodyKshrAssign (o : OpY) (_ : Mem) (d : Dev) : Dev :=
  d.late (.kshrAssign o) (fun _ _ => none) fun id _ _ d =>
    let v := ((d.core id).reg o.ga).v.toNat
    let part := (d.issuer id).2.1
    let k := o.imm.toNat % 16
    if v ≥ 2 ^ 13 || !(d.part part).hasCtx (v % 4096) then (d, resultWord rINVALID)
    else if (d.keySlot part k).assigned then (d, resultWord rBUSY)
    else (d.updSlot part k fun s => { s with assigned := true, two := Word.bit v 12, ctx := v % 4096 },
      resultWord rOK)

/-- KSHR ERASE (R403). -/
def bodyKshrErase (o : OpY) (_ : Mem) (d : Dev) : Dev :=
  d.late (.kshrErase o) (fun _ _ => none) fun id _ _ d =>
    (d.updSlot (d.issuer id).2.1 (o.imm.toNat % 16) fun s => { gen := s.gen + 1 }, resultWord rOK)

/-- Requests one partition may have in the SEP's queue (R403). -/
def sepShare : Nat := 4

/-- A request of KSHR or MTRD: its addresses are checked at entry, and it enters the SEP's queue at
commit, which waits while the partition's entries are in use (R403). -/
def Dev.sepRequest (i : Instr) (o : OpY) (kind : SepKind) (d : Dev) : Dev :=
  d.fireCommit i false (fun e _ d =>
      let a := ((d.core e.core).reg o.ga).v.toNat
      let b := ((d.core e.core).reg o.gb).v.toNat
      if a % 64 != 0 then some (cMISALIGNED, a, if kind == .record then 1 else 0)
      else if b % 8 != 0 then some (cMISALIGNED, b, 1) else none)
    (fun _ _ _ => .wait) fun id _ cap d =>
      let (ctx, part, _, hyp) := d.issuer id
      let c := d.core id
      if (d.sepq.filter (·.part == part)).length ≥ sepShare then d.txWait
      else
        let q : SepReq :=
          { kind := kind, part := part, ctx := ctx, slot := o.imm.toNat % 16
            role := if o.imm.getLsbD 4 then 1 else 0
            buf := (c.reg o.ga).v.toNat, cw := (c.reg o.gb).v.toNat, hyp := hyp, cfg := d.cfgOf id }
        { d with sepq := d.sepq ++ [q] }.deliverLate id cap.slot (resultWord rOK)

/-- KSHR BEGIN (R403). -/
def bodyKshrBegin (o : OpY) (_ : Mem) (d : Dev) : Dev := d.sepRequest (.kshrBegin o) o .begin_
/-- KSHR FINISH (R403). -/
def bodyKshrFinish (o : OpY) (_ : Mem) (d : Dev) : Dev := d.sepRequest (.kshrFinish o) o .finish
/-- MTRD RECORD (R403). -/
def bodyMtrdRecord (o : OpY) (_ : Mem) (d : Dev) : Dev := d.sepRequest (.mtrdRecord o) o .record
/-- MTRD QUOTE (R403). -/
def bodyMtrdQuote (o : OpY) (_ : Mem) (d : Dev) : Dev := d.sepRequest (.mtrdQuote o) o .quote

/-- MTRD READ: the counter as it stands at entry (R402, R403). -/
def bodyMtrdRead (o : OpY) (_ : Mem) (d : Dev) : Dev := d.fireSr (.mtrdRead o)

/-! ### The SEP serves its queue (R403) -/

/-- Accesses the SEP makes for a request. -/
def Dev.sepAcc (d : Dev) (q : SepReq) (kind : AccKind) (code : Nat) : Acc :=
  { d.deviceAcc q.part q.ctx kind code with hyp := q.hyp }

/-- The buffer of a request, in lines of 64 bytes. -/
def Dev.sepLoad (m : Mem) (d : Dev) (q : SepReq) (off lines : Nat) : Dev × Option (List Byte) :=
  let (d, r) := d.loadSpan m (d.sepAcc q .rd 0) (q.buf + off) (64 * lines)
  (d, match r with
    | .ok (bs, _) => some bs
    | .error _ => none)

/-- Lines written to the buffer of a request: false when one faults. -/
def Dev.sepStore (m : Mem) (d : Dev) (q : SepReq) (off : Nat) (bs : List Byte) : Dev × Bool :=
  let (d, f) := d.storeSpan m (d.sepAcc q .wr 1) (q.buf + off) bs
  (d, f.isNone)

/-- The head of the SEP's queue served: `f` gives the status, which goes to the completion word. -/
def Dev.serve (m : Mem) (d : Dev) (kind : SepKind) (f : SepReq → Dev → Dev × Nat) : Dev :=
  match d.sepq with
  | [] => d
  | q :: rest =>
    if q.kind == kind then
      let (d, st) := f q { d with sepq := rest }
      d.tryWord m { acc := d.sepAcc q .wr 1, cfg := q.cfg, addr := q.cw, v := BitVec.ofNat 64 st }
    else d

/-- Statuses (R403). -/
def sOK : Nat := 1
def sAUTH : Nat := 2
def sROLE : Nat := 3
def sSTATE : Nat := 4
def sBIND : Nat := 5
def sPOINT : Nat := 6
def sFAULT : Nat := 8

/-- `n` bytes of a buffer from an offset. -/
def sub (bs : List Byte) (off n : Nat) : List Byte := (bs.drop off).take n

/-- The share a slot holds for a role. -/
def KeySlot.share (s : KeySlot) (role : Nat) : Option (BitVec 128) :=
  if role == 0 then s.share0 else s.share1

/-- A role may not be given to a slot (R403) (DEDUCED, log entry 40). -/
def KeySlot.roleBad (s : KeySlot) (role : Nat) : Bool :=
  s.assigned && ((s.share role).isSome || (role == 1 && !s.two))

/-- KSHR_BEGIN_SERVE (R396, R403) (DEDUCED, log entry 40). -/
def serveBegin (m : Mem) (q : SepReq) (d : Dev) : Dev × Nat :=
  let s := d.keySlot q.part q.slot
  if s.roleBad q.role then (d, sROLE)
  else if !s.assigned then (d, sSTATE)
  else
    let (d, b) := d.sepLoad m q 0 8
    match b with
    | none => (d, sFAULT)
    | some b =>
      let n := Word.ofBytes (sub b 0x40 2)
      let pa := BitVec.ofNat 512 (Word.ofBytesBe (sub b 0x60 64))
      let ra := BitVec.ofNat 512 (Word.ofBytesBe (sub b 0xA0 64))
      if n == 0 || n > 64 || !sm2OnCurve pa || !sm2OnCurve ra then (d, sPOINT)
      else
        let (d, rb, agreed) := d.respond pa ra (sub b 0 n)
        match agreed with
        | none => (d, sPOINT)
        | some agreed =>
          let sb := Word.toBytesBe 32 (Word.bits agreed.toNat 511 256)
          let (d, ok) := d.sepStore m q 0x100 (beBytes rb ++ sb ++ sub b 0x160 32)
          if !ok then (d, sFAULT)
          else (d.updSlot q.part q.slot fun s =>
            if q.role == 0 then { s with begun0 := some agreed } else { s with begun1 := some agreed }, sOK)

/-- KSHR_BEGIN_SERVE. -/
def bodyKshrBeginServe (m : Mem) (d : Dev) : Dev := d.serve m .begin_ fun q d => serveBegin m q d

/-- The exchange state of a role cleared. -/
def KeySlot.endBegun (s : KeySlot) (role : Nat) : KeySlot :=
  if role == 0 then { s with begun0 := none } else { s with begun1 := none }

/-- The verdict of a FINISH on the buffer's confirmation and wrapped share: the share and IDBIND, or the
status (R396) (DEDUCED, log entry 40). -/
def openShare (q : SepReq) (s : KeySlot) (agreed : BitVec 768) (b : List Byte) :
    Except Nat (BitVec 128 × List Byte) :=
  let ke := BitVec.ofNat 128 (Word.bits agreed.toNat 767 640)
  let km := Word.toBytesBe 16 (Word.bits agreed.toNat 639 512)
  let idbind := sub b 0xE0 32
  let share := xorBytes (sub b 0x180 16) (sm4Enc ke (List.replicate 16 0))
  let mac := (hmacSm3 km (share ++ idbind ++ Word.toBytes 1 q.slot ++ Word.toBytes 1 q.role)).take 16
  if sub b 0x160 32 != Word.toBytesBe 32 (Word.bits agreed.toNat 255 0) || sub b 0x190 16 != mac then
    .error sAUTH
  else if !(s.bind.all (· == 0)) && !(idbind.all (· == 0)) && s.bind != idbind then .error sBIND
  else .ok (BitVec.ofNat 128 (Word.ofBytesBe share), idbind)

/-- KSHR_FINISH_SERVE (R396, R403) (DEDUCED, log entry 40). -/
def serveFinish (m : Mem) (q : SepReq) (d : Dev) : Dev × Nat :=
  let s := d.keySlot q.part q.slot
  let done := fun (d : Dev) => d.updSlot q.part q.slot fun s => s.endBegun q.role
  if s.roleBad q.role then (done d, sROLE)
  else match (if q.role == 0 then s.begun0 else s.begun1) with
    | none => (done d, sSTATE)
    | some agreed =>
      let (d, b) := d.sepLoad m q 0 8
      match b with
      | none => (done d, sFAULT)
      | some b => match openShare q s agreed b with
        | .error st => (done d, st)
        | .ok (share, idbind) =>
          ((done d).updSlot q.part q.slot fun s =>
            let s := if q.role == 0 then { s with share0 := some share }
              else { s with share1 := some share }
            if idbind.all (· == 0) then s else { s with bind := idbind }, sOK)

/-- KSHR_FINISH_SERVE. -/
def bodyKshrFinishServe (m : Mem) (d : Dev) : Dev := d.serve m .finish fun q d => serveFinish m q d

/-- MTRD_RECORD_SERVE (R400, R403). -/
def bodyMtrdRecordServe (m : Mem) (d : Dev) : Dev :=
  d.serve m .record fun q d =>
    let (d, r) := d.makeRecord m q.part 1
    let (d, ok) := d.sepStore m q 0 r
    (d, if ok then sOK else sFAULT)

/-- PART_ register `n` of a partition (R385). -/
def Partition.reg (p : Partition) (n : Nat) : Nat :=
  ([p.state.code + p.err * 2 ^ 8, p.pages0.toNat, p.pages1.toNat, p.chmask.toNat, p.t2max.toNat
    , p.tcmax.toNat, p.heavy.toNat, p.qmax.toNat, p.eth.toNat, p.tid.toNat, p.ctxr.toNat, p.home.toNat
    , p.supctx.toNat, p.supentry.toNat] : List Nat).getD n 0

/-- Bytes 0x000 to 0x1BF of the attestation report (R403). -/
def Dev.reportBody (d : Dev) (k : Nat) (nonce : List Byte) : List Byte :=
  let p := d.part k
  Word.toBytes 4 0x54544156 ++ Word.toBytes 2 1 ++ Word.toBytes 1 k ++ Word.toBytes 1 d.flash.grade
    ++ Word.toBytes 8 d.time ++ nonce
    ++ (List.range 4).flatMap (fun i => sm3 (d.fwRun.getD i []))
    ++ sm3 d.flash.record
    ++ sm3 ((List.range 14).flatMap fun n => Word.toBytes 8 (p.reg n))
    ++ beBytes (sm2PubOf d.sep.ident) ++ beBytes (sm2PubOf d.sep.exch)
    ++ (match p.records.getLast? with
      | some r => sm3 r
      | none => List.replicate 32 0)
    ++ d.flash.serial ++ List.replicate 32 0

/-- MTRD_QUOTE_SERVE: the report over the buffer (R403). -/
def bodyMtrdQuoteServe (m : Mem) (d : Dev) : Dev :=
  d.serve m .quote fun q d =>
    let (d, b) := d.sepLoad m q 0 1
    match b with
    | none => (d, sFAULT)
    | some b =>
      let body := d.reportBody q.part (b.take 32)
      let (d, sig) := d.sign body
      let (d, ok) := d.sepStore m q 0 (body ++ sig)
      (d, if ok then sOK else sFAULT)

/-- One step of METER_PERIODIC_RECORD. -/
def execMeterPeriodicRecord (k : Nat) (s : State) : Host.Outcome State Fault Refusal :=
  act s (bodyMeterPeriodicRecord k)

/-- One step of KSHR_ASSIGN. -/
def execKshrAssign (o : OpY) (s : State) : Host.Outcome State Fault Refusal :=
  act s (bodyKshrAssign o)

/-- One step of KSHR_ERASE. -/
def execKshrErase (o : OpY) (s : State) : Host.Outcome State Fault Refusal :=
  act s (bodyKshrErase o)

/-- One step of KSHR_BEGIN. -/
def execKshrBegin (o : OpY) (s : State) : Host.Outcome State Fault Refusal :=
  act s (bodyKshrBegin o)

/-- One step of KSHR_FINISH. -/
def execKshrFinish (o : OpY) (s : State) : Host.Outcome State Fault Refusal :=
  act s (bodyKshrFinish o)

/-- One step of MTRD_RECORD. -/
def execMtrdRecord (o : OpY) (s : State) : Host.Outcome State Fault Refusal :=
  act s (bodyMtrdRecord o)

/-- One step of MTRD_QUOTE. -/
def execMtrdQuote (o : OpY) (s : State) : Host.Outcome State Fault Refusal :=
  act s (bodyMtrdQuote o)

/-- One step of MTRD_READ. -/
def execMtrdRead (o : OpY) (s : State) : Host.Outcome State Fault Refusal :=
  act s (bodyMtrdRead o)

/-- One step of KSHR_BEGIN_SERVE. -/
def execKshrBeginServe (s : State) : Host.Outcome State Fault Refusal :=
  act s (bodyKshrBeginServe)

/-- One step of KSHR_FINISH_SERVE. -/
def execKshrFinishServe (s : State) : Host.Outcome State Fault Refusal :=
  act s (bodyKshrFinishServe)

/-- One step of MTRD_RECORD_SERVE. -/
def execMtrdRecordServe (s : State) : Host.Outcome State Fault Refusal :=
  act s (bodyMtrdRecordServe)

/-- One step of MTRD_QUOTE_SERVE. -/
def execMtrdQuoteServe (s : State) : Host.Outcome State Fault Refusal :=
  act s (bodyMtrdQuoteServe)

end Sys2Proof.Machine
end

