-- ==== Sys2Proof/Machine/Image.lean ====
section
/-! DEFINITION. Configuration images as bytes: header, tables, tile sections and records (R107 to R111),
and checks 1 to 4. -/

namespace Sys2Proof.Machine

/-- A little-endian field of a byte string. -/
def field (bs : List Byte) (off n : Nat) : Nat := Word.ofBytes ((bs.drop off).take n)

/-- Some bytes are all zero. -/
def zeroAt (bs : List Byte) (off n : Nat) : Bool := field bs off n == 0

/-- A record of a tile section (R110); `framed` is false for one whose framing is broken. -/
structure RawRec where
  ty : Nat
  arg : Nat
  body : List Byte
  framed : Bool
  deriving DecidableEq, Repr

/-- A tile section: virtual tile, kind and records. -/
structure Section where
  tile : Nat
  isMt : Bool
  recs : List RawRec
  deriving DecidableEq, Repr

/-- A port-table entry (R109). -/
structure PortEnt where
  vp : Nat
  tile : Nat
  port : Nat
  out : Bool
  winmax : Nat
  deriving DecidableEq, Repr

/-- A control-program entry (R109). -/
structure CtlEnt where
  vx : Nat
  vy : Nat
  off : Nat
  len : Nat
  entry : Nat
  deriving DecidableEq, Repr

/-- An image whose checks 1 to 4 pass (R107, R109). -/
structure Image where
  idhash : List Byte
  w : Nat
  h : Nat
  heavy : Nat
  roundN : Nat
  sections : List Section
  ports : List PortEnt
  /-- Declared ranges: index and PERM. -/
  ranges : List (Nat × Nat)
  ctls : List CtlEnt
  /-- Header and entries of the timetable. -/
  tt : Option (Nat × List Nat)
  deriving DecidableEq, Repr

/-- MAGIC and VERSION (check 1). -/
def imgMagicOk (bs : List Byte) : Bool := field bs 0 4 == 0x47464356 && field bs 4 2 == 2

/-- SIZE of a header. -/
def imgSize (bs : List Byte) : Nat := field bs 0x54 4

/-- IDHASH of an image (R108). -/
def imgHash (bs : List Byte) : List Byte :=
  sm3 (bs.take 8 ++ List.replicate 32 0 ++ bs.drop 40)

/-- Entries of a table of `n` entries of `w` bytes. -/
def table (bs : List Byte) (off n w : Nat) : List (List Byte) :=
  (List.range n).map fun i => (bs.drop (off + w * i)).take w

/-- The corner of its code (R109). -/
def cornerOf (n : Nat) : Corner :=
  match n with
  | 0 => .nw
  | 1 => .ne
  | 2 => .sw
  | _ => .se

/-- The tile that VX, VY and CORNER name; none outside a W × H configuration. -/
def tileOf (w h vx vy c : Nat) : Option Nat :=
  if vx < w && vy < h && c < 4 then some (tileAt vx vy (cornerOf c)) else none

/-- Records of a tile section from byte `off` on, `n` bytes long; reading ends at a record whose framing
is broken (R98, R110). Padding bytes that are not zero are no breach that R98 lists, and are accepted
(DESIGN CHOICE, log entry 30). -/
def readRecs (bs : List Byte) : Nat → Nat → Nat → List RawRec
  | 0, _, _ => []
  | fuel + 1, off, n =>
    if n == 0 then []
    else
      let len := field bs (off + 4) 4
      let total := 16 + Word.alignUp len 16
      let r : RawRec := { ty := field bs off 1, arg := field bs (off + 8) 8
                          body := (bs.drop (off + 16)).take len, framed := true }
      if n < 16 || n < 16 + len then [{ r with body := [], framed := false }]
      else if !zeroAt bs (off + 1) 3 then [{ r with framed := false }]
      else r :: readRecs bs fuel (off + total) (n - total)

/-- The port table within its limits (R109). -/
def readPorts (bs : List Byte) (w h : Nat) : Option (List PortEnt) :=
  let es := table bs (field bs 0x38 4) (field bs 0x34 2) 8
  let ps := es.map fun e =>
    match tileOf w h (field e 1 1) (field e 2 1) (field e 3 1) with
    | some t =>
      if field e 0 1 < 64 && field e 4 1 < 16 && field e 5 1 < 2 && field e 6 2 ≤ 512 then
        some ({ vp := field e 0 1, tile := t, port := field e 4 1, out := field e 5 1 == 1
                winmax := field e 6 2 } : PortEnt)
      else none
    | none => none
  if ps.all Option.isSome then
    let ps := ps.filterMap id
    if (ps.map (·.vp)).eraseDups.length == ps.length then some ps else none
  else none

/-- A range name is ASCII padded with zero bytes (R109). -/
def nameOk : List Byte → Bool
  | [] => true
  | b :: bs => if b == 0 then bs.all (· == 0) else b.toNat < 128 && nameOk bs

/-- The range table within its limits (R109). -/
def readRanges (bs : List Byte) : Option (List (Nat × Nat)) :=
  let es := table bs (field bs 0x3C 4) (field bs 0x36 2) 32
  if es.all fun e => field e 0 1 < 64 && field e 1 1 < 4 && zeroAt e 2 6 && nameOk (e.drop 8) then
    some (es.map fun e => (field e 0 1, field e 1 1))
  else none

/-- The section table within its limits, with the sections read (R109, R110). -/
def readSections (bs : List Byte) (size w h : Nat) : Option (List Section) :=
  let es := table bs (field bs 0x30 4) (field bs 0x2E 2) 16
  let ss := es.map fun e =>
    match tileOf w h (field e 0 1) (field e 1 1) (field e 2 1) with
    | some t =>
      let mt := field e 2 1 == 1 || field e 2 1 == 2
      let off := field e 4 4
      let len := field e 8 4
      if field e 3 1 == (if mt then 1 else 0) && zeroAt e 12 4 && off % 16 == 0 && off + len ≤ size then
        some ({ tile := t, isMt := mt, recs := readRecs bs (len / 16 + 1) off len } : Section)
      else none
    | none => none
  if ss.all Option.isSome then
    let ss := ss.filterMap id
    if (ss.map (·.tile)).eraseDups.length == ss.length then some ss else none
  else none

/-- The control-program table within its limits: the entry block lies within its program (R109). Two programs of
one vpage are accepted, of which the manual says nothing (DESIGN CHOICE, log entry 30). -/
def readCtls (bs : List Byte) (size w h : Nat) : Option (List CtlEnt) :=
  let es := table bs (field bs 0x40 4) (field bs 0x44 2) 16
  let cs := es.map fun e => ({ vx := field e 0 1, vy := field e 1 1, off := field e 4 4, len := field e 8 4
                               entry := field e 12 4 } : CtlEnt)
  if (es.all fun e => zeroAt e 2 2) && cs.all (fun c => c.vx < w && c.vy < h && c.off + c.len ≤ size
      && c.entry < c.len)
  then some cs else none

/-- The timetable's header and entries, when they lie within SIZE (R111). -/
def readTt (bs : List Byte) (size : Nat) : Option (Option (Nat × List Nat)) :=
  let off := field bs 0x48 4
  if off == 0 then some none
  else if off + 32 > size then none
  else
    let h := field bs off 32
    let n := Word.bits h 63 48
    if off + 32 + 32 * n > size then none
    else some (some (h, (table bs (off + 32) n 32).map Word.ofBytes))

/-- Check 4: the fields of R107, the tables of R109 and their bounds. -/
def readImage (bs : List Byte) : Option Image :=
  let size := imgSize bs
  let w := field bs 0x28 1
  let h := field bs 0x29 1
  let fits := fun (off n : Nat) => n == 0 || off + n ≤ size
  if !(zeroAt bs 6 2 && zeroAt bs 0x46 2 && zeroAt bs 0x58 8) || w == 0 || w > 16 || h == 0 || h > 8
      || field bs 0x2C 2 == 0 || field bs 0x34 2 > 64 || field bs 0x36 2 > 64 || field bs 0x44 2 > 128
      || !fits (field bs 0x30 4) (16 * field bs 0x2E 2) || !fits (field bs 0x38 4) (8 * field bs 0x34 2)
      || !fits (field bs 0x3C 4) (32 * field bs 0x36 2) || !fits (field bs 0x40 4) (16 * field bs 0x44 2)
      || !fits (field bs 0x4C 4) (field bs 0x50 4) then none
  else
    match readPorts bs w h, readRanges bs, readSections bs size w h, readCtls bs size w h, readTt bs size with
    | some ps, some rs, some ss, some cs, some tt =>
      some { idhash := (bs.drop 8).take 32, w := w, h := h, heavy := field bs 0x2A 2
             roundN := field bs 0x2C 2, sections := ss, ports := ps, ranges := rs, ctls := cs, tt := tt }
    | _, _, _, _, _ => none

/-- Checks 1 to 4 of R111: the image, or the number of the check that fails. `bs` are the bytes SIZE
names, or the header when SIZE is below it (DEDUCED, log entry 30). -/
def checkImage (bs : List Byte) : Except Nat Image :=
  if !imgMagicOk bs then .error 1
  else if imgSize bs < 96 || imgSize bs != bs.length then .error 2
  else if imgHash bs != (bs.drop 8).take 32 then .error 3
  else match readImage bs with
    | some i => .ok i
    | none => .error 4

end Sys2Proof.Machine
end

