-- ==== Sys2Proof/Machine/Matrix.lean ====
section
/-! DEFINITION. Matrix instructions: MBIND, MMA, MMASP, MZERO, MACCI, MOUT, MSWAP and MSCLS (R176 to
R190). -/

namespace Sys2Proof.Machine

/-! ### Arming fills (R178, R183) -/

/-- A binding marked skipped for a record. -/
def Inst.skip (x : Inst) (tile k r : Nat) : Inst :=
  match x.ct tile with
  | some c => x.setCt tile { c with skips := c.skips ++ [(k, r)] }
  | none => x

/-- MBIND (R178, R183). -/
def mbindElem (o : OpI) (e : Site) (g : Gathered) (d : Dev) : Fired :=
  let k := o.imm.toNat % 16
  let h := o.imm.toNat / 16 % 256
  let n := if h == 0 then laneOf 32 g.a.data 0 % 256 else h
  let skip := d.updInst e.cfg fun x => x.skip e.tile k e.record
  if !g.computes then .done skip .none
  else if n == 0 then .done skip .null
  else match (d.inst e.cfg).bind (·.bound e.tile k) with
    | none => .wait
    | some (bd, b) =>
      if b.passed then .fault d cPERMISSION (mtAddr bd.tile bd.bank 0) 0
      else if !b.owned || (lookup (holdKey e.tile k) b.holds).isSome || !b.readFull then .wait
      else .done (d.putBank e.cfg bd.tile bd.bank
          { b with holds := insert (holdKey e.tile k) (n, e.record) b.holds })
        (.data g.a.data none)

/-- MBIND (R183). -/
def bodyMbind (o : OpI) (_ : Mem) (d : Dev) : Dev := d.fire (.mbind o) true (mbindElem o)

/-! ### Reading armed fills -/

/-- How a binding that a firing reads and releases stands for its record (R178). -/
inductive FillAt
  | wait
  | skipped
  | passed (bd : Binding)
  | ready (bd : Binding) (b : Bank)

/-- The armed fill of a binding for a record. -/
def Inst.fillAt (x : Inst) (tile k r : Nat) : FillAt :=
  if x.skipped tile k r then .skipped
  else match x.bound tile k with
    | none => .wait
    | some (bd, b) =>
      if b.passed then .passed bd
      else if !b.owned || !b.armedFor (holdKey tile k) r then .wait
      else .ready bd b

/-- The bytes, as the read port gives them, and S flags of the buffer at the read pointer. -/
def Bank.fill (b : Bank) : Fill :=
  let base := b.bufBase b.readPtr
  { bytes := readLe b.port base b.bufSize
    sflags := (b.sflags.filter fun r => base / 128 ≤ r && r < (base + b.bufSize) / 128).map
      (· - base / 128) }

/-- Rows of the buffer at the read pointer that meet an uncorrectable granule (R175). -/
def Bank.badRows (b : Bank) (n : Nat) : List Nat :=
  (List.range (n / 128)).filter fun r => b.badAt (b.bufBase b.readPtr + 128 * r) 128

/-- The matrix element of a compute tile changed. -/
def Inst.updMe (x : Inst) (tile : Nat) (f : Me → Me) : Inst :=
  match x.ct tile with
  | some c => x.setCt tile { c with me := f c.me }
  | none => x

/-- An accumulator bank. -/
def Me.bank (a : Me) (k : Nat) : AccBank := a.acc.getD k {}
/-- A matrix element with an accumulator bank set. -/
def Me.setBank (a : Me) (k : Nat) (b : AccBank) : Me := { a with acc := setAt a.acc k b }
/-- A word of an accumulator bank; words beyond the list are 0. -/
def AccBank.word (b : AccBank) (i j : Nat) : Nat := (b.words.getD (192 * i + j) 0).toNat
/-- The origin of a poisoned row. -/
def AccBank.rowOrg (b : AccBank) (i : Nat) : Option (BitVec 24) := lookup i b.pois

/-- The poisoned rows after some rows received poison: a row keeps its first origin (R74). -/
def addRowPois (ps : List (Nat × BitVec 24)) (i : Nat) (w : Option (BitVec 24)) :
    List (Nat × BitVec 24) :=
  match w, lookup i ps with
  | some o, none => insert i o ps
  | _, _ => ps

/-! ### MMA and MMASP (R184, R185) -/

/-- Row `r` of the fill holds data, a scale or an index of row `i` of A (R177, R185). -/
def operandRowIn (o : MatOperand) (groups i r : Nat) : Bool :=
  (List.range groups).any fun gr =>
    (o.scaleRows != 0 && (gr * o.groupBytes + i) / 128 == r)
      || (o.tail != 0 &&
          (o.dataAt gr + o.kvecs * o.n * o.fmt.width / 8 + 4 * i) / 128 == r)
      || (List.range o.kvecs).any fun k =>
        let z := o.fmt.width
        let idx := if o.transposed then i * o.kvecs + k else k * o.n + i
        let lo := 8 * o.dataAt gr + idx * z
        lo / 1024 ≤ r && r ≤ (lo + z - 1) / 1024

/-- The operands of an MMA or MMASP, from its fields and fills. -/
def mmaOp (o : OpX) (sparse : Bool) (fa fb : Fill) (scale : Mem) : MmaOp :=
  { a := { fill := fa, fmt := o.afmt, n := 128, transposed := o.tra
           scaleRows := if o.scm.val == 1 || o.scm.val == 2 then 1 else 0
           kvecs := if sparse then 16 else 32, tail := if sparse then 512 else 0 }
    b := { fill := fb, fmt := o.bfmt, n := 192, transposed := o.trb
           scaleRows := if o.scm.val == 1 then 2 else 0, kvecs := 32, tail := 0 }
    groups := o.ks.toNat + 1
    sparse := sparse
    scm := o.scm.val
    scaleMem := readLe scale 0 16384 }

/-- The accumulator bank after an MMA (R72 to R75); `badA` and `badB` are rows of the fills that read
with poison, with their origins. Within one MMA, poison of A comes first, then that of B, then a cause the row
generates, of which the least code is kept (DESIGN CHOICE, log entry 54). -/
def AccBank.mma (acc : AccBank) (m : MmaOp) (set : Bool) (pp : Ppol) (origin : Nat → BitVec 24)
    (badA badB : List Nat) (orgA orgB : BitVec 24) : AccBank :=
  let acc0 := if set then { acc with words := [], pois := [] } else acc
  let rows := (List.range 128).map fun i =>
    (List.range 192).map fun j => m.element i j (acc0.word i j)
  let cause : List AccOut → Option Nat := fun r =>
    (r.filterMap fun x => laneCause pp { code := 0, invalid := x.invalid, nanIn := x.nanIn }).foldl
      (fun acc c => match acc with
        | none => some c
        | some b => some (min b c)) none
  { acc0 with
    words := (rows.flatMap fun r => r.map fun x => BitVec.ofNat 32 x.word)
    pois := (rows.mapIdx fun i r => (i, r)).foldl (fun ps (i, r) =>
      let ps := if badA.any (operandRowIn m.a m.groups i) then addRowPois ps i (some orgA) else ps
      let ps := if badB.isEmpty then ps else addRowPois ps i (some orgB)
      addRowPois ps i ((cause r).map origin)) acc0.pois }

/-- The releases of a firing: one hold of each binding in turn (R178). -/
def Dev.releases (d : Dev) (e : Site) (ks : List Nat) : Dev :=
  d.updInst e.cfg fun x => ks.foldl (fun x k => x.dropHold e.tile k e.record) x

/-- The reports of an operand read that meets uncorrectable granules (R175). -/
def Dev.operandReport (d : Dev) (e : Site) (k : Nat) (bd : Binding) (b : Bank) (bad : List Nat) : Dev :=
  match bad with
  | [] => d
  | r :: _ => (d.bankPoison e k bd.tile bd.bank b (b.bufBase b.readPtr + 128 * r) 128).1

/-- Multiplications in a tile clock with operands of a format (R18). -/
def MFmt.rate (f : MFmt) : Nat :=
  match f with
  | .e4m3 | .e5m2 | .i8 => 24576
  | .e2m1 | .e3m2 | .e2m3 | .i4 => 49152
  | .bf16 | .fp16 => 12288
  | .fp32 => 4096

/-- Tile clocks an MMA or MMASP takes at the rates of R18: the rate of 4 and 6-bit formats needs both operands
in such a format (R75). -/
def mmaClocks (o : OpX) (sparse : Bool) : Nat :=
  let rate := min (MFmt.rate o.afmt) (MFmt.rate o.bfmt)
  (o.ks.toNat + 1) * (if sparse then 16 else 32) * 128 * 192 / rate

/-- MMA and MMASP: they wait for the armed fills, and for a permit of the governor (R45, R184). -/
def mmaElem (o : OpX) (sparse : Bool) (e : Site) (g : Gathered) (d : Dev) : Fired :=
  let ka := o.ba.val
  let kb := o.bb.val
  match d.inst e.cfg with
  | none => .wait
  | some x =>
    let finish : Dev → Res → Fired := fun d r => .done (d.releases e [ka, kb]) r
    match x.fillAt e.tile ka e.record, x.fillAt e.tile kb e.record with
    | .wait, _ | _, .wait => .wait
    | .skipped, _ | _, .skipped => finish d (if g.computes then .null else .none)
    | .passed bd, _ | _, .passed bd =>
      if g.computes then .fault d cPERMISSION (mtAddr bd.tile bd.bank 0) 0 else finish d .none
    | .ready da a, .ready db b =>
      if !g.computes then finish d .none
      else if x.granted == 0 then .wait
      else match x.ct e.tile with
        | none => .wait
        | some c =>
          let m := mmaOp o sparse a.fill b.fill c.me.scale
          let badA := a.badRows (m.a.size m.groups)
          let badB := b.badRows (m.b.size m.groups)
          let acc := (c.me.bank o.bank.val).mma m (o.acc == .set) e.hdr.ppol e.origin badA badB
            (originWord false e.col e.row ka 7) (originWord false e.col e.row kb 7)
          let d := (d.operandReport e ka da a badA).operandReport e kb db b badB
          let d := d.meter x.part 1 (mmaClocks o sparse)
          finish (d.updInst e.cfg fun x => x.updMe e.tile fun me => me.setBank o.bank.val acc)
            (.data g.a.data none)

/-- MMA (R184). -/
def bodyMma (o : OpX) (_ : Mem) (d : Dev) : Dev := d.fire (.mma o) true (mmaElem o false)

/-- MMASP (R185). -/
def bodyMmasp (o : OpX) (_ : Mem) (d : Dev) : Dev := d.fire (.mmasp o) true (mmaElem o true)

/-! ### Accumulator banks and scale memory -/

/-- MZERO (R186). -/
def bodyMzero (o : OpX) (_ : Mem) (d : Dev) : Dev :=
  d.fire (.mzero o) false fun e g d =>
    .done (d.updInst e.cfg fun x => x.updMe e.tile fun me =>
      me.setBank o.bank.val { me.bank o.bank.val with words := [], pois := [] }) (.data g.a.data none)

/-- MSWAP: banks BANK and BB exchange words, P bits and origins (R189). -/
def bodyMswap (o : OpX) (_ : Mem) (d : Dev) : Dev :=
  d.fire (.mswap o) false fun e g d =>
    let j := o.bank.val
    let k := o.bb.val % 4
    .done (d.updInst e.cfg fun x => x.updMe e.tile fun me =>
      let a := me.bank j
      let b := me.bank k
      (me.setBank j { a with words := b.words, pois := b.pois }).setBank k
        { b with words := a.words, pois := a.pois }) (.data g.a.data none)

/-- The words of an accumulator bank from a fill: FP32, or BF16 widened exactly (R187). -/
def loadAcc (bf16 : Bool) (f : Fill) : List (BitVec 32) :=
  (List.range (128 * 192)).map fun n =>
    if bf16 then BitVec.ofNat 32 (f.bits (16 * n) 16 * 2 ^ 16) else BitVec.ofNat 32 (f.bits (32 * n) 32)

/-- MACCI with a load (R187). -/
def macciLoad (o : OpX) (e : Site) (g : Gathered) (d : Dev) : Fired :=
  let k := o.ba.val
  match d.inst e.cfg with
  | none => .wait
  | some x =>
    let finish : Dev → Res → Fired := fun d r => .done (d.releases e [k]) r
    match x.fillAt e.tile k e.record with
    | .wait => .wait
    | .skipped => finish d (if g.computes then .null else .none)
    | .passed bd =>
      if g.computes then .fault d cPERMISSION (mtAddr bd.tile bd.bank 0) 0 else finish d .none
    | .ready bd b =>
      if !g.computes then finish d .none
      else if b.sealed then .fault d cSEALED (mtAddr bd.tile bd.bank (b.bufBase b.readPtr)) 0
      else
        let bf := o.afmt == .bf16
        let rowBytes := if bf then 384 else 768
        let bad := b.badRows (128 * rowBytes)
        let org := originWord false e.col e.row k 7
        let pois := (List.range 128).filterMap fun i =>
          if bad.any fun r => i * rowBytes / 128 ≤ r && r < (i + 1) * rowBytes / 128 then some (i, org)
          else none
        let words := loadAcc bf b.fill
        finish ((d.operandReport e k bd b bad).updInst e.cfg fun x => x.updMe e.tile fun me =>
            me.setBank o.bank.val { me.bank o.bank.val with words := words, pois := pois })
          (.data g.a.data none)

/-- MACCI: its class is read at install; with KS = 1 it loads the bank (R187). -/
def bodyMacci (o : OpX) (_ : Mem) (d : Dev) : Dev :=
  if o.ks == 0 then d.fireRes (.macci o) fun _ g => .data g.a.data none
  else d.fire (.macci o) true (macciLoad o)

/-- A record of sealed bytes without those of `n` bytes from `ofs` on. -/
def ScaleCap.without (c : ScaleCap) (ofs n : Nat) : List ScaleCap :=
  (if c.ofs < ofs then [{ c with len := min c.len (ofs - c.ofs) }] else [])
    ++ (if ofs + n < c.ofs + c.len then
      let lo := max c.ofs (ofs + n)
      [{ c with src := c.src + (lo - c.ofs), ofs := lo, len := c.ofs + c.len - lo }]
    else [])

/-- The records of sealed bytes after MSCLS moves `n` bytes of a bank's fill to `ofs` (R179, R278). -/
def Me.capsAfter (a : Me) (b : Bank) (ofs n : Nat) : List ScaleCap :=
  (a.scaleCaps.flatMap fun c => c.without ofs n) ++
    if b.sealed then
      match b.caps.find? fun c => c.buf == b.readPtr && !c.released with
      | some c => [{ cap := c, src := 0, ofs := ofs, len := n }]
      | none => []
    else []

/-- MSCLS (R190): scale memory keeps which of its bytes come from sealed fills (R278). -/
def msclsElem (o : OpX) (e : Site) (g : Gathered) (d : Dev) : Fired :=
  let k := o.ba.val
  match d.inst e.cfg with
  | none => .wait
  | some x =>
    let finish : Dev → Res → Fired := fun d r => .done (d.releases e [k]) r
    match x.fillAt e.tile k e.record with
    | .wait => .wait
    | .skipped => finish d (if g.computes then .null else .none)
    | .passed bd =>
      if g.computes then .fault d cPERMISSION (mtAddr bd.tile bd.bank 0) 0 else finish d .none
    | .ready bd b =>
      if !g.computes then finish d .none
      else
        let n := 256 * (o.ks.toNat + 1)
        let bytes := readBytes b.port (b.bufBase b.readPtr) n
        let d := d.operandReport e k bd b (b.badRows n)
        finish (d.updInst e.cfg fun x => x.updMe e.tile fun me =>
            { me with
              scale := writeAll me.scale (bytesAt (1024 * o.bb.val) bytes)
              scaleCaps := me.capsAfter b (1024 * o.bb.val) n }) (.data g.a.data none)

/-- MSCLS (R190). -/
def bodyMscls (o : OpX) (_ : Mem) (d : Dev) : Dev := d.fire (.mscls o) true (msclsElem o)

/-! ### MOUT (R188) -/

/-- The converted elements of a bank, row-major, with the draws taken. -/
def moutElems (o : OpG) (acc : AccBank) (us : List Nat) : List LaneOut :=
  (List.range (128 * 192)).map fun n =>
    moutElem o.ty o.rm o.sat (drawAt us n) (acc.word (n / 192) (n % 192))

/-- The origin of the lowest poisoned row. -/
def AccBank.lowest (b : AccBank) : Option (BitVec 24) :=
  (List.range 128).findSome? b.rowOrg

/-- The tokens of a MOUT to a port: a token takes the lowest poisoned row it holds, else a new origin
when it holds an element whose conversion was invalid. -/
def moutToks (z : Nat) (acc : AccBank) (bad : List Bool) (bits : Nat) (new : BitVec 24) : List Tok :=
  let total := 128 * 192 * z
  (List.range (Word.ceilDiv total 1024)).map fun t =>
    let lo := 1024 * t / z
    let hi := (1024 * t + 1023) / z
    let org := ((List.range (hi / 192 + 1 - lo / 192)).map (· + lo / 192)).findSome? acc.rowOrg
    let inv := (bad.drop lo).take (hi + 1 - lo) |>.any id
    let p := firstOrg org (if inv then some new else none)
    { data := BitVec.ofNat 1024 (bits >>> (1024 * t)), p := p.isSome, org := p.getD 0 }

/-- An output port with a burst of tokens that counts as one write of its block (R188). -/
def Tile.burst (t : Tile) (blk record port : Nat) (ts : List Tok) (mout : Bool) : Tile :=
  match lookup port t.out with
  | some q => { t with out := insert port { q with
      q := q.q ++ ts.map fun x => { blk := blk, record := record, tok := x, mout := mout }
      writes := insert blk ((lookup blk q.writes).getD 0 + 1) q.writes } t.out }
  | none => t

/-- A fill written whole from byte 0 of the buffer at the fill pointer (R171). -/
def Bank.wholeFill (b : Bank) (bytes : List Byte) : Bank :=
  let base := b.bufBase b.fillPtr
  let rows := Word.ceilDiv bytes.length 128
  { b.write base bytes with
    sflags := b.sflags.filter fun r => !(base / 128 ≤ r && r < base / 128 + rows)
    bad := b.bad.filter fun k => !(base / 32 ≤ k && 32 * k < base + bytes.length) }.endFill

/-- MOUT when it computes (R188). -/
def moutElemFire (o : OpG) (e : Site) (_ : Gathered) (d : Dev) : Fired :=
  match d.inst e.cfg with
  | none => .wait
  | some x => match x.ct e.tile with
    | none => .wait
    | some c =>
      let acc := c.me.bank (o.fn.toNat % 4)
      let z := o.ty.width
      let (us, d') := d.draw e o.rm (128 * 192)
      let outs := moutElems o acc us
      let bits := packBitsOf z (outs.map (·.code))
      let bad := outs.map fun r => (laneCause e.hdr.ppol { code := 0, invalid := r.invalid }).isSome
      let new := e.origin 1
      let log := firstOrg acc.lowest (if bad.any id then some new else none)
      let logged : Dev → Dev := fun d => match log with
        | some w => d.updInst e.cfg fun x =>
            { x with logs := x.logs ++ [e.logEntry e.cfg x.fab.round 4 w] }
        | none => d
      match o.hd.t0 with
      | .out p =>
        let ts := moutToks z acc bad bits new
        .done (logged (d'.updInst e.cfg fun x => match x.tile e.tile with
          | some t => x.setTile e.tile (t.burst e.blk e.record p.val ts true)
          | none => x)) .none
      | .none | .left _ | .right _ | .pred _ =>
        d'.withBank e (o.fn.toNat / 4) true 1 (fun b => (b.bufBase b.fillPtr, false)) fun _ bd b =>
          if b.fillFull then .wait
          else .done (logged (d'.putBank e.cfg bd.tile bd.bank
            (b.wholeFill (Word.toBytes (128 * 192 * z / 8) bits)))) .none

/-- MOUT (R188) (DEDUCED, log entry 37). -/
def bodyMout (o : OpG) (_ : Mem) (d : Dev) : Dev := d.fire (.mout o) false (moutElemFire o)

/-- One step of MBIND. -/
def execMbind (o : OpI) (s : State) : Host.Outcome State Fault Refusal :=
  act s (bodyMbind o)

/-- One step of MMA. -/
def execMma (o : OpX) (s : State) : Host.Outcome State Fault Refusal :=
  act s (bodyMma o)

/-- One step of MMASP. -/
def execMmasp (o : OpX) (s : State) : Host.Outcome State Fault Refusal :=
  act s (bodyMmasp o)

/-- One step of MZERO. -/
def execMzero (o : OpX) (s : State) : Host.Outcome State Fault Refusal :=
  act s (bodyMzero o)

/-- One step of MSWAP. -/
def execMswap (o : OpX) (s : State) : Host.Outcome State Fault Refusal :=
  act s (bodyMswap o)

/-- One step of MACCI. -/
def execMacci (o : OpX) (s : State) : Host.Outcome State Fault Refusal :=
  act s (bodyMacci o)

/-- One step of MSCLS. -/
def execMscls (o : OpX) (s : State) : Host.Outcome State Fault Refusal :=
  act s (bodyMscls o)

/-- One step of MOUT. -/
def execMout (o : OpG) (s : State) : Host.Outcome State Fault Refusal :=
  act s (bodyMout o)

end Sys2Proof.Machine
end

