-- ==== Sys2Proof/Machine/Checker.lean ====
section
/-! DEFINITION. The install-time checker: check 5 of R111 with the location of the first breach (R98),
and the classification of R117. Check 6, the balance check of R35, needs no test: every cycle through a
delay line of depth d holds d preloads, and beside the line an edge of at least 2 entries, so no image
that passes check 5 fails it. -/

namespace Sys2Proof.Machine

/-! ### Records read -/

/-- A route (R110). -/
structure RouteRec where
  port : Nat
  tile : Nat
  dport : Nat
  depth : Nat
  deriving DecidableEq, Repr

/-- A delay line (R34, R110). -/
structure DelayRec where
  sport : Nat
  dport : Nat
  depth : Nat
  preload : List Data
  deriving DecidableEq, Repr

/-- What a tile section sets, each with the index of its record. -/
structure TileSpec where
  tile : Nat
  isMt : Bool
  blocks : List (Nat × Nat × RawBlk) := []
  lcs : List (Nat × Nat × List (Int × Int × Nat)) := []
  routes : List (Nat × RouteRec) := []
  delays : List (Nat × DelayRec) := []
  ops : List (Nat × Nat × OpState) := []
  modes : Option (Nat × List (Nat × Nat)) := none
  binds : Option (Nat × List (Option Binding)) := none
  seed : Option Nat := none
  deriving DecidableEq, Repr

/-- A breach: its place in the order of R98 and its location. -/
structure Breach where
  order : Nat
  tile : Option Nat := none
  blk : Nat := 0
  slot : Nat := 0
  hdr : Bool := false
  scope : Nat := 2
  recIdx : Nat := 0
  recTy : Nat := 0
  deriving DecidableEq, Repr

/-- A framing breach (R98). -/
def framing (tile i ty : Nat) : Breach :=
  { order := tile * 2 ^ 40 + i, tile := some tile, scope := 1, recIdx := i, recTy := ty }

/-- A breach of a block's header. -/
def atHdr (tile blk : Nat) : Breach :=
  { order := tile * 2 ^ 40 + 2 ^ 36 + blk * 2 ^ 16, tile := some tile, blk := blk, hdr := true, scope := 0 }

/-- A breach of an instruction slot. -/
def atSlot (tile blk slot : Nat) : Breach :=
  { order := tile * 2 ^ 40 + 2 ^ 36 + blk * 2 ^ 16 + slot + 1, tile := some tile, blk := blk, slot := slot
    scope := 0 }

/-- A tile-scope breach at a record. -/
def atRec (tile i ty : Nat) : Breach :=
  { order := tile * 2 ^ 40 + 2 ^ 37 + i, tile := some tile, scope := 1, recIdx := i, recTy := ty }

/-- A tile-scope breach that stands at no record: its record index and TYPE are 0 (DESIGN CHOICE, log
entry 30). -/
def atTile (tile : Nat) : Breach :=
  { order := tile * 2 ^ 40 + 2 ^ 37 + 2 ^ 20, tile := some tile, scope := 1 }

/-- A configuration-scope breach. -/
def atConfig : Breach := { order := 2 ^ 60 }

/-- The breach that the report names (R98) (DEDUCED, log entry 30). -/
def firstBreach (bs : List Breach) : Option Breach :=
  bs.foldl (fun acc b => match acc with
    | none => some b
    | some a => if b.order < a.order then some b else some a) none

/-- Bank mode and buffers of a mode byte (R170). -/
def modeOf (n : Nat) : Option (BankMode × Nat) :=
  match n with
  | 0x00 => some (.tile, 1) | 0x08 => some (.tile, 2) | 0x10 => some (.tile, 4) | 0x18 => some (.tile, 8)
  | 0x01 => some (.fifo, 1) | 0x02 => some (.line, 1) | 0x03 => some (.version, 1)
  | 0x04 => some (.scale, 1) | 0x0C => some (.scale, 2) | 0x14 => some (.scale, 4)
  | 0x1C => some (.scale, 8)
  | _ => none

/-- Persistence class of its code (R110). -/
def classOf (n : Nat) : Option Persist :=
  match n with
  | 0 => some .round
  | 1 => some .persist
  | 2 => some .input
  | _ => none

/-- A 32-bit signed field. -/
def sfield (bs : List Byte) (off : Nat) : Int := Word.toSigned 32 (field bs off 4)

/-- Loop-counter groups of a record (R33, R110). -/
def readLcs (b : List Byte) : List (Int × Int × Nat) :=
  (List.range 4).map fun k => (sfield b (12 * k), sfield b (12 * k + 4), field b (12 * k + 8) 4)

/-- Route entries of a record; none where one breaks its limits (R30, R35, R110). -/
def readRoutes (w h : Nat) (b : List Byte) : Option (List RouteRec) :=
  let rs := (table b 0 (b.length / 8) 8).map fun e =>
    match tileOf w h (field e 1 1) (field e 2 1) (field e 3 1) with
    | some t =>
      if field e 0 1 < 16 && field e 4 1 < 16 && 2 ≤ field e 5 1 && field e 5 1 ≤ 64 && field e 6 1 < 4
          && zeroAt e 7 1 then
        some ({ port := field e 0 1, tile := t, dport := field e 4 1, depth := field e 5 1 } : RouteRec)
      else none
    | none => none
  if b.length % 8 == 0 && rs.all Option.isSome then some (rs.filterMap id) else none

/-- Operator kind of its code (R232). -/
def opKindOf (n : Nat) : Option OpKind :=
  match n with
  | 1 => some .join | 2 => some .merge | 3 => some .splay | 4 => some .zip | 5 => some .unzip
  | 6 => some .scan | 7 => some .reduce | 8 => some .compact | 9 => some .quant | 10 => some .dequant
  | 11 => some .transpose
  | _ => none

/-- Ports an operator must name, may name and must not name: for each of IN0, IN1, OUT0, OUT1, 2 for a
required port, 1 for an optional one, 0 for none (R233). -/
def opPorts (k : OpKind) : List Nat :=
  match k with
  | .join | .merge => [2, 2, 2, 2]
  | .splay => [2, 0, 2, 1]
  | .zip => [2, 2, 2, 0]
  | .unzip => [2, 0, 2, 2]
  | .compact => [2, 2, 2, 0]
  | .scan | .reduce | .quant | .dequant | .transpose => [2, 0, 2, 0]

/-- Parameters of an operator within their limits, unused ones zero (R165, R233). -/
def opParamsOk (k : OpKind) (p : List Nat) : Bool :=
  let a := p.getD 0 0
  let b := p.getD 1 0
  let c := p.getD 2 0
  let run := fun n : Nat => 1 ≤ n && n ≤ 65535
  let rest := fun n : Nat => (p.drop n).all (· == 0)
  match k with
  | .join => rest 0
  | .merge => rest 1
  | .splay => run a && rest 1
  | .zip | .unzip => run a && run b && rest 2
  | .scan | .reduce => a < 7 && b < 9 && c < 5 && rest 3 && redTyOk a (Ty.ofCode b)
  | .compact => a < 14 && rest 1
  | .quant => a < 5 && (b == 6 || b == 7) && rest 2
  | .dequant => a < 5 && b < 2 && rest 2
  | .transpose => (a == 8 || a == 16 || a == 32) && rest 1

/-- An operator record's body (R232). -/
def readOp (b : List Byte) : Option OpState :=
  match opKindOf (field b 0 1) with
  | none => none
  | some k =>
    let port := fun n : Nat => if n == 255 then none else some n
    let ps := (List.range 4).map fun i => field b (1 + i) 1
    let ok := (ps.zip (opPorts k)).all fun (p, need) =>
      if p == 255 then need != 2 else p < 16 && need != 0
    let opp := (List.range 8).map fun i => field b (8 + 4 * i) 4
    if b.length == 40 && zeroAt b 5 3 && ok && opParamsOk k opp then
      some { kind := k, in0 := port (ps.getD 0 0), in1 := port (ps.getD 1 0), out0 := port (ps.getD 2 0)
             out1 := port (ps.getD 3 0), opp := opp }
    else none

/-- MT-modes entries; none where one breaks R110 or R170. -/
def readModes (b : List Byte) : Option (List (Nat × Nat)) :=
  let es := (List.range 16).map fun k => (field b (2 * k) 1, field b (2 * k + 1) 1)
  if b.length == 32 && es.all (fun e => match modeOf e.1, classOf e.2 with
      | some (m, _), some c => m != .version || c == .persist
      | _, _ => false) then some es else none

/-- Buffer bindings; none where one names no MT of the configuration (R110, R172). -/
def readBinds (w h : Nat) (b : List Byte) : Option (List (Option Binding)) :=
  let es := (table b 0 16 4).map fun e =>
    if field e 0 4 == 0xFFFFFFFF then some none
    else match tileOf w h (field e 0 1) (field e 1 1) (field e 2 1) with
      | some t =>
        if (field e 2 1 == 1 || field e 2 1 == 2) && field e 3 1 < 16 then
          some (some ({ tile := t, bank := field e 3 1 } : Binding))
        else none
      | none => none
  if b.length == 64 && es.all Option.isSome then some (es.map fun e => e.getD none) else none

/-- One record read into a tile's settings, with the breaches it makes; a Block or loop-counter record whose ARG or
LEN is wrong belongs to no block, and is a breach of tile scope (R98, R110) (DEDUCED, log entry 30). -/
def addRec (w h : Nat) (acc : TileSpec × List Breach) (i : Nat) (r : RawRec) : TileSpec × List Breach :=
  let (t, bs) := acc
  let bad := (t, bs ++ [atRec t.tile i r.ty])
  if !r.framed || !(if t.isMt then [3, 4, 5] else [1, 2, 3, 4, 6, 7, 8]).contains r.ty then
    (t, bs ++ [framing t.tile i r.ty])
  else match r.ty with
  | 1 =>
    match rawBlock r.body with
    | some b =>
      if r.arg < 16 && blkBytes b.hdr == r.body.length && t.blocks.all (·.1 != r.arg) then
        ({ t with blocks := t.blocks ++ [(r.arg, i, b)] }, bs)
      else bad
    | none => bad
  | 2 =>
    if r.arg < 16 && r.body.length == 48 && t.lcs.all (·.1 != r.arg) then
      ({ t with lcs := t.lcs ++ [(r.arg, i, readLcs r.body)] }, bs)
    else bad
  | 3 => match readRoutes w h r.body with
    | some rs => if r.arg == 0 then ({ t with routes := t.routes ++ rs.map fun x => (i, x) }, bs) else bad
    | none => bad
  | 4 => match readOp r.body with
    | some o =>
      if r.arg < 2 && t.ops.all (·.2.1 != r.arg) then ({ t with ops := t.ops ++ [(i, r.arg, o)] }, bs)
      else bad
    | none => bad
  | 5 => match readModes r.body with
    | some es => if r.arg == 0 && t.modes.isNone then ({ t with modes := some (i, es) }, bs) else bad
    | none => bad
  | 6 =>
    let sp := r.arg % 256
    let dp := Word.bits r.arg 15 8
    let n := Word.bits r.arg 23 16
    if Word.bits r.arg 63 24 == 0 && sp < 16 && dp < 16 && 1 ≤ n && n ≤ 16 && r.body.length == 128 * n then
      ({ t with delays := t.delays ++ [(i, { sport := sp, dport := dp, depth := n
                                             preload := (table r.body 0 n 128).map dataOf })] }, bs)
    else bad
  | 7 => match readBinds w h r.body with
    | some es => if r.arg == 0 && t.binds.isNone then ({ t with binds := some (i, es) }, bs) else bad
    | none => bad
  | _ =>
    if r.arg == 0 && r.body.length == 8 && t.seed.isNone then
      ({ t with seed := some (Word.ofBytes r.body) }, bs)
    else bad

/-- A tile section read. -/
def readTile (w h : Nat) (s : Section) : TileSpec × List Breach :=
  (s.recs.mapIdx fun i r => (i, r)).foldl (fun acc e => addRec w h acc e.1 e.2)
    ({ tile := s.tile, isMt := s.isMt }, [])

/-! ### Instructions of a tile -/

/-- An instruction of a tile with its block and slot. -/
structure Ins where
  blk : Nat
  slot : Nat
  i : Instr

/-- The instructions of a tile whose words decode, by block and slot. -/
def TileSpec.ins (t : TileSpec) : List Ins :=
  t.blocks.flatMap fun (b, _, raw) => (raw.words.mapIdx fun k w => (k, w)).filterMap fun (k, w) =>
    match decode w with
    | .ok i => some { blk := b, slot := k, i := i }
    | .error _ => none

end Sys2Proof.Machine

namespace Sys2Proof
open Sys2Proof.Machine

/-- Input port an RDP reads (R121). -/
def Instr.rdpPort (i : Instr) : Option Nat :=
  match i with
  | .rdp o => some o.imm.toNat
  | _ => none

/-- Output ports that an instruction's targets name. -/
def Instr.outPorts (i : Instr) : List Nat :=
  let one : Tgt → List Nat := fun t => match t with
    | .out p => [p.val]
    | .none | .left _ | .right _ | .pred _ => []
  one i.head.t0 ++ one i.head.t1

/-- Binding slots an element-mode instruction names (R182, R191). -/
def Instr.bindings (i : Instr) : List Nat :=
  match i.parts with
  | some (op, .m o) =>
    if op == 0x90 || op == 0x91 || op == 0x92 || op == 0x95 || op == 0x96 then [o.auxh.toNat]
    else [o.auxl.toNat]
  | some (0x78, .i o) => [o.imm.toNat % 16]
  | some (0xB9, .i o) => [o.imm.toNat % 16]
  | some (0x79, .x o) => [o.ba.val, o.bb.val]
  | some (0x7A, .x o) => [o.ba.val, o.bb.val]
  | some (0x7C, .x o) => if o.ks == 0 then [] else [o.ba.val]
  | some (0x7F, .x o) => [o.ba.val]
  | some (0x7D, .g o) => if o.hd.t0 == .none then [o.fn.toNat / 4] else []
  | _ => []

/-- The bytes of the fill of each binding that a matrix instruction reads or writes (R177, R185, R187,
R188, R190). -/
def Instr.fillSizes (i : Instr) : List (Nat × Nat) :=
  let none_ : Fill := { bytes := 0, sflags := [] }
  let mma := fun (o : OpX) (sparse : Bool) =>
    let m := mmaOp o sparse none_ none_ []
    [(o.ba.val, m.a.size m.groups), (o.bb.val, m.b.size m.groups)]
  match i.parts with
  | some (0x79, .x o) => mma o false
  | some (0x7A, .x o) => mma o true
  | some (0x7C, .x o) =>
    if o.ks == 0 then [] else [(o.ba.val, 128 * 192 * (if o.afmt == .bf16 then 2 else 4))]
  | some (0x7F, .x o) => [(o.ba.val, 256 * (o.ks.toNat + 1))]
  | some (0x7D, .g o) => if o.hd.t0 == .none then [(o.fn.toNat / 4, 3072 * o.ty.width)] else []
  | _ => []

/-- Accumulator banks a matrix instruction uses. -/
def Instr.accBanks (i : Instr) : List Nat :=
  match i.parts with
  | some (0x7D, .g o) => [o.fn.toNat % 4]
  | some (0x7E, .x o) => [o.bank.val, o.bb.val % 4]
  | some (0x7F, .x _) => []
  | some (_, .x o) => [o.bank.val]
  | _ => []

/-- A matrix instruction reads or writes scale memory. -/
def Instr.usesScale (i : Instr) : Bool :=
  match i.parts with
  | some (0x7F, .x _) => true
  | some (0x79, .x o) | some (0x7A, .x o) => 2 ≤ o.scm.val
  | _ => false

end Sys2Proof

namespace Sys2Proof.Machine

/-- Modes of a bank that an instruction may name through a binding (R170). -/
def bankModes (op : Nat) : List BankMode :=
  if op == 0x82 || op == 0x83 then [.tile, .fifo, .line]
  else if op == 0x84 || op == 0x85 || op == 0x86 then [.version]
  else if op == 0x7F then [.scale]
  else if op == 0x78 then [.tile, .scale]
  else if op == 0x95 || op == 0x96 || op == 0xB9 then [.tile, .fifo, .line, .version, .scale]
  else [.tile]

/-- What the checker knows of a whole configuration. -/
structure Plan where
  img : Image
  tiles : List TileSpec

/-- A tile of a plan. -/
def Plan.tile (p : Plan) (t : Nat) : Option TileSpec := p.tiles.find? (·.tile == t)

/-- Mode byte and class of a bank; a tile without an MT-modes record has TILE banks of one buffer and
class ROUND. -/
def Plan.bankMode (p : Plan) (t b : Nat) : BankMode × Nat × Persist :=
  let (m, c) := match (p.tile t).bind (·.modes) with
    | some (_, es) => es.getD b (0, 0)
    | none => (0, 0)
  let (mode, n) := (modeOf m).getD (.tile, 1)
  (mode, n, (classOf c).getD .round)

/-- The bank a binding slot of a tile names. -/
def TileSpec.bound (t : TileSpec) (k : Nat) : Option Binding :=
  match t.binds with
  | some (_, es) => es.getD k none
  | none => none

/-! ### Conditions of a compute tile's blocks -/

/-- Slots of a block's instructions that meet a condition. -/
def TileSpec.slotsOf (t : TileSpec) (f : Instr → Bool) : List (Nat × Nat) :=
  (t.ins.filter fun e => f e.i).map fun e => (e.blk, e.slot)

/-- The LDB of a TILE binding that feeds an operand slot directly (R178). -/
def Plan.ldbOf (p : Plan) (t : TileSpec) (blk slot : Nat) (right : Bool) : Option Nat :=
  t.ins.findSome? fun e =>
    let hit : Tgt → Bool := fun x => match x with
      | .left k => !right && k.val == slot
      | .right k => right && k.val == slot
      | .none | .out _ | .pred _ => false
    if e.blk == blk && (hit e.i.head.t0 || hit e.i.head.t1) then
      match e.i with
      | .ldb o => match t.bound o.auxl.toNat with
        | some bd => if (p.bankMode bd.tile bd.bank).1 == .tile then some o.auxl.toNat else none
        | none => none
      | _ => none
    else none

/-- Releases of armed fills that an instruction makes per record, by binding (R178). -/
def Plan.releases (p : Plan) (t : TileSpec) (e : Ins) : List Nat :=
  let own := match e.i with
    | .mma _ | .mmasp _ | .macci _ | .mscls _ => e.i.bindings
    | .ldb o => match t.bound o.auxl.toNat with
      | some bd => if o.auxh.getLsbD 0 && (p.bankMode bd.tile bd.bank).1 == .tile then [o.auxl.toNat] else []
      | none => []
    | _ => []
  let (l, r) := e.i.lastReads
  own ++ (if l then (p.ldbOf t e.blk e.slot false).toList else [])
    ++ (if r then (p.ldbOf t e.blk e.slot true).toList else [])

/-- Bindings through which an instruction reads an armed fill. -/
def Plan.armed (p : Plan) (t : TileSpec) (i : Instr) : List Nat :=
  match i with
  | .mma _ | .mmasp _ | .macci _ | .mscls _ => i.bindings
  | .ldb o => match t.bound o.auxl.toNat with
    | some bd => if (p.bankMode bd.tile bd.bank).1 == .tile then [o.auxl.toNat] else []
    | none => []
  | _ => []

/-- Breaches of an instruction by itself: counters (R127), bindings (R170, R172), fills (R177), last-read
marks (R178), LAST on a FIFO (R195) (DEDUCED, log entry 57) and the output streams that MOUT and CAGTH write
(R188, R228). -/
def Plan.insBreach (p : Plan) (t : TileSpec) (outs : List (Nat × Nat)) (e : Ins) : Bool :=
  let lcen := match t.blocks.find? (·.1 == e.blk) with
    | some (_, _, raw) => (parseHdr raw.hdr).lcen
    | none => 0
  let ctr := match e.i with
    | .lcnt o | .lidx o => !lcen.getLsbD (o.imm.toNat % 4)
    | _ => false
  let binding := e.i.bindings.any fun k => match t.bound k with
    | none => true
    | some bd =>
      let (m, _, c) := p.bankMode bd.tile bd.bank
      !(bankModes e.i.opcode).contains m || (e.i.opcode == 0x7D && c == .input)
  let fill := e.i.fillSizes.any fun (k, n) => match t.bound k with
    | none => false
    | some bd => n > bankBytes / (p.bankMode bd.tile bd.bank).2.1
  let (l, r) := e.i.lastReads
  let marks := (l && (p.ldbOf t e.blk e.slot false).isNone) || (r && (p.ldbOf t e.blk e.slot true).isNone)
  let mout := match e.i with
    | .mout _ | .cagth _ => e.i.outPorts.any fun q => !outs.contains (t.tile, q)
    | _ => false
  let last := match e.i with
    | .ldb o => o.auxh.getLsbD 0 && match t.bound o.auxl.toNat with
      | some bd => (p.bankMode bd.tile bd.bank).1 == .fifo
      | none => false
    | _ => false
  ctr || binding || fill || marks || mout || last

/-- Two classes of instruction that only one block of a tile may hold, in an order that no target breaks
(R148, R181). -/
def TileSpec.ordered (t : TileSpec) (f : Instr → Bool) : List Breach :=
  let mine := t.ins.filter fun e => f e.i
  let blks := ((mine.map (·.blk)).eraseDups).mergeSort (· ≤ ·)
  let second := match blks with
    | _ :: b :: _ => [atHdr t.tile b]
    | _ => []
  let back := mine.filterMap fun e => match t.blocks.find? (·.1 == e.blk) with
    | none => none
    | some (_, _, raw) =>
      if (descendants raw.words e.slot).any fun k =>
          k < e.slot && mine.any fun g => g.blk == e.blk && g.slot == k then
        some (atSlot t.tile e.blk e.slot)
      else none
  second ++ back

/-- MBINDs of a tile: each binding whose armed fill is read, or that an MBIND names, has exactly one, with
a static count equal to its releases (R178). -/
def Plan.mbindBreaches (p : Plan) (t : TileSpec) : List Breach :=
  let binds := t.ins.filterMap fun e => match e.i with
    | .mbind o => some (o.imm.toNat % 16, o.imm.toNat / 16 % 256, e)
    | _ => none
  let rels := t.ins.flatMap fun e => p.releases t e
  let readers := t.ins.flatMap fun e => (p.armed t e.i).map fun k => (k, e)
  let twice := (binds.mapIdx fun n b => (n, b)).filterMap fun (n, k, _, e) =>
    if (binds.take n).any (·.1 == k) then some (atSlot t.tile e.blk e.slot) else none
  let counts := binds.filterMap fun (k, h, e) =>
    if h != 0 && h != (rels.filter (· == k)).length then some (atSlot t.tile e.blk e.slot) else none
  let lacking := readers.filterMap fun (k, e) =>
    if binds.any (·.1 == k) then none else some (atSlot t.tile e.blk e.slot)
  twice ++ counts ++ lacking

/-- A MACCI of a tile declares an accumulator bank of class PERSIST (R176, R187). -/
def TileSpec.accPersist (t : TileSpec) (k : Nat) : Bool :=
  t.ins.any fun e => match e.i with
    | .macci o => o.bank.val == k && o.acc == .set
    | _ => false

/-- Classes of accumulator banks (R187, R189). -/
def TileSpec.accBreaches (t : TileSpec) : List Breach :=
  let decls := t.ins.filterMap fun e => match e.i with
    | .macci o => some (o.bank.val, o.acc, e)
    | _ => none
  ((decls.mapIdx fun n x => (n, x)).filterMap fun (n, k, a, e) =>
      if (decls.take n).any fun x => x.1 == k && x.2.1 != a then some (atSlot t.tile e.blk e.slot) else none)
    ++ t.ins.filterMap fun e => match e.i with
      | .mswap o =>
        if t.accPersist o.bank.val != t.accPersist (o.bb.val % 4) then some (atSlot t.tile e.blk e.slot)
        else none
      | _ => none

/-- Loop counters of a block (R33). -/
def TileSpec.lcsBreach (t : TileSpec) (blk : Nat) (hdr : BlkHdr) : Bool :=
  let gs := match lookup blk t.lcs with
    | some (_, gs) => gs
    | none => List.replicate 4 (0, 0, 0)
  (gs.mapIdx fun k g => (k, g)).any fun (k, s, st, n) =>
    if hdr.lcen.getLsbD k then st == 0 || n == 0 else s != 0 || st != 0 || n != 0

/-- Loop counters a block enables, innermost first. -/
def TileSpec.counters (t : TileSpec) (blk : Nat) (hdr : BlkHdr) : List LoopCtr :=
  let gs := match lookup blk t.lcs with
    | some (_, gs) => gs
    | none => []
  (gs.mapIdx fun k g => (k, g)).filterMap fun (k, s, st, n) =>
    if hdr.lcen.getLsbD k then some { start := s, step := st, count := n } else none

/-- Input ports that a block reads. -/
def TileSpec.reads (t : TileSpec) (blk : Nat) : List Nat :=
  (t.ins.filter (·.blk == blk)).filterMap fun e => e.i.rdpPort

/-- An instruction that only a round sink may hold: it writes a port of `outs`, which are bound to output streams,
or issues an update (R37, R202). -/
def Instr.sinks (tile : Nat) (outs : List (Nat × Nat)) (i : Instr) : Bool :=
  (i.outPorts.any fun q => outs.contains (tile, q)) || i.opcode == 0x90 || i.opcode == 0x91 || i.opcode == 0x92

/-- Breaches of one block: R97, R25, R33 and R37; `outs` are the output ports bound to output streams. -/
def TileSpec.blockBreaches (t : TileSpec) (outs : List (Nat × Nat)) (b : Nat) (raw : RawBlk) : List Breach :=
  let h := parseHdr raw.hdr
  let ports := t.reads b
  let mine := t.ins.filter (·.blk == b)
  (match blockBreach .element raw with
    | some none => [atHdr t.tile b]
    | some (some k) => [atSlot t.tile b k]
    | none => [])
    ++ (if t.lcsBreach b h then [atHdr t.tile b] else [])
    ++ (if h.lcen == 0 && ports.all (fun p => t.delays.any fun d => d.2.dport == p) then [atHdr t.tile b]
      else [])
    ++ (if !h.roundb && mine.any (fun e => Instr.sinks t.tile outs e.i) then
      [atHdr t.tile b] else [])

/-- Blocks beyond the 512 slots of a VE, a breach of tile scope at the Block record that exceeds them (R101)
(DESIGN CHOICE, log entry 30). -/
def TileSpec.slotLimit (t : TileSpec) : List Breach :=
  (t.blocks.foldl (fun (acc : Nat × List Breach) b =>
    let n := acc.1 + b.2.2.words.length
    (n, if n > 512 && acc.1 ≤ 512 then [atRec t.tile b.2.1 1] else acc.2)) (0, [])).2

/-- Every breach of a tile's blocks. -/
def Plan.tileBreaches (p : Plan) (outs : List (Nat × Nat)) (t : TileSpec) : List Breach :=
  if t.isMt then []
  else
    (t.blocks.flatMap fun (b, _, raw) => t.blockBreaches outs b raw)
      ++ (t.lcs.filterMap fun (b, i, _) => if t.blocks.any (·.1 == b) then none else some (atRec t.tile i 2))
      ++ (t.ins.filterMap fun e =>
        if p.insBreach t outs e then some (atSlot t.tile e.blk e.slot) else none)
      ++ t.ordered Instr.draws ++ t.ordered Instr.isMatrix
      ++ p.mbindBreaches t ++ t.accBreaches ++ t.slotLimit

/-! ### Ports (R34, R35, R121, R232, R286, R435) -/

/-- What a port meets: the tile and port, and where the configuration says so. -/
structure PortUse where
  tile : Nat
  port : Nat
  /-- The record, when one says so. -/
  at_ : Option Breach := none

/-- Feeders of input ports. -/
def Plan.feeders (p : Plan) : List PortUse :=
  (p.tiles.flatMap fun t =>
      (t.routes.map fun (i, r) =>
        ({ tile := r.tile, port := r.dport, at_ := some (atRec t.tile i 3) } : PortUse))
      ++ t.delays.map fun (i, r) =>
        ({ tile := t.tile, port := r.dport, at_ := some (atRec t.tile i 6) } : PortUse))
    ++ (p.img.ports.filter (!·.out)).map fun v => { tile := v.tile, port := v.port }

/-- Consumers of output ports. -/
def Plan.consumers (p : Plan) : List PortUse :=
  (p.tiles.flatMap fun t =>
      (t.routes.map fun (i, r) =>
        ({ tile := t.tile, port := r.port, at_ := some (atRec t.tile i 3) } : PortUse))
      ++ t.delays.map fun (i, r) =>
        ({ tile := t.tile, port := r.sport, at_ := some (atRec t.tile i 6) } : PortUse))
    ++ (p.img.ports.filter (·.out)).map fun v => { tile := v.tile, port := v.port }

/-- Uses that share a port: each breach stands at the later of the two records, at the record when the other use
is a virtual port, and at no record between two virtual ports (R98). -/
def shared (us : List PortUse) : List Breach :=
  let all := us.mapIdx fun n u => (n, u)
  all.filterMap fun (n, u) =>
    let met := all.any fun (k, v) => k != n && v.tile == u.tile && v.port == u.port && match u.at_, v.at_ with
      | some a, some b => b.order ≤ a.order
      | _, none => true
      | none, some _ => false
    if met then some (u.at_.getD (atTile u.tile)) else none

/-- Input ports an operator names. -/
def OpState.ins (o : OpState) : List Nat := o.in0.toList ++ o.in1.toList
/-- Output ports an operator names. -/
def OpState.outs (o : OpState) : List Nat := o.out0.toList ++ o.out1.toList

/-- Ports of a tile that its operators name, with their records. -/
def TileSpec.opUses (t : TileSpec) (f : OpState → List Nat) : List PortUse :=
  t.ops.flatMap fun (i, _, o) => (f o).map fun p => { tile := t.tile, port := p, at_ := some (atRec t.tile i 4) }

/-- A port is among some uses. -/
def uses (us : List PortUse) (tile port : Nat) : Bool := us.any fun u => u.tile == tile && u.port == port

/-- Breaches of RDPs: a port read twice in a tile, an unfed port, an operator's port (R121, R232). -/
def Plan.rdpBreaches (p : Plan) (t : TileSpec) : List Breach :=
  let feeds := p.feeders
  let ops := t.opUses OpState.ins
  let rdps := t.ins.filterMap fun e => e.i.rdpPort.map fun q => (q, e)
  (rdps.mapIdx fun n x => (n, x)).filterMap fun (n, q, e) =>
    if (rdps.take n).any (·.1 == q) || !uses feeds t.tile q || uses ops t.tile q then
      some (atSlot t.tile e.blk e.slot)
    else none

/-- Breaches of operators: an input port that is a vp's, an output port that a block writes or that is a
vp's, and ports two operators share (R232, R435). -/
def Plan.opBreaches (p : Plan) (t : TileSpec) : List Breach :=
  let ins := t.opUses OpState.ins
  let outs := t.opUses OpState.outs
  let vin := (p.img.ports.filter (!·.out)).map fun v => ({ tile := v.tile, port := v.port } : PortUse)
  let vout := (p.img.ports.filter (·.out)).map fun v => ({ tile := v.tile, port := v.port } : PortUse)
  let written := t.ins.flatMap fun e => e.i.outPorts
  shared ins ++ shared outs
    ++ (ins.filterMap fun u => if uses vin u.tile u.port then u.at_ else none)
    ++ outs.filterMap fun u => if uses vout u.tile u.port || written.contains u.port then u.at_ else none

/-- A delay line's input is bound to the block that reads its output (R34). -/
def TileSpec.delayBreaches (t : TileSpec) : List Breach :=
  t.delays.filterMap fun (i, r) =>
    let readers := ((t.ins.filter fun e => e.i.rdpPort == some r.dport).map (·.blk)).eraseDups
    let writers := ((t.ins.filter fun e => e.i.outPorts.contains r.sport).map (·.blk)).eraseDups
    if readers.length == 1 && readers == writers then none else some (atRec t.tile i 6)

/-- Edge depths into each tile sum to at most 128, at the route that exceeds it in the order of R98 (R35). -/
def Plan.depthBreaches (p : Plan) : List Breach :=
  let rs := (p.tiles.mergeSort fun a b => a.tile ≤ b.tile).flatMap fun t =>
    t.routes.map fun (i, r) => (t.tile, i, r)
  (rs.foldl (fun (acc : List (Nat × Nat) × List Breach) e =>
    let (src, i, r) := e
    let n := (lookup r.tile acc.1).getD 0
    (insert r.tile (n + r.depth) acc.1,
      if n + r.depth > 128 && n ≤ 128 then acc.2 ++ [atRec src i 3] else acc.2)) ([], [])).2

/-- A route into an MT feeds the fill port of a bank, unless an operator reads the port. -/
def Plan.fillPort (p : Plan) (tile port : Nat) : Bool :=
  match p.tile tile with
  | some t => t.isMt && !uses (t.opUses OpState.ins) tile port
  | none => tileRow tile % 2 != tileCol tile % 2

/-- Routed fill ports belong to TILE banks of class INPUT; the breach stands at the later of the route and
the MT-modes record (R98, R286). -/
def Plan.fillBreaches (p : Plan) : List Breach :=
  p.tiles.flatMap fun t => t.routes.filterMap fun (i, r) =>
    if p.fillPort r.tile r.dport then
      let (m, _, c) := p.bankMode r.tile r.dport
      if m == .tile && c == .input then none
      else
        let a := atRec t.tile i 3
        match (p.tile r.tile).bind (·.modes) with
        | some (j, _) => let b := atRec r.tile j 5; some (if a.order < b.order then b else a)
        | none => some a
    else none

/-- Uses of a bank, accumulator bank or scale memory that the plane map does not give to the plane (R347);
`owns` answers for a tile, the kind 0 bank, 1 accumulator, 2 scale memory, and its number. -/
def Plan.planeBreaches (p : Plan) (owns : Nat → Nat → Nat → Bool) : List Breach :=
  p.tiles.flatMap fun t =>
    (t.ins.flatMap fun e =>
        (e.i.bindings.filterMap fun k => match t.bound k with
          | some bd => if owns bd.tile 0 bd.bank then none else some (atTile bd.tile)
          | none => none)
        ++ (e.i.accBanks.filterMap fun k => if owns t.tile 1 k then none else some (atTile t.tile))
        ++ if e.i.usesScale && !owns t.tile 2 0 then [atTile t.tile] else [])
      ++ t.routes.filterMap fun (_, r) =>
        if p.fillPort r.tile r.dport && !owns r.tile 0 r.dport then some (atTile r.tile) else none

/-- HEAVY of the blocks against the image's (R44). -/
def Plan.heavySum (p : Plan) : Nat :=
  (p.tiles.flatMap fun t => t.blocks.map fun b => (parseHdr b.2.2.hdr).heavy).foldl (· + ·) 0

/-- Breaches of the configuration as a whole: no round sink, and too low a `.heavy` (R37, R44). -/
def Plan.configBreaches (p : Plan) : List Breach :=
  let sink := p.tiles.any fun t => t.blocks.any fun b => (parseHdr b.2.2.hdr).roundb
  if !sink || p.img.heavy < Word.ceilDiv p.heavySum 8 then [atConfig] else []

/-- The plan of an image, and the breaches met in reading it. -/
def planOf (img : Image) : Plan × List Breach :=
  let ts := img.sections.map (readTile img.w img.h)
  ({ img := img, tiles := ts.map (·.1) }, ts.flatMap (·.2))

/-- Check 5: the plan of an image, or its first breach (R98, R111) (DEDUCED, log entry 30). -/
def checkPlan (img : Image) (owns : Nat → Nat → Nat → Bool) : Except Breach Plan :=
  let (p, bs) := planOf img
  let outs := (img.ports.filter (·.out)).map fun v => (v.tile, v.port)
  let all := bs ++ p.tiles.flatMap (p.tileBreaches outs) ++ shared p.feeders ++ shared p.consumers
    ++ p.tiles.flatMap p.rdpBreaches ++ p.tiles.flatMap p.opBreaches
    ++ p.tiles.flatMap TileSpec.delayBreaches ++ p.depthBreaches ++ p.fillBreaches
    ++ p.planeBreaches owns ++ p.configBreaches
  match firstBreach all with
  | some b => .error b
  | none => .ok p

/-! ### Stream-fed and loop-fed slots (R117) -/

/-- A producer of an operand slot or port: tile, block and slot of an instruction. -/
abbrev Prod := Nat × Nat × Nat

/-- Instructions of a plan that name a target, with their places. -/
def Plan.producersOf (p : Plan) (tile blk : Nat) (t : Tgt) : List Prod :=
  match p.tile tile with
  | none => []
  | some s => (s.ins.filter fun e => e.blk == blk && (e.i.head.t0 == t || e.i.head.t1 == t)).map fun e =>
      (tile, e.blk, e.slot)

/-- Instructions that write an output port. -/
def Plan.writersOf (p : Plan) (tile port : Nat) : List Prod :=
  match p.tile tile with
  | none => []
  | some s => (s.ins.filter fun e => e.i.outPorts.contains port).map fun e => (tile, e.blk, e.slot)

/-- An instruction is loop-fed, given those found so so far. -/
def Plan.loopFedNow (p : Plan) (found : List Prod) (t : TileSpec) (e : Ins) : Bool :=
  match e.i with
  | .rdp o =>
    let q := o.imm.toNat
    if t.delays.any fun d => d.2.dport == q then true
    else p.tiles.any fun s => s.routes.any fun (_, r) =>
      r.tile == t.tile && r.dport == q && !(s.ops.any fun x => x.2.2.outs.contains r.port) &&
        let ws := p.writersOf s.tile r.port
        !ws.isEmpty && ws.all found.contains
  | i =>
    let s := (i.row .element).slots
    let k : Fin 128 := Fin.ofNat 128 e.slot
    let one := fun (used : Bool) (x : Tgt) =>
      !used || (p.producersOf t.tile e.blk x).all found.contains
    one s.l (.left k) && one s.r (.right k) && one s.t (.pred k)

/-- Loop-fed instructions of a plan: repeated until no more are found, at most once per instruction. -/
def Plan.loopFed (p : Plan) : Nat → List Prod → List Prod
  | 0, found => found
  | n + 1, found =>
    let more := p.tiles.flatMap fun t => t.ins.filterMap fun e =>
      let at_ : Prod := (t.tile, e.blk, e.slot)
      if !found.contains at_ && p.loopFedNow found t e then some at_ else none
    if more.isEmpty then found else p.loopFed n (found ++ more)

/-- The loop-fed instructions of a plan (R117). -/
def Plan.loops (p : Plan) : List Prod :=
  p.loopFed ((p.tiles.map fun t => t.ins.length).foldl (· + ·) 1) []

end Sys2Proof.Machine
end

