-- ==== Sys2Proof/Machine/Placement.lean ====
section
/-! DEFINITION. Pages, planes and paddocks (R19, R335, R347, R351, R426), and the placement the Shepherd
chooses, with the MPT slots, window space and permits it reserves (R212, R332, R336). -/

namespace Sys2Proof.Machine

/-! ### Rectangles of pages -/

/-- A rectangle of pages. -/
structure Rect where
  row0 : Nat
  col0 : Nat
  w : Nat
  h : Nat
  deriving DecidableEq, Repr

/-- A rectangle laid out as SHEP_PADDOCK (R351). -/
def rectOf (v : Nat) : Rect :=
  { row0 := v % 8, col0 := Word.bits v 7 4, h := Word.bits v 10 8 + 1, w := Word.bits v 15 12 + 1 }

/-- The rectangle lies on the page grid. -/
def Rect.inGrid (r : Rect) : Bool := r.row0 + r.h ≤ 8 && r.col0 + r.w ≤ 16

/-- The pages of a rectangle, in row-major order. -/
def Rect.pages (r : Rect) : List Nat :=
  (List.range r.h).flatMap fun y => (List.range r.w).map fun x => 16 * (r.row0 + y) + (r.col0 + x)

/-- The pages of an instance. -/
def Inst.pages (x : Inst) : List Nat :=
  ({ row0 := x.row0, col0 := x.col0, w := x.w, h := x.h } : Rect).pages

/-- The pages a launch reserves. -/
def Launch.pages (l : Launch) : List Nat :=
  ({ row0 := l.row0, col0 := l.col0, w := l.w, h := l.h } : Rect).pages

/-- Die seams that a rectangle crosses (R336). -/
def Rect.cost (r : Rect) : Nat :=
  (if r.row0 < 4 && 4 < r.row0 + r.h then 1 else 0) + (if r.col0 < 8 && 8 < r.col0 + r.w then 1 else 0)

/-- The compute die of a page. -/
def dieOf (page : Nat) : Nat := page / 16 / 4 * 2 + page % 16 / 8

/-! ### Pages and planes -/

/-- A page is enabled (R19). -/
def Dev.enabledPage (d : Dev) (page : Nat) : Bool := d.flash.enabled.getLsbD page

/-- A page is among a partition's pages (R385). -/
def Partition.hasPage (p : Partition) (page : Nat) : Bool :=
  if page < 64 then p.pages0.getLsbD page else p.pages1.getLsbD (page - 64)

/-- SHEP_PLOWN of a page (R351). -/
def Dev.plownOf (d : Dev) (page : Nat) : Nat := ((lookup page d.plown).getD 0x10).toNat

/-- SHEP_PLMAP of a page (R351). -/
def Dev.plmapOf (d : Dev) (page : Nat) : Nat := ((lookup page d.plmap).getD 0).toNat

/-- The partition that owns a plane of a page (R347). -/
def Dev.planeOwner (d : Dev) (page plane : Nat) : Option Nat :=
  let g := d.plownOf page / 2 ^ (5 * plane) % 32
  if g ≥ 16 then some (g % 16) else none

/-- A plane of a page holds an instance, or is reserved for one, or holds a bank of a graph (R42, R336,
R337). -/
def Dev.occupied (d : Dev) (page plane : Nat) : Bool :=
  (d.insts.any fun e => e.2.phase != .snapshotted && e.2.plane == plane && e.2.covers page)
    || (d.installs.any fun l => l.plane == plane && l.pages.contains page)
    || d.graphPages.any fun g => g.page == page && g.plane == plane

/-- The pages that instances of a context occupy or will occupy. -/
def Dev.ctxPages (d : Dev) (ctx : Nat) : List Nat :=
  ((d.insts.filter fun e => e.2.ctx == ctx && e.2.phase != .snapshotted).flatMap (·.2.pages))
    ++ (d.installs.filter (·.ctx == ctx)).flatMap Launch.pages

/-- The paddock of a context (R335). -/
def Context.pad (x : Context) : Option Rect :=
  if x.paddock.getLsbD 16 then some (rectOf x.paddock.toNat) else none

/-- The partition a context belongs to. -/
def Dev.ctxPart (d : Dev) (ctx : Nat) : Option Nat :=
  (d.parts.find? fun e => e.2.state != .none && e.2.hasCtx ctx).map (·.1)

/-- A page is a partition's, or lends it a plane (R426). -/
def Dev.pageFor (d : Dev) (part page : Nat) : Bool :=
  (d.part part).hasPage page || (List.range 4).any fun k => d.planeOwner page k == some part

/-! ### Registers of the Shepherd -/

/-- SHEP_PADDOCK written: a rectangle is taken when it lies in the partition's pages, but for disabled pages that it
encloses, overlaps no other context's paddock and holds the context's instances, and its planes get a new key;
else REJ is set (R19, R274, R351, R426). -/
def bodyShepPaddock (id : CoreId) (v : Word) (_ : Mem) (d : Dev) : Dev :=
  let ctx := d.selCtx id
  let p := d.selPart id
  let x := d.ctx ctx
  let old := x.paddock.toNat
  let rej := if old.testBit 17 && !v.getLsbD 17 then 2 ^ 17 else 0
  let refuse := old % 2 ^ 17 + 2 ^ 17
  let mine := d.ctxPages ctx
  let set := fun (n : Nat) => d.updCtx ctx fun x => { x with paddock := BitVec.ofNat 64 n }
  let (key, drawn) := d.fresh
  let grant := fun (n : Nat) => drawn.updCtx ctx fun x => { x with
    paddock := BitVec.ofNat 64 n, worldKey := key.setWidth 128 }
  if v.getLsbD 16 then
    let r := rectOf v.toNat
    let ps := r.pages
    let overlaps := d.ctxs.any fun e => e.1 != ctx && (d.part p).hasCtx e.1 && match e.2.pad with
      | some q => q.pages.any ps.contains
      | none => false
    if r.inGrid && ps.all (fun g => d.pageFor p g || !d.enabledPage g) && !overlaps && mine.all ps.contains then
      grant (v.toNat % 8 + Word.bits v.toNat 7 4 * 2 ^ 4 + Word.bits v.toNat 10 8 * 2 ^ 8
        + Word.bits v.toNat 15 12 * 2 ^ 12 + 2 ^ 16 + rej)
    else set refuse
  else if mine.isEmpty then set rej
  else set refuse

/-- SHEP_PLOWN written for the selected page: the owner of a plane that holds an instance stays (R351). -/
def bodyShepPlown (id : CoreId) (v : Word) (_ : Mem) (d : Dev) : Dev :=
  let page := (d.core id).pgsel
  let old := d.plownOf page
  let new := (List.range 4).foldl (fun acc k =>
    let g := if d.occupied page k then old / 2 ^ (5 * k) % 32 else v.toNat / 2 ^ (5 * k) % 32
    acc + g * 2 ^ (5 * k)) 0
  { d with plown := insert page (BitVec.ofNat 64 new) d.plown }

/-- SHEP_PLMAP written for the selected page: nothing changes while an instance is placed on it (R351). -/
def bodyShepPlmap (id : CoreId) (v : Word) (_ : Mem) (d : Dev) : Dev :=
  let page := (d.core id).pgsel
  if (List.range 4).any (d.occupied page) then d
  else { d with plmap := insert page (low v 42) d.plmap }

/-- SCHED_CGTAB written: each group's entry is read again at its next call (R350). -/
def bodySchedCgtab (id : CoreId) (v : Word) (_ : Mem) (d : Dev) : Dev :=
  d.updCtx (d.selCtx id) fun x => { x with
    cgtab := BitVec.ofNat 64 (v.toNat / 8 * 8)
    groups := x.groups.map fun g => (g.1, { g.2 with reread := true }) }

/-! ### MPTs (R212) -/

/-- Window space of a port-table value, in units of 4 KiB (R212). -/
def winUnits (winmax : Nat) : Nat := if winmax == 0 then 16 else winmax

/-- The virtual port has a binding that a MARKER image parks (R343). -/
def Vp.parks (v : Vp) : Bool :=
  match v.bind with
  | some b => b.kind == .output || b.kind == .scatter || b.kind == .update
  | none => false

/-- Slots and window units in use at an MPT: those of live instances, of launches, and of parked bindings
(R212, R343). -/
def Dev.mptUse (d : Dev) (m : Nat) : Nat × Nat :=
  let live := d.insts.flatMap fun e => e.2.fab.vps.filterMap fun v =>
    if v.2.mpt == m && (e.2.phase != .snapshotted || v.2.parks) then some (winUnits v.2.winmax) else none
  let res := d.installs.flatMap fun l => l.mpts.filterMap fun v =>
    if v.2.1 == m then some v.2.2 else none
  ((live ++ res).length, (live ++ res).foldl (· + ·) 0)

/-- The MPTs of a partition: those beneath its pages and beneath pages that lend it a plane (R212). -/
def Dev.mptsOf (d : Dev) (part : Nat) : List Nat :=
  (List.range 48).filter fun m => (List.range 128).any fun page =>
    dieOf page == m / 12 && d.pageFor part page

/-- Slots and window space for the virtual ports of an image, in ascending order of port: each at the MPT
of the most free slots among those with room, the lowest on a tie (R336) (DEDUCED, log entry 31). -/
def Dev.reserve (d : Dev) (part : Nat) (ports : List (Nat × Nat)) : Option (List (Nat × Nat × Nat)) :=
  let ms := (d.mptsOf part).map fun m => (m, d.mptUse m)
  let sorted := ports.mergeSort fun a b => a.1 ≤ b.1
  (sorted.foldl (fun acc v => match acc with
    | none => none
    | some (ms, out) =>
      let n := winUnits v.2
      let fit := ms.filter fun (_, s, w) => s < 64 && w + n ≤ 512
      match fit.foldl (fun (best : Option (Nat × Nat × Nat)) m => match best with
        | none => some m
        | some b => if m.2.1 < b.2.1 then some m else some b) none with
      | none => none
      | some (m, _, _) =>
        some (ms.map fun (k, s, w) => if k == m then (k, s + 1, w + n) else (k, s, w), out ++ [(v.1, m, n)]))
    (some (ms, ([] : List (Nat × Nat × Nat))))).map (·.2)

/-! ### Permits -/

/-- Heavy units that a partition's live instances and launches hold (R332). -/
def Dev.heavyHeld (d : Dev) (part : Nat) : Nat :=
  ((d.insts.filter fun e => e.2.part == part && e.2.phase != .snapshotted).map (·.2.heavy)).foldl (· + ·) 0
    + ((d.installs.filter (·.part == part)).map (·.heavy)).foldl (· + ·) 0

/-- Heavy units free in a partition. -/
def Dev.heavyFree (d : Dev) (part : Nat) : Nat := (d.part part).heavy.toNat - d.heavyHeld part

/-! ### Placement (R336) -/

/-- The plane of a rectangle that a partition owns and that is free on every page. -/
def Dev.planeFor (d : Dev) (part : Nat) (ps : List Nat) : Option Nat :=
  (List.range 4).find? fun k => ps.all fun p => d.planeOwner p k == some part && !d.occupied p k

/-- Origins of a W × H rectangle in a paddock. -/
def Rect.origins (pad : Rect) (w h : Nat) : List Rect :=
  if pad.w < w || pad.h < h then []
  else (List.range (pad.h - h + 1)).flatMap fun y => (List.range (pad.w - w + 1)).map fun x =>
    { row0 := pad.row0 + y, col0 := pad.col0 + x, w := w, h := h }

/-- The placement R336 gives for a context: an origin and a plane, of those that `ok` lets through
(DEDUCED, log entry 31). -/
def Dev.place (d : Dev) (part ctx w h : Nat) (ok : Rect → Bool) : Option (Nat × Nat × Nat) :=
  match (d.ctx ctx).pad with
  | none => none
  | some pad =>
    let cands := (pad.origins w h).filterMap fun r =>
      if ok r && r.pages.all d.enabledPage then (d.planeFor part r.pages).map fun k => (r, k) else none
    (cands.foldl (fun (best : Option (Rect × Nat)) c => match best with
      | none => some c
      | some b => if c.1.cost < b.1.cost then some c else some b) none).map fun (r, k) =>
        (r.row0, r.col0, k)

/-- The lowest CFGID that no instance and no launch has (R331) (DEDUCED, log entry 31). -/
def Dev.freeCfg (d : Dev) : Option Nat :=
  (List.range (d.insts.length + d.installs.length + 1)).findSome? fun k =>
    let n := k + 1
    if (d.inst n).isNone && d.installs.all (·.cfg != n) && n ≤ 0xFFFE then some n else none

/-- One step of SHEP_PADDOCK. -/
def execShepPaddock (id : CoreId) (v : Word) (s : State) : Host.Outcome State Fault Refusal :=
  act s (bodyShepPaddock id v)

/-- One step of SHEP_PLOWN. -/
def execShepPlown (id : CoreId) (v : Word) (s : State) : Host.Outcome State Fault Refusal :=
  act s (bodyShepPlown id v)

/-- One step of SHEP_PLMAP. -/
def execShepPlmap (id : CoreId) (v : Word) (s : State) : Host.Outcome State Fault Refusal :=
  act s (bodyShepPlmap id v)

/-- One step of SCHED_CGTAB. -/
def execSchedCgtab (id : CoreId) (v : Word) (s : State) : Host.Outcome State Fault Refusal :=
  act s (bodySchedCgtab id v)

end Sys2Proof.Machine
end

