-- ==== Sys2Proof/Machine/Codec.lean ====
section
/-! DEFINITION. Forms of data as bytes, each with the writer and the reader of one kind of value: what the
records of save images are made of (R344). -/

namespace Sys2Proof.Machine

/-- A form of values as bytes: what is written for a value, and what is read from bytes with those that follow. -/
structure Codec (α : Type) where
  put : α → List Byte
  get : List Byte → Option (α × List Byte)

/-- A number of `k` bytes, little-endian. -/
def cNum (k : Nat) : Codec Nat where
  put x := Word.toBytes k x
  get bs := if (bs.take k).length = k then some (Word.ofBytes (bs.take k), bs.drop k) else none

/-- Two values, one after the other. -/
def Codec.pair {α β : Type} (a : Codec α) (b : Codec β) : Codec (α × β) where
  put x := a.put x.1 ++ b.put x.2
  get bs := match a.get bs with
    | none => none
    | some (x, bs) => match b.get bs with
      | none => none
      | some (y, bs) => some ((x, y), bs)

/-- A form of other values, by what stands for each; `g` refuses what stands for none. -/
def Codec.via {α β : Type} (c : Codec α) (f : β → α) (g : α → Option β) : Codec β where
  put x := c.put (f x)
  get bs := match c.get bs with
    | none => none
    | some (x, bs) => (g x).map fun y => (y, bs)

/-- A form of other values, by what stands for each. -/
def Codec.map {α β : Type} (c : Codec α) (f : β → α) (g : α → β) : Codec β := c.via f fun x => some (g x)

/-- `n` values of one form. -/
def getMany {α : Type} (c : Codec α) : Nat → List Byte → Option (List α × List Byte)
  | 0, bs => some ([], bs)
  | n + 1, bs => match c.get bs with
    | none => none
    | some (x, bs) => match getMany c n bs with
      | none => none
      | some (xs, bs) => some (x :: xs, bs)

/-- A list after its length in 4 bytes. -/
def cList {α : Type} (c : Codec α) : Codec (List α) where
  put xs := Word.toBytes 4 xs.length ++ xs.flatMap c.put
  get bs := match (cNum 4).get bs with
    | none => none
    | some (n, bs) => getMany c n bs

/-- A flag in a byte, 0 or 1. -/
def cBool : Codec Bool :=
  (cNum 1).via (fun b => if b then 1 else 0) fun n => if n < 2 then some (n == 1) else none

/-- A value that may be absent: the byte 0, or 1 and the value. -/
def cOpt {α : Type} (c : Codec α) : Codec (Option α) where
  put x := match x with
    | none => [0]
    | some x => 1 :: c.put x
  get bs := match cBool.get bs with
    | none => none
    | some (false, bs) => some (none, bs)
    | some (true, bs) => match c.get bs with
      | none => none
      | some (x, bs) => some (some x, bs)

/-- A bit vector of whole bytes. -/
def cBits (w : Nat) : Codec (BitVec w) := (cNum (w / 8)).map (·.toNat) (BitVec.ofNat w)

/-- The value whose form some bytes are, all of them. -/
def Codec.all {α : Type} (c : Codec α) (bs : List Byte) : Option α :=
  match c.get bs with
  | some (x, []) => some x
  | some (_, _ :: _) | none => none

/-- A form that reads back what it writes, whatever follows, for the values that `ok` admits. -/
def Codec.Sound {α : Type} (c : Codec α) (ok : α → Prop) : Prop :=
  ∀ x bs, ok x → c.get (c.put x ++ bs) = some (x, bs)

end Sys2Proof.Machine
end

