-- ==== Sys2Proof/Machine/SaveImage.lean ====
section
/-! DEFINITION. Save images (R341, R343, R344): the records an instance is saved in, their bodies, and the
state that the records of an image hold. R344 names what a body holds; where it gives no layout, the layout is
the model's own: the parts in the order named, a list after its length, and in a MARKER image the state at the
rewind point, the shadow, after the state itself (DESIGN CHOICE, log entry 11). -/

namespace Sys2Proof.Machine

/-! ### Forms of the parts of the state -/

/-- A token in 132 bytes: DATA, its side bits as R21 orders them, and its origin word (R344). -/
def cTok : Codec Tok :=
  ((cBits 1024).pair ((cNum 1).pair (cBits 24))).map
    (fun t => (t.data, t.p.toNat + 2 * t.l.toNat + 4 * t.n.toNat + 8 * t.s.toNat + 16 * t.c.toNat
      + t.ck % 8 * 32, t.org))
    fun (x, w, o) =>
      { data := x, p := w.testBit 0, l := w.testBit 1, n := w.testBit 2, s := w.testBit 3, c := w.testBit 4
        ck := w / 32 % 8, org := o }

/-- Pairs of numbers. -/
def cPair : Codec (Nat × Nat) := (cNum 8).pair (cNum 8)

/-- A number and an origin word. -/
def cOrg : Codec (Nat × BitVec 24) := (cNum 8).pair (cBits 24)

/-- Discards in progress (R116). -/
def cDisc : Codec Disc :=
  (cBool.pair (cBool.pair (cBool.pair (cPair.pair (cPair.pair (cPair.pair (cNum 8))))))).map
    (fun x => (x.l, x.r, x.t, (x.nl, x.nr), (x.nt, x.npois), (x.nulls, x.round), x.record))
    fun (l, r, t, (nl, nr), (nt, np), (nulls, round), record) =>
      { l := l, r := r, t := t, nl := nl, nr := nr, nt := nt, npois := np, nulls := nulls, round := round
        record := record }

/-- What the queues of an instruction slot hold: left, right and third operands, firings and discards. -/
abbrev SlotDyn := List Tok × List Tok × List Tok × Nat × Option Disc

/-- The queues of a slot. -/
def Slot.dyn (s : Slot) : SlotDyn := (s.l, s.r, s.t, s.fired, s.disc)

/-- A slot with its queues. -/
def Slot.withDyn (s : Slot) (x : SlotDyn) : Slot :=
  { s with l := x.1, r := x.2.1, t := x.2.2.1, fired := x.2.2.2.1, disc := x.2.2.2.2 }

/-- Counts of a block's records, its chosen groups and its slots. -/
abbrev BlkDyn := (Nat × Nat) × Nat × List (Nat × Nat) × List SlotDyn

/-- What changes in a block as it runs. -/
def Blk.dyn (b : Blk) : BlkDyn := ((b.started, b.committed), b.base, b.chosen, b.slots.map (·.dyn))

/-- A block with what has changed in it; none when the slots are not as many. -/
def Blk.withDyn (b : Blk) (x : BlkDyn) : Option Blk :=
  if x.2.2.2.length = b.slots.length then
    some { b with
      started := x.1.1, committed := x.1.2, base := x.2.1, chosen := x.2.2.1
      slots := List.zipWith Slot.withDyn b.slots x.2.2.2 }
  else none

/-- The queues of a slot as bytes. -/
def cSlot : Codec SlotDyn :=
  (cList cTok).pair ((cList cTok).pair ((cList cTok).pair ((cNum 8).pair (cOpt cDisc))))

/-- What changes in a block as bytes. -/
def cBlk : Codec BlkDyn := cPair.pair ((cNum 8).pair ((cList cPair).pair (cList cSlot)))

/-- The state of the round controller that a restore takes up: E, the last round known, and the next image. -/
abbrev RcDyn := Nat × Bool × Nat

/-- The round controller's state as bytes. -/
def cRc : Codec RcDyn := (cNum 8).pair (cBool.pair (cNum 8))

/-- A vector element: its blocks with their loop counters, its generator, its skips, and the round controller. -/
abbrev VeDyn := List BlkDyn × Word × List (Nat × Nat)

/-- What changes in a vector element. -/
def Ct.veDyn (c : Ct) : VeDyn := (c.blks.map (·.dyn), c.rng, c.skips)

/-- A compute tile with the state of its vector element; none when the blocks do not suit. -/
def Ct.withVe (c : Ct) (x : VeDyn) : Option Ct :=
  if x.1.length = c.blks.length then
    match (List.zip c.blks x.1).mapM fun e => e.1.withDyn e.2 with
    | some bs => some { c with blks := bs, rng := x.2.1, skips := x.2.2 }
    | none => none
  else none

/-- A vector element as bytes. -/
def cVe : Codec VeDyn := (cList cBlk).pair ((cBits 64).pair (cList cPair))

/-- A captured command: pattern, layout record, handle, key slot, destination buffer and fill index (R344). -/
def cCap (ctx part : Nat) : Codec CapFill :=
  ((cBits 512).pair ((cBits 512).pair ((cNum 1).pair ((cOpt ((cNum 1).pair (cNum 8))).pair
    ((cNum 1).pair (cPair.pair (cBool.pair cBool))))))).map
    (fun c => (c.pat, c.layout, c.handle, c.key, c.buf, (c.index, c.made), c.scale, c.released))
    fun (pat, lay, h, key, buf, (i, made), scale, rel) =>
      { pat := pat, ctx := ctx, part := part, index := i, buf := buf, key := key, handle := h, layout := lay
        scale := scale, released := rel, made := made }

/-- FULL bits, pointers, hold counts, row0 and tail, and the ownership token (R174, R178, R195). -/
abbrev BankPos := List Nat × (Nat × Nat) × List (Nat × Nat × Nat) × Nat × (Nat × Nat) × Bool × Bool

/-- The positions of a bank. -/
def Bank.pos (b : Bank) : BankPos :=
  (b.full, (b.fillPtr, b.readPtr), b.holds, b.fillRow, (b.head, b.tail), b.owned, b.passed)

/-- A bank at some positions. -/
def Bank.withPos (b : Bank) (x : BankPos) : Bank :=
  { b with
    full := x.1, fillPtr := x.2.1.1, readPtr := x.2.1.2, holds := x.2.2.1, fillRow := x.2.2.2.1
    head := x.2.2.2.2.1.1, tail := x.2.2.2.2.1.2, owned := x.2.2.2.2.2.1, passed := x.2.2.2.2.2.2 }

/-- The positions of a bank as bytes. -/
def cPos : Codec BankPos :=
  (cList (cNum 1)).pair (cPair.pair ((cList ((cNum 8).pair cPair)).pair ((cNum 8).pair (cPair.pair
    (cBool.pair cBool)))))

/-- A versioned word: its floors and its live set. -/
def cVWord : Codec VWord :=
  (cPair.pair (cList ((cNum 8).pair (cBits 64)))).map (fun v => ((v.floor, v.ctl), v.live))
    fun ((f, c), l) => { floor := f, ctl := c, live := l }

/-- Positions, versioned words, captured commands, granules with errors, S flags and contents of a bank. -/
abbrev BankDyn := BankPos × List (Nat × VWord) × List CapFill × List Nat × List Nat × List Byte

/-- What a bank holds. -/
def Bank.dyn (b : Bank) : BankDyn :=
  (b.pos, b.words, b.caps, b.bad, b.sflags, readBytes b.bytes 0 bankBytes)

/-- A bank with what it holds. -/
def Bank.withDyn (b : Bank) (x : BankDyn) : Bank :=
  { b.withPos x.1 with
    words := x.2.1, caps := x.2.2.1, bad := x.2.2.2.1, sflags := x.2.2.2.2.1
    bytes := writeAll [] (bytesAt 0 x.2.2.2.2.2) }

/-- The contents of a bank: all its bytes. -/
def cSpan (n : Nat) : Codec (List Byte) where
  put bs := bs
  get bs := if (bs.take n).length = n then some (bs.take n, bs.drop n) else none

/-- What a bank holds as bytes. -/
def cBank (ctx part : Nat) : Codec BankDyn :=
  cPos.pair ((cList ((cNum 8).pair cVWord)).pair ((cList (cCap ctx part)).pair ((cList (cNum 4)).pair
    ((cList (cNum 4)).pair (cSpan bankBytes)))))

/-- Codes of the bank modes (R170). -/
def BankMode.code : BankMode → Nat
  | .tile => 0 | .fifo => 1 | .line => 2 | .version => 3 | .scale => 4

/-- Codes of the persistence classes (R110). -/
def Persist.code : Persist → Nat
  | .round => 0 | .persist => 1 | .input => 2

/-- What an element effect that a rewind undoes was (R200). -/
def cUndo : Codec Undo :=
  ((cNum 1).pair ((cNum 8).pair ((cNum 8).pair ((cNum 8).pair (cList ((cNum 8).pair (cBits 64))))))).via
    (fun u => match u with
      | .stv k w v => (0, k, w, v, [])
      | .vrecl k w f gone => (1, k, w, f, gone)
      | .bara c inc => (2, c, inc.toNat, 0, []))
    fun (n, a, b, c, l) =>
      if n = 0 then some (.stv a b c)
      else if n = 1 then some (.vrecl a b c l)
      else if n = 2 then some (.bara a (BitVec.ofNat 32 b))
      else none

/-- Barrier counters of an MT, and what a rewind undoes in it. -/
def cCounters : Codec (List (BitVec 32) × List Undo) := (cList (cBits 32)).pair (cList cUndo)

/-- Words and poisoned rows of an accumulator bank, or none where it is not saved. -/
abbrev AccDyn := Option (List (BitVec 32) × List (Nat × BitVec 24))

/-- An accumulator bank, when it is saved (R341). -/
def AccBank.dyn (a : AccBank) (saved : Bool) : AccDyn :=
  if saved then some ((List.range (128 * 192)).map fun i => a.words.getD i 0, a.pois) else none

/-- An accumulator bank with what was saved of it. -/
def AccBank.withDyn (a : AccBank) (x : AccDyn) : AccBank :=
  match x with
  | some (ws, ps) => { a with words := ws, pois := ps }
  | none => a

/-- Scale memory without the bytes that refetch records bring back (R179, R278, R344). -/
def Me.scaleData (a : Me) : List Byte :=
  (List.range 16384).map fun i =>
    if a.scaleCaps.any fun c => c.ofs ≤ i && i < c.ofs + c.len then 0 else readByte a.scale i

/-- Accumulators and scale memory of a matrix element. -/
abbrev MeDyn := List AccDyn × List Byte

/-- What is saved of a matrix element: all of it in a MARKER image, else PERSIST accumulators and scale memory
(R341). -/
def Me.dyn (a : Me) (marker : Bool) : MeDyn :=
  ((List.range 4).map fun k => (a.acc.getD k {}).dyn (marker || (a.acc.getD k {}).persist), a.scaleData)

/-- A matrix element with what was saved of it. -/
def Me.withDyn (a : Me) (x : MeDyn) : Option Me :=
  if x.1.length = a.acc.length then
    some { a with
      acc := List.zipWith AccBank.withDyn a.acc x.1
      scale := writeAll [] (bytesAt 0 x.2) }
  else none

/-- A matrix element as bytes. -/
def cMe : Codec MeDyn := (cList (cOpt ((cList (cBits 32)).pair (cList cOrg)))).pair (cSpan 16384)

/-- A matrix element with something to save. -/
def Me.due (a : Me) (marker : Bool) : Bool :=
  !a.scale.isEmpty || a.acc.any fun b => (marker || b.persist) && !(b.words.isEmpty && b.pois.isEmpty)

/-- What an input port holds: the tokens of its link, how many of them its queue holds, EOT, and the rows its bank
has taken. -/
abbrev InDyn := List Tok × Nat × Bool × Nat

/-- An edge whose tokens lie in the tile's token buffer: those of delay lines and circuits, and of the ports of an
MT, lie on their links (R341, R342). -/
def Tile.buffers (t : Tile) (p : InPort) : Bool :=
  match t.kind, p.feeder with
  | .ct _, .route => true
  | .ct _, .delay | .ct _, .vport _ | .mt _, _ => false

/-- What the link of an input port holds. -/
def InPort.dyn (p : InPort) (buffered : Bool) : InDyn :=
  let q := if buffered then [] else p.q
  (q ++ p.caught, q.length, p.eot, p.taken)

/-- An input port with what its link holds. -/
def InPort.withDyn (p : InPort) (x : InDyn) : InPort :=
  { p with q := p.q ++ x.1.take x.2.1, caught := x.1.drop x.2.1, eot := x.2.2.1, taken := x.2.2.2 }

/-- The link of an input port as bytes. -/
def cIn : Codec InDyn := (cList cTok).pair ((cNum 4).pair (cBool.pair (cNum 8)))

/-- What an output port holds: tokens that have not left, and the writes of each block. -/
abbrev OutDyn := List OutTok × List (Nat × Nat)

/-- A token that waits at an output port. -/
def cOutTok : Codec OutTok :=
  (cTok.pair (cPair.pair cBool)).map (fun o => (o.tok, (o.blk, o.record), o.mout))
    fun (t, (b, r), m) => { tok := t, blk := b, record := r, mout := m }

/-- An output port as bytes. -/
def cOut : Codec OutDyn := (cList cOutTok).pair (cList cPair)

/-- The data of an operator slot: pairs, runs, origins, emitted pairs, tokens and lanes. -/
def cOp (o : OpState) : Codec OpState :=
  ((cList cPair).pair ((cList cPair).pair (cBool.pair (cBool.pair ((cNum 8).pair
    ((cOpt cOrg).pair ((cOpt cOrg).pair ((cOpt cOrg).pair ((cOpt cOrg).pair ((cList cPair).pair
    ((cList cPair).pair ((cOpt (cBits 24)).pair ((cList cTok).pair ((cList (cNum 8)).pair (cNum 8))))))))))))))).map
    (fun o => (o.buf0, o.buf1, o.end0, o.end1, o.taken, o.org0, o.org1, o.pois0, o.pois1, o.acc0, o.acc1, o.pois
      , o.toks, o.lanes, o.count))
    fun (b0, b1, e0, e1, taken, g0, g1, p0, p1, a0, a1, p, ts, ls, n) =>
      { o with
        buf0 := b0, buf1 := b1, end0 := e0, end1 := e1, taken := taken, org0 := g0, org1 := g1, pois0 := p0
        pois1 := p1, acc0 := a0, acc1 := a1, pois := p, toks := ts, lanes := ls, count := n }

/-- Codes of the commands that bind a port (R210, R223). -/
def BindKind.code : BindKind → Nat
  | .input => 0 | .output => 1 | .gather => 2 | .scatter => 3 | .update => 4 | .copyIn => 5

/-- The command that binds a port, of a code. -/
def BindKind.ofCode (n : Nat) : Option BindKind :=
  [BindKind.input, .output, .gather, .scatter, .update, .copyIn][n]?

/-- A binding at its position, of a context and a partition. -/
def cBind (ctx part : Nat) : Codec VpBind :=
  ((cNum 8).pair ((cNum 1).pair ((cBits 512).pair ((cNum 1).pair ((cNum 1).pair ((cNum 1).pair
    (cPair.pair (cPair.pair ((cList cTok)))))))))).via
    (fun b => (b.id, b.kind.code, b.pat, b.idxVp, b.op, b.ty.code, (b.fetched, b.passed), (b.done, b.sent), b.idxs))
    fun (id, k, pat, iv, op, ty, (fetched, passed), (done, sent), idxs) => (BindKind.ofCode k).map fun k =>
      { id := id, kind := k, pat := pat, idxVp := iv, op := op, ty := Ty.ofCode ty, ctx := ctx, part := part
        fetched := fetched, passed := passed, done := done, sent := sent, idxs := idxs }

/-- A virtual port: the pattern, STATE, ELEMS, accepted count and parked flag of R344; then its binding, whether the
last was killed, short, overran or faulted, the tokens admitted, and whether it is exhausted or discards. -/
abbrev VpDyn := (BitVec 512 × Nat × Nat × Nat × Bool) × Option VpBind × (Bool × Bool × Bool × Bool) × Nat × Nat
  × Bool × Bool

/-- A virtual port whose binding a MARKER image parks (R343). -/
def Vp.parked (v : Vp) (marker : Bool) : Bool :=
  marker && match v.bind with
    | some b => b.kind == .output || b.kind == .scatter || b.kind == .update
    | none => false

/-- What is saved of a virtual port. -/
def Vp.dyn (v : Vp) (marker : Bool) : VpDyn :=
  (((v.bind.map (·.pat)).getD 0, if v.bind.isSome then 2 else if v.ended then 3 else 0, v.elems
    , (v.bind.map (·.passed)).getD 0, v.parked marker), v.bind
    , (v.ended, v.killed, v.short, v.overran), v.fault, v.adm, v.spent, v.discards)

/-- A virtual port with what was saved of it. -/
def Vp.withDyn (v : Vp) (x : VpDyn) : Vp :=
  { v with
    elems := x.1.2.2.1, bind := x.2.1, ended := x.2.2.1.1, killed := x.2.2.1.2.1, short := x.2.2.1.2.2.1
    overran := x.2.2.1.2.2.2, fault := x.2.2.2.1, adm := x.2.2.2.2.1, spent := x.2.2.2.2.2.1
    discards := x.2.2.2.2.2.2 }

/-- A virtual port as bytes. -/
def cVp (ctx part : Nat) : Codec VpDyn :=
  ((cBits 512).pair ((cNum 1).pair ((cNum 8).pair ((cNum 8).pair cBool)))).pair
    ((cOpt (cBind ctx part)).pair ((cBool.pair (cBool.pair (cBool.pair cBool))).pair
      ((cNum 2).pair ((cNum 8).pair (cBool.pair cBool)))))

/-- A command of a scoreboard: a binding or an SBAR; copies and collectives have ended (R341). The instance that a
binding names is the restored one. -/
def cCmd (ctx part cfg : Nat) : Codec Cmd :=
  ((cNum 8).pair (cBool.pair ((cOpt (cNum 1)).pair (cOpt (cBind ctx part))))).map
    (fun c => (c.id, c.started, c.vp.map (·.2), match c.kind with
      | .bind b => some b
      | .copy _ | .coll _ _ | .sbar => none))
    fun (id, s, v, b) =>
      { id := id, started := s, vp := v.map fun v => (cfg, v)
        kind := match b with
          | some b => .bind b
          | none => .sbar }

/-- What a thread waits for, as a number: 1 runs, 2 in WFI, 3 in WFI with a bound, 4 halted, 0 none (R325). -/
def Thread.code : Thread → Nat × Nat
  | .live | .held _ => (1, 0)
  | .wfi Option.none => (2, 0)
  | .wfi (some n) => (3, n)
  | .halted => (4, 0)
  | .none => (0, 0)

/-- The thread state of a number. -/
def Thread.ofCode (n bound : Nat) : Thread :=
  match n with
  | 0 => .none
  | 1 => .live
  | 2 => .wfi Option.none
  | 3 => .wfi (some bound)
  | _ => .halted

/-- A thread: g0 to g31 with P bits and origin words, ap0 to ap15, its scoreboard, and its next block's address;
then what it waits for, and an armed step or skip (R318, R344). -/
abbrev ThreadDyn := List GReg × List (BitVec 512) × List Cmd × Nat × (Nat × Nat) × Bool × Bool

/-- What is saved of a thread. -/
def Core.dyn (c : Core) : ThreadDyn :=
  (c.g, c.ap, c.board, c.next, c.thread.code, c.stepArmed, c.skipArmed)

/-- A register with its P bit and origin word. -/
def cReg : Codec GReg :=
  ((cBits 64).pair (cBool.pair (cBits 24))).map (fun r => (r.v, r.p, r.org))
    fun (v, p, o) => { v := v, p := p, org := o }

/-- A thread as bytes. -/
def cThread (ctx part cfg : Nat) : Codec ThreadDyn :=
  (cList cReg).pair ((cList (cBits 512)).pair ((cList (cCmd ctx part cfg)).pair ((cNum 8).pair (cPair.pair
    (cBool.pair cBool)))))

/-! ### The records of an image -/

/-- A record: its header, its body, and padding to a multiple of 16 (R110, R344). -/
def saveRec (ty arg : Nat) (body : List Byte) : List Byte :=
  Word.toBytes 4 (ty % 256) ++ Word.toBytes 4 body.length ++ Word.toBytes 8 arg ++ body
    ++ List.replicate (Word.alignUp body.length 16 - body.length) 0

/-- A state, and in a MARKER image its shadow. -/
def withShadow {α : Type} (marker : Bool) (c : Codec α) : Codec (α × α) :=
  if marker then c.pair c else c.map (·.1) fun x => (x, x)

/-- The edges of a tile whose tokens lie in its token buffer, with the place of the first entry of each. -/
def Tile.bufferPlan (t : Tile) : List (Nat × Nat × InPort) :=
  ((t.inp.filter fun p => t.buffers p.2).foldl (fun (acc : List (Nat × Nat × InPort) × Nat) p =>
    (acc.1 ++ [(p.1, acc.2, p.2)], acc.2 + p.2.depth)) ([], 0)).1

/-- The occupancy bitmap of a tile's token buffer and its full entries (R344). -/
def Tile.bufferBytes (t : Tile) : List Byte :=
  let es := t.bufferPlan
  let bits := es.flatMap fun e => (List.range e.2.2.q.length).map (e.2.1 + ·)
  Word.toBytes 16 ((bits.map (2 ^ ·)).sum) ++ es.flatMap fun e => e.2.2.q.flatMap cTok.put

/-- A tile whose token buffer holds what an occupancy bitmap and its full entries say, with the bytes that follow
them. -/
def Tile.readBuffer (t : Tile) (bs : List Byte) : Option (Tile × List Byte) :=
  match (cNum 16).get bs with
  | none => none
  | some (map, bs) =>
    let es := t.bufferPlan
    let used := fun (e : Nat × Nat × InPort) => (List.range e.2.2.depth).filter fun i => map.testBit (e.2.1 + i)
    let known := (es.map fun e => (used e).length).sum
    let all := ((List.range 128).filter map.testBit).length
    if known ≠ all then none
    else es.foldl (fun acc e => match acc with
      | none => none
      | some (t, bs) => match getMany cTok (used e).length bs with
        | none => none
        | some (q, bs) => some ({ t with inp := insert e.1 { e.2.2 with q := q } t.inp }, bs)) (some (t, bs))

/-- A fill that is refetched: it is present now, and was at the rewind point (R437). -/
abbrev RefDyn := CapFill × Bool × Bool × (Nat × Nat) × Nat × BankPos × BankPos

/-- A refetch as bytes: the captured command; whether the state and its shadow hold the fill; for scale memory
where the bytes come from, where they stand and how many; and the bank's positions, with their shadow. -/
def cRef (ctx part : Nat) : Codec RefDyn :=
  (cCap ctx part).pair (cBool.pair (cBool.pair (cPair.pair ((cNum 8).pair (cPos.pair cPos)))))

/-- The positions that a record of scale memory holds: none. -/
def noPos : BankPos := Bank.pos {}

/-- The refetch records of a bank: one per fill present (R278, R341, R437). -/
def refRecs (marker : Bool) (ctx part arg : Nat) (b s : Bank) : List Byte :=
  let now := if marker then b.caps else b.caps.filter (!·.released)
  let old := if marker then s.caps.filter fun c => now.all (·.index != c.index) else []
  (now.map fun c => (c, true)) ++ (old.map fun c => (c, false)) |>.flatMap fun e =>
    saveRec 0x14 arg ((cRef ctx part).put
      (e.1, e.2, marker && s.caps.any fun c => c.index == e.1.index && !c.released, (0, 0), 0, b.pos, s.pos))

/-- The records of a bank of an MT, with its shadow (R341). -/
def bankRecs (marker : Bool) (ctx part tile k : Nat) (b s : Bank) : List Byte :=
  let arg := tile + k * 2 ^ 16
  if b.sealed || (!marker && !b.caps.isEmpty) then refRecs marker ctx part arg b s
  else if marker || b.cls == .persist || b.mode == .version then
    saveRec 0x13 arg ([BitVec.ofNat 8 b.mode.code, BitVec.ofNat 8 b.cls.code]
      ++ (withShadow marker (cBank ctx part)).put (b.dyn, s.dyn))
  else []

/-- The refetch records of a matrix element's scale memory (R179, R278). -/
def scaleRecs (marker : Bool) (ctx part tile : Nat) (a s : Me) : List Byte :=
  let one := fun (c : ScaleCap) (now old : Bool) =>
    saveRec 0x14 (tile + 0xFF * 2 ^ 16) ((cRef ctx part).put (c.cap, now, old, (c.src, c.ofs), c.len, noPos, noPos))
  (a.scaleCaps.flatMap fun c => one c true (marker && s.scaleCaps.contains c))
    ++ if marker then (s.scaleCaps.filter fun c => !a.scaleCaps.contains c).flatMap fun c => one c false true else []

/-- The records of a tile, with its shadow (R341, R344). ARG joins the tile, and from bit 16 the port, operator slot
or bank; bit 24 stands for an output port. -/
def tileRecs (marker : Bool) (ctx part : Nat) (rc : RcDyn) (tile : Nat) (t s : Tile) : List Byte :=
  let links := t.inp.flatMap fun p =>
    let old := ((lookup p.1 s.inp).getD p.2).dyn (s.buffers p.2)
    let now := p.2.dyn (t.buffers p.2)
    if now == ([], 0, false, 0) && old == now then []
    else saveRec 0x12 (tile + p.1 * 2 ^ 16) ((withShadow marker cIn).put (now, old))
  let outs := t.out.flatMap fun p =>
    let old := ((lookup p.1 s.out).getD p.2)
    if p.2.q.isEmpty && p.2.writes.isEmpty && old.q.isEmpty && old.writes.isEmpty then []
    else saveRec 0x12 (tile + p.1 * 2 ^ 16 + 2 ^ 24)
      ((withShadow marker cOut).put ((p.2.q, p.2.writes), old.q, old.writes))
  let ops := t.ops.flatMap fun o => saveRec 0x18 (tile + o.1 * 2 ^ 16)
    ((withShadow marker (cOp o.2)).put (o.2, (lookup o.1 s.ops).getD o.2))
  let unit := match t.kind, s.kind with
    | .ct c, .ct o =>
      saveRec 0x11 tile (t.bufferBytes ++ ((withShadow marker cVe).pair cRc).put ((c.veDyn, o.veDyn), rc))
        ++ (if c.me.due marker || (marker && o.me.due marker) then
          saveRec 0x15 tile ((withShadow marker cMe).put (c.me.dyn marker, o.me.dyn marker)) else [])
        ++ scaleRecs marker ctx part tile c.me o.me
    | .mt m, .mt o =>
      saveRec 0x13 (tile + 16 * 2 ^ 16) ((withShadow marker cCounters).put ((m.bc, m.undo), o.bc, o.undo))
        ++ (m.banks.mapIdx fun k b => bankRecs marker ctx part tile k b (o.banks.getD k {})).flatten
    | .ct _, .mt _ | .mt _, .ct _ => []
  links ++ outs ++ ops ++ unit

/-- What the round controller holds for a restore. -/
def Inst.rcDyn (x : Inst) : RcDyn := (x.roundE, x.last, x.nextImage)

/-- Every record of a save image, with the threads by vpage, 16 × vy + vx (R344). -/
def Inst.saveRecs (x : Inst) (marker : Bool) (threads : List (Nat × Core)) : List Byte :=
  (x.fab.tiles.flatMap fun t => tileRecs marker x.ctx x.part x.rcDyn t.1 t.2 ((lookup t.1 x.rew.tiles).getD t.2))
    ++ (threads.flatMap fun t => saveRec 0x16 (t.1 % 16 + t.1 / 16 * 2 ^ 8)
      ((cThread x.ctx x.part 0).put t.2.dyn))
    ++ x.fab.vps.flatMap fun v => saveRec 0x17 v.1 (((withShadow marker (cVp x.ctx x.part)).pair cRc).put
      ((v.2.dyn marker, ((lookup v.1 x.rew.vps).getD v.2).dyn marker), x.rcDyn))

/-- The bytes of a save image with its DONE word; `pkg` names the package (R344). -/
def Inst.saveBytes (x : Inst) (marker : Bool) (threads : List (Nat × Core)) (pkg : List Byte) (done : Word) :
    List Byte :=
  let recs := x.saveRecs marker threads
  Word.toBytes 4 0x56415356 ++ Word.toBytes 2 1 ++ [if marker then 1 else 0, 0]
    ++ Word.toBytes 8 done.toNat ++ x.idhash ++ Word.toBytes 8 x.fab.round
    ++ (if marker then pkg else List.replicate 8 0) ++ Word.toBytes 8 (128 + recs.length)
    ++ [BitVec.ofNat 8 x.w, BitVec.ofNat 8 x.h] ++ Word.toBytes 2 x.ctx ++ List.replicate 52 0 ++ recs

/-! ### What the records of an image hold -/

/-- What a restore takes up: the fabric and its shadow, the threads by vpage, and the round controller's state. -/
structure Restored where
  fab : Fabric
  rew : Fabric
  threads : List (Nat × ThreadDyn) := []
  rc : RcDyn

/-- The launch that a restore is for. -/
structure SaveFor where
  marker : Bool
  ctx : Nat
  part : Nat
  cfg : Nat
  /-- Virtual pages with a control program, as ARG names them. -/
  progs : List Nat
  deriving DecidableEq, Repr

/-- A tile of a fabric changed; none when there is none, or the change does not suit it. -/
def Fabric.tryTile (f : Fabric) (tile : Nat) (g : Tile → Option Tile) : Option Fabric :=
  match lookup tile f.tiles with
  | none => none
  | some t => match g t with
    | none => none
    | some t => some { f with tiles := insert tile t f.tiles }

/-- One change of a tile and another of its shadow. -/
def Restored.both (s : Restored) (tile : Nat) (g h : Tile → Option Tile) : Option Restored :=
  match s.fab.tryTile tile g, s.rew.tryTile tile h with
  | some f, some r => some { s with fab := f, rew := r }
  | _, _ => none

/-- The vector element of a tile from its record. -/
def Tile.withVe (t : Tile) (x : VeDyn) : Option Tile :=
  match t.kind with
  | .ct c => match c.withVe x with
    | some c => some { t with kind := .ct c }
    | none => none
  | .mt _ => none

/-- The matrix element of a tile changed. -/
def Tile.withMe (t : Tile) (g : Me → Option Me) : Option Tile :=
  match t.kind with
  | .ct c => match g c.me with
    | some a => some { t with kind := .ct { c with me := a } }
    | none => none
  | .mt _ => none

/-- A bank of a tile changed. -/
def Tile.withBank (t : Tile) (k : Nat) (g : Bank → Option Bank) : Option Tile :=
  match t.kind with
  | .mt m => match m.banks[k]? with
    | none => none
    | some b => match g b with
      | some b => some { t with kind := .mt { m with banks := m.banks.set k b } }
      | none => none
  | .ct _ => none

/-- The counters of a tile from their record. -/
def Tile.withCounters (t : Tile) (x : List (BitVec 32) × List Undo) : Option Tile :=
  match t.kind with
  | .mt m => if x.1.length = m.bc.length then some { t with kind := .mt { m with bc := x.1, undo := x.2 } } else none
  | .ct _ => none

/-- A port of a tile from its link's record. -/
def Tile.withIn (t : Tile) (k : Nat) (x : InDyn) : Option Tile :=
  match lookup k t.inp with
  | some p => if x.2.1 ≤ x.1.length then some { t with inp := insert k (p.withDyn x) t.inp } else none
  | none => none

/-- An output port of a tile from its record. -/
def Tile.withOut (t : Tile) (k : Nat) (x : OutDyn) : Option Tile :=
  match lookup k t.out with
  | some p => some { t with out := insert k { p with q := x.1, writes := x.2 } t.out }
  | none => none

/-- An operator slot of a tile from its record: its kind and parameters stand. -/
def Tile.withOp (t : Tile) (k : Nat) (x : OpState) : Option Tile :=
  match lookup k t.ops with
  | some _ => some { t with ops := insert k x t.ops }
  | none => none

/-- A bank that holds a fill to refetch, at its recorded positions (R437). -/
def Bank.withRef (x : RefDyn) (held : Bool) (pos : BankPos) (b : Bank) : Option Bank :=
  if x.1.buf < b.nbuf && (b.mode == .tile || b.mode == .scale) then
    some { b.withPos pos with
      sealed := b.sealed || x.1.key.isSome, caps := if held then b.caps ++ [x.1] else b.caps }
  else none

/-- The parts of scale memory that a record has refetched. -/
def Me.withRef (x : RefDyn) (held : Bool) (a : Me) : Option Me :=
  if x.2.2.2.1.2 + x.2.2.2.2.1 ≤ 16384 then
    some { a with
      scaleCaps := if held then
        a.scaleCaps ++ [{ cap := x.1, src := x.2.2.2.1.1, ofs := x.2.2.2.1.2, len := x.2.2.2.2.1 }]
      else a.scaleCaps }
  else none

/-- What a bank holds put into one of the same mode and class. -/
def Bank.withSaved (mode cls : Nat) (x : BankDyn) (b : Bank) : Option Bank :=
  if mode = b.mode.code ∧ cls = b.cls.code ∧ x.1.1.all (· < b.nbuf) ∧ x.1.2.1.1 < b.nbuf ∧ x.1.2.1.2 < b.nbuf then
    some (b.withDyn x)
  else none

/-- One record of an image taken up; none when its TYPE, ARG or LEN does not suit the configuration (R343). -/
def Restored.take (k : SaveFor) (s : Restored) (r : RawRec) : Option Restored :=
  let tile := r.arg % 2 ^ 16
  let sub := r.arg / 2 ^ 16 % 2 ^ 8
  if !r.framed then none
  else if r.ty == 0x11 then
    match lookup r.arg s.fab.tiles with
    | none => none
    | some t => match t.readBuffer r.body with
      | none => none
      | some (t, bs) => match ((withShadow k.marker cVe).pair cRc).all bs with
        | none => none
        | some ((now, old), rc) =>
          { s with rc := rc, fab := { s.fab with tiles := insert r.arg t s.fab.tiles } }.both r.arg
            (·.withVe now) (·.withVe old)
  else if r.ty == 0x12 then
    if r.arg / 2 ^ 24 == 0 then
      match (withShadow k.marker cIn).all r.body with
      | none => none
      | some (now, old) => s.both tile (·.withIn sub now) (·.withIn sub old)
    else if r.arg / 2 ^ 24 == 1 then
      match (withShadow k.marker cOut).all r.body with
      | none => none
      | some (now, old) => s.both tile (·.withOut sub now) (·.withOut sub old)
    else none
  else if r.arg ≥ 2 ^ 24 then none
  else if r.ty == 0x13 then
    if sub == 16 then
      match (withShadow k.marker cCounters).all r.body with
      | none => none
      | some (now, old) => s.both tile (·.withCounters now) (·.withCounters old)
    else
      match ((cNum 1).pair ((cNum 1).pair (withShadow k.marker (cBank k.ctx k.part)))).all r.body with
      | none => none
      | some (mode, cls, now, old) =>
        s.both tile (·.withBank sub (Bank.withSaved mode cls now)) (·.withBank sub (Bank.withSaved mode cls old))
  else if r.ty == 0x14 then
    match (cRef k.ctx k.part).all r.body with
    | none => none
    | some x =>
      let old := if k.marker then x.2.2.1 else x.2.1
      if sub == 0xFF then s.both tile (·.withMe (Me.withRef x x.2.1)) (·.withMe (Me.withRef x old))
      else s.both tile (·.withBank sub (Bank.withRef x x.2.1 x.2.2.2.2.2.1))
        (·.withBank sub (Bank.withRef x old (if k.marker then x.2.2.2.2.2.2 else x.2.2.2.2.2.1)))
  else if r.ty == 0x15 then
    match (withShadow k.marker cMe).all r.body with
    | none => none
    | some (now, old) => s.both r.arg (·.withMe (·.withDyn now)) (·.withMe (·.withDyn old))
  else if r.ty == 0x16 then
    match (cThread k.ctx k.part k.cfg).all r.body with
    | none => none
    | some t =>
      if k.progs.contains r.arg && t.1.length == 32 && t.2.1.length == 16 then
        some { s with threads := insert (r.arg % 2 ^ 8 + r.arg / 2 ^ 8 * 16) t s.threads }
      else none
  else if r.ty == 0x17 then
    match ((withShadow k.marker (cVp k.ctx k.part)).pair cRc).all r.body, lookup r.arg s.fab.vps,
        lookup r.arg s.rew.vps with
    | some ((now, old), rc), some v, some w => some { s with
        rc := rc
        fab := { s.fab with vps := insert r.arg (v.withDyn now) s.fab.vps }
        rew := { s.rew with vps := insert r.arg (w.withDyn old) s.rew.vps } }
    | _, _, _ => none
  else if r.ty == 0x18 then
    match (lookup tile s.fab.tiles).bind fun t => lookup sub t.ops with
    | none => none
    | some o => match (withShadow k.marker (cOp o)).all r.body with
      | none => none
      | some (now, old) => s.both tile (·.withOp sub now) (·.withOp sub old)
  else none

/-- A fresh configuration whose links hold no token: the records of an image say what they hold. -/
def Fabric.drained (f : Fabric) : Fabric :=
  { f with tiles := f.tiles.map fun t =>
      (t.1, { t.2 with inp := t.2.inp.map fun p => (p.1, { p.2 with q := [] }) }) }

/-- The state that the records of an image hold, for a configuration that stands fresh as `fresh`; none when a
record is not well formed or does not suit it (R343). -/
def restoredFrom (k : SaveFor) (bs : List Byte) (fresh : Fabric) (rc : RcDyn) : Option Restored :=
  let f := { fresh.drained with round := field bs 0x30 8 }
  (readRecs bs bs.length 128 (field bs 0x40 8 - 128)).foldl (fun acc r => match acc with
    | none => none
    | some s => s.take k r) (some { fab := f, rew := f, rc := rc })

/-- A virtual port whose binding a record of an image parks: its number, pattern and accepted count (R343). -/
def parkedIn (bs : List Byte) : List (Nat × BitVec 512 × Nat) :=
  (readRecs bs bs.length 128 (field bs 0x40 8 - 128)).filterMap fun r =>
    if r.ty == 0x17 && field r.body 81 1 == 1 then
      some (r.arg, BitVec.ofNat 512 (field r.body 0 64), field r.body 73 8)
    else none

end Sys2Proof.Machine
end

