-- ==== Sys2Proof/Machine/Launch.lean ====
section
/-! DEFINITION. Launch records (R327 to R330), the image header as the dispatcher and PLACE read it (R332,
R354), the acceptance of a launch (R337 step 1) and its failure (R331, R337). -/

namespace Sys2Proof.Machine

/-! ### Launch records -/

/-- A dependence (R329). -/
structure Dep where
  addr : Nat
  value : Nat
  /-- MODE 0: at least; MODE 1: equal. -/
  least : Bool
  deriving DecidableEq, Repr

/-- A launch record's fields (R327). -/
structure LRec where
  kind : Nat
  ctx : Nat
  image : Nat
  rangetab : Nat
  arg : Word
  doneaddr : Nat
  doneval : Word
  save : Nat
  deps : List Dep
  imports : List Import
  deriving DecidableEq, Repr

/-- A dependence within its limits (R329). -/
def depOk (e : Nat) : Bool :=
  let a := Word.bits e 63 0
  Word.bits e 97 96 < 2 && Word.bits e 127 98 == 0
    && (if Word.bit a 63 then mtOfs a % 8 == 0 && Word.bits a 62 48 == 0 else a % 8 == 0)

/-- A dependence of its 128 bits. -/
def parseDep (e : Nat) : Dep :=
  { addr := Word.bits e 63 0, value := Word.bits e 95 64, least := Word.bits e 97 96 == 0 }

/-- A bank import of its 64 bits (R330). -/
def parseImport (e : Nat) : Import :=
  { pcfg := Word.bits e 15 0
    ptile := 32 * Word.bits e 24 21 + Word.bits e 20 16, pbank := Word.bits e 28 25
    tile := 32 * Word.bits e 37 34 + Word.bits e 33 29, bank := Word.bits e 41 38 }

/-- A launch record of its 256 bytes; none when it breaks its limits (R327, R354). -/
def parseLaunch (bs : List Byte) : Option LRec :=
  let x := Word.ofBytes bs
  let kind := x % 256
  let ndep := Word.bits x 22 20
  let nimp := Word.bits x 26 23
  let deps := (List.range 4).map fun i => Word.bits x (448 + 128 * i + 127) (448 + 128 * i)
  let imps := (List.range 8).map fun i => Word.bits x (960 + 64 * i + 63) (960 + 64 * i)
  let r : LRec :=
    { kind := kind, ctx := Word.bits x 19 8, image := Word.bits x 127 64
      rangetab := Word.bits x 191 128, arg := BitVec.ofNat 64 (Word.bits x 255 192)
      doneaddr := Word.bits x 319 256, doneval := BitVec.ofNat 64 (Word.bits x 383 320)
      save := Word.bits x 447 384
      deps := (deps.take ndep).map parseDep, imports := (imps.take nimp).map parseImport }
  if (kind == 1 || kind == 2) && Word.bits x 63 27 == 0 && ndep ≤ 4 && nimp ≤ 8
      && Word.bits x 2047 1472 == 0 && r.rangetab % 8 == 0 && r.doneaddr % 8 == 0
      && (kind == 2 || r.save == 0)
      && (deps.take ndep).all depOk && (deps.drop ndep).all (· == 0)
      && (imps.take nimp).all (fun e => Word.bits e 63 42 == 0) && (imps.drop nimp).all (· == 0)
  then some r else none

/-! ### Device reads -/

/-- A read of a span as the device makes it for a context: the bytes, or the address of the first fault and
the fault. -/
def Dev.devRead (m : Mem) (a : Acc) : List (Nat × Nat) → Dev → Dev × Except (Nat × XlFault) (List Byte)
  | [], d => (d, .ok [])
  | (va, n) :: rest, d =>
    let (d, r) := d.load m a va n
    match r with
    | .error f => (d, .error (va, f))
    | .ok (bs, _) =>
      let (d, r) := Dev.devRead m a rest d
      (d, r.map fun more => bs ++ more)

/-- `n` bytes at a virtual address of a context (R327). -/
def Dev.ctxRead (m : Mem) (d : Dev) (part ctx va n : Nat) : Dev × Except (Nat × XlFault) (List Byte) :=
  Dev.devRead m (d.deviceAcc part ctx .rd 0) (pieces va n) d

/-! ### The image header -/

/-- What the header of an image says of its placement (R107). -/
structure ImgHdr where
  ok : Bool
  w : Nat
  h : Nat
  heavy : Nat
  nport : Nat
  portoff : Nat
  deriving DecidableEq, Repr

/-- The header of an image. -/
def imgHdr (bs : List Byte) : ImgHdr :=
  if imgMagicOk bs then
    { ok := true, w := max 1 (field bs 0x28 1), h := max 1 (field bs 0x29 1), heavy := field bs 0x2A 2
      nport := field bs 0x34 2, portoff := field bs 0x38 4 }
  else { ok := false, w := 1, h := 1, heavy := 0, nport := 0, portoff := 0 }

/-- The virtual ports and WINMAX values of an image's port table; none where it cannot be read, which
the checks of the install then find. -/
def Dev.imgPorts (m : Mem) (d : Dev) (part ctx image : Nat) (h : ImgHdr) : Dev × List (Nat × Nat) :=
  if h.nport == 0 || h.nport > 64 then (d, [])
  else
    let (d, r) := d.ctxRead m part ctx (image + h.portoff) (8 * h.nport)
    (d, match r with
      | .ok bs => (table bs 0 h.nport 8).map fun e => (field e 0 1, min 512 (field e 6 2))
      | .error _ => [])

/-! ### Failure -/

/-- A launch that fails writes FAILVAL (R331). -/
def Dev.failDone (m : Mem) (d : Dev) (part ctx a cause : Nat) : Dev :=
  d.writeDone m part ctx 0xFFFF a (failVal cause)

/-- A report on a launch, with FAILVAL (R332, R337). -/
def Dev.failLaunch (m : Mem) (d : Dev) (part ctx page doneaddr : Nat) (r : TrapRec) : Dev :=
  (d.failDone m part ctx doneaddr r.cause).post page
    { r with cls := 2, part := part, ctx := ctx, tid := d.tidOf part ctx }

/-- INFO of a CFG_INVALID of a check other than check 5: scope 2 (R337). -/
def checkInfo (k : Nat) : Nat := k + 2 * 2 ^ 4

/-! ### Save images -/

/-- Bytes of the header of a save image (R344). -/
def saveHdrBytes : Nat := 128

/-- The bytes of a save image, as its SIZE gives them (R343). -/
def Dev.readSave (m : Mem) (d : Dev) (part ctx a : Nat) : Dev × Except (Nat × XlFault) (List Byte) :=
  let (d, h) := d.ctxRead m part ctx a saveHdrBytes
  match h with
  | .error f => (d, .error f)
  | .ok hs =>
    let n := field hs 0x40 8
    if field hs 0 4 != 0x56415356 || n ≤ saveHdrBytes then (d, .ok hs)
    else
      let (d, r) := d.ctxRead m part ctx (a + saveHdrBytes) (n - saveHdrBytes)
      (d, r.map fun more => hs ++ more)

/-- Every binding that an image parks exists in an instance: on the port it names, with its pattern and its count of
accepted tokens (R343) (DEDUCED, log entry 31). -/
def Inst.parksAll (x : Inst) (bs : List Byte) : Bool :=
  (parkedIn bs).all fun e => match lookup e.1 x.fab.vps with
    | some v => v.parked true && (v.bind.map fun b => (b.pat, b.passed)) == some e.2
    | none => false

/-- The snapshotted instance that a MARKER image continues: the lowest of its context, identity and round in which
every binding it parks exists (R343, R432) (DEDUCED, log entry 31). -/
def Dev.parkedFor (d : Dev) (ctx : Nat) (bs : List Byte) : Option Nat :=
  if field bs 6 1 != 1 then none
  else (d.insts.find? fun e => e.2.phase == .snapshotted && e.2.ctx == ctx
      && e.2.idhash == (bs.drop 0x10).take 32 && e.2.fab.round == field bs 0x30 8 && e.2.parksAll bs).map (·.1)

/-! ### Acceptance -/

/-- A launch accepted, with its reservations and its CFGID; or the result NOPLACE (R337 step 1, R353).
`org` restricts the placement (DEDUCED, log entry 31). -/
def Dev.accept (m : Mem) (d : Dev) (part : Nat) (bytes : List Byte) (r : LRec) (page : Nat)
    (org : Option (Nat × Nat)) : Dev × Option Nat :=
  let (d, hb) := d.ctxRead m part r.ctx r.image 96
  let h := imgHdr (match hb with
    | .ok bs => bs
    | .error _ => [])
  let (d, ports) := d.imgPorts m part r.ctx r.image h
  let (d, old) := if r.kind == 2 then
      let (d, sv) := d.readSave m part r.ctx r.save
      (d, match sv with
        | .ok bs => d.parkedFor r.ctx bs
        | .error _ => none)
    else (d, none)
  let parked : List Nat := match old.bind (fun k => d.inst k) with
    | some x => (x.fab.vps.filter fun v => v.2.parks).map (·.1)
    | none => []
  let spot := d.place part r.ctx h.w h.h fun q => match org with
    | some o => (q.row0, q.col0) == o
    | none => true
  match spot, d.reserve part (ports.filter fun v => !parked.contains v.1), old.or d.freeCfg with
  | some (row0, col0, plane), some mpts, some cfg =>
    if h.heavy > d.heavyFree part then (d, none)
    else
      ({ d with installs := d.installs ++
          [{ record := bytes, part := part, ctx := r.ctx, cfg := cfg, row0 := row0, col0 := col0
             w := h.w, h := h.h, plane := plane, heavy := h.heavy, mpts := mpts, page := page }] },
        some cfg)
  | _, _, _ => (d, none)

end Sys2Proof.Machine
end

