-- ==== Sys2Proof/Machine/Dispatcher.lean ====
section
/-! DEFINITION. The dispatcher: its queues (R332), QPOST and QCTL (R352 to R354), dependences (R329),
decisions (R333) and promotion (R334). -/

namespace Sys2Proof.Machine

/-! ### Queues -/

/-- A queue of the dispatcher; reset leaves it as `{}` (R332). -/
def Dev.queue (d : Dev) (q : Nat) : DQueue := (lookup q d.queues).getD {}

/-- The state with a queue changed. -/
def Dev.updQueue (d : Dev) (q : Nat) (f : DQueue → DQueue) : Dev :=
  { d with queues := insert q (f (d.queue q)) d.queues }

/-- Number of queues (R332). -/
def nQueues : Nat := 1024

/-- The record at the head of a queue. -/
def DQueue.head (q : DQueue) : Option LRec := q.entries.head?.bind parseLaunch

/-- The queue without its head. -/
def DQueue.pop (q : DQueue) : DQueue := { q with entries := q.entries.tail, met := [] }

/-- The partition a head is launched for. -/
def Dev.headPart (d : Dev) (q : Nat) (r : LRec) : Nat := (d.ctxPart r.ctx).getD (d.queue q).owner

/-- A producer that an import names has been installed (R330). -/
def Dev.imported (d : Dev) (i : Import) : Bool :=
  d.seen.contains i.pcfg && !((d.inst i.pcfg).isNone && d.installs.any (·.cfg == i.pcfg))

/-- The head of a queue is ready (R332): enabled, its dependences met, its producers installed. -/
def Dev.ready (d : Dev) (q : Nat) : Bool :=
  let x := d.queue q
  x.enabled && match x.head with
    | none => false
    | some r => (List.range r.deps.length).all x.met.contains && r.imports.all d.imported

/-- A promoted queue counts one level higher (R333). -/
def Dev.effLevel (d : Dev) (q : Nat) : Nat :=
  let x := d.queue q
  if x.promoted && d.schedAge != 0 && x.prio < 15 then x.prio + 1 else x.prio

/-! ### QPOST and QCTL -/

/-- A launch record read as its block is entered, kept for the commit (R352): `k` goes on with it. -/
def recFire (ga : Fin 32) (m : Mem) (e : Site) (d : Dev) (k : List Byte → Dev → Fired) : Fired :=
  let a := ((d.core e.core).reg ga).v.toNat
  if a % 64 != 0 then .fault d cMISALIGNED a 0
  else
    let (d, r) := Dev.devRead (d.entryMem e.core m) (d.coreAcc e.core .ctl .rd 0) (pieces a 256) d
    match r with
    | .error (va, f) => .fault d f.cause va (f.info 0)
    | .ok bs => k bs (d.updFrame e.core fun f => { f with recs := f.recs ++ [(e.slot, bs)] })

/-- An instruction that reads a launch record at entry and acts at commit (R352). -/
def Dev.recLate (i : Instr) (d : Dev) (ga : Fin 32) (m : Mem) (k : Site → List Byte → Dev → Fired)
    (com : CoreId → List Byte → Dev → Dev × Word) : Dev :=
  match d.focus with
  | .commit id slot =>
    match ((d.core id).frame).bind fun f => (f.cap slot).bind fun c =>
        if c.done then none else lookup slot f.recs with
    | some bs =>
      let (d, v) := com id bs d
      d.deliverLate id slot v
    | none => d
  | .none | .fire _ _ | .elem _ _ _ _ | .engine _ =>
    d.fire i false fun e _ d => recFire ga m e d (k e)

/-- The core runs at H. -/
def Dev.atH (d : Dev) (id : CoreId) : Bool := (d.core id).level == .h

/-- QPOST (R354). -/
def bodyQpost (o : OpY) (m : Mem) (d : Dev) : Dev :=
  d.recLate (.qpost o) o.ga m (fun _ _ d => .capture d) fun id bs d =>
    let part := d.selPart id
    let q := ((d.core id).reg o.gb).v.toNat
    match parseLaunch bs with
    | none => (d, resultWord rINVALID)
    | some r =>
      let x := d.queue q
      if !(d.part part).hasCtx r.ctx then (d, resultWord rINVALID)
      else if q ≥ nQueues || (!d.atH id && x.owner != part) then (d, resultWord rUNSEEN)
      else if !x.enabled then (d, resultWord rDISABLED)
      else if x.entries.length ≥ 64 then (d, resultWord rFULL)
      else (d.updQueue q fun x => { x with entries := x.entries ++ [bs] }, resultWord rOK)

/-- PRIV_VIOLATION of QCTL, found at entry (R298, R352, R354). -/
def qctlPre (assign : Bool) (o : OpY) (e : Site) (d : Dev) : Option (Nat × Nat × Nat) :=
  let q := ((d.core e.core).reg o.ga).v.toNat
  let word := match (d.core e.core).frame with
    | some f => f.word e.slot
    | none => 0
  let owner := match (d.core e.core).frame.bind (·.state0) with
    | some (_, os) => (lookup q os).getD 0
    | none => (d.queue q).owner
  if !d.atH e.core && (assign || (q < nQueues && owner != d.selPart e.core)) then
    some (cPRIV, e.addr, word)
  else none

/-- QCTL: `f` gets the queue and the value of gB (R354). -/
def Dev.qctl (i : Instr) (assign : Bool) (o : OpY) (d : Dev) (f : Nat → Nat → Dev → Dev × Word) : Dev :=
  d.late i (qctlPre assign o) fun id _ _ d =>
    let q := ((d.core id).reg o.ga).v.toNat
    if q ≥ nQueues then (d, resultWord rINVALID)
    else f q ((d.core id).reg o.gb).v.toNat d

/-- The queue status word (R354). -/
def Dev.queueStatus (d : Dev) (q : Nat) : Word :=
  let x := d.queue q
  BitVec.ofNat 64 (x.entries.length % 128 + (if x.enabled then 2 ^ 7 else 0) + x.prio % 16 * 2 ^ 8
    + x.owner % 16 * 2 ^ 12 + (if d.ready q then 2 ^ 16 else 0) + (if x.promoted && d.schedAge != 0 then 2 ^ 17 else 0))

/-- QCTL STATUS (R354). -/
def bodyQctlStatus (o : OpY) (_ : Mem) (d : Dev) : Dev :=
  d.qctl (.qctlStatus o) false o fun q _ d => (d, d.queueStatus q)

/-- QCTL PRIO (R354). -/
def bodyQctlPrio (o : OpY) (_ : Mem) (d : Dev) : Dev :=
  d.qctl (.qctlPrio o) false o fun q v d =>
    if v ≥ 16 then (d, resultWord rINVALID)
    else (d.updQueue q fun x => { x with prio := v }, resultWord rOK)

/-- QCTL ENABLE (R354). -/
def bodyQctlEnable (o : OpY) (_ : Mem) (d : Dev) : Dev :=
  d.qctl (.qctlEnable o) false o fun q _ d =>
    (d.updQueue q fun x => { x with enabled := true }, resultWord rOK)

/-- QCTL DISABLE (R354). -/
def bodyQctlDisable (o : OpY) (_ : Mem) (d : Dev) : Dev :=
  d.qctl (.qctlDisable o) false o fun q _ d =>
    (d.updQueue q fun x => { x with enabled := false }, resultWord rOK)

/-- The entries of a queue removed, each writing FAILVAL with PREEMPT_NOTICE (R354). -/
def Dev.flushQueue (m : Mem) (d : Dev) (q : Nat) : Dev :=
  let x := d.queue q
  let d := d.updQueue q fun x => { x with entries := [], met := [] }
  x.entries.foldl (fun d bs => match parseLaunch bs with
    | some r => d.failDone m ((d.ctxPart r.ctx).getD x.owner) r.ctx r.doneaddr cPREEMPT
    | none => d) d

/-- QCTL FLUSH (R354). -/
def bodyQctlFlush (o : OpY) (m : Mem) (d : Dev) : Dev :=
  d.qctl (.qctlFlush o) false o fun q _ d => (d.flushQueue m q, resultWord rOK)

/-- QCTL ASSIGN (R354). -/
def bodyQctlAssign (o : OpY) (_ : Mem) (d : Dev) : Dev :=
  d.qctl (.qctlAssign o) true o fun q v d =>
    if v ≥ 16 || (d.queue q).enabled || !(d.queue q).entries.isEmpty then (d, resultWord rINVALID)
    else (d.updQueue q fun x => { x with owner := v }, resultWord rOK)

/-! ### Dependences (R329) -/

/-- The head of a queue removed with FAILVAL and a report to the home CC (R329, R332). -/
def Dev.dropHead (m : Mem) (d : Dev) (q : Nat) (r : LRec) (cause addr info : Nat) : Dev :=
  let part := d.headPart q r
  (d.updQueue q DQueue.pop).failLaunch m part r.ctx (d.homePage part) r.doneaddr
    { cause := cause, cls := 2, cfgid := 0xFFFF, addr := addr, info := info % 2 ^ 64
      stage2 := info ≥ 2 ^ 64 }

/-- The word of a dependence, or the cause and INFO of the fault of its read (R329). -/
def Dev.depWord (m : Mem) (d : Dev) (part ctx : Nat) (p : Dep) : Dev × Except (Nat × Nat) Nat :=
  if Word.bit p.addr 63 then
    (d, match d.inst (Word.bits p.addr 47 32) with
      | none => .error (cPERMISSION, 0)
      | some x =>
        match x.bank (mtTile p.addr) (mtBank p.addr) with
        | none => .error (cPERMISSION, 0)
        | some b =>
          if x.ctx != ctx || x.retired || x.phase == .snapshotted || b.mode != .tile
              || mtOfs p.addr + 8 > bankBytes then .error (cPERMISSION, 0)
          else if b.sealed then .error (cSEALED, 0)
          else .ok (b.elem (mtOfs p.addr) 8))
  else
    let (d, r) := d.load m (d.deviceAcc part ctx .rd 0) p.addr 8
    (d, match r with
      | .ok (bs, _) => .ok (Word.ofBytes bs)
      | .error f => .error (f.cause, f.info 0))

/-- The word meets a dependence (R329). -/
def Dep.met (p : Dep) (w : Nat) : Bool :=
  if p.least then p.value ≤ w % 2 ^ 32 else w % 2 ^ 32 == p.value

/-- Dependences of a head read from number `k` on, up to the first fault. -/
def Dev.rereadFrom (m : Mem) (q : Nat) (r : LRec) : List Dep → Nat → Dev → Dev
  | [], _, d => d
  | p :: ps, k, d =>
    if (d.queue q).met.contains k then d.rereadFrom m q r ps (k + 1)
    else
      let (d, w) := d.depWord m (d.headPart q r) r.ctx p
      match w with
      | .error (c, i) => d.dropHead m q r c p.addr i
      | .ok w =>
        let d := if p.met w then d.updQueue q fun x => { x with met := x.met ++ [k] } else d
        d.rereadFrom m q r ps (k + 1)

/-- The dependences of a queue's head read that are not yet met. -/
def Dev.rereadHead (m : Mem) (d : Dev) (q : Nat) : Dev :=
  match (d.queue q).head with
  | none => d
  | some r => d.rereadFrom m q r r.deps 0

/-- DEPENDENCE_REREAD: the dispatcher reads the dependences of a head again (R329). -/
def bodyDependenceReread (q : Nat) (m : Mem) (d : Dev) : Dev := d.rereadHead m q

/-! ### Decisions (R332 to R334) -/

/-- The quota checks of a ready head: one that fails is removed (R332). -/
def Dev.quotaCheck (m : Mem) (d : Dev) (q : Nat) : Dev :=
  match (d.queue q).head with
  | none => d
  | some r =>
    let part := d.headPart q r
    let (d, hb) := d.ctxRead m part r.ctx r.image 96
    match hb with
    | .error (va, f) => d.dropHead m q r f.cause va (f.info 0)
    | .ok bs =>
      let h := imgHdr bs
      if !h.ok then d.dropHead m q r cCFGINVALID 0 (checkInfo 1)
      else if h.heavy > (d.part part).heavy.toNat then d.dropHead m q r cHEAVY 0 0
      else match (d.ctx r.ctx).pad with
        | some pad =>
          if pad.w < h.w || pad.h < h.h then d.dropHead m q r cCFGINVALID 0 (checkInfo 7) else d
        | none => d.dropHead m q r cCFGINVALID 0 (checkInfo 7)

/-- Partitions blocked at a level: each pair blocks its partition below its level (R333). -/
def isBlocked (bs : List (Nat × Nat)) (part level : Nat) : Bool :=
  bs.any fun b => b.1 == part && level < b.2

/-- The first queue of a list, not blocked at a level, whose head is placeable, launched; and the
partitions whose heads were not placeable. -/
def Dev.takeFirst (m : Mem) (level : Nat) (blocked : List (Nat × Nat)) :
    List Nat → List Nat → Dev → Dev × Option Nat × List Nat
  | [], unplaced, d => (d, none, unplaced)
  | q :: qs, unplaced, d =>
    let x := d.queue q
    if isBlocked blocked x.owner level then d.takeFirst m level blocked qs unplaced
    else match x.entries.head?, x.head with
      | some bs, some r =>
        let part := d.headPart q r
        let (d', got) := d.accept m part bs r (d.homePage part) none
        if got.isSome then (d', some q, unplaced)
        else d'.takeFirst m level blocked qs (unplaced ++ [x.owner])
      | _, _ => d.takeFirst m level blocked qs unplaced

/-- Queues in ascending number modulo 1,024 from a start. -/
def fromPtr (ptr : Nat) (qs : List Nat) : List Nat := qs.filter (ptr ≤ ·) ++ qs.filter (· < ptr)

/-- The decision at the levels of a list, highest first (R333). -/
def Dev.decide (m : Mem) (ready : List Nat) : List Nat → List (Nat × Nat) → Dev → Dev
  | [], _, d => d
  | l :: ls, blocked, d =>
    let c := ready.filter fun q => d.effLevel q == l
    let (d, won, unplaced) := d.takeFirst m l blocked (fromPtr (d.ptr.getD l 0) c) []
    match won with
    | some q => { (d.updQueue q fun x => { x.pop with wait := 0 }) with ptr := setAt d.ptr l ((q + 1) % nQueues) }
    | none =>
      let more := unplaced.filterMap fun p =>
        if (d.part p).backfill.getLsbD l then none else some (p, l)
      d.decide m ready ls (blocked ++ more)

/-- The head of a queue examined: its dependences are read, and a ready one meets the quota checks; when it is
removed its successor is examined in its place (R332). -/
def Dev.examine (m : Mem) (q : Nat) : Nat → Dev → Dev
  | 0, d => d
  | n + 1, d =>
    let had := (d.queue q).entries.length
    let d := if (d.queue q).enabled then d.rereadHead m q else d
    let d := if d.ready q then d.quotaCheck m q else d
    if (d.queue q).entries.length < had then d.examine m q n else d

/-- A queue whose ready head has waited SCHED_AGE µs is promoted for one decision (R334). -/
def Dev.promote (d : Dev) (q : Nat) : Dev :=
  if d.schedAge != 0 && d.ready q && (d.queue q).wait ≥ 1000 * d.schedAge.toNat then
    d.updQueue q fun x => { x with promoted := true }
  else d

/-- DISPATCH_DECISION: heads are examined, queues that have waited long enough are promoted, and at most one head is
taken (R332 to R334). -/
def bodyDispatchDecision (m : Mem) (d : Dev) : Dev :=
  let qs := d.queues.map (·.1)
  let d := qs.foldl (fun d q => d.examine m q 65) d
  let d := qs.foldl Dev.promote d
  let d := d.decide m (qs.filter d.ready) ((List.range 16).map (15 - ·)) []
  { d with queues := d.queues.map fun e =>
      (e.1, if e.2.promoted then { e.2 with promoted := false, wait := 0 } else e.2) }

/-- QUEUE_PROMOTION (R334). -/
def bodyQueuePromotion (q : Nat) (_ : Mem) (d : Dev) : Dev := d.promote q

/-- Wait times advanced: they run while a head is ready (R334). -/
def Dev.waitsRun (d : Dev) (ns : Nat) : Dev :=
  { d with queues := d.queues.map fun e =>
      (e.1, if d.ready e.1 then { e.2 with wait := e.2.wait + ns } else e.2) }

/-- One step of QPOST. -/
def execQpost (o : OpY) (s : State) : Host.Outcome State Fault Refusal :=
  act s (bodyQpost o)

/-- One step of QCTL_STATUS. -/
def execQctlStatus (o : OpY) (s : State) : Host.Outcome State Fault Refusal :=
  act s (bodyQctlStatus o)

/-- One step of QCTL_PRIO. -/
def execQctlPrio (o : OpY) (s : State) : Host.Outcome State Fault Refusal :=
  act s (bodyQctlPrio o)

/-- One step of QCTL_ENABLE. -/
def execQctlEnable (o : OpY) (s : State) : Host.Outcome State Fault Refusal :=
  act s (bodyQctlEnable o)

/-- One step of QCTL_DISABLE. -/
def execQctlDisable (o : OpY) (s : State) : Host.Outcome State Fault Refusal :=
  act s (bodyQctlDisable o)

/-- One step of QCTL_FLUSH. -/
def execQctlFlush (o : OpY) (s : State) : Host.Outcome State Fault Refusal :=
  act s (bodyQctlFlush o)

/-- One step of QCTL_ASSIGN. -/
def execQctlAssign (o : OpY) (s : State) : Host.Outcome State Fault Refusal :=
  act s (bodyQctlAssign o)

/-- One step of DEPENDENCE_REREAD. -/
def execDependenceReread (q : Nat) (s : State) : Host.Outcome State Fault Refusal :=
  act s (bodyDependenceReread q)

/-- One step of DISPATCH_DECISION. -/
def execDispatchDecision (s : State) : Host.Outcome State Fault Refusal :=
  act s (bodyDispatchDecision)

/-- One step of QUEUE_PROMOTION. -/
def execQueuePromotion (q : Nat) (s : State) : Host.Outcome State Fault Refusal :=
  act s (bodyQueuePromotion q)

end Sys2Proof.Machine
end

