-- ==== Sys2Proof/Machine/Collective.lean ====
section
/-! DEFINITION. Collectives and chaining: CRED, CBCST and CAGTH (R227 to R229, R350), CFGNX (R230) and
BTOK (R231). -/

namespace Sys2Proof.Machine

/-! ### Groups -/

/-- Ranks of a group as its list in memory gives them: package, CFGID, column and row (R350). -/
def parseRanks (bs : List Byte) (n : Nat) : List (Nat × Nat × Nat × Nat) :=
  (List.range n).map fun k =>
    let r := Word.ofBytes ((bs.drop (8 * k)).take 8)
    (Word.bits r 7 0, Word.bits r 23 8, Word.bits r 28 24, Word.bits r 32 29)

/-- A device read of a context's table by a CLE. -/
def Dev.cleRead (m : Mem) (d : Dev) (part ctx va n : Nat) : Dev × Option (List Byte) :=
  let (d, r) := d.load m { d.deviceAcc part ctx .rd 0 with unit := 400 } va n
  match r with
  | .ok (bs, none) => (d, some bs)
  | .ok (_, some _) | .error _ => (d, none)

/-- The group entry of a context: KIND and ranks, or none when the group is not set up (R227, R350). -/
def Dev.readGroup (m : Mem) (d : Dev) (part ctx grp : Nat) :
    Dev × Option (Bool × List (Nat × Nat × Nat × Nat)) :=
  let tab := (d.ctx ctx).cgtab.toNat
  if tab == 0 then (d, none)
  else
    let (d, e) := d.cleRead m part ctx (tab + 8 * grp) 8
    match e with
    | none => (d, none)
    | some bs =>
      let e := Word.ofBytes bs
      let at_ := Word.bits e 47 0
      let n := Word.bits e 55 48 + 1
      if at_ == 0 then (d, none)
      else
        let (d, l) := d.cleRead m part ctx at_ (8 * n)
        (d, l.map fun bs => (Word.bit e 56, parseRanks bs n))

/-- A context's group as the CLEs hold it, read again at the first call after SCHED_CGTAB is written
(R350) (DEDUCED, log entry 41). -/
def Dev.group (m : Mem) (d : Dev) (part ctx grp : Nat) : Dev × Group :=
  let g := (lookup grp (d.ctx ctx).groups).getD {}
  if g.reread then
    let (d, r) := d.readGroup m part ctx grp
    let g := { g with ranks := r, reread := false }
    (d.updCtx ctx fun c => { c with groups := insert grp g c.groups }, g)
  else (d, g)

/-- The state with a group changed. -/
def Dev.updGroup (d : Dev) (ctx grp : Nat) (f : Group → Group) : Dev :=
  d.updCtx ctx fun c => { c with groups := insert grp (f ((lookup grp c.groups).getD {})) c.groups }

/-- The rank of an agent in a group: a tile, or the CC of a vpage (R227, R350). -/
def Group.rankOf (g : Group) (self cfg col row : Nat) (tile : Bool) : Option Nat :=
  match g.ranks with
  | none => none
  | some (kind, rs) => if kind == tile then rs.findIdx? (· == (self, cfg, col, row)) else none

/-- A call added to a group, and counted for its rank (R227). -/
def Group.join (g : Group) (c : CollCall) : Group :=
  { g with
    calls := g.calls ++ [c]
    counts := insert c.rank ((lookup c.rank g.counts).getD 0 + 1) g.counts }

/-- The payload that carries a rank's call to the other packages (log entry 24). -/
opaque Config.peerCallBytes : Nat → Nat → CollCall → List Byte

/-- A call of a rank of this package: it joins its group here, and goes to each other package of the group
(R221, R227). -/
def Dev.joinGroup (d : Dev) (ctx grp : Nat) (c : CollCall) : Dev :=
  let g := (lookup grp (d.ctx ctx).groups).getD {}
  let others := match g.ranks with
    | some (_, rs) => ((rs.map fun (r : Nat × Nat × Nat × Nat) => r.1).filter (· != d.self)).eraseDups
    | none => []
  others.foldl (fun d k => d.sendPeer (Config.peerLink k) (Config.peerCircuit k 400 (64 * ctx + grp)) 5
    (d.tidOf c.part c.ctx) c.part 0 (Config.peerCallBytes ctx grp c)) (d.updGroup ctx grp fun g => g.join c)

/-! ### Calls -/

/-- TY of a collective (R228). -/
def collTy (o : OpS) : Ty := Ty.ofCode (o.sub.toNat / 16)

/-- The call of an element rank: a call that does not compute has a null contribution (R228). -/
def elemCall (o : OpS) (mnem rank : Nat) (x : Inst) (e : Site) (g : Gathered) : CollCall :=
  { rank := rank, mnem := mnem, op := o.sub.toNat % 16, ty := collTy o, bytes := 128
    root := laneOf 32 g.b.data 0
    tok := if g.computes then { data := g.a.data, p := g.org.isSome, org := g.org.getD 0 }
      else { n := true }
    elem := some (e.cfg, e.tile, e.blk, e.slot), ctx := x.ctx, part := x.part, record := e.record
    cfg := e.cfg }

/-- A result delivered to an element rank: one token, or for CAGTH a burst at T0 that counts as one
write (R228). -/
def collDeliver (i : Instr) (e : Site) (g : Gathered) (ts : List Tok) (d : Dev) : Fired :=
  if i.opcode == 0xB2 && g.computes then
    match i.head.t0 with
    | .out p => .done (d.updInst e.cfg fun x => match x.tile e.tile with
        | some t => x.setTile e.tile (t.burst e.blk e.record p.val ts false)
        | none => x) .none
    | .none | .left _ | .right _ | .pred _ => .done d .none
  else .done d (.tok (ts.headD {}))

/-- A collective in an element block: the call joins, and the instruction fires when the CLE holds its
result; a call re-run after a voided round receives the retained result (R229). -/
def collElem (i : Instr) (o : OpS) (m : Mem) (e : Site) (g : Gathered) (d : Dev) : Fired :=
  match d.inst e.cfg with
  | none => .wait
  | some x =>
    let (d, gr) := d.group m x.part x.ctx o.vp.val
    match gr.rankOf d.self e.cfg (tileCol e.tile) (tileRow e.tile) true with
    | none => .fault d cPERMISSION 0 4
    | some rank =>
      let place := 128 * e.blk + e.slot
      let mine := fun (k : KeptRes) =>
        k.cfg == e.cfg && k.tile == e.tile && k.place == place && k.record == e.record
      match gr.kept.find? mine with
      | some k => collDeliver i e g k.toks d
      | none =>
        let waits := gr.calls.any fun c =>
          c.elem == some (e.cfg, e.tile, e.blk, e.slot) && c.record == e.record
        if waits then .hold d
        else .hold (d.joinGroup x.ctx o.vp.val (elemCall o i.opcode rank x e g))

/-- A collective command at commit (R212, R213, R222, R227, R228). -/
def collCom (i : Instr) (o : OpS) (m : Mem) (id : CoreId) (fr : Frame) (c : Capture) (d : Dev) : Dev :=
  let core := d.core id
  let src := core.pat o.ap.val
  let dst := core.pat (o.aux.toNat % 16)
  let cw := core.cwPair true o.gb
  match d.instOf id with
  | none => d.txTrap cPERMISSION 0 4 c.slot
  | some (k, x) =>
    let cs := patCauses src false ++ patCauses dst false ++ d.cwCauses id cw
    let (ctx, part, _, _) := d.issuer id
    let (d, gr) := d.group m part ctx o.vp.val
    let page := match id with
      | .cc p => p.val
      | .sys _ => 0
    let rank := gr.rankOf d.self k (page % 16 - x.col0) (page / 16 - x.row0) false
    d.orTrap fr c.slot (cs ++ if rank.isNone then [(cPERMISSION, 0, 4)] else [])
      (d.queueCmd id none (.coll o.vp.val
        { rank := rank.getD 0, mnem := i.opcode, op := o.sub.toNat % 16, ty := collTy o
          bytes := patTotal src * patBytes src, root := (core.reg o.ga).v.toNat, src := src
          ctl := some (id, dst, (cw.getD (0, 0)).1, (cw.getD (0, 0)).2)
          who := { d.coreRec id with cls := 2 }, ctx := ctx, part := part, cfg := k }))

/-- A collective in either mode. -/
def Dev.collective (i : Instr) (o : OpS) (m : Mem) (d : Dev) : Dev :=
  d.fireCommit i true (fun _ _ _ => none) (fun e g d => collElem i o m e g d)
    fun id fr c d => collCom i o m id fr c d

/-- CRED (R228). -/
def bodyCred (o : OpS) (m : Mem) (d : Dev) : Dev := d.collective (.cred o) o m
/-- CBCST (R228). -/
def bodyCbcst (o : OpS) (m : Mem) (d : Dev) : Dev := d.collective (.cbcst o) o m
/-- CAGTH (R228). -/
def bodyCagth (o : OpS) (m : Mem) (d : Dev) : Dev := d.collective (.cagth o) o m

/-! ### CFGNX -/

/-- The current round made an instance's last; a second call changes nothing (R230) (DEDUCED, log entry 33). -/
def Inst.makeLast (x : Inst) (next : Nat) : Inst :=
  if x.last then x else { x with last := true, nextImage := next }

/-- CFGNX (R230). -/
def bodyCfgnx (o : OpS) (_ : Mem) (d : Dev) : Dev :=
  d.fireCommit (.cfgnx o) false
    (fun e _ d => match e.core, d.instOf e.core with
      | .cc p, some (_, x) => if x.lead == p.val then none else some (cPERMISSION, 0, 4)
      | _, _ => some (cPERMISSION, 0, 4))
    (fun e _ d => .done (d.updInst e.cfg fun x => x.makeLast 0) .none)
    fun id _ _ d => match d.instOf id with
      | some (k, _) => d.updInst k fun x => x.makeLast ((d.core id).reg o.ga).v.toNat
      | none => d

/-! ### BTOK -/

/-- A bank put among those whose token passes at the next round commit (R42, R231). -/
def Inst.passBank (x : Inst) (t b : Nat) : Inst :=
  if x.btoks.contains (t, b) then x else { x with btoks := x.btoks ++ [(t, b)] }

/-- BTOK in an element block: the binding's bank; a bank still awaited makes it wait (R42). -/
def btokElem (o : OpI) (e : Site) (_ : Gathered) (d : Dev) : Fired :=
  match d.inst e.cfg with
  | none => .wait
  | some x => match x.bound e.tile (o.imm.toNat % 16) with
    | none => .wait
    | some (bd, b) =>
      if b.passed then .fault d cPERMISSION (mtAddr bd.tile bd.bank 0) 2
      else if !b.owned then .wait
      else .done (d.updInst e.cfg fun x => x.passBank bd.tile bd.bank) .none

/-- BTOK at commit (R173, R231) (DEDUCED, log entry 36). -/
def btokCom (id : CoreId) (c : Capture) (d : Dev) : Dev :=
  let a := c.a.data.toNat % 2 ^ 64
  match d.mtOf id a with
  | none => d.txTrap cPERMISSION a 2 c.slot
  | some (k, _, t, mt) => match mt.banks[mtBank a]? with
    | none => d.txTrap cPERMISSION a 2 c.slot
    | some b =>
      if b.passed || mtOfs a != 0 then d.txTrap cPERMISSION a 2 c.slot
      else if !b.owned then d.txWait
      else d.updInst k fun x => x.passBank t (mtBank a)

/-- BTOK (R231). -/
def bodyBtok (o : OpI) (_ : Mem) (d : Dev) : Dev :=
  d.fireCommit (.btok o) false (fun _ _ _ => none) (btokElem o) fun id _ c d => btokCom id c d

/-- One step of CRED. -/
def execCred (o : OpS) (s : State) : Host.Outcome State Fault Refusal :=
  act s (bodyCred o)

/-- One step of CBCST. -/
def execCbcst (o : OpS) (s : State) : Host.Outcome State Fault Refusal :=
  act s (bodyCbcst o)

/-- One step of CAGTH. -/
def execCagth (o : OpS) (s : State) : Host.Outcome State Fault Refusal :=
  act s (bodyCagth o)

/-- One step of CFGNX. -/
def execCfgnx (o : OpS) (s : State) : Host.Outcome State Fault Refusal :=
  act s (bodyCfgnx o)

/-- One step of BTOK. -/
def execBtok (o : OpI) (s : State) : Host.Outcome State Fault Refusal :=
  act s (bodyBtok o)

end Sys2Proof.Machine
end

