-- ==== Sys2Proof/Machine/Trapping.lean ====
section
/-! DEFINITION. Delivery of trap records and reports: the S and H queues (R308 to R312), the event ring
(R314, R315), the poison log (R68, R69, R317), wakes and time (R325, R327), and the stall watchdog
(R50, R317). -/

namespace Sys2Proof.Machine

/-! ### Entries from the queues -/

/-- A core takes a record that waits in its own queue at this boundary: a CC a posted one (R310), a system core a
report on its own code (case 1 of R309) (DEDUCED, log entry 63). -/
def Dev.takesS (d : Dev) (id : CoreId) : Bool :=
  let c := d.core id
  c.frame.isNone && !c.queue.isEmpty && match c.thread with
    | .held _ => false
    | .none | .halted => !id.isSys
    | .live | .wfi _ => c.level == .u || (c.st.ie && !c.st.inh)

/-- TRAP_ENTRY: a core enters its handler with the first record of its queue, a CC at S and a system core at H (R308,
R309, R310). -/
def bodyTrapEntry (id : CoreId) (_ : Mem) (d : Dev) : Dev :=
  if d.takesS id then
    match firstRec (d.core id).queue with
    | none => d
    | some r =>
      let d := d.updCore id fun c => { c with queue := c.queue.filter (· != r) }
      d.enterTrap id r (d.core id).next
  else d

/-- A system core may take a record of the H queue (R312). -/
def Dev.takesH (d : Dev) (k : Fin 4) : Bool :=
  let c := d.core (.sys k)
  c.frame.isNone && c.st.ie && !c.st.inh && match c.thread with
    | .live | .wfi _ => true
    | .none | .held _ | .halted => false

/-- The system core that takes the next record of the H queue (R312). -/
def Dev.takerH (d : Dev) : Option (Fin 4) :=
  if d.hqueue.isEmpty then none
  else [(0 : Fin 4), 1, 2, 3].find? fun k => d.takesH k

/-- H_QUEUE_TAKE (R312). -/
def bodyHQueueTake (_ : Mem) (d : Dev) : Dev :=
  match d.takerH, firstRec d.hqueue with
  | some k, some r =>
    let d := { d with hqueue := d.hqueue.filter (· != r) }
    d.enterTrap (.sys k) r (d.core (.sys k)).next
  | _, _ => d

/-- TRAP_H_ACK written: the held agent of the record is released (R312). -/
def bodyTrapHAck (_ : CoreId) (v : Word) (_ : Mem) (d : Dev) : Dev :=
  let n := v.toNat % 2 ^ 32
  match d.heldRecs.find? (·.seqNo == n) with
  | some r => d.release n r.cause (v.getLsbD 32)
  | none => d

/-- PRIV_WAKE written: the WFI of the core it names ends (R325, R327). -/
def bodyPrivWake (_ : CoreId) (v : Word) (_ : Mem) (d : Dev) : Dev :=
  let n := v.toNat
  let id : Option CoreId :=
    if h : n < 128 then some (.cc ⟨n, h⟩)
    else if h : n - 128 < 4 then some (.sys ⟨n - 128, h⟩)
    else none
  match id with
  | none => d
  | some id => match (d.core id).thread with
    | .wfi _ => d.updCore id fun c => { c with thread := .live }
    | .none | .live | .held _ | .halted => d

/-- WFI_TIMEOUT: a timed WFI ends when its time has come (R325) (DESIGN CHOICE, log entry 49). -/
def bodyWfiTimeout (id : CoreId) (_ : Mem) (d : Dev) : Dev :=
  match (d.core id).thread with
  | .wfi (some b) =>
    if d.time ≥ b then d.updCore id fun c => { c with thread := .live } else d
  | .wfi none | .none | .live | .held _ | .halted => d

/-! ### The event ring -/

/-- The CC of case 5 of R309 for a record: that of its agent, which for a configuration is its lead CC of now. -/
def Dev.recPage (d : Dev) (r : TrapRec) : Nat :=
  match d.inst r.cfgid with
  | some x => if r.olev == 3 then x.lead else r.page
  | none => r.page

/-- A record delivered by case 4 or 5 of R309, after the event ring. -/
def Dev.deliverS (d : Dev) (r : TrapRec) : Dev :=
  match d.cores.find? fun e => e.2.thread == .held r.seqNo with
  | some (k, c) =>
    let id := coreOfKey k
    if c.level == .s && c.st.inh then d.postH r
    else (d.setCore id { c with thread := .live }).enterTrap id { r with holds := false } c.next
  | none => d.postS (d.recPage r) r

/-- Address of entry `n` of a context's event ring (R314). -/
def Context.evEntry (x : Context) (n : Nat) : Nat := x.evBase + 64 + 64 * (n % x.evSize)

/-- Bytes of a record as it stands in memory. -/
def TrapRec.bytes (r : TrapRec) (deleg : Bool) : List Byte := Word.toBytes 64 (r.bits deleg).toNat

/-- A device store for a context, with its fault if it has one. -/
def Dev.devStore (m : Mem) (d : Dev) (part ctx va : Nat) (bs : List Byte) : Dev × Bool :=
  let (d, f) := d.store m (d.deviceAcc part ctx .wr 1) va bs
  (d, f.isNone)

/-- EVENT_RING_WRITE: the oldest delegated record of a context goes to its ring. When the ring is full a
report is dropped and LOST counts it, and a record that holds its agent waits; when a write faults the
record goes to S (R314). -/
def bodyEventRingWrite (ctx : Nat) (m : Mem) (d : Dev) : Dev :=
  let x := d.ctx ctx
  match x.evq with
  | [] => d
  | r :: rest =>
    let (d1, ctl) := d.load m (d.deviceAcc r.part ctx .rd 0) x.evBase 20
    let toS := fun (d : Dev) => (d.updCtx ctx fun c => { c with evq := rest }).deliverS r
    if x.evBase == 0 || x.evSize == 0 then toS d
    else match ctl with
    | .error _ => toS d1
    | .ok (bs, _) =>
      let prod := Word.ofBytes (bs.take 8)
      let cons := Word.ofBytes ((bs.drop 8).take 8)
      let lost := Word.ofBytes (bs.drop 16)
      if (prod + 2 ^ 64 - cons) % 2 ^ 64 == x.evSize then
        if r.holds then d
        else
          let (d2, _) := d1.devStore m r.part ctx (x.evBase + 16) (Word.toBytes 4 (min (lost + 1) 0xFFFFFFFF))
          d2.updCtx ctx fun c => { c with evq := rest }
      else
        let (d2, ok2) := d1.devStore m r.part ctx (x.evEntry prod) (r.bytes true)
        if !ok2 then toS d2
        else
          let (d3, ok3) := d2.devStore m r.part ctx x.evBase (Word.toBytes 8 (prod + 1))
          if !ok3 then toS d3
          else d3.updCtx ctx fun c =>
            { c with
              evq := rest
              evAck := if r.holds || r.cause == cPOISONREPORT then c.evAck ++ [(prod, r)] else c.evAck }

/-- EVENT_RING_ACK: the ACK word of an entry retries or aborts its held agent, or advances the tail of
the poison log (R315). -/
def bodyEventRingAck (ctx entry : Nat) (m : Mem) (d : Dev) : Dev :=
  let x := d.ctx ctx
  match lookup entry x.evAck with
  | none => d
  | some r =>
    let (d, w) := d.load m (d.deviceAcc r.part ctx .rd 0) (x.evEntry entry + 56) 8
    let done := fun (d : Dev) => d.updCtx ctx fun c => { c with evAck := remove entry c.evAck }
    match w with
    | .error _ => d
    | .ok (bs, _) =>
      let v := Word.ofBytes bs
      if r.holds then
        if v == 1 then (done d).release r.seqNo r.cause false
        else if v == 2 then (done d).release r.seqNo r.cause true
        else d
      else if Word.bit v 63 then
        (done d).updCtx ctx fun c => { c with plogTail := v % 2 ^ 32 }
      else d

/-! ### The poison log -/

/-- The 16 bytes of an entry (R68). -/
def LogEntry.bytes (e : LogEntry) : List Byte :=
  Word.toBytes 16 (e.org.toNat + e.skind % 128 * 2 ^ 24 + e.loc % 2 ^ 17 * 2 ^ 31
    + e.cfg % 2 ^ 16 * 2 ^ 48 + e.round % 2 ^ 32 * 2 ^ 64 + e.record % 2 ^ 32 * 2 ^ 96)

/-- An access reaches a line whose tag check passes (R389). -/
def Dev.tagHolds (m : Mem) (d : Dev) (a : Acc) (va : Nat) : Dev × Bool :=
  let (d, r) := d.xlate m a va
  (d, match r with
    | .error _ => false
    | .ok h => h.peer.isSome || d.tagPass h.tid false (d.copyLine h (h.host / 64 * 64)))

/-- One entry written, or discarded when the ring is full or its write faults, as where the tag check fails (R69,
R317). -/
def Dev.plogOne (m : Mem) (part ctx : Nat) (d : Dev) (e : LogEntry) : Dev :=
  let x := d.ctx ctx
  let lost := fun (d : Dev) =>
    d.updCtx ctx fun c => { c with plogLost := min (c.plogLost + 1) 0xFFFFFFFF }
  if x.plogSize == 0 || (x.plogHead + 2 ^ 32 - x.plogTail) % 2 ^ 32 == x.plogSize then lost d
  else
    let at_ := x.plogBase + 16 * (x.plogHead % x.plogSize)
    let (d, checked) := d.tagHolds m (d.deviceAcc part ctx .wr 1) at_
    let (d', ok) := if checked then d.devStore m part ctx at_ e.bytes else (d, false)
    if ok then d'.updCtx ctx fun c => { c with plogHead := (c.plogHead + 1) % 2 ^ 32 } else lost d'

/-- Entries of one commit written in their order, with the POISON_REPORT that follows when there are some
and the context enables it (R69, R306, R316); `r` is the record without its cause. -/
def Dev.plogWrite (m : Mem) (d : Dev) (part ctx : Nat) (r : TrapRec) (es : List LogEntry) :
    Dev × Option TrapRec :=
  if es.isEmpty then (d, none)
  else
    let d := es.foldl (Dev.plogOne m part ctx) d
    let x := d.ctx ctx
    (d, if x.repen.getLsbD 0 then
      some { r with
        cause := cPOISONREPORT, cls := 2, slot := 0, addr := 0
        info := x.plogHead + es.length % 2 ^ 32 * 2 ^ 32 }
    else none)

/-- The poison log of one commit, its report posted to the S queue of `page` (R69). -/
def Dev.plogCommit (m : Mem) (d : Dev) (part ctx page : Nat) (r : TrapRec) (es : List LogEntry) : Dev :=
  match d.plogWrite m part ctx r es with
  | (d, some r) => d.post page r
  | (d, none) => d

/-! ### The stall watchdog -/

/-- A record of a configuration, without its cause and place (R305). -/
def Dev.instRec (d : Dev) (k : Nat) (x : Inst) : TrapRec :=
  { cause := 0, cls := 2, olev := 3, part := x.part, ctx := x.ctx, tid := d.tidOf x.part x.ctx
    cfgid := k, round := x.fab.round }

/-- The oldest waiting instruction of a configuration: record, tile, block and slot. -/
def Inst.oldest (x : Inst) : Option (Nat × Nat × Nat × Nat) :=
  let all := x.fab.tiles.flatMap fun (t, tl) => match tl.kind with
    | .mt _ => []
    | .ct c => (c.blks.mapIdx fun b blk => (blk.slots.mapIdx fun s sl => (sl.fired, t, b, s)).filter
        fun e => e.1 < blk.started).flatten
  all.foldl (fun acc e => match acc with
    | none => some e
    | some a => if e.1 < a.1 then some e else some a) none

/-- Agents of a configuration or a thread that the watchdog counts now (R317). -/
def Dev.watched (d : Dev) (w : Watched) : Bool :=
  match w with
  | .config k => match d.inst k with
    | none => false
    | some x => (x.phase == .running || x.phase == .boundary || x.phase == .stalled)
        && x.heldBy.isNone && !x.retired && d.activePlane (16 * x.row0 + x.col0) == x.plane
  | .core id => !id.isSys && (d.core id).thread == .live
  | .engine _ => false

/-- The report of a stalled agent (R306, R317). -/
def Dev.stallReport (d : Dev) (w : Watched) (us : Nat) : Dev :=
  let info := min us (2 ^ 64 - 1)
  match w with
  | .config k => match d.inst k with
    | none => d
    | some x =>
      let (rec, t, b, s) := x.oldest.getD (0, 0, 0, 0)
      if (d.ctx x.ctx).repen.getLsbD 2 then
        d.post x.lead { d.instRec k x with
          cause := cWATCHDOG, record := rec, tcol := tileCol t, trow := tileRow t, blk := b, slot := s
          info := info }
      else d
  | .core id =>
    let c := d.core id
    let slot := match c.frame with
      | some fr => (fr.blk.slots.findIdx? (·.fired == 0)).getD 0
      | none => 0
    if (d.ctx (d.accCtx id)).repen.getLsbD 2 then
      d.postCore id { d.coreRec id with cause := cWATCHDOG, cls := 2, slot := slot, info := info }
    else d
  | .engine _ => d

/-- The watchdog interval of an agent's context, in µs (R301). -/
def Dev.wdogOf (d : Dev) (w : Watched) : Nat :=
  match w with
  | .config k => match d.inst k with
    | some x => (d.ctx x.ctx).wdog
    | none => 0
  | .core id => (d.ctx (d.accCtx id)).wdog
  | .engine _ => 0

/-- STALL_WATCHDOG: an agent that has made no progress for TRAP_WDOG µs is reported once (R317)
(DEDUCED, log entry 43). -/
def bodyStallWatchdog (w : Watched) (_ : Mem) (d : Dev) : Dev :=
  match d.watch.find? (·.1 == w) with
  | none => d
  | some (_, t, reported) =>
    let us := (d.time - t) / 1000
    if reported || !d.watched w || us < d.wdogOf w then d
    else
      let d := d.stallReport w us
      { d with watch := d.watch.map fun e => if e.1 == w then (w, t, true) else e }

/-- One step of TRAP_ENTRY. -/
def execTrapEntry (id : CoreId) (s : State) : Host.Outcome State Fault Refusal :=
  act s (bodyTrapEntry id)

/-- One step of H_QUEUE_TAKE. -/
def execHQueueTake (s : State) : Host.Outcome State Fault Refusal :=
  act s (bodyHQueueTake)

/-- One step of TRAP_H_ACK. -/
def execTrapHAck (a0 : CoreId) (v : Word) (s : State) : Host.Outcome State Fault Refusal :=
  act s (bodyTrapHAck a0 v)

/-- One step of PRIV_WAKE. -/
def execPrivWake (a0 : CoreId) (v : Word) (s : State) : Host.Outcome State Fault Refusal :=
  act s (bodyPrivWake a0 v)

/-- One step of WFI_TIMEOUT. -/
def execWfiTimeout (id : CoreId) (s : State) : Host.Outcome State Fault Refusal :=
  act s (bodyWfiTimeout id)

/-- One step of EVENT_RING_WRITE. -/
def execEventRingWrite (ctx : Nat) (s : State) : Host.Outcome State Fault Refusal :=
  act s (bodyEventRingWrite ctx)

/-- One step of EVENT_RING_ACK. -/
def execEventRingAck (ctx entry : Nat) (s : State) : Host.Outcome State Fault Refusal :=
  act s (bodyEventRingAck ctx entry)

/-- One step of STALL_WATCHDOG. -/
def execStallWatchdog (w : Watched) (s : State) : Host.Outcome State Fault Refusal :=
  act s (bodyStallWatchdog w)

end Sys2Proof.Machine
end

