-- ==== Sys2Proof/Machine/Copies.lean ====
section
/-! DEFINITION. The copy engines: how a copy moves its granules (R222, R223), keyed and scale fills (R224,
R276, R278, R281), refetches (R437), host windows (R256, R420, R421), and how a copy ends. -/

namespace Sys2Proof.Machine

/-! ### The pieces of a copy -/

/-- The parts of `n` bytes from an address that lie each in one granule: address and length. -/
def granPieces (va n : Nat) : List (Nat × Nat) :=
  (List.range ((va + n + 31) / 32 - va / 32)).map fun i =>
    let g := (va / 32 + i) * 32
    (max g va, min (g + 32) (va + n) - max g va)

/-- A part of a copy's source: its granule, address, place in the byte stream of the copy, and length. An
element outside the address space is a part of its own. -/
structure CopyPiece where
  gran : Nat
  va : Nat
  off : Nat
  len : Nat
  deriving DecidableEq, Repr

/-- The parts of a copy's source in element order (R207, R223). -/
def Copy.pieces (c : Copy) : List CopyPiece :=
  let es := patBytes c.src
  (List.range (patTotal c.src)).flatMap fun n => match patAddr c.src n with
    | none => [{ gran := 2 ^ 60 + n, va := patVa c.src n, off := n * es, len := es }]
    | some a => (granPieces a es).map fun p =>
        { gran := p.1 / 32, va := p.1, off := n * es + (p.1 - a), len := p.2 }

/-- The source granules of a copy: each is read once (R223). -/
def Copy.granules (c : Copy) : List Nat := (c.pieces.map (·.gran)).eraseDups

/-- The parts of a copy's destination in element order: in a bank, places in its buffer, and in scale memory,
places there. Each granule is written whole (R223, R243). -/
def Copy.dstPieces (c : Copy) : List CopyPiece :=
  let n := patTotal c.src * patBytes c.src
  match c.dst with
  | .vport _ _ => []
  | .pattern dst => ({ c with src := dst } : Copy).pieces
  | .bank _ _ _ => (granPieces 0 n).map fun p => { gran := p.1 / 32, va := p.1, off := p.1, len := p.2 }
  | .scale _ _ src ofs len =>
    (granPieces ofs (min len (n - src))).map fun p =>
      { gran := p.1 / 32, va := p.1, off := src + (p.1 - ofs), len := p.2 }

/-- The destination granules of a copy. -/
def Copy.dstGranules (c : Copy) : List Nat := (c.dstPieces.map (·.gran)).eraseDups

/-- A byte of a copy's stream, once the granule that holds it has been read. -/
def Copy.byteAt (c : Copy) (ps : List CopyPiece) (i : Nat) : Option Byte :=
  (ps.find? fun p => p.off ≤ i && i < p.off + p.len).bind fun p =>
    (lookup p.gran c.got).bind fun bs => bs[p.va - p.gran * 32 + (i - p.off)]?

/-- The bytes of a part of the destination, once all have been read. -/
def Copy.bytesFor (c : Copy) (p : CopyPiece) : Option (List Byte) :=
  (List.range p.len).mapM fun i => c.byteAt c.pieces (p.off + i)

/-- Which of the copy engines' jobs a copy is: its command. -/
def Copy.job (c : Copy) : Nat := c.core.key * 2 ^ 32 + c.cmd

/-! ### Faults and accesses -/

/-- The state with a copy changed. -/
def Dev.updCopy (d : Dev) (id : Nat) (f : Copy → Copy) : Dev :=
  match lookup id d.copies with
  | some c => { d with copies := insert id (f c) d.copies }
  | none => d

/-- A copy stopped by a fault (R223) (DEDUCED, log entry 38). -/
def Dev.copyStops (d : Dev) (id cause addr info : Nat) : Dev :=
  d.updCopy id fun c => { c with fault := some (cause, addr, info) }

/-- An access of a copy: by a copy engine, for the thread that issued it (R362, R392). -/
def Dev.copyAcc (d : Dev) (c : Copy) (kind : AccKind) : Acc :=
  let core := d.cmdCore c.cmd c.core
  { unit := 300, job := c.job, hyp := c.hyp, part := c.part, ctx := c.ctx
    path := if c.key.isSome && kind == .rd then .key else .scopy, kind := kind, code := 5
    who := { c.who with olev := c.olev, ctx := c.ctx, tid := d.tidOf c.part c.ctx }
    page := core.key % 128, core := some core }

/-- INFO of a fault of a copy; the key causes name its handle (R276, R306). -/
def Copy.info (c : Copy) (f : XlFault) : Nat :=
  if f.cause == cKEYMISMATCH || f.cause == cKEYNOTREADY then match c.key with
    | some (_, s, _, kh) => keyInfo kh s
    | none => f.info 5
  else f.info 5

/-! ### Host windows -/

/-- The number of a flow: its partition, and its queue pair in the low 16 bits (R5). -/
def EthFlow.num (e : EthFlow) : Nat := e.part * 2 ^ 16 + e.qp

/-- The flow that an entry of the host-endpoint table names (R420). -/
def Dev.flowOf (d : Dev) (part e : Nat) : EthFlow :=
  let eth := (d.part part).eth.toNat
  let qp := Word.bits e 31 16
  { part := part, qp := qp, port := Word.bits e 1 1, prio := Config.ethPriority part qp % 8
    vlan := Word.bits eth 27 16, remoteQp := Word.bits e 55 32, ipv6 := Word.bit e 2
    remoteIp := BitVec.ofNat 128 (Word.bits e 255 128) }

/-- A message of a flow may not go now: its priority is paused on its port, its flow is slowed, or an earlier message
of the flow waits (R5). -/
def Dev.ethHeld (d : Dev) (waiting : List OutMsg) (e : EthFlow) : Bool :=
  d.paused.contains (e.port, e.prio) || d.slowed.contains e.num
    || waiting.any fun o => o.flow.map (·.num) == some e.num

/-- A RoCEv2 message sent, or kept back (R5). -/
def Dev.roce (d : Dev) (kind : Nat) (e : EthFlow) (body : List Nat) : Dev :=
  let o : OutMsg := { kind := kind, link := e.qp, body := body, flow := some e }
  if d.ethHeld d.ethq e then { d with ethq := d.ethq ++ [o] } else { d with out := d.out ++ [o] }

/-- The messages kept back that may go now sent, each flow's in order (R5). -/
def Dev.flushEth (d : Dev) : Dev :=
  d.ethq.foldl (fun (d : Dev) o => match o.flow with
    | some e =>
      if d.ethHeld d.ethq e then { d with ethq := d.ethq ++ [o] } else { d with out := d.out ++ [o] }
    | none => { d with out := d.out ++ [o] }) { d with ethq := [] }

/-- Time passes for a flow that is slowed: its oldest message goes unless its priority is paused, and a flow with
none that waits is slowed no more; the manual gives no rate (R5) (DESIGN CHOICE, log entry 20). -/
def Dev.easeFlow (d : Dev) (k : Nat) : Dev :=
  match d.ethq.find? fun o => o.flow.map (·.num) == some k with
  | none => { d with slowed := d.slowed.filter (· != k) }
  | some o =>
    if o.flow.any fun e => d.paused.contains (e.port, e.prio) then d
    else { d with ethq := d.ethq.erase o, out := d.out ++ [o] }

/-- An entry of the host-endpoint table that a copy may use: its flow, remote base and RKEY (R420, R421). -/
def Dev.endpoint (m : Mem) (d : Dev) (c : Copy) (w page : Nat) : Dev × Option (EthFlow × Nat × Nat) :=
  let sup := d.supCtx c.part
  let (d, r) := (d.readGuest m unitDevice c.part sup (64 * w) 64).posted (d.deviceAcc c.part sup .rd 0) 0
  match r with
  | .error _ => (d, none)
  | .ok (e, _) =>
    let eth := (d.part c.part).eth.toNat
    let f := d.flowOf c.part e
    if Word.bit e 0 && f.qp < eth % 2 ^ 16 && Word.bit eth (28 + f.port) && page < Word.bits e 351 320 then
      (d, some (f, Word.bits e 319 256, Word.bits e 95 64))
    else (d, none)

/-- Host address of a byte of a window (R421). -/
def hostAddr (base gpa : Nat) : Nat := (base + gpa) % 2 ^ 64

/-- Kinds of RoCEv2 messages of a copy: an RDMA WRITE and an RDMA READ. -/
def roceWrite : Nat := 0x11
def roceRead : Nat := 0x12

/-- An RDMA READ request for a granule of a copy's source (R421). -/
def Dev.askHost (m : Mem) (d : Dev) (id : Nat) (c : Copy) (h : Hit) (w gran n : Nat) : Dev :=
  let (d, e) := d.endpoint m c w (h.gpa / 65536)
  match e with
  | none => d.copyStops id cPERMISSION h.va 5
  | some (f, base, rkey) =>
    let a := hostAddr base h.gpa
    ((d.roce roceRead f [a, rkey, n]).updCopy id fun c =>
      { c with asked := c.asked ++ [(gran, f.qp, a)] }).meterTid h.tid 5 64

/-- An RDMA WRITE of bytes of a copy (R256, R421). -/
def Dev.tellHost (m : Mem) (d : Dev) (id : Nat) (c : Copy) (h : Hit) (w : Nat) (bs : List Byte) :
    Dev × Bool :=
  let (d, e) := d.endpoint m c w (h.gpa / 65536)
  match e with
  | none => (d.copyStops id cPERMISSION h.va 5, false)
  | some (f, base, rkey) =>
    let a := hostAddr base h.gpa
    (((d.roce roceWrite f (a :: rkey :: bs.map fun (b : Byte) => b.toNat)).updCopy
      id fun c => { c with unacked := c.unacked ++ [(f.qp, a)] }).meterTid h.tid 5 bs.length, true)

/-! ### Reading and writing a granule -/

/-- The key under which a source granule of a keyed copy lies: its page names the record's key slot, and the slot
still holds the key that the command was bound to (R273, R276, R279, R281) (DEDUCED, log entry 39). -/
def Dev.copyKey (d : Dev) (c : Copy) (h : Hit) : Except (Nat × Nat) (Option (BitVec 128)) :=
  match c.key with
  | none => .ok none
  | some (lay, slot, gen, kh) =>
    let s := d.keySlot c.part slot
    if h.kslot != laySlot lay then .error (cKEYMISMATCH, keyInfo kh slot)
    else match s.share0 with
      | some k =>
        if s.gen != gen || !s.ready then .error (cKEYNOTREADY, keyInfo kh slot) else .ok (some k)
      | none => .error (cKEYNOTREADY, keyInfo kh slot)

/-- A source granule read: a request to the host for one in a host window. -/
def Dev.copyRead (m : Mem) (d : Dev) (id : Nat) (c : Copy) (gran va : Nat) : Dev :=
  let a := d.copyAcc c .rd
  if gran ≥ 2 ^ 60 then d.copyStops id cTRANSLATION va 5
  else
    let (d, r) := d.xlate m a (gran * 32)
    match r with
    | .error f => d.copyStops id f.cause va (c.info f)
    | .ok h => match h.window with
      | some w => d.askHost m id c h w gran 32
      | none =>
        let (d, r) := d.load m a (gran * 32) 32
        match r with
        | .error f => d.copyStops id f.cause va (c.info f)
        | .ok (bs, _) => match d.copyKey c h with
          | .error (cause, info) => d.copyStops id cause va info
          | .ok k => d.updCopy id fun c => { c with got := c.got ++ [(gran, bs)], owner := k }

/-- Parts of a destination written in order, up to the first fault. -/
def Dev.copyStores (m : Mem) (id : Nat) (c : Copy) : List (Nat × Nat) → List Byte → Dev → Dev × Bool
  | [], _, d => (d, true)
  | (va, n) :: rest, bs, d =>
    let a := d.copyAcc c .wr
    let (d, r) := d.xlate m a va
    match r with
    | .error f => (d.copyStops id f.cause va (c.info f), false)
    | .ok h =>
      let (d, ok) := match h.window with
        | some w =>
          let (d, r) := d.dirtyStep m a va h
          match r with
          | .error f => (d.copyStops id f.cause va (c.info f), false)
          | .ok h => d.tellHost m id c h w (bs.take n)
        | none =>
          let (d, f) := d.store m a va (bs.take n)
          match f with
          | some f => (d.copyStops id f.cause va (c.info f), false)
          | none => (d, true)
      if ok then Dev.copyStores m id c rest (bs.drop n) d else (d, false)

/-- Bytes written in a buffer of a bank by a fill (R171): their rows lose the S flag. -/
def Bank.fillBytes (b : Bank) (off : Nat) (bs : List Byte) : Bank :=
  let rows := (List.range (bs.length)).map fun i => (off + i) / 128
  { b.write off bs with
    sflags := b.sflags.filter fun r => !rows.contains r
    bad := b.bad.filter fun g => !(off < 32 * g + 32 && 32 * g < off + bs.length) }

/-- The owner's layer over a row of a copy's stream: an element is 128 bytes (R274, R276). -/
def Copy.layer (c : Copy) (row : Nat) : Option OwnerLayer :=
  match c.key, c.owner with
  | some (lay, _, _, _), some k =>
    some { key := k, nonce := layNonce lay, ofs := patVa c.src row - layBase lay }
  | _, _ => none

/-- Bytes of a buffer written by a copy's fill; the rows of a keyed one keep the owner's layer (R274). -/
def Bank.fillPiece (b : Bank) (c : Copy) (base : Nat) (p : CopyPiece) (bs : List Byte) : Bank :=
  let b := b.fillBytes (base + p.va) bs
  match c.layer (p.va / 128) with
  | some l => { b with layers := insert ((base + p.va) / 128) l b.layers }
  | none => b

/-- Bytes of a keyed copy's stream into scale memory, as the read port gives them (R274, R437). -/
def Copy.clear (c : Copy) (p : CopyPiece) (bs : List Byte) : List Byte :=
  match c.layer (p.off / 128) with
  | some l =>
    (l.remove (List.replicate (p.off % 128) 0 ++ bs)).drop (p.off % 128)
  | none => bs

/-- A destination granule written whole, once all its bytes have been read (R223, R243). -/
def Dev.copyWrite (m : Mem) (d : Dev) (id : Nat) (c : Copy) (gran : Nat) : Dev :=
  let ps := c.dstPieces.filter (·.gran == gran)
  let done := fun (d : Dev) => d.updCopy id fun c => { c with moved := c.moved ++ [gran] }
  match ps.mapM fun p => (c.bytesFor p).map fun bs => (p, bs) with
  | none => d
  | some ws => match c.dst with
    | .vport _ _ => d
    | .scale cfg tile _ _ _ =>
      done (d.updInst cfg fun x => match x.ct tile with
        | some t => x.setCt tile { t with me := { t.me with
            scale := ws.foldl (fun m w => writeAll m (bytesAt w.1.va (c.clear w.1 w.2))) t.me.scale } }
        | none => x)
    | .bank cfg tile bank => match (d.inst cfg).bind fun x => x.bank tile bank with
      | none => d.copyStops id cPERMISSION (mtAddr tile bank 0) 5
      | some b =>
        let base := b.bufBase (c.buf.getD 0)
        let b := ws.foldl (fun (b : Bank) w => b.fillPiece c base w.1 w.2) b
        done (d.updInst cfg fun x => x.setBank tile bank b)
    | .pattern _ =>
      let (d, ok) := ws.foldl (fun (acc : Dev × Bool) w =>
        if acc.2 then
          if w.1.gran ≥ 2 ^ 60 then (acc.1.copyStops id cTRANSLATION w.1.va 5, false)
          else Dev.copyStores m id c [(w.1.va, w.1.len)] w.2 acc.1
        else acc) (d, true)
      if ok then done d else d

/-! ### Bank fills -/

/-- Another copy is filling a bank, or a fill of it that was made before is to be made again first
(R437) (DEDUCED, log entry 39). -/
def Dev.fillsNow (d : Dev) (id : Nat) (c : Copy) (cfg tile bank : Nat) : Bool :=
  d.copies.any fun e => e.1 != id && e.2.dst == .bank cfg tile bank && e.2.fault.isNone
    && (e.2.buf.isSome || (e.2.again && !c.refetch))

/-- A fill begins: it waits while the buffer at the fill pointer is FULL or another fill of the bank runs,
and only a keyed fill may enter a sealed bank, which it seals (R171, R278) (DEDUCED, log entry 38). -/
def Dev.beginFill (d : Dev) (id : Nat) (c : Copy) (cfg tile bank : Nat) : Dev :=
  match (d.inst cfg).bind fun x => x.bank tile bank with
  | none => d.copyStops id cPERMISSION (mtAddr tile bank 0) 5
  | some b =>
    if b.sealed && c.key.isNone then d.copyStops id cSEALED (mtAddr tile bank 0) 5
    else if b.fillFull || d.fillsNow id c cfg tile bank then d
    else (d.updCopy id fun c => { c with buf := some b.fillPtr }).updInst cfg fun x =>
      x.setBank tile bank { b with sealed := b.sealed || c.key.isSome }

/-- A refetch waits for those of earlier fills of the instance; one into a held buffer does not wait for a fill
that is made again, which may itself wait for a release (R437) (DEDUCED, log entry 32). -/
def Dev.refetchTurn (d : Dev) (id : Nat) (c : Copy) : Bool :=
  !c.refetch || d.copies.all fun e =>
    !(e.1 != id && e.2.refetch && e.2.dst.inst == c.dst.inst && (c.again || !e.2.again)
      && (e.2.made < c.made || (e.2.made == c.made && e.1 < id)))

/-- One step of a copy engine for a copy: a fill begins, or a granule of the source is read, or one of the
destination is written (DEDUCED, log entry 15). -/
def Dev.copyStep (m : Mem) (d : Dev) (id : Nat) (write : Bool) (gran : Nat) : Dev :=
  match lookup id d.copies with
  | none => d
  | some c =>
    if c.fault.isSome || !d.refetchTurn id c then d
    else
      let d := { d with focus := .engine c.core }
      let go :=
        if write then
          if c.moved.contains gran || !c.dstGranules.contains gran then d
          else (d.copyWrite m id c gran).progress (.engine id)
        else if (lookup gran c.got).isSome || c.asked.any (·.1 == gran) then d
        else match c.pieces.find? (·.gran == gran) with
          | none => d
          | some p => (d.copyRead m id c gran p.va).progress (.engine id)
      match c.dst, c.buf with
      | .bank cfg tile bank, none => d.beginFill id c cfg tile bank
      | .vport _ _, _ => d
      | .bank _ _ _, some _ | .pattern _, _ | .scale _ _ _ _ _, _ => go

/-! ### The end of a copy -/

/-- A copy gone, with its command (R213). -/
def Dev.endCopy (d : Dev) (id : Nat) (c : Copy) : Dev :=
  let d := { d with copies := remove id d.copies, watch := d.watch.filter (·.1 != .engine id) }
  if c.refetch then d
  else d.endCmd c.cmd

/-- The report of a fault of a copy: to the issuing thread's CC, or for a refetch to the lead CC of its
configuration, which ends (R223, R309, R345) (DEDUCED, log entry 32). -/
def Dev.copyReport (d : Dev) (c : Copy) (cause addr info : Nat) : Dev :=
  let at_ := fun (r : TrapRec) => { r with
    cause := cause, cls := 2, addr := addr, info := info % 2 ^ 64, stage2 := info ≥ 2 ^ 64 }
  match c.refetch, c.dst.inst with
  | true, some cfg => match d.inst cfg with
    | some x => (d.post x.lead (at_ (d.instRec cfg x))).abortInst cfg cause
    | none => d
  | _, _ =>
    d.postCore (d.cmdCore c.cmd c.core) (at_ { c.who with olev := c.olev, ctx := c.ctx })

/-- COPY_FAULT: a copy that has met a fault ends with its report, and without its completion word (R223). -/
def bodyCopyFault (id : Nat) (_ : Mem) (d : Dev) : Dev :=
  match lookup id d.copies with
  | none => d
  | some c => match c.fault with
    | none => d
    | some (cause, addr, info) => (d.copyReport c cause addr info).endCopy id c

/-- Every payload byte of a copy has performed at its destination (R222, R256). -/
def Dev.copyDone (d : Dev) (c : Copy) : Bool :=
  match c.dst with
  | .vport cfg vp => match ((d.inst cfg).bind fun x => x.vp vp) with
    | some v => match v.bind with
      | some b => b.kind != .copyIn || b.passed ≥ patTotal c.src
      | none => true
    | none => true
  | .bank _ _ _ | .pattern _ | .scale _ _ _ _ _ =>
    c.asked.isEmpty && c.unacked.isEmpty && c.granules.all (fun g => (lookup g c.got).isSome)
      && c.dstGranules.all c.moved.contains && !d.peerAwaits 300 c.job

/-- A bank at the end of a fill by a copy: FULL is set, and a fill of an INPUT bank or a sealed one is
recorded with its captured command (R171, R437). -/
def Bank.copied (b : Bank) (c : Copy) (made : Nat) : Bank :=
  let cap : CapFill :=
    { pat := c.src, ctx := c.ctx, part := c.part, index := (b.caps.map (·.index + 1)).foldl max 0
      buf := b.fillPtr, key := c.key.map fun k => (k.2.1, k.2.2.1)
      handle := match c.key with
        | some k => k.2.2.2
        | none => 0
      layout := match c.key with
        | some k => k.1
        | none => 0
      scale := c.scale, made := made }
  { b.endFill with caps := if b.cls == .input || c.key.isSome then b.caps ++ [cap] else b.caps }

/-- COPY_COMPLETE: after every payload byte has performed, a fill is FULL, the completion word is written, which
waits for room in a versioned word, and the command ends (R171, R198, R222). -/
def bodyCopyComplete (id : Nat) (m : Mem) (d : Dev) : Dev :=
  match lookup id d.copies with
  | none => d
  | some c =>
    if c.fault.isSome || !d.copyDone c then d
    else
      let d0 := d
      let d := match c.dst with
        | .bank cfg tile bank =>
          if c.refetch && !c.again then d
          else d.updInst cfg fun x => match x.bank tile bank with
            | some b =>
              { x.setBank tile bank (b.copied c (if c.again then c.made else x.fills)) with
                fills := x.fills + 1 }
            | none => x
        | .pattern _ | .vport _ _ | .scale _ _ _ _ _ => d
      let keeps := match c.dst with
        | .vport _ _ => true
        | .pattern _ | .bank _ _ _ | .scale _ _ _ _ _ => false
      let ended := if keeps then { d with copies := remove id d.copies } else d.endCopy id c
      match c.cw with
      | none => ended
      | some (a, v) =>
        let (d1, r) := ended.completionWord m { d.copyAcc c .wr with path := .scopy } c.cfg a v
        match r with
        | .error f => d1.copyReport { c with core := d.cmdCore c.cmd c.core } f.cause a (f.info 5)
        | .ok true => d1
        | .ok false => d0

/-- One step of COPY_FAULT. -/
def execCopyFault (id : Nat) (s : State) : Host.Outcome State Fault Refusal :=
  act s (bodyCopyFault id)

/-- One step of COPY_COMPLETE. -/
def execCopyComplete (id : Nat) (s : State) : Host.Outcome State Fault Refusal :=
  act s (bodyCopyComplete id)

end Sys2Proof.Machine
end

