-- ==== Sys2Proof/Machine/StreamEngine.lean ====
section
/-! DEFINITION. The scoreboards starting commands (R213, R214), and the stream engines: fetching, delivering
and raising fetch-ahead faults of input and gather streams, staging of output, scatter and update streams
(R209, R214 to R218, R222, R225, R226, R373, R375). -/

namespace Sys2Proof.Machine

/-! ### Sources and rounds (R36) -/

/-- An input virtual port of an instance is exhausted: all elements of its binding have been delivered, or
its binding has ended (R36, R214). One that no binding has used yet is a source that is not exhausted (DESIGN CHOICE,
log entry 58). -/
def Vp.exhausted (v : Vp) : Bool :=
  match v.bind with
  | some b => b.kind != .output && b.passed ≥ patTotal b.pat
  | none => v.spent

/-- The sources of an instance may admit another record, `n` admitted so far (R36, R38). -/
def Inst.admits (x : Inst) (n : Nat) : Bool := x.phase == .running && !x.paused && n < x.roundE

/-- A block that starts its records from its counters: no port it reads is fed by anything but a delay line
(R25, R36). -/
def Tile.selfStarts (t : Tile) (ports : List Nat) : Bool :=
  ports.all fun p => match lookup p t.inp with
    | some q => q.feeder == .delay
    | none => false

/-- Input ports a block reads (R25). -/
def Blk.ports (b : Blk) : List Nat :=
  (b.slots.filterMap fun s => match s.ins with
    | .rdp o => some o.imm.toNat
    | _ => none).eraseDups

/-- Records each source has admitted in the round (R36). -/
def Inst.admitted (x : Inst) : List Nat :=
  (x.fab.vps.filterMap fun v => if v.2.dirOut then none else some v.2.adm) ++
    x.fab.tiles.flatMap fun t => match t.2.kind with
      | .mt _ => []
      | .ct c => c.blks.filterMap fun b =>
          if !b.slots.isEmpty && t.2.selfStarts b.ports then some (b.started - b.base) else none

/-- The end of the round brought forward by a staging window that reaches its high mark (R36). -/
def Inst.bringForward (x : Inst) : Inst := { x with roundE := min x.roundE (x.admitted.foldl max 0) }

/-! ### Starting commands (R213) -/

/-- A virtual port is FREE: no binding uses it, as its own port or as an index port. -/
def Inst.vpFree (x : Inst) (n : Nat) : Bool :=
  (match x.vp n with
    | some v => v.bind.isNone
    | none => true) &&
  x.fab.vps.all fun e => match e.2.bind with
    | some b => !((b.kind == .gather || b.kind == .scatter || b.kind == .update) && b.idxVp == n)
    | none => true

/-- The command at a place of a scoreboard queue may start. -/
def Dev.mayStart (d : Dev) (c : Core) (k : Nat) (cmd : Cmd) : Bool :=
  let before := c.board.take k
  !cmd.started
    && before.all (fun e => match e.kind with
      | .sbar => false
      | .bind _ | .copy _ | .coll _ _ => true)
    && match cmd.kind with
      | .sbar => before.isEmpty
      | .coll g _ => before.all fun e => match e.kind with
          | .coll h _ => h != g || e.started
          | .bind _ | .copy _ | .sbar => true
      | .bind b => match cmd.vp with
          | none => true
          | some (cfg, vp) =>
            let vps := if b.kind == .input || b.kind == .output then [vp] else [vp, b.idxVp]
            before.all (fun e => !vps.any fun n => e.names cfg n)
              && match d.inst cfg with
                | some x => vps.all x.vpFree
                | none => true
      | .copy _ => match cmd.vp with
          | none => true
          | some (cfg, vp) => before.all (fun e => !e.names cfg vp)
              && match d.inst cfg with
                | some x => x.vpFree vp
                | none => true

/-- A command of a core at a boundary of its queue marked started. -/
def Dev.startCmd (d : Dev) (id : CoreId) (n : Nat) : Dev :=
  d.updCore id fun c => { c with board := c.board.map fun e => if e.id == n then { e with started := true } else e }

/-- A virtual port with a new binding: its window starts empty and its status anew (R214, R215). -/
def Inst.bindVp (x : Inst) (n : Nat) (b : VpBind) : Inst :=
  match x.vp n with
  | none => x
  | some v => x.setVp n { v with
      bind := some b, ended := false, killed := false, short := false, overran := false, fault := 0
      elems := 0, spent := false, discards := false }

/-- The bytes of a pattern's elements that a collective reads, by the CLE, in element order; the first fault
with its address. -/
def Dev.readElems (m : Mem) (a : Acc) (p : BitVec 512) : List Nat → Dev → Dev × Except (Nat × XlFault) (List Byte)
  | [], d => (d, .ok [])
  | n :: rest, d => match patAddr p n with
    | none => (d, .error (patVa p n, { cause := cTRANSLATION }))
    | some va =>
      let (d, r) := d.loadSpan m a va (patBytes p)
      match r with
      | .error f => (d, .error (va, f))
      | .ok (bs, _) =>
        let (d, r) := Dev.readElems m a p rest d
        (d, match r with
          | .error e => .error e
          | .ok cs => .ok (bs ++ cs))

/-- A collective starts: its contribution is read and its call joins the group; a fault ends the command
with a report (R228, R303, R373). -/
def Dev.startColl (m : Mem) (d : Dev) (id : CoreId) (n grp : Nat) (c : CollCall) : Dev :=
  let a := { d.coreAcc id .scopy .rd 5 with
    unit := 400, hyp := false, part := c.part, ctx := c.ctx
    who := { c.who with ctx := c.ctx } }
  let (d, r) := Dev.readElems m a c.src (List.range (patTotal c.src)) d
  match r with
  | .error (va, f) =>
    let info := f.info 5
    (d.endCmd n).postAcc a { a.who with
      cause := f.cause, addr := va, info := info % 2 ^ 64, stage2 := info ≥ 2 ^ 64 }
  | .ok bs => (d.startCmd id n).joinGroup c.ctx grp { c with data := bs, cmd := n }

/-- SCOREBOARD_COMMAND_START (R213, R214). -/
def bodyScoreboardCommandStart (id : CoreId) (k : Nat) (m : Mem) (d : Dev) : Dev :=
  let c := d.core id
  match c.board[k]? with
  | none => d
  | some cmd =>
    if !d.mayStart c k cmd then d
    else match cmd.kind, cmd.vp with
      | .sbar, _ => d.endCmd cmd.id
      | .coll g call, _ => d.startColl m id cmd.id g call
      | .bind b, some (cfg, vp) => match (d.inst cfg).bind (·.vp vp) with
        | none => d.endCmd cmd.id
        | some _ => (d.startCmd id cmd.id).updInst cfg fun x => x.bindVp vp { b with id := cmd.id }
      | .bind _, none => d.endCmd cmd.id
      | .copy cp, vp =>
        let d := d.startCmd id cmd.id
        let d := { d with copies := insert d.nextCopy { cp with cmd := cmd.id } d.copies, nextCopy := d.nextCopy + 1 }
        let d := d.progress (.engine (d.nextCopy - 1))
        match vp with
        | none => d
        | some (cfg, vp) => d.updInst cfg fun x => x.bindVp vp
            { id := cmd.id, kind := .copyIn, pat := cp.src, ctx := cp.ctx, part := cp.part }

/-! ### Accesses of an MPT -/

/-- Identity of the records of a virtual port: an input names the port through which its data enters (R305). -/
def Dev.vpRec (d : Dev) (cfg : Nat) (x : Inst) (v : Vp) : TrapRec :=
  { d.instRec cfg x with
    tcol := tileCol v.tile, trow := tileRow v.tile
    port := if v.dirOut then 0 else v.port, pv := !v.dirOut }

/-- An access of the MPT of a virtual port. -/
def Dev.vpAccFor (d : Dev) (cfg : Nat) (x : Inst) (v : Vp) (w : BindFor) (kind : AccKind) : Acc :=
  { unit := 200 + v.mpt, job := cfg, part := w.part, ctx := w.ctx, path := .stream, kind := kind, code := 4
    who := d.vpRec cfg x v, page := x.lead }

/-- Who a binding's elements are accessed for. -/
def VpBind.who (b : VpBind) : BindFor := { ctx := b.ctx, part := b.part }

/-- An access of the MPT of a virtual port for its binding. -/
def Dev.vpAcc (d : Dev) (cfg : Nat) (x : Inst) (v : Vp) (b : VpBind) (kind : AccKind) : Acc :=
  d.vpAccFor cfg x v b.who kind

/-- A fault of an element of a stream, collected until the round is void (R40, R373). -/
def Dev.vpElemFault (d : Dev) (cfg : Nat) (x : Inst) (n : Nat) (v : Vp) (cause va info : Nat) : Dev :=
  d.updInst cfg fun y => (y.setVp n { v with fault := cause }) |> fun y => { y with
    faults := y.faults ++ [{ d.vpRec cfg x v with
      cause := cause, cls := 1, addr := va, info := info % 2 ^ 64, stage2 := info ≥ 2 ^ 64 }] }

/-! ### Fetching -/

/-- The next bytes of a window: none of memory for a lane that names no element; else an address and a
length, 0 for an element outside the address space. -/
inductive NextPiece
  | zeros (n : Nat)
  | read (va n : Nat)
  deriving DecidableEq, Repr

/-- The bytes of an element from offset `off` on that lie in one granule. -/
def pieceFrom (a : Option Nat) (raw size off : Nat) : NextPiece :=
  match a with
  | none => .read raw 0
  | some a => .read (a + off) (min (size - off) (32 - (a + off) % 32))

/-- The next bytes that a binding fetches: of its next element (R209), or of the run of its oldest index
token that has none (R225). -/
def VpBind.nextPiece (b : VpBind) : Option NextPiece :=
  let s := patBytes b.pat
  let off := b.part0.length
  match b.kind with
  | .input | .copyIn =>
    let n := b.fetched + off / s
    if b.fetched ≥ patTotal b.pat then none
    else some (pieceFrom (patAddr b.pat n) (patVa b.pat n) s (off % s))
  | .gather => match b.idxs[b.fetched - b.passed]? with
    | none => none
    | some t => match idxLane t.data (off / s) with
      | none => some (.zeros (s - off % s))
      | some i => some (pieceFrom (idxAddr b.pat i) (idxVa b.pat i) s (off % s))
  | .output | .scatter | .update => none

/-- Tokens that the next piece of work of a window makes: an element run's one, or those of an index token. -/
def VpBind.runTokens (b : VpBind) : Nat := if b.kind == .gather then idxTokens b.pat else 1

/-- A window has room for them (R217). -/
def VpBind.roomy (b : VpBind) : Bool := b.window.length + b.runTokens ≤ 32 * patWin b.pat

/-- Tokens of a fetched run of bytes, with the first poison of each (R209, R225). -/
def VpBind.tokens (b : VpBind) (data : List Byte) (n : Nat) (last : Bool) : List Tok :=
  (List.range n).map fun k =>
    let bs := (data.drop (128 * k)).take 128
    let o := b.part0Org.findSome? fun e => if e.1 / 128 == k then some e.2 else none
    { data := dataOf (if b.kind == .gather then bs else patPad b.pat bs)
      l := last && k + 1 == n, p := o.isSome, org := o.getD 0 }

/-- A binding whose bytes fetched make a token, or an index token's run, with it in the window. -/
def VpBind.close (b : VpBind) : VpBind :=
  let s := patBytes b.pat
  let put := fun (ts : List Tok) (drop n : Nat) => { b with
    window := b.window ++ ts.drop drop
    srcs := b.srcs ++ (ts.drop drop).map fun _ => (b.part0Src.map (·.2)).eraseDups
    fetched := b.fetched + n, part0 := [], part0Org := [], part0Src := [] }
  match b.kind with
  | .input | .copyIn =>
    let (k, l) := patToken b.pat b.fetched
    if b.part0.length < k * s then b else put (b.tokens b.part0 1 l) 0 k
  | .gather =>
    if b.part0.length < 32 * s then b
    else
      let k := idxTokens b.pat
      let l := match b.idxs[b.fetched - b.passed]? with
        | some t => t.l
        | none => false
      put (b.tokens b.part0 k l) (if b.fetched == b.passed && k != 0 then b.sent % k else 0) 1
  | .output | .scatter | .update => b

/-- The copy into a port that a binding belongs to (R222, R223). -/
def Dev.portCopy (d : Dev) (cfg n : Nat) (b : VpBind) : Option (Nat × Copy) :=
  if b.kind == .copyIn then d.copies.find? fun e => e.2.dst == .vport cfg n && e.2.cmd == b.id else none

/-- A piece of a window fetched: bytes, poison with the origin of the port, and their frame (R64, R217); an element's
access counts once for each line (R377). A copy
into a port reads as a copy does, by a message in a host window (R223, R362, R421) (DEDUCED, log entry 50). -/
def Dev.fetchPiece (m : Mem) (d : Dev) (cfg n : Nat) (x : Inst) (v : Vp) (b : VpBind) : Dev :=
  let keep := fun (d : Dev) (b : VpBind) => d.updInst cfg fun y => y.setVp n { v with bind := some b }
  let off := b.part0.length
  match b.nextPiece with
  | none => d
  | some (.zeros k) => keep d { b with part0 := b.part0 ++ List.replicate k 0 }.close
  | some (.read va k) =>
    let cp := d.portCopy cfg n b
    let code := if cp.isSome then 5 else 4
    let fails := fun (d : Dev) (c : Nat) => keep d { b with pendFault := some (c + 256 * code, va) }
    if k == 0 then fails d cTRANSLATION
    else
      let a := match cp with
        | some (_, c) => d.copyAcc c .rd
        | none => d.vpAcc cfg x v b .rd
      let (d, h) := d.xlate m a va
      match h, cp, (match h with
          | .ok h => h.window
          | .error _ => none) with
      | .ok h, some (id, c), some w =>
        match lookup (va / 32) c.got with
        | some bs => keep d { b with part0 := b.part0 ++ (bs.drop (va % 32)).take k }.close
        | none =>
          if c.asked.any (·.1 == va / 32) then d
          else
            let d := d.askHost m id c { h with va := va, gpa := h.gpa - va % 32 } w (va / 32) 32
            match (lookup id d.copies).bind (·.fault) with
            | none => d
            | some (cause, _, _) => fails (d.updCopy id fun c => { c with fault := none }) cause
      | h, _, _ =>
        let (d, r) := d.loadPlain m a va k
        match h, r with
        | .ok _, .ok (h, bs, p) =>
          let d := if off % patBytes b.pat == 0 || va % 64 == 0 then d.countAccess m h k else d
          let org := match p with
            | some c => [(off, originWord false (tileCol v.tile) (tileRow v.tile) v.port c)]
            | none => []
          keep d { b with
            part0 := b.part0 ++ bs, part0Org := b.part0Org ++ org
            part0Src := b.part0Src ++ (if h.peer.isNone then [(off, h.host / frameBytes)] else []) }.close
        | .error f, _ | _, .error f =>
          keep d { b with pendFault := some (f.cause + 256 * f.info code, va) }

/-- STREAM_FETCH: the MPT of a virtual port reads the next granule of an input or gather window that has
room; a fault stops it (R217, R375). -/
def bodyStreamFetch (cfg vp : Nat) (m : Mem) (d : Dev) : Dev :=
  match d.inst cfg with
  | none => d
  | some x => match x.vp vp with
    | none => d
    | some v => match v.bind with
      | none => d
      | some b =>
        if x.phase == .ending || b.pendFault.isSome || !b.roomy then d
        else d.fetchPiece m cfg vp x v b

/-- A token put into an input port, an end-of-tile mark with it (R22, R222). -/
def Inst.enter (x : Inst) (tile port : Nat) (t : Tok) (eot : Bool) : Inst :=
  match x.tile tile with
  | none => x
  | some tl => match lookup port tl.inp with
    | none => x
    | some q => x.setTile tile { tl with
        inp := insert port { q with q := q.q ++ [t], eot := q.eot || eot } tl.inp }

/-- An input port has room. -/
def Inst.portRoom (x : Inst) (tile port : Nat) : Bool :=
  match (x.tile tile).bind fun t => lookup port t.inp with
  | some q => q.q.length < q.depth
  | none => false

/-- A binding that has delivered the first token of its window (DEDUCED, log entry 50). -/
def VpBind.delivered (b : VpBind) : VpBind :=
  let b' := { b with window := b.window.tail, srcs := b.srcs.tail }
  if b.kind == .gather then
    let k := idxTokens b.pat
    if (b.sent + 1) % k == 0 then
      { b' with sent := b.sent + 1, passed := b.passed + 1, idxs := b.idxs.tail }
    else { b' with sent := b.sent + 1 }
  else { b' with passed := b.passed + (patToken b.pat b.passed).1 }

/-- STREAM_DELIVER: the next token of a window enters its port, as one record of its round; the end-of-tile
token of a copy follows the last (R23, R36, R209, R217, R222) (DEDUCED, log entry 50). -/
def bodyStreamDeliver (cfg vp : Nat) (_ : Mem) (d : Dev) : Dev :=
  match d.inst cfg with
  | none => d
  | some x => match x.vp vp with
    | none => d
    | some v => match v.bind with
      | none => d
      | some b => match b.window with
        | [] => d
        | t :: _ =>
          if !x.admits v.adm || !x.portRoom v.tile v.port then d
          else
            let b := b.delivered
            let eot := b.kind == .copyIn && b.passed ≥ patTotal b.pat
            d.updInst cfg fun x => (x.enter v.tile v.port t eot).setVp vp
              { v with bind := some b, adm := v.adm + 1, elems := b.passed }

/-- A copy into a port stopped by a fault: its binding ends, and its report follows (R215, R223)
(DEDUCED, log entry 60). -/
def Dev.portCopyStops (d : Dev) (cfg n id : Nat) (v : Vp) (b : VpBind) (cause va info : Nat) : Dev :=
  (d.copyStops id cause va info).updInst cfg fun x => x.setVp n { v with
    bind := none, ended := true, spent := true, fault := cause, elems := b.passed }

/-- STREAM_FETCH_FAULT_RAISE: a fault of a fetch is raised when the port is next to receive the element
(R223, R375). -/
def bodyStreamFetchFaultRaise (cfg vp : Nat) (_ : Mem) (d : Dev) : Dev :=
  match d.inst cfg with
  | none => d
  | some x => match x.vp vp with
    | none => d
    | some v => match v.bind with
      | none => d
      | some b => match b.pendFault with
        | none => d
        | some (f, va) =>
          let again := x.faults.any fun r =>
            r.pv && r.port == v.port && r.tcol == tileCol v.tile && r.trow == tileRow v.tile
          if !b.window.isEmpty || !x.admits v.adm || !x.portRoom v.tile v.port then d
          else match d.portCopy cfg vp b with
            | some (id, _) => d.portCopyStops cfg vp id v b (f % 256) va (f / 256)
            | none => if again then d else d.vpElemFault cfg x vp v (f % 256) va (f / 256)

/-! ### Staging -/

/-- The first token of an output port, as ROUTE lets it leave (R30, R131). -/
inductive OutHead
  | wait
  | drop
  | tok (o : OutTok)
  deriving DecidableEq, Repr

/-- What stands first at an output port of a tile. -/
def Tile.outHead (t : Tile) (port : Nat) : OutHead :=
  match lookup port t.out with
  | none => .wait
  | some p => match p.q with
    | [] => .wait
    | o :: _ => match t.kind with
      | .mt _ => .tok o
      | .ct c => match c.blks[o.blk]? with
        | none => .tok o
        | some b =>
          let g := b.hdr.group port
          if g == 0 then .tok o
          else match lookup o.record b.chosen with
            | none => .wait
            | some k => if k == g then .tok o else .drop

/-- An output port without its first token. -/
def Tile.popOut (t : Tile) (port : Nat) : Tile :=
  match lookup port t.out with
  | none => t
  | some p => { t with out := insert port { p with q := p.q.tail } t.out }

/-- What stands first at the output port of a virtual port. -/
def Inst.vpHead (x : Inst) (v : Vp) : OutHead :=
  match x.tile v.tile with
  | some t => t.outHead v.port
  | none => .wait

/-- The token of a virtual port's output port taken: a poisoned one is logged (R67, R131). -/
def Inst.vpTake (x : Inst) (cfg : Nat) (v : Vp) : Inst :=
  match x.tile v.tile with
  | none => x
  | some t =>
    let x' := x.setTile v.tile (t.popOut v.port)
    match t.outHead v.port with
    | .wait | .drop => x'
    | .tok o =>
      if o.tok.p && !o.tok.n && !o.mout then
        { x' with logs := x'.logs ++ [
          { org := o.tok.org, skind := 3
            loc := (originWord false (tileCol v.tile) (tileRow v.tile) v.port 0).toNat / 128
            cfg := cfg, round := x.fab.round, record := o.record }] }
      else x'

/-- The first of some elements that would fault as it enters the window, with its address (R373). -/
def Dev.probeAll (m : Mem) (a : Acc) : List (Option Nat × Nat) → Dev → Dev × Option (Nat × Nat × Nat)
  | [], d => (d, none)
  | (none, raw) :: _, d => (d, some (cTRANSLATION, raw, 4))
  | (some va, _) :: rest, d =>
    let (d, f) := d.probe m a va
    match f with
    | some f => (d, some (f.cause, va, f.info 4))
    | none => Dev.probeAll m a rest d

/-- Bytes that stand staged for a virtual port. -/
def Inst.occupancy (x : Inst) (vp : Nat) : Nat :=
  (x.staged.map fun s => match s with
    | .store p _ _ bs => if p == vp then bs.length else 0
    | .update p _ _ _ _ _ _ => if p == vp then 4 else 0).foldl (· + ·) 0

/-- Elements put into a window; reaching the high mark brings the round's end forward (R36, R218). -/
def Inst.stage (x : Inst) (vp : Nat) (b : VpBind) (es : List Staged) : Inst :=
  let x := { x with staged := x.staged ++ es }
  if !es.isEmpty && x.occupancy vp ≥ 4096 * patHigh b.pat then x.bringForward else x

/-- STREAM_OUTPUT_STAGE: the token that stands first at an output port bound to an output stream stages its
elements; a null token supplies none, and one after the last element, or after SKILL, is discarded (R29, R209, R215,
R216, R218). -/
def bodyStreamOutputStage (cfg vp : Nat) (m : Mem) (d : Dev) : Dev :=
  match d.inst cfg with
  | none => d
  | some x => match x.vp vp with
    | none => d
    | some v => match v.bind with
      | none => if v.discards && x.vpHead v != .wait then d.updInst cfg fun x => x.vpTake cfg v else d
      | some b =>
        if b.kind != .output then d
        else match x.vpHead v with
          | .wait => d
          | .drop => d.updInst cfg fun x => x.vpTake cfg v
          | .tok o =>
            if o.tok.n then d.updInst cfg fun x => x.vpTake cfg v
            else if b.passed ≥ patTotal b.pat then
              d.updInst cfg fun x => (x.vpTake cfg v).setVp vp { v with overran := true }
            else
              let s := patBytes b.pat
              let es := (List.range (patTaken b.pat b.passed o.tok.l)).map fun k =>
                (patAddr b.pat (b.passed + k), patVa b.pat (b.passed + k))
              let (d, f) := Dev.probeAll m (d.vpAcc cfg x v b .wr) es d
              match f with
              | some (c, va, info) => d.vpElemFault cfg x vp v c va info
              | none =>
                let bytes := Word.toBytes 128 o.tok.data.toNat
                let st := es.mapIdx fun k e => Staged.store vp b.who (e.1.getD 0) ((bytes.drop (k * s)).take s)
                let b' := { b with passed := b.passed + es.length }
                d.updInst cfg fun x => ((x.vpTake cfg v).setVp vp
                  { v with bind := some b', elems := b'.passed }).stage vp b st

/-! ### Index tokens -/

/-- The index token that stands first at the index port of a binding. -/
def Inst.idxHead (x : Inst) (b : VpBind) : Option (Vp × OutHead) :=
  (x.vp b.idxVp).map fun v => (v, x.vpHead v)

/-- GATHER_INDEX_TOKEN: the next granule of the oldest index token's run is fetched, or the next index token
is taken (R225). -/
def bodyGatherIndexToken (cfg vp : Nat) (m : Mem) (d : Dev) : Dev :=
  match d.inst cfg with
  | none => d
  | some x => match x.vp vp with
    | none => d
    | some v => match v.bind with
      | none => d
      | some b =>
        if b.kind != .gather || x.phase == .ending then d
        else if b.fetched - b.passed < b.idxs.length then
          if b.pendFault.isSome || !b.roomy then d else d.fetchPiece m cfg vp x v b
        else match x.idxHead b with
          | none => d
          | some (w, .wait) => let _ := w; d
          | some (w, .drop) => d.updInst cfg fun x => x.vpTake cfg w
          | some (w, .tok o) =>
            if o.tok.n then d.updInst cfg fun x => x.vpTake cfg w
            else if b.passed + b.idxs.length ≥ patCount b.pat 0 then
              d.updInst cfg fun x => (x.vpTake cfg w).setVp vp { v with overran := true }
            else d.updInst cfg fun x => (x.vpTake cfg w).setVp vp
              { v with bind := some { b with idxs := b.idxs ++ [o.tok] } }

/-- One step of a scatter or update stream: a data token is taken, or, when those of an index token stand
ready, the pair stages its elements with `f` (R225, R226). -/
def Dev.pairStage (m : Mem) (d : Dev) (cfg vp : Nat) (kind : BindKind) (acc : AccKind)
    (f : VpBind → Nat → List Byte → Staged) : Dev :=
  match d.inst cfg with
  | none => d
  | some x => match x.vp vp with
    | none => d
    | some v => match v.bind with
      | none => d
      | some b =>
        let need := 128 * idxTokens b.pat
        let overran := b.passed ≥ patCount b.pat 0
        let taken := fun (b : VpBind) (overran : Bool) => d.updInst cfg fun x => (x.vpTake cfg v).setVp vp
          { v with bind := some b, overran := v.overran || overran }
        if b.kind != kind then d
        else if overran || b.part0.length < need then match x.vpHead v, x.idxHead b with
          | .drop, _ => taken b false
          | .tok o, _ =>
            if o.tok.n then taken b false
            else if overran then taken b true
            else taken { b with part0 := b.part0 ++ Word.toBytes 128 o.tok.data.toNat } false
          | .wait, some (w, .drop) => d.updInst cfg fun x => x.vpTake cfg w
          | .wait, some (w, .tok o) =>
            if !overran then d
            else d.updInst cfg fun x => (x.vpTake cfg w).setVp vp
              { v with overran := v.overran || !o.tok.n }
          | .wait, _ => d
        else match x.idxHead b with
          | some (w, .drop) => d.updInst cfg fun x => x.vpTake cfg w
          | some (w, .tok o) =>
            if o.tok.n then d.updInst cfg fun x => x.vpTake cfg w
            else
              let ls := (List.range 32).filterMap fun l => (idxLane o.tok.data l).map fun i => (l, i)
              let es := ls.map fun e => (idxAddr b.pat e.2, idxVa b.pat e.2)
              let (d, fault) := Dev.probeAll m (d.vpAcc cfg x v b acc) es d
              match fault with
              | some (c, va, info) => d.vpElemFault cfg x vp v c va info
              | none =>
                let s := patBytes b.pat
                let st := ls.map fun e =>
                  f b ((idxAddr b.pat e.2).getD 0) ((b.part0.drop (e.1 * s)).take s)
                let b' := { b with passed := b.passed + 1, part0 := [] }
                d.updInst cfg fun x => ((x.vpTake cfg w).setVp vp
                  { v with bind := some b', elems := b'.passed }).stage vp b st
          | some (w, .wait) => let _ := w; d
          | none => d

/-- SCATTER_INDEX_TOKEN (R225). -/
def bodyScatterIndexToken (cfg vp : Nat) (m : Mem) (d : Dev) : Dev :=
  d.pairStage m cfg vp .scatter .wr fun b va bs => .store vp b.who va bs

/-- UPDATE_INDEX_TOKEN (R226). -/
def bodyUpdateIndexToken (cfg vp : Nat) (m : Mem) (d : Dev) : Dev :=
  d.pairStage m cfg vp .update .upd fun b va bs => .update vp b.who va b.op b.ty (Word.ofBytes bs) (patOrder b.pat)

/-- One step of SCOREBOARD_COMMAND_START. -/
def execScoreboardCommandStart (id : CoreId) (k : Nat) (s : State) : Host.Outcome State Fault Refusal :=
  act s (bodyScoreboardCommandStart id k)

/-- One step of STREAM_FETCH. -/
def execStreamFetch (cfg vp : Nat) (s : State) : Host.Outcome State Fault Refusal :=
  act s (bodyStreamFetch cfg vp)

/-- One step of STREAM_DELIVER. -/
def execStreamDeliver (cfg vp : Nat) (s : State) : Host.Outcome State Fault Refusal :=
  act s (bodyStreamDeliver cfg vp)

/-- One step of STREAM_FETCH_FAULT_RAISE. -/
def execStreamFetchFaultRaise (cfg vp : Nat) (s : State) : Host.Outcome State Fault Refusal :=
  act s (bodyStreamFetchFaultRaise cfg vp)

/-- One step of STREAM_OUTPUT_STAGE. -/
def execStreamOutputStage (cfg vp : Nat) (s : State) : Host.Outcome State Fault Refusal :=
  act s (bodyStreamOutputStage cfg vp)

/-- One step of GATHER_INDEX_TOKEN. -/
def execGatherIndexToken (cfg vp : Nat) (s : State) : Host.Outcome State Fault Refusal :=
  act s (bodyGatherIndexToken cfg vp)

/-- One step of SCATTER_INDEX_TOKEN. -/
def execScatterIndexToken (cfg vp : Nat) (s : State) : Host.Outcome State Fault Refusal :=
  act s (bodyScatterIndexToken cfg vp)

/-- One step of UPDATE_INDEX_TOKEN. -/
def execUpdateIndexToken (cfg vp : Nat) (s : State) : Host.Outcome State Fault Refusal :=
  act s (bodyUpdateIndexToken cfg vp)

end Sys2Proof.Machine
end

