-- ==== Sys2Proof/Machine/Tokens.lean ====
section
/-! DEFINITION. Tokens on their way: arrival at a port, a delay line or a bank's fill port (R22, R23, R34,
R131, R171, R195, R286, R349, R390), and the stream operators (R232 to R240). -/

namespace Sys2Proof.Machine

/-! ### Arrival -/

/-- A control token that arrives at a port of a tile: an end-of-tile token is recorded, one of a reserved kind
is dropped and reported against its configuration (R22). -/
def Dev.controlToken (d : Dev) (cfg tile port : Nat) (x : Inst) (t : Tok) : Dev :=
  if t.ck ≥ 4 then
    d.post x.lead { d.instRec cfg x with
      cause := cCFGINVALID, tcol := tileCol tile, trow := tileRow tile, port := port, pv := true }
  else if t.ck == 0 then
    d.updInst cfg fun x => match x.tile tile with
      | none => x
      | some tl => match lookup port tl.inp with
        | none => x
        | some q => x.setTile tile { tl with inp := insert port { q with eot := true } tl.inp }
  else d

/-- The node that reads an input port: an operator slot, the bank's port of an MT, or the VE. -/
def Tile.readerOf (t : Tile) (tile port : Nat) : Nat :=
  match t.ops.find? fun o => o.2.ins.contains port with
  | some o => nodeOf tile (1 + o.1)
  | none => match t.kind with
    | .mt _ => nodeOf tile (16 + port)
    | .ct _ => nodeOf tile 0

/-- A token that reaches the link of a node that has stopped for a MARKER snapshot is caught, a control token like data
(R342). -/
def Inst.catches (x : Inst) (tile port : Nat) (t : Tok) : Option Inst :=
  match x.snap, x.tile tile with
  | some ns, some tl => match lookup port tl.inp with
    | some q =>
      if ns.contains (tl.readerOf tile port) then
        some (x.setTile tile { tl with inp := insert port { q with caught := q.caught ++ [t] } tl.inp })
      else none
    | none => none
  | _, _ => none

/-- Caught tokens put back at the heads of their links, in order; a control token then arrives as it would have (R22,
R342, R345). -/
def Dev.putBack (d : Dev) (cfg : Nat) : Dev :=
  match d.inst cfg with
  | none => d
  | some x =>
    let ps := x.fab.tiles.flatMap fun t => t.2.inp.map fun p => (t.1, p.1, p.2.caught)
    let d := d.updInst cfg fun x => { x with fab := { x.fab with tiles := x.fab.tiles.map fun t =>
      (t.1, { t.2 with inp := t.2.inp.map fun p =>
        (p.1, { p.2 with q := p.2.q ++ p.2.caught.filter (!·.c), caught := [] }) }) } }
    (ps.flatMap fun p => (p.2.2.filter (·.c)).map fun t => (p.1, p.2.1, t)).foldl (fun d e => match d.inst cfg with
      | some x => d.controlToken cfg e.1 e.2.1 x e.2.2
      | none => d) d

/-- An edge takes a token: it has room, and no new depth is awaited (R349). -/
def Inst.edgeTakes (x : Inst) (tile port : Nat) : Bool :=
  match (x.tile tile).bind fun t => lookup port t.inp with
  | some q => q.q.length < q.depth && q.newDepth.isNone
  | none => false

/-- The first token of an output port goes where the port leads (R23, R34, R131) (DESIGN CHOICE, log entry 9). -/
def Dev.routeToken (d : Dev) (cfg tile port : Nat) (x : Inst) (t : Tile) (p : OutPort) : Dev :=
  let popped := fun (d : Dev) => d.updInst cfg fun x => x.setTile tile (t.popOut port)
  let enter := fun (tile' port' : Nat) (o : OutTok) => match x.catches tile' port' o.tok with
    | some _ => (popped d).updInst cfg fun x => (x.catches tile' port' o.tok).getD x
    | none =>
    if o.tok.c then (popped d).controlToken cfg tile' port' x o.tok
    else if x.edgeTakes tile' port' then (popped d).updInst cfg fun x => x.enter tile' port' o.tok false
    else d
  match t.outHead port with
  | .wait => d
  | .drop => popped d
  | .tok o => match p.sink with
    | .route tile' port' _ => enter tile' port' o
    | .delay port' _ => enter tile port' o
    | .vport _ => d
    | .unused => popped d

/-- The mark of a page's active plane: the context of the instance placed there, of a launch that install step 1 has
given the page to, or of the graph whose banks it still holds (R390). -/
def Dev.pageMark (d : Dev) (page : Nat) : Option Nat :=
  let plane := d.activePlane page
  match d.instOn page with
  | some (_, x) => some x.ctx
  | none =>
    let on := fun (l : Launch) => l.plane == plane && l.row0 ≤ page / 16 && page / 16 < l.row0 + l.h
      && l.col0 ≤ page % 16 && page % 16 < l.col0 + l.w
    match d.installs.find? on with
    | some l => some l.ctx
    | none => (d.graphPages.find? fun g => g.page == page && g.plane == plane).bind fun g =>
        (d.inst g.cfg).map (·.ctx)

/-- TOKEN_ARRIVAL: the head token of an output port of an instance reaches the queue that its route or delay
line feeds; a token of another context is dropped and reported to H (R390) (DEDUCED, log entry 43). -/
def bodyTokenArrival (a : Arrival) (_ : Mem) (d : Dev) : Dev :=
  match a with
  | .routed cfg tile port => match d.inst cfg with
    | none => d
    | some x =>
      if !x.fires then d
      else match x.tile tile with
        | none => d
        | some t => match lookup port t.out with
          | none => d
          | some p => d.routeToken cfg tile port x t p
  | .stray page link ctx =>
    if d.pageMark page == some ctx then d
    else d.post page {
      cause := cTENANT, cls := 2, olev := 3, part := (d.ctxPart ctx).getD 0, ctx := ctx, cfgid := 0xFFFF
      info := page % 2 ^ 7 + link % 2 ^ 3 * 2 ^ 7 + ctx % 2 ^ 12 * 2 ^ 10 }

/-! ### Fill ports (R286) -/

/-- An input port of a tile without its first token, which is counted. -/
def Inst.portTaken (x : Inst) (tile port : Nat) : Inst :=
  match x.tile tile with
  | none => x
  | some t => match lookup port t.inp with
    | none => x
    | some p => x.setTile tile { t with
        inp := insert port { p with q := p.q.tail, taken := p.taken + 1 } t.inp }

/-- What a token of a fill port makes of its bank: none when it waits, or a cause. A FIFO or LINE bank takes it
as its next row; a bank of another mode than TILE takes none. -/
def Bank.fillWith (b : Bank) (t : Tok) : Option (Except Nat Bank) :=
  if b.passed then some (.error cPERMISSION)
  else if !b.owned then none
  else match b.mode with
    | .tile =>
      if b.fillFull then none
      else if t.n then some (.ok (if t.l then b.endFill else b))
      else if 128 * (b.fillRow + 1) > b.bufSize then some (.error cPERMISSION)
      else
        let c := b.putRow b.fillRow t.data t.s t.l
        some (.ok { c with fillRow := if t.l then 0 else b.fillRow + 1 })
    | .fifo | .line =>
      if t.n then some (.ok b)
      else (b.push t.data t.s).map .ok
    | .version | .scale => if t.n then some (.ok b) else some (.error cPERMISSION)

/-- FILL_PORT_TOKEN: the first token at an input port of an MT becomes the next row of its bank's fill, which
L ends (R171, R286) (DEDUCED, log entry 43). -/
def bodyFillPortToken (cfg tile port : Nat) (_ : Mem) (d : Dev) : Dev :=
  match d.inst cfg with
  | none => d
  | some x => match (x.tile tile).bind fun t => lookup port t.inp with
    | none => d
    | some p => match p.fills, p.q with
      | some k, t :: _ =>
        if !x.fires || x.stopped tile (16 + port) then d
        else match x.bank tile k with
          | none => d
          | some b =>
            if t.n && !t.l then d.updInst cfg fun x => x.portTaken tile port
            else match b.fillWith t with
              | none => d
              | some (.error c) => d.updInst cfg fun x => { x with faults := x.faults ++ [
                  { d.instRec cfg x with
                    cause := c, cls := 1, tcol := tileCol tile, trow := tileRow tile, port := port, pv := true
                    record := p.taken, addr := mtAddr tile k 0, info := 1 }] }
              | some (.ok b) =>
                let log : List LogEntry := if t.p && !t.n then
                  [{ org := t.org, skind := 1
                     loc := (originWord false (tileCol tile) (tileRow tile) port 0).toNat / 128
                     cfg := cfg, round := x.fab.round, record := p.taken }] else []
                d.updInst cfg fun x =>
                  let y := (x.portTaken tile port).setBank tile k b
                  { y with logs := x.logs ++ log }
      | _, _ => d

/-! ### Operators (R232 to R240) -/

/-- Tokens put into an output port by an operator slot. -/
def Tile.emitAll (t : Tile) (port : Option Nat) (ts : List Tok) : Tile :=
  match port with
  | none => t
  | some k => match lookup k t.out with
    | none => t
    | some p =>
      let os := ts.map fun x => ({ blk := 0xFF, record := 0, tok := x } : OutTok)
      { t with out := insert k { p with q := p.q ++ os } t.out }

/-- An output port an operator writes has a free entry (DESIGN CHOICE, log entry 9). -/
def Tile.opRoom (t : Tile) (port : Option Nat) : Bool :=
  match port with
  | none => true
  | some k => match lookup k t.out with
    | some p => p.q.length < queueDepth
    | none => true

/-- The first token of an input port an operator reads. -/
def Tile.opHead (t : Tile) (port : Option Nat) : Option Tok :=
  match port with
  | none => none
  | some k => match lookup k t.inp with
    | some p => p.q.head?
    | none => none

/-- An input port of an operator, without its first token when it has been taken. -/
def Tile.opTake (t : Tile) (port : Option Nat) (taken : Bool) : Tile :=
  match port with
  | none => t
  | some k => match lookup k t.inp with
    | some p => if taken then { t with inp := insert k { p with q := p.q.tail } t.inp } else t
    | none => t

/-- One step of an operator slot that holds an operator of a kind. -/
def Dev.operate (d : Dev) (kind : OpKind) (cfg tile slot : Nat) : Dev :=
  match d.inst cfg with
  | none => d
  | some x => match x.tile tile with
    | none => d
    | some t => match lookup slot t.ops with
      | none => d
      | some o =>
        if o.kind != kind || !x.fires || x.stopped tile (1 + slot) || !t.opRoom o.out0 || !t.opRoom o.out1
        then d
        else
          let r := opStep o (originWord false (tileCol tile) (tileRow tile) slot 8)
            (t.opHead o.in0) (t.opHead o.in1)
          let t := (t.opTake o.in0 r.take0).opTake o.in1 r.take1
          let t := (t.emitAll o.out0 r.out0).emitAll o.out1 r.out1
          d.updInst cfg fun x => x.setTile tile { t with ops := insert slot r.st t.ops }

/-- OPERATOR_JOIN (R234). -/
def bodyOperatorJoin (cfg tile slot : Nat) (_ : Mem) (d : Dev) : Dev := d.operate .join cfg tile slot
/-- OPERATOR_MERGE (R234). -/
def bodyOperatorMerge (cfg tile slot : Nat) (_ : Mem) (d : Dev) : Dev := d.operate .merge cfg tile slot
/-- OPERATOR_SPLAY (R235). -/
def bodyOperatorSplay (cfg tile slot : Nat) (_ : Mem) (d : Dev) : Dev := d.operate .splay cfg tile slot
/-- OPERATOR_ZIP (R235). -/
def bodyOperatorZip (cfg tile slot : Nat) (_ : Mem) (d : Dev) : Dev := d.operate .zip cfg tile slot
/-- OPERATOR_UNZIP (R235). -/
def bodyOperatorUnzip (cfg tile slot : Nat) (_ : Mem) (d : Dev) : Dev := d.operate .unzip cfg tile slot
/-- OPERATOR_SCAN (R236). -/
def bodyOperatorScan (cfg tile slot : Nat) (_ : Mem) (d : Dev) : Dev := d.operate .scan cfg tile slot
/-- OPERATOR_REDUCE (R236). -/
def bodyOperatorReduce (cfg tile slot : Nat) (_ : Mem) (d : Dev) : Dev := d.operate .reduce cfg tile slot
/-- OPERATOR_COMPACT (R237). -/
def bodyOperatorCompact (cfg tile slot : Nat) (_ : Mem) (d : Dev) : Dev := d.operate .compact cfg tile slot
/-- OPERATOR_QUANT (R239). -/
def bodyOperatorQuant (cfg tile slot : Nat) (_ : Mem) (d : Dev) : Dev := d.operate .quant cfg tile slot
/-- OPERATOR_DEQUANT (R240). -/
def bodyOperatorDequant (cfg tile slot : Nat) (_ : Mem) (d : Dev) : Dev := d.operate .dequant cfg tile slot
/-- OPERATOR_TRANSPOSE (R238). -/
def bodyOperatorTranspose (cfg tile slot : Nat) (_ : Mem) (d : Dev) : Dev := d.operate .transpose cfg tile slot

/-- One step of TOKEN_ARRIVAL. -/
def execTokenArrival (a : Arrival) (s : State) : Host.Outcome State Fault Refusal :=
  act s (bodyTokenArrival a)

/-- One step of FILL_PORT_TOKEN. -/
def execFillPortToken (cfg tile port : Nat) (s : State) : Host.Outcome State Fault Refusal :=
  act s (bodyFillPortToken cfg tile port)

/-- One step of OPERATOR_JOIN. -/
def execOperatorJoin (cfg tile slot : Nat) (s : State) : Host.Outcome State Fault Refusal :=
  act s (bodyOperatorJoin cfg tile slot)

/-- One step of OPERATOR_MERGE. -/
def execOperatorMerge (cfg tile slot : Nat) (s : State) : Host.Outcome State Fault Refusal :=
  act s (bodyOperatorMerge cfg tile slot)

/-- One step of OPERATOR_SPLAY. -/
def execOperatorSplay (cfg tile slot : Nat) (s : State) : Host.Outcome State Fault Refusal :=
  act s (bodyOperatorSplay cfg tile slot)

/-- One step of OPERATOR_ZIP. -/
def execOperatorZip (cfg tile slot : Nat) (s : State) : Host.Outcome State Fault Refusal :=
  act s (bodyOperatorZip cfg tile slot)

/-- One step of OPERATOR_UNZIP. -/
def execOperatorUnzip (cfg tile slot : Nat) (s : State) : Host.Outcome State Fault Refusal :=
  act s (bodyOperatorUnzip cfg tile slot)

/-- One step of OPERATOR_SCAN. -/
def execOperatorScan (cfg tile slot : Nat) (s : State) : Host.Outcome State Fault Refusal :=
  act s (bodyOperatorScan cfg tile slot)

/-- One step of OPERATOR_REDUCE. -/
def execOperatorReduce (cfg tile slot : Nat) (s : State) : Host.Outcome State Fault Refusal :=
  act s (bodyOperatorReduce cfg tile slot)

/-- One step of OPERATOR_COMPACT. -/
def execOperatorCompact (cfg tile slot : Nat) (s : State) : Host.Outcome State Fault Refusal :=
  act s (bodyOperatorCompact cfg tile slot)

/-- One step of OPERATOR_QUANT. -/
def execOperatorQuant (cfg tile slot : Nat) (s : State) : Host.Outcome State Fault Refusal :=
  act s (bodyOperatorQuant cfg tile slot)

/-- One step of OPERATOR_DEQUANT. -/
def execOperatorDequant (cfg tile slot : Nat) (s : State) : Host.Outcome State Fault Refusal :=
  act s (bodyOperatorDequant cfg tile slot)

/-- One step of OPERATOR_TRANSPOSE. -/
def execOperatorTranspose (cfg tile slot : Nat) (s : State) : Host.Outcome State Fault Refusal :=
  act s (bodyOperatorTranspose cfg tile slot)

end Sys2Proof.Machine
end

