-- ==== Sys2Proof/Machine/Install.lean ====
section
/-! DEFINITION. Installing an image (R337): building an instance from a plan, the checks of step 2, loading
the range entries (R358), the imports (R330), starting control programs, and restoring a save image (R343,
R345, R432). -/

namespace Sys2Proof

namespace Machine

/-! ### From a plan to tiles -/

/-- A block index that the image leaves empty. -/
def emptyBlk : Blk :=
  { hdr := parseHdr 0, slots := [] }

/-- A block with its loop counters and its stream-fed slots (R33, R117). -/
def Plan.buildBlk (p : Plan) (loops : List Prod) (t : TileSpec) (b : Nat) (raw : RawBlk) : Blk :=
  let blk := raw.build (t.counters b (parseHdr raw.hdr))
  { blk with slots := blk.slots.mapIdx fun k s =>
      let sl := (s.ins.row .element).slots
      let n : Fin 128 := Fin.ofNat 128 k
      let fed := fun (used : Bool) (x : Tgt) => used && !(p.producersOf t.tile b x).all loops.contains
      { s with fedL := fed sl.l (.left n), fedR := fed sl.r (.right n), fedT := fed sl.t (.pred n) } }

/-- The blocks of a compute tile by block index. -/
def Plan.buildBlks (p : Plan) (loops : List Prod) (t : TileSpec) : List Blk :=
  let n := (t.blocks.map (·.1 + 1)).foldl max 0
  (List.range n).map fun k => match t.blocks.find? (·.1 == k) with
    | some (_, _, raw) => p.buildBlk loops t k raw
    | none => emptyBlk

/-- Input ports of a tile: by routes, delay lines and virtual ports (R34, R286, R435). -/
def Plan.buildInp (p : Plan) (t : TileSpec) : List (Nat × InPort) :=
  let fills := fun (q : Nat) => if p.fillPort t.tile q then some q else none
  let routes := p.tiles.flatMap fun s => s.routes.filterMap fun (_, r) =>
    if r.tile == t.tile then
      some (r.dport, ({ feeder := .route, depth := r.depth, fills := fills r.dport } : InPort))
    else none
  let delays := t.delays.map fun (_, r) =>
    (r.dport, ({ feeder := .delay, depth := r.depth
                 q := r.preload.map fun x => ({ data := x } : Tok) } : InPort))
  let vps := (p.img.ports.filter fun v => !v.out && v.tile == t.tile).map fun v =>
    (v.port, ({ feeder := .vport v.vp, fills := fills v.port } : InPort))
  (routes ++ delays ++ vps).foldl (fun acc e => insert e.1 e.2 acc) []

/-- Where the tokens of an output port go. -/
def Plan.sinkOf (p : Plan) (t : TileSpec) (port : Nat) : Sink :=
  match t.routes.find? (·.2.port == port), t.delays.find? (·.2.sport == port),
      p.img.ports.find? fun v => v.out && v.tile == t.tile && v.port == port with
  | some (_, r), _, _ => .route r.tile r.dport r.depth
  | none, some (_, r), _ => .delay r.dport r.depth
  | none, none, some v => .vport v.vp
  | none, none, none => .unused

/-- Output ports of a tile: those its blocks and operators name and those that lead somewhere. -/
def Plan.buildOut (p : Plan) (t : TileSpec) : List (Nat × OutPort) :=
  let named := (t.ins.flatMap fun e => e.i.outPorts) ++ (t.ops.flatMap fun (_, _, o) => o.outs)
    ++ (t.routes.map (·.2.port)) ++ (t.delays.map (·.2.sport))
    ++ (t.blocks.flatMap fun (_, _, raw) =>
        (List.range 16).filter fun k => (parseHdr raw.hdr).portmask.getLsbD k)
    ++ ((p.img.ports.filter fun v => v.out && v.tile == t.tile).map (·.port))
  named.foldl (fun acc q => insert q ({ sink := p.sinkOf t q } : OutPort) acc) []

/-- The sixteen banks of an MT (R170). -/
def Plan.buildBanks (p : Plan) (tile : Nat) (imports : List Import) : List Bank :=
  (List.range 16).map fun k =>
    let (m, n, c) := p.bankMode tile k
    { mode := m, nbuf := n, cls := c
      owned := !imports.any fun i => i.tile == tile && i.bank == k }

/-- The generator state a seed gives (R59). -/
def seedState (s : Nat) : Word := BitVec.ofNat 64 (if s == 0 then 0x9E3779B97F4A7C15 else s)

/-- A tile of a configuration as it stands when it is installed. -/
def Plan.buildTile (p : Plan) (loops : List Prod) (imports : List Import) (tile : Nat) : Tile :=
  let isMt := tileRow tile % 2 != tileCol tile % 2
  let t := (p.tile tile).getD { tile := tile, isMt := isMt }
  { kind := if isMt then .mt { banks := p.buildBanks tile imports, bc := List.replicate 16 0 }
      else .ct { blks := p.buildBlks loops t
                 rng := seedState (t.seed.getD 0)
                 binds := match t.binds with
                   | some (_, es) => es
                   | none => List.replicate 16 none
                 me := { acc := (List.range 4).map fun k => { persist := t.accPersist k } } }
    inp := p.buildInp t
    out := p.buildOut t
    ops := t.ops.foldl (fun acc e => insert e.2.1 e.2.2 acc) [] }

/-- The tiles of a W × H configuration, in ascending index. -/
def tilesOf (w h : Nat) : List Nat :=
  (List.range (2 * h)).flatMap fun r => (List.range (2 * w)).map fun c => 32 * r + c

/-- The virtual ports of an image with the MPTs reserved for them. -/
def Plan.buildVps (p : Plan) (mpts : List (Nat × Nat × Nat)) : List (Nat × Vp) :=
  p.img.ports.foldl (fun acc v => insert v.vp
    ({ tile := v.tile, port := v.port, dirOut := v.out, winmax := v.winmax
       mpt := ((mpts.find? (·.1 == v.vp)).map (·.2.1)).getD 0 } : Vp) acc) []

/-- A configuration as it stands when it is installed. -/
def Plan.build (p : Plan) (imports : List Import) (mpts : List (Nat × Nat × Nat)) : Fabric :=
  let loops := p.loops
  { tiles := (tilesOf p.img.w p.img.h).map fun t => (t, p.buildTile loops imports t)
    vps := p.buildVps mpts }

/-! ### Checks of install step 2 -/

/-- A read fault that ends a launch (R337). -/
def readFail (va : Nat) (f : XlFault) : TrapRec :=
  { cause := f.cause, cls := 2, addr := va, info := f.info 0 % 2 ^ 64, stage2 := f.info 0 ≥ 2 ^ 64 }

/-- A failure of a check other than check 5 (R337) (DEDUCED, log entry 30). -/
def checkFail (k : Nat) : TrapRec := { cause := cCFGINVALID, cls := 2, info := checkInfo k }

/-- A breach of check 5 with its location (R98, R337) (DEDUCED, log entry 30). -/
def breachFail (b : Breach) : TrapRec :=
  { cause := cCFGINVALID, cls := 2
    tcol := tileCol (b.tile.getD 0), trow := tileRow (b.tile.getD 0), blk := b.blk, slot := b.slot
    hdr := b.hdr
    info := 5 + b.scope * 2 ^ 4
      + if b.scope == 1 then b.recIdx % 65536 * 2 ^ 8 + b.recTy % 256 * 2 ^ 24 else 0 }

/-- What the plane map gives a plane of a placed configuration: a bank, an accumulator bank or scale
memory (R347, R351). -/
def Dev.planeOwns (d : Dev) (row0 col0 plane : Nat) (tile kind idx : Nat) : Bool :=
  let m := d.plmapOf (16 * (row0 + tileRow tile / 2) + (col0 + tileCol tile / 2))
  let at_ := if kind == 0 then 2 * idx else if kind == 1 then 32 + 2 * idx else 40
  m / 2 ^ at_ % 4 == plane

/-- The bytes of an image: its header, and all of SIZE when MAGIC and VERSION hold. -/
def Dev.readImageBytes (m : Mem) (d : Dev) (part ctx a : Nat) : Dev × Except (Nat × XlFault) (List Byte) :=
  let (d, h) := d.ctxRead m part ctx a 96
  match h with
  | .error f => (d, .error f)
  | .ok hs =>
    if !imgMagicOk hs || imgSize hs ≤ 96 then (d, .ok hs)
    else
      let (d, r) := d.ctxRead m part ctx (a + 96) (imgSize hs - 96)
      (d, r.map fun more => hs ++ more)

/-- The checks of R111 on an image in memory: its plan, or the record of the failure. -/
def Dev.checkedPlan (m : Mem) (d : Dev) (part ctx a : Nat) (owns : Nat → Nat → Nat → Bool) :
    Dev × Except TrapRec Plan :=
  let (d, r) := d.readImageBytes m part ctx a
  (d, match r with
    | .error (va, f) => .error (readFail va f)
    | .ok bs => match checkImage bs with
      | .error k => .error (checkFail k)
      | .ok img => match checkPlan img owns with
        | .error b => .error (breachFail b)
        | .ok p => .ok p)

/-- One entry of the range-binding table suits the range it binds (R328). -/
def Dev.bindingOk (m : Mem) (d : Dev) (part ctx e perm : Nat) : Dev × Bool :=
  if e ≥ 64 then (d, false)
  else
    let (d, r) := d.rangeEntry m part ctx e
    (d, match r with
      | none => false
      | some x => !(Nat.testBit perm 1 && !Word.bit x 129 && !Word.bit x 194))

/-- Check 9: the range-binding table (R328). -/
def Dev.checkRanges (m : Mem) (d : Dev) (part ctx tab : Nat) (img : Image) : Dev × Option TrapRec :=
  if img.ranges.isEmpty then (d, none)
  else if tab == 0 then (d, some (checkFail 9))
  else
    let n := (img.ranges.map (·.1 + 1)).foldl max 0
    let (d, r) := d.ctxRead m part ctx tab (8 * n)
    match r with
    | .error (va, f) => (d, some (readFail va f))
    | .ok bs =>
      let (d, ok) := img.ranges.foldl (fun (acc : Dev × Bool) x =>
        let (d, ok) := acc.1.bindingOk m part ctx (field bs (8 * x.1) 8) x.2
        (d, acc.2 && ok)) (d, true)
      (d, if ok then none else some (checkFail 9))

/-- Check 11: the timetable of the image (R263). -/
def Dev.checkTt (m : Mem) (d : Dev) (part ctx : Nat) (img : Image) : Dev × Except TrapRec (Option Timetable) :=
  match img.tt with
  | none => (d, .ok none)
  | some (h, es) =>
    let (d, t) := d.timetable m part ctx h es
    (d, match t with
      | some t => .ok (some t)
      | none => .error (checkFail 11))

/-- A slot of KIND TWO that the context owns is not READY (R394) (DEDUCED, log entry 40). -/
def Dev.keyLacking (d : Dev) (part ctx : Nat) : Option TrapRec :=
  (((d.part part).slots.mapIdx fun k s => (k, s)).find? fun (_, s) =>
      s.assigned && s.two && s.ctx == ctx && !s.ready).map fun (k, _) =>
    { cause := cKEYNOTREADY, cls := 2, info := k * 16 }

/-! ### Save images -/

/-- PKGID of this package (R344). -/
def Dev.pkgId (d : Dev) : List Byte := (sm3 (beBytes (sm2PubOf d.sep.ident))).take 8

/-- The header of a save image suits a configuration (R343). -/
def Dev.saveHdrOk (d : Dev) (bs : List Byte) (img : Image) : Bool :=
  field bs 0 4 == 0x56415356 && field bs 4 2 == 1 && field bs 6 1 < 2
    && (bs.drop 0x10).take 32 == img.idhash && field bs 0x48 1 == img.w && field bs 0x49 1 == img.h
    && (field bs 6 1 == 0 || (bs.drop 0x38).take 8 == d.pkgId)

/-- What a save image restores, for a launch whose configuration stands fresh from its plan (R343, R344). -/
def Launch.savedState (l : Launch) (r : LRec) (p : Plan) (bs : List Byte) : Option Restored :=
  restoredFrom
    { marker := field bs 6 1 == 1, ctx := l.ctx, part := l.part, cfg := l.cfg
      progs := p.img.ctls.map fun c => c.vx + c.vy * 2 ^ 8 }
    bs (p.build r.imports l.mpts) (p.img.roundN, false, 0)

/-! ### Threads and imports -/

/-- A core on which a thread starts: one register holds a value, all else is zero (R337, R386). -/
def Core.start (c : Core) (ctx part tid pc : Nat) (g1 : Word) (lv : Level) : Core :=
  { c with
    g := (List.replicate 32 {}).set 1 { v := g1 }
    ap := List.replicate 16 0
    level := lv, thread := .live, next := pc, frame := none, ctx := ctx, part := part, tid := tid
    board := [], callReg := none, sync := [], stepArmed := false, skipArmed := false }

/-- The page of a vpage of an instance. -/
def Inst.vpageAt (x : Inst) (vx vy : Nat) : Nat := 16 * (x.row0 + vy) + (x.col0 + vx)

/-- Each control program of an image started at U on its page's CC (R337). -/
def Dev.startPrograms (d : Dev) (cfg : Nat) (image : Nat) (arg : Word) (cs : List CtlEnt) : Dev :=
  match d.inst cfg with
  | none => d
  | some x =>
    let d := cs.foldl (fun d c =>
      let page := x.vpageAt c.vx c.vy
      (d.setCc page x.plane ((d.ccOf page x.plane).start x.ctx x.part (d.tidOf x.part x.ctx)
        (image + c.off + c.entry) arg .u)).progress (.core (coreOfKey page))) d
    d.updInst cfg fun x => { x with threads := (cs.map fun c => x.vpageAt c.vx c.vy).eraseDups }

/-- A bank's state put into the bank that stands for it: its armed fills are for bindings of the producer, and
its copied fills come after the `n` the consumer has made (R42, R330, R437) (DEDUCED, log entry 53). -/
def Bank.taking (b p : Bank) (n : Nat) : Bank :=
  { b with
    bytes := p.bytes, sflags := p.sflags, full := p.full, fillPtr := p.fillPtr, readPtr := p.readPtr
    holds := [], fillRow := p.fillRow, head := p.head, tail := p.tail, words := p.words
    sealed := p.sealed, bad := p.bad, layers := p.layers
    caps := p.caps.mapIdx fun i c => { c with made := n + i } }

/-- A bank whose token has passed moved to the consumer's bank that stands for it, at its rewind point too, since
a rewind takes no token back; its ownership token is then on its way (R42, R51). -/
def Dev.moveBank (d : Dev) (pcfg : Nat) (i : Import) (cfg : Nat) : Dev :=
  match (d.inst pcfg).bind (·.bank i.ptile i.pbank), (d.inst cfg).bind (·.bank i.tile i.bank) with
  | some p, some b =>
    d.updInst cfg fun x =>
      let at_ := fun (x : Inst) => x.setBank i.tile i.bank (b.taking p x.fills)
      { at_ x with
        fills := x.fills + p.caps.length
        rew := (at_ { x with fab := x.rew }).fab, arriving := x.arriving ++ [(i.tile, i.bank)] }
  | _, _ => d

/-- Imports of an instance whose producers have already passed their banks (R330). -/
def Dev.performImports (d : Dev) (cfg : Nat) (is : List Import) : Dev :=
  is.foldl (fun d i => match (d.inst i.pcfg).bind (·.bank i.ptile i.pbank) with
    | some p => if p.passed then d.moveBank i.pcfg i cfg else d
    | none => d) d

/-- The 64 range entries of a context with their host addresses, read now; an entry that faults is read
again when it is needed (R358). -/
def Dev.readEntries (m : Mem) (part ctx rtab : Nat) :
    List Nat → Dev → Dev × List (Option (BitVec 512 × Nat))
  | [], d => (d, [])
  | k :: ks, d =>
    let (d, r) := (d.readGuest m 300 part ctx (rtab + 64 * k) 64).posted { d.deviceAcc part ctx .rd 0 with unit := 300 } 0
    let (d, es) := Dev.readEntries m part ctx rtab ks d
    (d, (match r with
      | .ok (e, host) => some (BitVec.ofNat 512 e, host)
      | .error _ => none) :: es)

/-- The MPTs and copy engines that serve an instance take its context's range entries (R358)
(DEDUCED, log entry 17). -/
def Dev.takeRanges (m : Mem) (d : Dev) (cfg : Nat) : Dev :=
  match d.inst cfg with
  | none => d
  | some x =>
    let rtab := (d.ctx x.ctx).rtab.toNat
    let (d, es) := if rtab == 0 then (d, []) else d.readEntries m x.part x.ctx rtab (List.range 64)
    let units := 300 :: ((x.fab.vps.map fun v => 200 + v.2.mpt).eraseDups)
    { d with
      rcopy := units.foldl (fun t u => insert (u * 4096 + x.ctx) es t) d.rcopy
      rroot := units.foldl (fun t u => insert (u * 4096 + x.ctx) (d.ctx x.ctx).rtab t) d.rroot
      xl := d.xl.filter fun c => !(units.contains c.unit && c.ctx == x.ctx && c.part == x.part) }

/-! ### INSTALL -/

/-- A binding of a virtual port taken up again at its recorded position: its window is fetched anew
(R217, R345) (DEDUCED, log entry 50). -/
def VpBind.refetched (b : VpBind) : VpBind :=
  { b with
    fetched := b.passed, window := [], srcs := [], part0 := [], part0Org := [], part0Src := []
    pendFault := none }

/-- Virtual ports at their recorded positions, with MPTs of a new reservation for those that are not
parked (R343, R345). -/
def rebind (mpts : List (Nat × Nat × Nat)) (vps : List (Nat × Vp)) : List (Nat × Vp) :=
  vps.map fun v => (v.1, { v.2 with
    bind := v.2.bind.map fun b => if v.2.dirOut then b else b.refetched
    mpt := match mpts.find? (·.1 == v.1) with
      | some (_, m, _) => m
      | none => v.2.mpt })

/-- A copy that makes a captured fill again, or brings its bytes back (R437) (DEDUCED, log entry 32). -/
def CapFill.copy (c : CapFill) (x : Inst) (dst : CopyDst) (again : Bool) : Copy :=
  { core := coreOfKey x.lead, ctx := c.ctx, part := c.part, olev := 3
    who := { cause := 0, cls := 2, part := c.part, ctx := c.ctx, cfgid := dst.inst.getD 0xFFFF }, src := c.pat, dst := dst, scale := c.scale
    key := c.key.map fun (s, g) => (c.layout, s, g, c.handle)
    buf := if again then none else some c.buf, refetch := true, again := again, made := c.made }

/-- Copies put to work, in their order. -/
def Dev.addCopies (d : Dev) (cs : List Copy) : Dev :=
  { d with
    copies := (cs.mapIdx fun k c => (d.nextCopy + k, c)).foldl (fun t e => insert e.1 e.2 t) d.copies
    nextCopy := d.nextCopy + cs.length }

/-- The fills of an instance's banks that have not been released, by tile and bank. -/
def Fabric.caps (f : Fabric) : List (Nat × Nat × Bank × CapFill) :=
  f.tiles.flatMap fun t => match t.2.kind with
    | .ct _ => []
    | .mt mt => (mt.banks.mapIdx fun i b => (i, b)).flatMap fun (i, b) =>
        (b.caps.filter fun c => !c.released).map fun c => (t.1, i, b, c)

/-- The parts of an instance's scale memories that hold sealed bytes, by tile. -/
def Fabric.scaleCaps (f : Fabric) : List (Nat × ScaleCap) :=
  f.tiles.flatMap fun t => match t.2.kind with
    | .ct c => c.me.scaleCaps.map fun s => (t.1, s)
    | .mt _ => []

/-- The refetches that re-establish the sealed fills of an instance's banks and the sealed bytes of its scale
memories, and with `all` its other copy fills (R281, R338, R345, R437) (DEDUCED, log entry 32). -/
def Dev.refetches (d : Dev) (cfg : Nat) (all : Bool) : Dev :=
  match d.inst cfg with
  | none => d
  | some x => d.addCopies
      (((x.fab.caps.filter fun e => all || e.2.2.1.sealed).map fun e =>
          e.2.2.2.copy x (.bank cfg e.1 e.2.1) false)
        ++ x.fab.scaleCaps.map fun e => e.2.cap.copy x (.scale cfg e.1 e.2.src e.2.ofs e.2.len) false)

/-- A refetch would need a key slot that has been erased since, or that the configuration may not use: only an edited
record names such a one (R279, R345) (DEDUCED, log entry 32). -/
def Dev.refetchKeyGone (d : Dev) (part ctx : Nat) (idhash : List Byte) (f : Fabric) : Option TrapRec :=
  let caps := (f.caps.map fun e => e.2.2.2) ++ f.scaleCaps.map fun e => e.2.cap
  (caps.findSome? fun c => match c.key with
    | some (s, g) =>
      let k := d.keySlot part s
      if k.gen != g || !k.ready || k.ctx != ctx || !k.admits (some idhash) then some (keyInfo c.handle s) else none
    | none => none).map fun i => { cause := cKEYNOTREADY, cls := 2, info := i }

/-- The instance a launch makes, before its threads start. -/
def Launch.inst (l : Launch) (r : LRec) (p : Plan) : Inst :=
  let fab := p.build r.imports l.mpts
  { ctx := l.ctx, part := l.part, row0 := l.row0, col0 := l.col0, w := p.img.w, h := p.img.h
    plane := l.plane, idhash := p.img.idhash, image := r.image, heavy := p.img.heavy
    granted := p.img.heavy
    roundN := p.img.roundN, roundE := p.img.roundN, fab := fab, rew := fab, arg := r.arg
    doneAddr := r.doneaddr, doneVal := r.doneval, imports := r.imports, page := l.page, pend := l.pend
    snap := match l.pend with
      | some (.snap q) => if q.marker then some [] else none
      | some (.move _) | some .compact | some .plsw | none => none }

/-- A virtual port whose binding's command has a number that is higher by `n`. -/
def Vp.renumbered (v : Vp) (n : Nat) : Vp := { v with bind := v.bind.map fun b => { b with id := n + b.id } }

/-- A core that takes up a saved thread, at its next block (R345). -/
def Core.resumed (c : Core) (ctx part tid : Nat) (t : ThreadDyn) : Core :=
  { c.start ctx part tid t.2.2.2.1 0 .u with
    g := t.1, ap := t.2.1, board := t.2.2.1, thread := .ofCode t.2.2.2.2.1.1 t.2.2.2.2.1.2
    stepArmed := t.2.2.2.2.2.1, skipArmed := t.2.2.2.2.2.2 }

/-- Threads that a save image records put on the CCs of their vpages, their commands under new numbers of their own
(R345, R432). -/
def Dev.resumeThreads (d : Dev) (cfg : Nat) (ts : List (Nat × ThreadDyn)) : Dev :=
  match d.inst cfg with
  | none => d
  | some x =>
    let n := d.nextCmd
    let used := ((ts.flatMap fun t => t.2.2.2.1.map (·.id)) ++ x.fab.vps.filterMap fun v => v.2.bind.map (·.id)).foldl max 0
    let d := { d with nextCmd := n + used + 1 }
    let d := ts.foldl (fun d t =>
      let page := x.vpageAt (t.1 % 16) (t.1 / 16)
      let c := (d.ccOf page x.plane).resumed x.ctx x.part (d.tidOf x.part x.ctx) t.2
      (d.setCc page x.plane { c with board := c.board.map fun k => { k with id := n + k.id } }).progress (.core (coreOfKey page))) d
    let vps := fun (f : Fabric) => { f with vps := f.vps.map fun v => (v.1, v.2.renumbered n) }
    d.updInst cfg fun x => { x with
      threads := ts.map fun t => x.vpageAt (t.1 % 16) (t.1 / 16), fab := vps x.fab, rew := vps x.rew }

/-- A virtual port's binding of a parked instance: it keeps its place in the MPT (R343, R345). -/
def Vp.rejoined (v : Vp) (old : List (Nat × Vp)) (k : Nat) : Vp :=
  match lookup k old with
  | some o => if o.parked true then { v with bind := o.bind, mpt := o.mpt } else v
  | none => v

/-- The state a restore gives an instance at install step 4: a MARKER image continues the parked instance, which
holds what is staged of the round (R343, R345, R432). -/
def Inst.restored (x : Inst) (old : Option Inst) (s : Restored) (mpts : List (Nat × Nat × Nat)) : Inst :=
  let x := { x with phase := .restoring, roundE := s.rc.1, last := s.rc.2.1, nextImage := s.rc.2.2 }
  let vps := fun (f : Fabric) => { f with vps := rebind mpts f.vps }
  match old with
  | some o =>
    let back := fun (f : Fabric) => { vps f with
      vps := (vps f).vps.map fun v => (v.1, v.2.rejoined o.fab.vps v.1) }
    { o with
      row0 := x.row0, col0 := x.col0, plane := x.plane, granted := x.granted, fab := back s.fab, rew := vps s.rew
      phase := .restoring, roundE := x.roundE, last := x.last, nextImage := x.nextImage, pend := x.pend
      snap := x.snap, heldBy := none, page := x.page, doneAddr := x.doneAddr, doneVal := x.doneVal }
  | none => { x with
      fab := vps s.fab, rew := vps s.rew, roundE := x.roundN
      fills := (s.fab.caps.map (·.2.2.2.made + 1)).foldl max 0 }

/-- Steps 3 to 5 of an install whose checks have passed (R337, R345). -/
def Dev.installed (m : Mem) (d : Dev) (l : Launch) (r : LRec) (p : Plan) (tt : Option Timetable)
    (saved : Option (Bool × Restored)) : Dev :=
  let x := l.inst r p
  let fin := fun (d : Dev) => { d with seen := if d.seen.contains l.cfg then d.seen else d.seen ++ [l.cfg] }
  let ttLoad := fun (d : Dev) => match tt with
    | some t => d.loadTimetable l.ctx (some t)
    | none => d
  match saved with
  | none =>
    let d := (ttLoad ((d.setInst l.cfg x).takeRanges m l.cfg)).performImports l.cfg r.imports
    let held := d.activePlane x.lead != x.plane
    let d := d.updInst l.cfg fun x => { x with
      rew := x.fab, phase := if held then .boundary else .running, paused := held }
    fin ((d.startPrograms l.cfg r.image r.arg p.img.ctls).progress (.config l.cfg))
  | some (marker, s) =>
    let y := x.restored (if marker then d.inst l.cfg else none) s l.mpts
    let d := ttLoad ((d.setInst l.cfg y).takeRanges m l.cfg)
    let d := if marker then d else d.regainCalls l.cfg y
    let d := ((d.resumeThreads l.cfg s.threads).refetches l.cfg (!marker)).putBack l.cfg
    fin (d.progress (.config l.cfg))

/-- The save-image part of step 2 (check 8): what a KIND 2 launch restores (R343, R345). -/
def Dev.checkSave (m : Mem) (d : Dev) (l : Launch) (r : LRec) (p : Plan) :
    Dev × Except TrapRec (Option (Bool × Restored)) :=
  if r.kind != 2 then (d, .ok none)
  else
    let (d, sv) := d.readSave m l.part l.ctx r.save
    match sv with
    | .error (va, f) => (d, .error (readFail va f))
    | .ok bs =>
      let parkedOk := field bs 6 1 == 0 || d.parkedFor l.ctx bs == some l.cfg
      if !d.saveHdrOk bs p.img || !parkedOk then (d, .error (checkFail 8))
      else match l.savedState r p bs with
        | none => (d, .error (checkFail 8))
        | some s => match d.refetchKeyGone l.part l.ctx p.img.idhash s.fab with
          | some e => (d, .error e)
          | none => (d, .ok (some (field bs 6 1 == 1, s)))

/-- Step 2 of an install: every check, in order (R337). -/
def Dev.installChecks (m : Mem) (d : Dev) (l : Launch) (r : LRec) :
    Dev × Except TrapRec (Plan × Option Timetable × Option (Bool × Restored)) :=
  let (d, pl) := d.checkedPlan m l.part l.ctx r.image (d.planeOwns l.row0 l.col0 l.plane)
  match pl with
  | .error e => (d, .error e)
  | .ok p =>
    if p.img.w != l.w || p.img.h != l.h then (d, .error (checkFail 7))
    else
      let (d, e9) := d.checkRanges m l.part l.ctx r.rangetab p.img
      match e9 with
      | some e => (d, .error e)
      | none =>
        let (d, sv) := d.checkSave m l r p
        match sv with
        | .error e => (d, .error e)
        | .ok saved =>
          let (d, t) := d.checkTt m l.part l.ctx p.img
          match t with
          | .error e => (d, .error e)
          | .ok tt => match d.keyLacking l.part l.ctx with
            | some e => (d, .error e)
            | none => (d, .ok (p, tt, saved))

/-- INSTALL: steps 2 to 5 for the oldest launch the Shepherd has accepted (R337). -/
def bodyInstall (m : Mem) (d : Dev) : Dev :=
  match d.installs with
  | [] => d
  | l :: rest => match parseLaunch l.record with
    | none => { d with installs := rest }
    | some r =>
      let (d, c) := d.installChecks m l r
      let d := { d with installs := rest }
      match c with
      | .error e => d.failLaunch m l.part l.ctx l.page r.doneaddr { e with cfgid := l.cfg }
      | .ok (p, tt, saved) => d.installed m l r p tt saved

/-- RESTORE_SOURCES_RESUME: once every refetch of a restore has completed, the sources resume; in a plane that is not
active the configuration holds, at its boundary or in the round a MARKER image caught (R345, R347). -/
def bodyRestoreSourcesResume (cfg : Nat) (_ : Mem) (d : Dev) : Dev :=
  match d.inst cfg with
  | none => d
  | some x =>
    let busy := d.copies.any fun e => e.2.refetch && e.2.dst.inst == some cfg
    let held := d.activePlane x.lead != x.plane
    let begun := x.fab.round != x.rew.round || x.fab.tiles != x.rew.tiles
    if x.phase == .restoring && !busy && !(held && begun) then
      (d.updInst cfg fun x => { x with
        phase := if held || x.reconf.isSome then .boundary else .running, paused := held || x.reconf.isSome }).progress
        (.config cfg)
    else d

/-- One step of INSTALL. -/
def execInstall (s : State) : Host.Outcome State Fault Refusal :=
  act s (bodyInstall)

/-- One step of RESTORE_SOURCES_RESUME. -/
def execRestoreSourcesResume (cfg : Nat) (s : State) : Host.Outcome State Fault Refusal :=
  act s (bodyRestoreSourcesResume cfg)

end Machine
end Sys2Proof
end

