-- ==== Sys2Proof/Machine/Shepherd.lean ====
section
/-! DEFINITION. The Shepherd: PLACE, PSNAP, PREST and PLSW (R352 to R354), moves and compaction (R338,
R339), snapshots (R341 to R346), plane switches (R347, R348), edge depths (R349) and the end of an
instance (R331). -/

namespace Sys2Proof.Machine

/-! ### Requests -/

/-- ORG of IMM20; none leaves the choice to R336 (R352). -/
def orgOf (imm : BitVec 20) : Option (Nat × Nat) :=
  if imm.getLsbD 19 then none else some (imm.toNat % 8, Word.bits imm.toNat 7 4)

/-- The CC that reports on a core's request go to. -/
def Dev.issuerPage (d : Dev) (id : CoreId) (part : Nat) : Nat :=
  match id with
  | .cc p => p.val
  | .sys _ => d.homePage part

/-- The image header of PLACE launch and PREST read at entry, with the permits it needs of those free at entry
(R352, R354). -/
def heavyFire (launch : Bool) (m : Mem) (e : Site) (bs : List Byte) (d : Dev) : Fired :=
  match parseLaunch bs with
  | none => .capture d
  | some r => match d.ctxPart r.ctx with
    | none => .capture d
    | some part =>
      if !r.deps.isEmpty || (!launch && r.kind != 2)
          || (!d.atH e.core && part != d.selPart e.core) then .capture d
      else
        let (d, h) := d.ctxRead (d.entryMem e.core m) part r.ctx r.image 96
        match h with
        | .error (va, f) => .fault d f.cause va (f.info 0)
        | .ok hs =>
          let free := match (d.core e.core).frame.bind (·.state0) with
            | some (ps, _) => (lookup part ps).getD 0
            | none => d.heavyFree part
          if (imgHdr hs).heavy > free then .fault d cHEAVY 0 0 else .capture d

/-- The effect of PLACE launch and PREST (R354). -/
def launchCom (launch : Bool) (imm : BitVec 20) (m : Mem) (id : CoreId) (bs : List Byte) (d : Dev) :
    Dev × Word :=
  match parseLaunch bs with
  | none => (d, resultWord rINVALID)
  | some r =>
    if !r.deps.isEmpty || (!launch && r.kind != 2) then (d, resultWord rINVALID)
    else match d.ctxPart r.ctx with
      | none => (d, resultWord (if d.atH id then rINVALID else rUNSEEN))
      | some part =>
        if !d.atH id && part != d.selPart id then (d, resultWord rUNSEEN)
        else
          let (d, got) := d.accept m part bs r (d.issuerPage id part) (orgOf imm)
          (d, match got with
            | some k => resultWord rOK k
            | none => resultWord rNOPLACE)

/-- PLACE launch (R354). -/
def bodyPlaceLaunch (o : OpY) (m : Mem) (d : Dev) : Dev :=
  d.recLate (.placeLaunch o) o.ga m (heavyFire true m) fun id bs d => launchCom true o.imm m id bs d

/-- PREST (R354). -/
def bodyPrest (o : OpY) (m : Mem) (d : Dev) : Dev :=
  d.recLate (.prest o) o.ga m (heavyFire false m) fun id bs d => launchCom false o.imm m id bs d

/-- An operation on an instance: UNSEEN, INVALID in states that do not admit it, else `f`, or `g` for one that is being
installed (R353, R354). -/
def Dev.onInst (d : Dev) (id : CoreId) (k : Nat) (ok : Inst → Bool) (f : Inst → Dev → Dev × Nat)
    (g : Launch → Dev → Dev × Nat) : Dev × Word :=
  match d.installs.find? (·.cfg == k), d.inst k with
  | some l, _ =>
    if !d.atH id && l.part != d.selPart id then (d, resultWord rUNSEEN k)
    else
      let (d, r) := g l d
      (d, resultWord r k)
  | none, none => (d, resultWord (if d.atH id then rINVALID else rUNSEEN) k)
  | none, some x =>
    if !d.atH id && x.part != d.selPart id then (d, resultWord rUNSEEN k)
    else if !ok x then (d, resultWord rINVALID k)
    else
      let (d, r) := f x d
      (d, resultWord r k)

/-- The state with the operation pending for a launch that is being installed (R340). -/
def Dev.pendLaunch (d : Dev) (k : Nat) (p : PendOp) : Dev :=
  { d with installs := d.installs.map fun l => if l.cfg == k then { l with pend := some p } else l }

/-- The instance is neither snapshotted nor ending. -/
def Inst.movable (x : Inst) : Bool :=
  x.phase != .snapshotted && x.phase != .ending && !x.retired

/-- A destination for a W × H configuration of a context, disjoint from the pages it is on (R338)
(DEDUCED, log entry 32). -/
def Dev.moveTarget (d : Dev) (part ctx w h : Nat) (now : List Nat) (org : Option (Nat × Nat)) :
    Option (Nat × Nat × Nat) :=
  d.place part ctx w h fun r => !(r.pages.any now.contains) && match org with
    | some o => (r.row0, r.col0) == o
    | none => true

/-- A destination for a move of an instance (R338). -/
def Dev.moveDest (d : Dev) (x : Inst) (org : Option (Nat × Nat)) : Option (Nat × Nat × Nat) :=
  d.moveTarget x.part x.ctx x.w x.h x.pages org

/-- PLACE move (R354) (DEDUCED, log entry 32). -/
def bodyPlaceMove (o : OpY) (_ : Mem) (d : Dev) : Dev :=
  d.late (.placeMove o) (fun _ _ => none) fun id _ _ d =>
    let k := ((d.core id).reg o.ga).v.toNat
    d.onInst id k Inst.movable (fun x d =>
      if x.pend.isSome then (d, rBUSY)
      else if (d.moveDest x (orgOf o.imm)).isNone then (d, rNOPLACE)
      else (d.updInst k fun x => { x with pend := some (.move (orgOf o.imm)) }, rOK)) fun l d =>
      if l.pend.isSome then (d, rBUSY)
      else if (d.moveTarget l.part l.ctx l.w l.h l.pages (orgOf o.imm)).isNone then (d, rNOPLACE)
      else (d.pendLaunch k (.move (orgOf o.imm)), rOK)

/-- A destination for a compaction: the placement of least cost before the instance's own origin (R339). -/
def Dev.compactDest (d : Dev) (x : Inst) : Option (Nat × Nat × Nat) :=
  let now := x.pages
  d.place x.part x.ctx x.w x.h fun r =>
    !(r.pages.any now.contains) && 16 * r.row0 + r.col0 < 16 * x.row0 + x.col0

/-- A compaction goes on to the first instance of its list that can move (R339). -/
def Dev.compactNext (d : Dev) (ctx : Nat) : List Nat → Dev × Option Compaction
  | [] => (d, none)
  | k :: ks => match d.inst k with
    | none => d.compactNext ctx ks
    | some x =>
      if x.pend.isSome || !x.movable || (d.compactDest x).isNone then d.compactNext ctx ks
      else (d.updInst k fun x => { x with pend := some .compact },
        some { ctx := ctx, cur := some (k, d.time), rest := ks })

/-- The compaction whose turn an instance has goes on with the next. -/
def Dev.compactSkip (d : Dev) (cfg : Nat) : Dev :=
  match d.compacts.find? fun c => c.cur.map (·.1) == some cfg with
  | none => d
  | some c =>
    let others := d.compacts.filter (· != c)
    let (d, n) := d.compactNext c.ctx c.rest
    { d with compacts := others ++ n.toList }

/-- PLACE compact (R339, R354). -/
def bodyPlaceCompact (o : OpY) (_ : Mem) (d : Dev) : Dev :=
  d.late (.placeCompact o) (fun _ _ => none) fun id _ _ d =>
    let ctx := ((d.core id).reg o.ga).v.toNat
    match d.ctxPart ctx with
    | none => (d, resultWord (if d.atH id then rINVALID else rUNSEEN))
    | some part =>
      if !d.atH id && part != d.selPart id then (d, resultWord rUNSEEN)
      else
        let mine := (d.insts.filter fun e => e.2.ctx == ctx).mergeSort fun a b => a.2.lead ≤ b.2.lead
        let (d, c) := d.compactNext ctx (mine.map (·.1))
        ({ d with compacts := d.compacts ++ c.toList }, resultWord rOK)

/-- PLACE discard: a snapshotted instance ends with FAILVAL (R346, R354). -/
def bodyPlaceDiscard (o : OpY) (m : Mem) (d : Dev) : Dev :=
  d.late (.placeDiscard o) (fun _ _ => none) fun id _ _ d =>
    let k := ((d.core id).reg o.ga).v.toNat
    d.onInst id k (fun x => x.phase == .snapshotted) (fun _ d =>
      ((d.updInst k fun x => { x with failed := some cPREEMPT }).endInst m k, rOK)) fun _ d => (d, rINVALID)

/-- MISALIGNED of the image address of PSNAP (R354). -/
def psnapPre (o : OpY) (e : Site) (d : Dev) : Option (Nat × Nat × Nat) :=
  let a := ((d.core e.core).reg o.gb).v.toNat
  if a % 4096 != 0 then some (cMISALIGNED, a, 7) else none

/-- PSNAP: the snapshot is held pending; a MARKER one starts at once (R341, R342, R354) (DEDUCED, log entry 32). -/
def Dev.psnap (i : Instr) (marker : Bool) (o : OpY) (d : Dev) : Dev :=
  d.late i (psnapPre o) fun id _ _ d =>
    let k := ((d.core id).reg o.ga).v.toNat
    let q : SnapReq :=
      { marker := marker, addr := ((d.core id).reg o.gb).v.toNat, cap := o.imm.toNat * 65536
        release := o.sub.getLsbD 1, issuer := id }
    let notice := fun (d : Dev) (part ctx : Nat) => if d.atH id then
        d.post (d.homePage part) { d.deviceRec part ctx with cause := cPREEMPT, cls := 2, cfgid := k, info := k }
      else d
    d.onInst id k Inst.movable (fun x d =>
      if x.pend.isSome then (d, rBUSY)
      else ((notice d x.part x.ctx).updInst k fun x =>
        { x with pend := some (.snap q), snap := if marker then some [] else none }, rOK)) fun l d =>
      if l.pend.isSome then (d, rBUSY) else ((notice d l.part l.ctx).pendLaunch k (.snap q), rOK)

/-- PSNAP without MARKER (R341, R354). -/
def bodyPsnapCut (o : OpY) (_ : Mem) (d : Dev) : Dev := d.psnap (.psnapCut o) false o

/-- PSNAP with MARKER (R342, R354). -/
def bodyPsnapMarker (o : OpY) (_ : Mem) (d : Dev) : Dev := d.psnap (.psnapMarker o) true o

/-- A rectangle that PLSW takes: VALID, no REJ or RSV bit, on the grid (R352, R354). -/
def plswRect (v : Nat) : Option Rect :=
  let r := rectOf v
  if Word.bit v 16 && v / 2 ^ 17 == 0 && !Word.bit v 3 && !Word.bit v 11 && r.inGrid then some r else none

/-- Instances of the active plane on some pages. -/
def Dev.activeOn (d : Dev) (ps : List Nat) : List (Nat × Inst) :=
  d.insts.filter fun e => e.2.phase != .snapshotted && e.2.plane == d.activePlane e.2.lead
    && e.2.pages.any ps.contains

/-- Launches that are being installed in the active plane of some pages. -/
def Dev.installingOn (d : Dev) (ps : List Nat) : List Launch :=
  d.installs.filter fun l => l.plane == d.activePlane (16 * l.row0 + l.col0) && l.pages.any ps.contains

/-- PLSW (R348, R354). -/
def bodyPlsw (o : OpY) (_ : Mem) (d : Dev) : Dev :=
  d.late (.plsw o) (fun e d =>
      let done := ((d.core e.core).reg o.gb).v.toNat
      if done % 8 != 0 then some (cMISALIGNED, done, 0) else none) fun id _ _ d =>
    let p := o.imm.toNat % 4
    match plswRect ((d.core id).reg o.ga).v.toNat with
    | none => (d, resultWord rINVALID)
    | some r =>
      let ps := r.pages
      let part := d.selPart id
      let done := ((d.core id).reg o.gb).v.toNat
      let owned := ps.all fun q => d.planeOwner q p == some part
        && d.planeOwner q (d.activePlane q) == some part
      let on := d.activeOn ps
      let new := d.installingOn ps
      let cut := (on.any fun e => !e.2.pages.all ps.contains) || new.any fun l => !l.pages.all ps.contains
      if (!d.atH id && !owned) || cut then (d, resultWord rINVALID)
      else if (on.any fun e => e.2.pend.isSome) || new.any (·.pend.isSome) then (d, resultWord rBUSY)
      else
        let d := on.foldl (fun d e => d.updInst e.1 fun x => { x with pend := some .plsw }) d
        let d := new.foldl (fun d l => d.pendLaunch l.cfg .plsw) d
        ({ d with switches := d.switches ++ [{ part := part, acc := d.coreAcc id .ctl .wr 1, pages := ps, plane := p
                                               done := done }] }, resultWord rOK)

/-! ### When the Shepherd may act -/

/-- The configuration is quiescent at step 6, or is held or stalled (R340). -/
def Inst.quiet (x : Inst) : Bool :=
  x.phase == .boundary || x.phase == .held || x.phase == .stalled

/-- A copy or scale fill into the instance's tiles is running. -/
def Dev.copiesInto (d : Dev) (cfg : Nat) : Bool :=
  d.copies.any fun e => e.2.dst.inst == some cfg

/-- A copy, scale fill or collective command of the instance's threads has not ended (R341). -/
def Dev.threadsBusy (d : Dev) (x : Inst) : Bool :=
  x.threads.any fun p => (d.ccOf p x.plane).board.any fun c => match c.kind with
    | .copy _ | .coll _ _ => true
    | .bind _ | .sbar => false

/-- A thread at a block boundary: no effect of a block it has entered has performed, it runs at U, and it awaits no
acknowledgement and no action of the TE (R311, R341) (DEDUCED, log entry 11). -/
def Core.settled (c : Core) : Bool :=
  c.level == .u && c.sync.isEmpty && c.callReg.isNone
    && (match c.frame with
      | some f => !f.caps.any (·.done)
      | none => true)
    && match c.thread with
      | .held _ => false
      | .none | .live | .wfi _ | .halted => true

/-- The threads of an instance stand at block boundaries, and their copies and collectives have ended (R341). -/
def Dev.threadsSettled (d : Dev) (x : Inst) : Bool :=
  !d.threadsBusy x && x.threads.all fun p => (d.ccOf p x.plane).settled

/-- A thread held at a block boundary: a block none of whose effects has performed is left, to be entered
again (R311). -/
def Core.atBoundary (c : Core) : Core :=
  match c.frame with
  | some f => if f.caps.any (·.done) then c else { c with frame := none }
  | none => c

/-- A bank whose words are kept, or read as zero, by `keep` over words and, after them, rows (R39). -/
def Bank.forget (b : Bank) (keep : Nat → Bool) : Bank :=
  { b with
    bytes := b.bytes.filter fun e => keep (e.1 / 4)
    sflags := b.sflags.filter fun r => keep (bankBytes / 4 + r) }

/-- A bank at the start of a later round, and with `event` at a move, a snapshot or a rewind: the words of a ROUND
bank may be lost, and at such an event it is empty, and so is an INPUT bank that `fed` says a stream or a route
fills; a sealed bank, and one that copies fill, is R437's (R39, R174). -/
def Bank.roundReset (b : Bank) (event fed : Bool) (keep : Nat → Bool) : Bank :=
  if b.sealed || b.mode == .version then b
  else match b.cls with
    | .round => if event then (b.forget keep).emptied else b.forget keep
    | .input => if event && fed && b.caps.isEmpty then b.emptied else b
    | .persist => b

/-- An accumulator bank after a move, a snapshot or a rewind: each word is kept, or holds +0, by `keep`; a row
stays poisoned while one of its words is kept (R176) (DEDUCED, log entry 7). -/
def AccBank.forget (a : AccBank) (keep : Nat → Bool) : AccBank :=
  if a.persist then a
  else { a with
    words := a.words.mapIdx fun i w => if keep i then w else 0
    pois := a.pois.filter fun e => (List.range 192).any fun j => keep (192 * e.1 + j) }

/-- A port of an MT fills a bank: a stream or a route brings its rows (R286). -/
def Tile.feedsBank (t : Tile) (bank : Nat) : Bool := t.inp.any fun p => p.2.fills == some bank

/-- The ROUND banks of a tile at the start of a later round; with `event` its ROUND accumulators too, and with
`refill` the banks that their sources fill again: `keep` answers for a bank and a word (R39, R174, R176). -/
def Tile.roundReset (t : Tile) (event refill : Bool) (keep : Nat → Nat → Bool) : Tile :=
  { t with kind := match t.kind with
    | .mt m => .mt { m with
        banks := m.banks.mapIdx fun i b => b.roundReset event (refill && t.feedsBank i) (keep i) }
    | .ct c =>
      if event then .ct { c with me := { c.me with acc := c.me.acc.mapIdx fun i a => a.forget (keep i) } }
      else .ct c }

/-- The ROUND banks and accumulators of a fabric, each word kept or not by a free bit of its own: 128 draws
for each bank (R39, R174, R176) (DESIGN CHOICE, log entry 7). -/
def Dev.roundReset (d : Dev) (f : Fabric) (event refill : Bool) : Dev × Fabric :=
  ({ d with free := d.free + 128 * 16 * 512 }, { f with tiles := f.tiles.map fun t =>
    (t.1, t.2.roundReset event refill fun k w =>
      (Config.freeBits (d.free + 128 * (16 * t.1 + k) + w / 1024)).getLsbD (w % 1024)) })

/-! ### Moves (R338) -/

/-- The core that stands for one whose page moves with an instance. -/
def movedCore (x y : Inst) (id : CoreId) : CoreId :=
  match id with
  | .sys _ => id
  | .cc p =>
    if x.pages.contains p.val then
      coreOfKey (16 * (p.val / 16 - x.row0 + y.row0) + (p.val % 16 - x.col0 + y.col0))
    else id

/-- Marker reports and requests of the threads that move with an instance follow them (R260, R309, R338). -/
def Dev.followThreads (d : Dev) (x y : Inst) : Dev :=
  let f := movedCore x y
  { d with
    reports := d.reports.map fun r => if r.ctx == x.ctx then { r with core := f r.core } else r
    switches := d.switches.map fun s => { s with acc := { s.acc with core := s.acc.core.map f } }
    insts := d.insts.map fun e => match e.2.pend with
      | some (.snap q) => (e.1, { e.2 with pend := some (.snap { q with issuer := f q.issuer }) })
      | some (.move _) | some .compact | some .plsw | none => e
    ctxs := d.ctxs.map fun e => if e.1 == x.ctx then (e.1, { e.2 with
        evq := e.2.evq.map fun r => if r.olev == 3 then r else { r with page := (f (coreOfKey r.page)).key % 128 } })
      else e }

/-- The threads of an instance put on the CCs of its pages at a new place. -/
def Dev.moveThreads (d : Dev) (x y : Inst) : Dev :=
  let cs := x.threads.map fun p => (p, d.ccOf p x.plane)
  let d := cs.foldl (fun d c => d.setCc c.1 x.plane { part := c.2.part }) d
  cs.foldl (fun d c =>
    let page := 16 * (c.1 / 16 - x.row0 + y.row0) + (c.1 % 16 - x.col0 + y.col0)
    d.setCc page y.plane c.2.atBoundary) d

/-- A quiescent configuration put on other pages (R338). -/
def Dev.moveTo (d : Dev) (cfg : Nat) (x : Inst) (row0 col0 plane : Nat) : Dev :=
  let (d, fab) := d.roundReset x.fab true true
  let y := { x with
    row0 := row0, col0 := col0, plane := plane, fab := fab, pend := none
    threads := x.threads.map fun p => 16 * (p / 16 - x.row0 + row0) + (p % 16 - x.col0 + col0) }
  (((d.moveThreads x y).followThreads x y).setInst cfg y).refetches cfg false

/-- SHEPHERD_MOVE: the pending MOVE of a quiescent configuration (R338, R339). -/
def bodyShepherdMove (cfg : Nat) (_ : Mem) (d : Dev) : Dev :=
  match d.inst cfg with
  | none => d
  | some x =>
    let go := fun (dest : Option (Nat × Nat × Nat)) =>
      if !x.quiet || d.copiesInto cfg then d
      else match dest with
        | some (r, c, p) => (d.moveTo cfg x r c p).compactSkip cfg
        | none => (d.updInst cfg fun x => { x with pend := none }).compactSkip cfg
    match x.pend with
    | some (.move org) => go (d.moveDest x org)
    | some .compact => go (d.compactDest x)
    | some (.snap _) | some .plsw | none => d

/-- COMPACT_TIMEOUT: an instance that has not reached a boundary within SHEP_CTMO µs of its turn is skipped
(R339) (DESIGN CHOICE, log entry 49). -/
def bodyCompactTimeout (cfg : Nat) (_ : Mem) (d : Dev) : Dev :=
  match d.compacts.find? fun c => c.cur.map (·.1) == some cfg, d.inst cfg with
  | some c, some x => match c.cur with
    | some (_, t) => if d.time - t ≥ 1000 * (d.part x.part).ctmo.toNat then d.compactSkip cfg else d
    | none => d
  | some _, none => d.compactSkip cfg
  | none, _ => d

/-! ### Save images (R344) -/

/-- A save image written, DONE last: the value DONE received, which is 1 when the snapshot is complete
(R344) (DESIGN CHOICE, log entry 11). -/
def Dev.writeSave (m : Mem) (d : Dev) (x : Inst) (q : SnapReq) (bs : List Byte) : Dev × Word :=
  let acc := d.deviceAcc x.part x.ctx .wr 7
  let (d, done) :=
    if bs.length > q.cap then (d, failVal cPERMISSION)
    else
      let (d, f) := d.storeSpan m acc q.addr (bs.take 8)
      match f with
      | some (_, f) => (d, failVal f.cause)
      | none =>
        let (d, f) := d.storeSpan m acc (q.addr + 16) (bs.drop 16)
        (d, match f with
          | some (_, f) => failVal f.cause
          | none => 1)
  let (d, f) := d.store m acc (q.addr + 8) (Word.toBytes 8 done.toNat)
  match f with
  | none => (d, done)
  | some f =>
    let r := { d.deviceRec x.part x.ctx with
      cause := f.cause, cls := 2, addr := q.addr + 8, info := f.info 7 % 2 ^ 64
      stage2 := f.info 7 ≥ 2 ^ 64 }
    (d.postCore q.issuer r, failVal f.cause)

/-- The threads of an instance by vpage, held at block boundaries. -/
def Dev.savedThreads (d : Dev) (x : Inst) : List (Nat × Core) :=
  x.threads.map fun p => (16 * (p / 16 - x.row0) + (p % 16 - x.col0), d.ccOf p x.plane)

/-- The CCs of an instance's threads as though no thread had run on them. -/
def Dev.freeThreads (d : Dev) (x : Inst) : Dev :=
  x.threads.foldl (fun d p => d.setCc p x.plane { part := (d.ccOf p x.plane).part }) d

/-- A snapshot of an instance whose state may be saved now: the image is written, and the instance runs on
or is released, when its pages are zeroed: of an instance that a MARKER image leaves parked, the bindings remain
(R174, R278, R341, R342, R343, R346). -/
def Dev.takeSnapshot (m : Mem) (d : Dev) (cfg : Nat) (x : Inst) (q : SnapReq) : Dev :=
  let x := { x with pend := none, snap := none }
  let d := d.setInst cfg x
  let (d, done) := d.writeSave m x q (x.saveBytes q.marker (d.savedThreads x) d.pkgId 1)
  if done != 1 then d.putBack cfg
  else if !q.release then
    if q.marker then d.putBack cfg
    else
      let (d, fab) := d.roundReset x.fab true false
      d.updInst cfg fun x => { x with fab := fab }
  else
    let d := d.freeThreads x
    if q.marker then d.updInst cfg fun x => { x with
      phase := .snapshotted, threads := [], fab := { x.fab with tiles := [] }, rew := { x.rew with tiles := [] } }
    else (d.retainCalls cfg x).removeInst cfg

/-- SNAPSHOT_CUT: the CUT image of a quiescent configuration (R341). -/
def bodySnapshotCut (cfg : Nat) (m : Mem) (d : Dev) : Dev :=
  match d.inst cfg with
  | none => d
  | some x => match x.pend with
    | some (.snap q) =>
      if q.marker || !x.quiet || d.copiesInto cfg || !d.threadsSettled x then d
      else d.takeSnapshot m cfg x q
    | some (.move _) | some .compact | some .plsw | none => d

/-! ### MARKER snapshots (R342) -/

/-- Nodes of a tile: its VE, its operator slots, and the ports of an MT that tokens reach (R342). -/
def tileNodes (t : Nat) (x : Tile) : List Nat :=
  (match x.kind with
    | .ct _ => [nodeOf t 0]
    | .mt _ => (x.inp.filter fun p => p.2.fills.isSome).map fun p => nodeOf t (16 + p.1))
    ++ x.ops.map fun o => nodeOf t (1 + o.1)

/-- The node that writes an output port: an operator slot or the VE. -/
def Tile.writerOf (t : Tile) (tile port : Nat) : Nat :=
  match t.ops.find? fun o => o.2.outs.contains port with
  | some o => nodeOf tile (1 + o.1)
  | none => nodeOf tile 0

/-- Links of an instance between nodes: the node written from, whether its tokens have all moved on, and
the node read by (R342). -/
def Inst.links (x : Inst) : List (Nat × Bool × Nat) :=
  x.fab.tiles.flatMap fun t => t.2.out.filterMap fun p => match p.2.sink with
    | .route tile port _ => (x.tile tile).map fun y =>
        (t.2.writerOf t.1 p.1, p.2.q.isEmpty, y.readerOf tile port)
    | .delay port _ => some (t.2.writerOf t.1 p.1, p.2.q.isEmpty, t.2.readerOf t.1 port)
    | .vport _ | .unused => none

/-- Nodes that a source feeds: readers of virtual ports, and VEs whose blocks count records (R36). -/
def Inst.sourceNodes (x : Inst) : List Nat :=
  x.fab.tiles.flatMap fun t =>
    (t.2.inp.filterMap fun p => match p.2.feeder with
      | .vport _ => some (t.2.readerOf t.1 p.1)
      | .route | .delay => none)
    ++ match t.2.kind with
      | .ct c => if c.blks.any fun b => !b.lcs.isEmpty then [nodeOf t.1 0] else []
      | .mt _ => []

/-- SNAPSHOT_MARKER_ARRIVAL: the first marker that reaches a node stops it, and it puts a marker on each of
its output links (R342). -/
def bodySnapshotMarkerArrival (cfg node : Nat) (_ : Mem) (d : Dev) : Dev :=
  match d.inst cfg with
  | none => d
  | some x => match x.snap with
    | none => d
    | some ns =>
      let known := (x.fab.tiles.flatMap fun t => tileNodes t.1 t.2).contains node
      let marked := x.sourceNodes.contains node
        || x.links.any fun l => l.2.2 == node && ns.contains l.1 && l.2.1
      if known && !ns.contains node && marked then
        d.updInst cfg fun x => { x with snap := some (ns ++ [node]) }
      else d

/-- Every node that a marker can reach has stopped, and every link it writes has delivered its tokens and
its marker (R342). -/
def Inst.markersDone (x : Inst) (ns : List Nat) : Bool :=
  x.sourceNodes.all ns.contains && x.links.all fun l => !ns.contains l.1 || (l.2.1 && ns.contains l.2.2)

/-- SNAPSHOT_IMAGE_WRITE: with a marker on every link the MARKER image is written (R342). -/
def bodySnapshotImageWrite (cfg : Nat) (m : Mem) (d : Dev) : Dev :=
  match d.inst cfg with
  | none => d
  | some x => match x.pend, x.snap with
    | some (.snap q), some ns =>
      if !x.markersDone ns || d.copiesInto cfg || !d.threadsSettled x then d
      else d.takeSnapshot m cfg x q
    | _, _ => d

/-! ### Planes (R347, R348) -/

/-- A page's active plane changed: the outgoing threads are held with their plane, the incoming ones
resume (R348). -/
def Dev.switchPage (plane : Nat) (d : Dev) (page : Nat) : Dev :=
  let old := d.activePlane page
  if old == plane then d
  else
    let c := d.core (coreOfKey page)
    let n := (lookup (4 * page + plane) d.planeCores).getD { part := (d.planeOwner page plane).getD c.part }
    ({ d with
      active := insert page plane d.active
      planeCores := insert (4 * page + old) c.atBoundary (remove (4 * page + plane) d.planeCores) }).setCore
        (coreOfKey page) n

/-- PLANE_SWITCH: the oldest switch of a partition, once its outgoing configurations are quiescent; a fault of its
completion word is reported to the core that issued the PLSW (R309, R348). -/
def bodyPlaneSwitch (part : Nat) (m : Mem) (d : Dev) : Dev :=
  match d.switches.find? (·.part == part) with
  | none => d
  | some s =>
    let on := (d.activeOn s.pages).filter fun e => e.2.pend == some .plsw
    if (on.any fun e => !e.2.quiet) || (d.installingOn s.pages).any (·.pend == some .plsw) then d
    else
      let d := s.pages.foldl (Dev.switchPage s.plane) d
      let d := on.foldl (fun d e => d.updInst e.1 fun x => { x with pend := none }) d
      let d := { d with switches := d.switches.filter (· != s) }
      if s.done == 0 then d
      else d.tryWord m { acc := s.acc, cfg := 0xFFFF, addr := s.done, v := 1 }

/-- EDGE_DEPTH_APPLY: an edge that is empty takes its new depth, when the tile's depths then sum to at most
128 (R349). -/
def bodyEdgeDepthApply (cfg tile port : Nat) (_ : Mem) (d : Dev) : Dev :=
  match (d.inst cfg).bind (·.tile tile) with
  | none => d
  | some t => match lookup port t.inp with
    | none => d
    | some p => match p.newDepth with
      | none => d
      | some n =>
        let others := (t.inp.filter fun q => q.1 != port && q.2.feeder == .route).map (·.2.depth)
        if !p.q.isEmpty || others.foldl (· + ·) n > 128 then d
        else d.updInst cfg fun x =>
          x.setTile tile { t with inp := insert port { p with depth := n, newDepth := none } t.inp }

/-! ### The end of an instance -/

/-- INSTANCE_END: a retired instance ends when every control thread its image started has halted (R331). -/
def bodyInstanceEnd (cfg : Nat) (m : Mem) (d : Dev) : Dev :=
  match d.inst cfg with
  | none => d
  | some x =>
    if x.retired && x.threads.all fun p => !(d.ccOf p x.plane).threadLive then d.endInst m cfg else d

/-- The Shepherd holds the thread of a CC at its next block boundary (R338, R341). -/
def Dev.shepherdHolds (d : Dev) (id : CoreId) : Bool :=
  match id with
  | .sys _ => false
  | .cc p => d.insts.any fun e => e.2.plane == d.activePlane p.val && e.2.threads.contains p.val
      && (e.2.snap.isSome || e.2.phase == .restoring || (e.2.quiet && e.2.pend.isSome))

/-- One step of PLACE_LAUNCH. -/
def execPlaceLaunch (o : OpY) (s : State) : Host.Outcome State Fault Refusal :=
  act s (bodyPlaceLaunch o)

/-- One step of PREST. -/
def execPrest (o : OpY) (s : State) : Host.Outcome State Fault Refusal :=
  act s (bodyPrest o)

/-- One step of PLACE_MOVE. -/
def execPlaceMove (o : OpY) (s : State) : Host.Outcome State Fault Refusal :=
  act s (bodyPlaceMove o)

/-- One step of PLACE_COMPACT. -/
def execPlaceCompact (o : OpY) (s : State) : Host.Outcome State Fault Refusal :=
  act s (bodyPlaceCompact o)

/-- One step of PLACE_DISCARD. -/
def execPlaceDiscard (o : OpY) (s : State) : Host.Outcome State Fault Refusal :=
  act s (bodyPlaceDiscard o)

/-- One step of PSNAP_CUT. -/
def execPsnapCut (o : OpY) (s : State) : Host.Outcome State Fault Refusal :=
  act s (bodyPsnapCut o)

/-- One step of PSNAP_MARKER. -/
def execPsnapMarker (o : OpY) (s : State) : Host.Outcome State Fault Refusal :=
  act s (bodyPsnapMarker o)

/-- One step of PLSW. -/
def execPlsw (o : OpY) (s : State) : Host.Outcome State Fault Refusal :=
  act s (bodyPlsw o)

/-- One step of SHEPHERD_MOVE. -/
def execShepherdMove (cfg : Nat) (s : State) : Host.Outcome State Fault Refusal :=
  act s (bodyShepherdMove cfg)

/-- One step of COMPACT_TIMEOUT. -/
def execCompactTimeout (cfg : Nat) (s : State) : Host.Outcome State Fault Refusal :=
  act s (bodyCompactTimeout cfg)

/-- One step of SNAPSHOT_CUT. -/
def execSnapshotCut (cfg : Nat) (s : State) : Host.Outcome State Fault Refusal :=
  act s (bodySnapshotCut cfg)

/-- One step of SNAPSHOT_MARKER_ARRIVAL. -/
def execSnapshotMarkerArrival (cfg node : Nat) (s : State) : Host.Outcome State Fault Refusal :=
  act s (bodySnapshotMarkerArrival cfg node)

/-- One step of SNAPSHOT_IMAGE_WRITE. -/
def execSnapshotImageWrite (cfg : Nat) (s : State) : Host.Outcome State Fault Refusal :=
  act s (bodySnapshotImageWrite cfg)

/-- One step of PLANE_SWITCH. -/
def execPlaneSwitch (part : Nat) (s : State) : Host.Outcome State Fault Refusal :=
  act s (bodyPlaneSwitch part)

/-- One step of EDGE_DEPTH_APPLY. -/
def execEdgeDepthApply (cfg tile port : Nat) (s : State) : Host.Outcome State Fault Refusal :=
  act s (bodyEdgeDepthApply cfg tile port)

/-- One step of INSTANCE_END. -/
def execInstanceEnd (cfg : Nat) (s : State) : Host.Outcome State Fault Refusal :=
  act s (bodyInstanceEnd cfg)

end Sys2Proof.Machine
end

