-- ==== Sys2Proof/Machine/Partition.lean ====
section
/-! DEFINITION. Partitions: OPEN, START and STOP (R386, R409, R427), frame-owner tags and clearing (R387,
R388, R393), and the stage-2 base (R381). -/

namespace Sys2Proof.Machine

/-! ### The stage-2 base -/

/-- XL_S2BASE written: in force from START or from the next XINV part (R381). -/
def bodyXlS2base (id : CoreId) (v : Word) (_ : Mem) (d : Dev) : Dev :=
  d.updPart (d.selPart id) fun p => { p with s2base := v }

/-! ### OPEN and START -/

/-- CMD OPEN: a partition in state NONE enters CONFIG (R386). -/
def bodyPartCtlOpen (part : Nat) (_ : Mem) (d : Dev) : Dev :=
  if (d.part part).state == .none then d.updPart part fun p => { p with state := .config, err := 0 } else d

/-- Two ranges of numbers, each given by its base and count, meet. -/
def rangesMeet (a n b k : Nat) : Bool := n != 0 && k != 0 && a < b + k && b < a + n

/-- The pages of PART_PAGES0 and PART_PAGES1. -/
def Partition.pages (p : Partition) : List Nat := (List.range 128).filter p.hasPage

/-- Check 1 of START against another partition (R386). -/
def Partition.disjoint (p q : Partition) : Bool :=
  (p.pages0 &&& q.pages0) == 0 && (p.pages1 &&& q.pages1) == 0
    && !rangesMeet p.tidBase p.tidCnt q.tidBase q.tidCnt
    && !rangesMeet p.ctxBase p.ctxCnt q.ctxBase q.ctxCnt
    && (p.chmask &&& q.chmask) == 0

/-- The package accepts START (R409). -/
def PkgState.startsOk (s : PkgState) : Bool :=
  match s with
  | .service | .coldReady | .run => true
  | .off | .cooling | .soak | .retreat | .warming | .trip => false

/-- ERR of a START of a partition, 0 when every check passes (R386). -/
def Dev.startErr (d : Dev) (part : Nat) : Nat :=
  let p := d.part part
  let owned := ((List.range nQueues).filter fun q => (d.queue q).owner == part).length
  if !d.pkg.startsOk then 6
  else if d.parts.any (fun e => e.1 != part && e.2.state != .none && !p.disjoint e.2) then 1
  else if p.tidCnt == 0 || (p.tidBase ≤ tidH && tidH < p.tidBase + p.tidCnt) then 2
  else if !p.hasPage (p.home.toNat % 128) then 3
  else if !p.hasCtx (p.supctx.toNat % 4096) then 4
  else if p.heavy.toNat > 256 || owned > p.qmax.toNat then 5
  else if !p.pages.all d.enabledPage then 7
  else 0

/-- A frame that enters CLEARING (R393). -/
def FrameTag.clearing (t : FrameTag) : FrameTag :=
  { t with state := 2, cleared := 0, lines := [], stale := false, rewritten := [] }

/-- CMD START: the checks of R386; then the new keys, with seed lines re-enciphered under them so that
they read as before (R427), the metering epoch and its first record, the clearing of the OWNED frames, and
the supervisor's thread (DEDUCED, log entry 45). -/
def bodyPartCtlStart (part : Nat) (m : Mem) (d : Dev) : Dev :=
  if (d.part part).state != .config then d
  else
    let err := d.startErr part
    if err != 0 then d.updPart part fun p => { p with err := err }
    else
      let d := d.updPart part fun p =>
        { p with
          state := .running, err := 0, s2cur := p.s2base, meters := [0, 0, 0, 0, 0, 0]
          epoch := p.epoch + 1, useq := 0, tstart := d.time, startAt := d.time
          meterDue := d.time + p.ival.toNat * 1000000 }
      let d := { d with
        tags := d.tags.map fun (e : Nat × FrameTag) =>
          (e.1, if e.2.owner == part && e.2.state == 1 && !e.2.hyp then e.2.clearing else e.2) }
      let d := (d.makeRecord m part 3).1
      let p := d.part part
      let d := p.pages.foldl (fun (d : Dev) pg => d.updCore (coreOfKey pg) fun c => { c with part := part }) d
      let home := coreOfKey (p.home.toNat % 128)
      let sup := p.supctx.toNat % 4096
      (d.updCore home fun c => c.start sup part (d.tidOf part sup) p.supentry.toNat
        (BitVec.ofNat 64 part) .s).progress (.core home)

/-! ### STOP -/

/-- A core of the partition halted with its queues emptied: nothing of the partition runs on it
(DEDUCED, log entry 44). -/
def Core.stopped (c : Core) : Core :=
  { c.halt with board := [], queue := [], entry := none, sync := [] }

/-- A partition stopped: instances aborted with FAILVAL of a cause, threads halted, queues returned, banks
zeroed, key slots and keys erased, and the final usage record made (R386, R409) (DEDUCED, log entry 18). -/
def Dev.stopPartition (m : Mem) (d : Dev) (part cause : Nat) : Dev :=
  let d := d.updPart part fun p => { p with state := .stopped }
  let mine := (d.insts.filter fun e => e.2.part == part).map (·.1)
  let d := mine.foldl (fun d k => d.killInst m k cause) d
  let waiting := d.installs.filter (·.part == part)
  let d := { d with installs := d.installs.filter (·.part != part) }
  let d := waiting.foldl (fun d l => match parseLaunch l.record with
    | some r => d.failDone m part l.ctx r.doneaddr cause
    | none => d) d
  let stop := fun (isCc : Nat → Bool) (e : Nat × Core) =>
    (e.1, if isCc e.1 && e.2.part == part then e.2.stopped else e.2)
  let d := { d with
    cores := d.cores.map (stop fun k => k < 128)
    planeCores := d.planeCores.map (stop fun _ => true)
    copies := d.copies.filter fun e => e.2.part != part
    sepq := d.sepq.filter (·.part != part)
    switches := d.switches.filter (·.part != part)
    xl := d.xl.filter (·.part != part)
    rroot := d.rroot.filter fun e => !(d.part part).hasCtx (e.1 % 4096)
    rcopy := d.rcopy.filter fun e => !(d.part part).hasCtx (e.1 % 4096) }
  let qs := (List.range nQueues).filter fun q => (d.queue q).owner == part
  let d := qs.foldl (fun d q => (d.flushQueue m q).updQueue q fun x =>
    { x with enabled := false, owner := 0 }) d
  let d := { d with
    tags := d.tags.map fun (e : Nat × FrameTag) => (e.1, if e.2.owner == part && (e.2.state == 1 || e.2.state == 2) then
      { e.2 with stale := true, rewritten := [] } else e.2) }
  let d := d.updPart part fun p => { p with grans := [], slots := p.slots.map fun (s : KeySlot) => ({ gen := s.gen + 1 } : KeySlot) }
  (d.makeRecord m part 2).1.updPart part fun p => { p with state := .none }

/-- CMD STOP of a RUNNING partition (R386). -/
def bodyPartCtlStop (part : Nat) (m : Mem) (d : Dev) : Dev :=
  if (d.part part).state == .running then d.stopPartition m part cPREEMPT else d

/-! ### Frame-owner tags -/

/-- The elements of a stream window that came from frames that meet a condition discarded, with those
after them (R393) (DEDUCED, log entry 50). -/
def VpBind.discard (b : VpBind) (f : Nat → Bool) : VpBind :=
  if (b.part0Src.any fun e => f e.2) || b.srcs.any (·.any f) then
    let i := (b.srcs.findIdx? (·.any f)).getD b.window.length
    if b.kind == .gather then
      let k := idxTokens b.pat
      let runs := if k == 0 then 0 else (i + b.sent % k) / k
      let keep := runs * k - (if runs == 0 then 0 else b.sent % k)
      { b with
        window := b.window.take keep, srcs := b.srcs.take keep, fetched := b.passed + runs
        part0 := [], part0Org := [], part0Src := [] }
    else
      let n := (List.range i).foldl (fun n _ => n + (patToken b.pat n).1) b.passed
      { b with
        window := b.window.take i, srcs := b.srcs.take i, fetched := n
        part0 := [], part0Org := [], part0Src := [] }
  else b

/-- Every window element fetched from frames that meet a condition discarded (R393). -/
def Dev.discardFrames (d : Dev) (f : Nat → Bool) : Dev :=
  { d with insts := d.insts.map fun e => (e.1, { e.2 with fab := { e.2.fab with
      vps := e.2.fab.vps.map fun v => (v.1, { v.2 with bind := v.2.bind.map (·.discard f) }) } }) }

/-- The tag that a write of PART_FTAG gives (R387). -/
def FrameTag.write (t : FrameTag) (v : Nat) : FrameTag :=
  let t := { t with
    tc := Word.bit v 6, exp := Word.bit v 7, hyp := Word.bit v 8, etid := Word.bits v 18 9
    rej := t.rej && !Word.bit v 30 }
  match Word.bits v 5 4 with
  | 2 => { t.clearing with owner := v % 16 }
  | 0 => { t with owner := v % 16, state := 0 }
  | _ => t

/-- A write of PART_FTAG is of a kind that R387 accepts for a frame (DEDUCED, log entry 46). -/
def FrameTag.accepts (t : FrameTag) (v : Nat) : Bool :=
  match Word.bits v 5 4 with
  | 2 => t.state == 0 || t.state == 1
  | 0 => t.state == 1
  | 1 => (t.state == 1 || t.state == 2) && t.owner == v % 16
  | _ => false

/-- A frame is held by a partition. -/
def FrameTag.heldBy (t : FrameTag) (part : Nat) : Bool := t.owner == part && (t.state == 1 || t.state == 2)

/-- The channel group of a tier-1 frame is in a partition's CHMASK (R388). -/
def Partition.hasChannel (p : Partition) (hfn : Nat) : Bool := p.chmask.getLsbD (hfn / 8192)

/-- A write of PART_FTAG that covers frames is within the owner's CHMASK and quotas (R387)
(DEDUCED, log entry 46). -/
def Dev.ftagQuota (d : Dev) (hfns : List Nat) (v : Nat) : Bool :=
  let own := v % 16
  let p := d.part own
  let others := d.tags.filter fun e => e.2.heldBy own && !hfns.contains e.1
  let before := hfns.filter fun h => (d.tag h).heldBy own
  let t2 := fun (h : Nat) => inTier2 (h * frameBytes)
  let t2Before := (others.filter fun e => t2 e.1).length + (before.filter t2).length
  let t2After := (others.filter fun e => t2 e.1).length + (hfns.filter t2).length
  let tcOthers := (others.filter fun e => e.2.tc).length
  let tcBefore := tcOthers + (before.filter fun h => (d.tag h).tc).length
  let tcAfter := tcOthers + (if Word.bit v 6 then hfns.length else 0)
  Word.bits v 5 4 == 0
    || ((Word.bits v 5 4 != 2 || hfns.all fun h => !inTier1 (h * frameBytes) || p.hasChannel h)
      && (t2After ≤ p.t2max.toNat || t2After ≤ t2Before)
      && (tcAfter ≤ p.tcmax.toNat || tcAfter ≤ tcBefore))

/-- PART_FTAG written: the tags of the covered frames change together, with the invalidations of R393, or
the write is refused and the first frame's REJ is set (R387) (DEDUCED, log entry 46). -/
def bodyPartFtag (id : CoreId) (v : Word) (_ : Mem) (d : Dev) : Dev :=
  let c := d.core id
  let n := v.toNat
  let hfns := (List.range c.ftcnt).map (c.ftsel + ·)
  if hfns.all (fun h => (d.tag h).accepts n) && d.ftagQuota hfns n then
    let leaving := hfns.filter fun h => (d.tag h).state == 1 && Word.bits n 5 4 != 1
    let d := d.discardFrames leaving.contains
    { d with tags := hfns.foldl (fun t h => insert h ((d.tag h).write n) t) d.tags }
  else { d with tags := insert c.ftsel { d.tag c.ftsel with rej := true } d.tags }

/-- CLEAR_LINE: the clearing engine writes a zero line of a CLEARING frame, unless it was written before,
and the frame becomes OWNED when every line is cleared (R393). -/
def bodyClearLine (hfn line : Nat) (_ : Mem) (d : Dev) : Dev :=
  let t := d.tag hfn
  if t.state != 2 || line ≥ 32768 || t.lines.contains line then d
  else
    let a := hfn * frameBytes + 64 * line
    (((d.write (bytesAt a (List.replicate 64 0))).forgetOld a 64).markCleared a).cureLine a

/-- One step of XL_S2BASE. -/
def execXlS2base (id : CoreId) (v : Word) (s : State) : Host.Outcome State Fault Refusal :=
  act s (bodyXlS2base id v)

/-- One step of PART_CTL_OPEN. -/
def execPartCtlOpen (part : Nat) (s : State) : Host.Outcome State Fault Refusal :=
  act s (bodyPartCtlOpen part)

/-- One step of PART_CTL_START. -/
def execPartCtlStart (part : Nat) (s : State) : Host.Outcome State Fault Refusal :=
  act s (bodyPartCtlStart part)

/-- One step of PART_CTL_STOP. -/
def execPartCtlStop (part : Nat) (s : State) : Host.Outcome State Fault Refusal :=
  act s (bodyPartCtlStop part)

/-- One step of PART_FTAG. -/
def execPartFtag (id : CoreId) (v : Word) (s : State) : Host.Outcome State Fault Refusal :=
  act s (bodyPartFtag id v)

/-- One step of CLEAR_LINE. -/
def execClearLine (hfn line : Nat) (s : State) : Host.Outcome State Fault Refusal :=
  act s (bodyClearLine hfn line)

end Sys2Proof.Machine
end

