-- ==== Sys2Proof/Machine/Cold.lean ====
section
/-! DEFINITION. Cold operation, power and bring-up: lines requested for no agent (R389, R392), the band
controller (R407 to R412), the patrol (R411), boot (R413) and the power governor (R416 to R418). -/

namespace Sys2Proof.Machine

/-! ### Lines requested for no agent -/

/-- The patrol runs (R411). -/
def PkgState.patrols (s : PkgState) : Bool :=
  match s with
  | .soak | .coldReady | .run => true
  | .off | .service | .cooling | .retreat | .warming | .trip => false

/-- Power reaches the compute dies and the memory (R409). -/
def PkgState.powered (s : PkgState) : Bool :=
  match s with
  | .off | .trip => false
  | .service | .cooling | .soak | .coldReady | .run | .retreat | .warming => true

/-- MEMORY_LINE_READ: the line passes the stages of a read; a corrected symbol is written back and a bad
line is recorded (R392, R411). -/
def bodyMemoryLineRead (q : LineReq) (m : Mem) (d : Dev) : Dev :=
  if !d.pkg.powered then d
  else
    let line := q.addr / 64 * 64
    let (bad, _, _, d) := d.readLocal m q.tid false line 64
    d.postNoAgent q.tid line bad

/-- MEMORY_LINE_WRITE: the bytes pass the stages of a write; a part of a line merges with the line as read
(R392, R393). -/
def bodyMemoryLineWrite (q : LineReq) (_ : Mem) (d : Dev) : Dev :=
  if !d.pkg.powered then d
  else
    let (bad, d) := d.writeLocal q.tid false q.addr (q.data.take (64 - q.addr % 64))
    d.postNoAgent q.tid (q.addr / 64 * 64) bad

/-! ### What a state sets -/

/-- The timing set of a state: 0 A, 1 B, 2 C (R409). -/
def PkgState.timing (s : PkgState) : Nat :=
  match s with
  | .soak | .retreat => 1
  | .coldReady | .run => 2
  | .off | .service | .cooling | .warming | .trip => 0

/-- The clock cap of a state, as a step of R17 (R409). -/
def PkgState.clockCap (s : PkgState) : Nat :=
  match s with
  | .coldReady | .run => 10
  | .retreat => 6
  | .off | .service | .cooling | .soak | .warming | .trip => 0

/-- Refresh of tier 1 is on in a state, unless an audit has switched it on (R409, R411). -/
def PkgState.refreshes (s : PkgState) : Bool :=
  match s with
  | .coldReady | .run => false
  | .off | .service | .cooling | .soak | .retreat | .warming | .trip => true

/-- The package in a state, with the conditions that R409 gives it. A pass of the patrol begins when SOAK is
entered from a state without a patrol (R411). -/
def Dev.enterPkg (d : Dev) (s : PkgState) : Dev :=
  let d := if s == .soak then { d with patrolNs := 0, passBad := false, fixes := 0, passClean := false } else d
  { d with
    pkg := s, stateSince := d.time, retreat := .settled, refresh := s.refreshes
    sets := List.replicate 48 s.timing }

/-- Bits 31:8 of the INFO of a THERMAL_RETREAT record, from the last sample (R412) (DESIGN CHOICE, log entry 4). -/
def Dev.hotInfo (d : Dev) : Nat :=
  match hottest d.sensors with
  | some (v, i) => i % 2 ^ 8 * 2 ^ 8 + v % 2 ^ 16 * 2 ^ 16
  | none => d.freeReading * 2 ^ 16

/-- Partitions that are RUNNING. -/
def Dev.runningParts (d : Dev) : List Nat :=
  (List.range 16).filter fun k => (d.part k).state == .running

/-- THERMAL_RETREAT posted to H and to the home CC of every RUNNING partition (R303, R309, R412)
(DEDUCED, log entry 22). -/
def Dev.thermalEvent (d : Dev) (event info : Nat) : Dev :=
  let r : TrapRec := { cause := cTHERMAL, cls := 2, tid := tidH, cfgid := 0xFFFF, info := event + info, toH := true }
  d.runningParts.foldl (fun d k =>
    d.post (d.homePage k) { d.deviceRec k (d.supCtx k) with cause := cTHERMAL, info := event + info })
    (d.post 0 r)

/-- WARMING entered: event 3, then every RUNNING partition stopped (R409). -/
def Dev.enterWarming (m : Mem) (d : Dev) : Dev :=
  let ps := d.runningParts
  (ps.foldl (fun d k => d.stopPartition m k cTHERMAL) (d.thermalEvent 3 d.hotInfo)).enterPkg .warming

/-! ### Loss of power -/

/-- Bytes of main memory that hold nothing any more (DESIGN CHOICE, log entry 1). -/
def Dev.loseMemory (m : Mem) (d : Dev) (f : Nat → Bool) : Dev :=
  { d with wq := d.wq ++ ((m.filter fun e => f e.1).map fun e => (e.1, unlisted)) }

/-- What outlives the loss of the compute dies' state: the flash, other packages, and the inputs of the
model (DEDUCED, log entry 26). -/
def Dev.bare (d : Dev) : Dev :=
  { flash := d.flash, sep := d.sep, self := d.self, peers := d.peers, sensors := d.sensors, out := d.out
    agenda := d.agenda, free := d.free, wq := d.wq }

/-- The SEP's metering state of a partition (R398, R400) (DEDUCED, log entry 26). -/
def Partition.metering (p : Partition) : Partition :=
  { meters := p.meters, records := p.records, chained := p.chained, useq := p.useq, tstart := p.tstart
    epoch := p.epoch }

/-- TRIP: compute dies, base dies and HBM4 lose power, and with it tier 1 and the fabric; the SEP goes on
(R409) (DEDUCED, log entry 26). -/
def Dev.trip (m : Mem) (d : Dev) : Dev :=
  let d1 := (d.loseMemory m inTier1).bare
  { d1 with
    pkg := .trip, stateSince := d.time, time := d.time, sessions := d.sessions, nextSession := d.nextSession
    locks := d.locks, bootOk := d.bootOk, fwRun := d.fwRun
    parts := d.parts.map fun (e : Nat × Partition) => (e.1, { e.2.metering with ival := e.2.ival }) }

/-- OFF: everything but the flash is lost (R408) (DEDUCED, log entry 26). -/
def Dev.powerOff (m : Mem) (d : Dev) : Dev := (d.loseMemory m fun _ => true).bare

/-- POWER_LOSS. -/
def bodyPowerLoss (m : Mem) (d : Dev) : Dev := d.powerOff m

/-! ### Boot -/

/-- The flash bank of a number. -/
def Flash.bankOf (f : Flash) (one : Bool) : FlashBank := if one then f.bank1 else f.bank0

/-- Step 2 of boot: the signature of the grade record, its form, the identity key it certifies, and the count of its
enabled pages (R413) (DEDUCED, log entry 27). -/
def Dev.gradeOk (d : Dev) : Bool :=
  let f := d.flash
  f.record.length == 256 && Word.ofBytes (f.bytes 0 4) == 0x44524756 && Word.ofBytes (f.bytes 4 2) == 1
    && (f.bytes 0x98 40).all (· == 0)
    && sm2Verify d.sep.vovia sm2DefaultId (f.bytes 0 0xC0) f.gradeSig
    && f.bytes 0x28 32 == sm3 (beBytes (sm2PubOf d.sep.ident))
    && f.grade < 2
    && ((List.range 128).filter fun k => f.enabled.getLsbD k).length == (if f.grade == 0 then 128 else 112)

/-- The state boot enters in a band (R408). -/
def bootState (band : Nat) : PkgState :=
  match band with
  | 3 => .service
  | 2 => .warming
  | _ => .soak

/-- The hypervisor image loaded into HYP frames (R413) (DESIGN CHOICE, log entry 5). -/
def Dev.loadHyp (d : Dev) (b : FlashBank) : Dev :=
  b.hyp.foldl (fun (d : Dev) (seg : Nat × List Byte) =>
    let first := seg.1 / frameBytes
    let frames := (List.range ((seg.1 + seg.2.length + frameBytes - 1) / frameBytes - first)).map (first + ·)
    { d with
      wq := d.wq ++ bytesAt seg.1 seg.2
      tags := frames.foldl (fun t k => insert k ({ state := 1, hyp := true } : FrameTag) t) d.tags }) d

/-- A package without power boots (R413). The band comes from the sensors as they stand
(DESIGN CHOICE, log entry 4). -/
def Dev.boot (d0 : Dev) : Dev :=
  let graded := d0.gradeOk
  let b := d0.flash.bankOf d0.flash.bank
  let ok := graded && b.ok
  let (band, d) := match hottest d0.sensors with
    | some (h, _) => (bandCode h, d0)
    | none => (d0.fresh.1.toNat % 4, d0.fresh.2)
  let d := { d with
    flash := if graded then { d.flash with boots := (d.flash.boots + 1) % 2 ^ 32 } else d.flash
    self := d.flash.domIdx, bootOk := ok, fwRun := if graded then b.fw else [] }
  let d := d.enterPkg (bootState band)
  if !ok then d
  else
    ([0, 1, 2, 3] : List (Fin 4)).foldl (fun (d : Dev) k => d.updCore (.sys k) fun c =>
      c.start 0 0 tidH b.hypEntry 0 .h) (d.loadHyp b)

/-- BOOT at power-good (R413). -/
def bodyBoot (_ : Mem) (d : Dev) : Dev := if d.pkg == .off then d.boot else d

/-- SERVICE RESET: the package resets and boots; the counters and records of the SEP outlive a reset short
of power loss (R398, R413, R414) (DEDUCED, log entry 26). -/
def Dev.resetBoot (m : Mem) (d : Dev) : Dev :=
  let parts := d.parts.map fun (e : Nat × Partition) =>
    (e.1, { e.2.metering with chained := false, useq := 0, epoch := 0 })
  ({ d.powerOff m with parts := parts }).boot

/-! ### The band controller -/

/-- Readings for the 256 sensors of the four compute dies. -/
def sensorsOf (rs : List (Option Nat)) : List (Option Nat) :=
  (List.range 256).map fun k => (rs[k]?).getD none

/-- The trip conditions (R407). -/
def tripDue (rs : List (Option Nat)) : Bool :=
  (match coldest rs with
    | some (v, _) => v < kelvin 65
    | none => true)
  || (match hottest rs with
    | some (v, _) => v > kelvin 340
    | none => true)
  || (List.range 4).any fun k => (((rs.drop (64 * k)).take 64).filter (·.isSome)).length < 32

/-- The cooling rate over the last 60 s of samples, in 1/64 K per minute, as 16 bits (R408, R419)
(DEDUCED, log entry 22). -/
def coolingRate (hist : List (Nat × Nat)) (h : Nat) : Word :=
  match hist.head? with
  | some (_, old) => BitVec.ofNat 64 (Word.wrap ((old : Int) - h) 16)
  | none => 0

/-- The readings of a sample taken in (DEDUCED, log entry 22). -/
def Dev.sample (d : Dev) (rs : List (Option Nat)) : Dev :=
  let h := match hottest rs with
    | some (v, _) => v
    | none => 0
  let hist := (d.therm.filter fun e => d.time ≤ e.1 + 60 * 10 ^ 9) ++ [(d.time, h)]
  { d with
    sensors := rs, therm := hist
    rate := if d.pkg == .cooling then coolingRate hist h else d.rate
    coolFrom := if h < kelvin 97 then some (d.coolFrom.getD d.time) else none }

/-- H has been below 97 K for a number of seconds up to this sample. -/
def Dev.coolFor (d : Dev) (secs : Nat) : Bool :=
  match d.coolFrom with
  | some t => t + secs * 10 ^ 9 ≤ d.time
  | none => false

/-- The condition under which SOAK ends in COLD_READY (R408) (DEDUCED, log entry 23). -/
def Dev.soaked (d : Dev) : Bool :=
  d.stateSince + 600 * 10 ^ 9 ≤ d.time && d.coolFor 300 && d.passClean

/-- COLD_READY or RUN, as a partition is RUNNING (R408). -/
def Dev.readyState (d : Dev) : PkgState := if d.runningParts.isEmpty then .coldReady else .run

/-- COLD_READY and RUN become each other; the conditions are the same in both (R408, R409). -/
def Dev.readyOrRun (d : Dev) : Dev :=
  if d.pkg == d.readyState then d else { d with pkg := d.readyState, stateSince := d.time }

/-- RETREAT entered: step 1 and the refresh of step 2 (R410) (DEDUCED, log entry 22). -/
def Dev.enterRetreat (d : Dev) : Dev :=
  { d with
    pkg := .retreat, stateSince := d.time, refresh := true, retreat := .refreshing, thermInfo := d.hotInfo }

/-- What a sample does in RETREAT (R408, R410) (DEDUCED, log entry 22). -/
def Dev.sampleRetreat (m : Mem) (d : Dev) (h : Nat) : Dev :=
  if h ≥ kelvin 140 then d.enterWarming m
  else match d.retreat with
    | .toC => if h ≥ kelvin 100 then { d with retreat := .back } else d
    | .settled => if d.coolFor 60 then { d with retreat := .toC, thermInfo := d.hotInfo } else d
    | .refreshing | .toB | .back => d

/-- BAND_SAMPLE: the band controller samples every sensor and takes the transition that is due: TRIP first,
then one that a temperature causes; commands come between samples (R407 to R412, R415) (DEDUCED, log entry 22). -/
def bodyBandSample (readings : List (Option Nat)) (m : Mem) (d : Dev) : Dev :=
  let rs := sensorsOf readings
  match d.pkg with
  | .off | .trip => { d with sensors := rs }
  | _ =>
    let d := d.sample rs
    let h := match hottest rs with
      | some (v, _) => v
      | none => 0
    let d := if d.auditDue then { d.thermalEvent 2 d.hotInfo with auditDue := false } else d
    if tripDue rs then d.trip m
    else match d.pkg with
      | .off | .trip | .service => d
      | .cooling => if h < kelvin 100 then d.enterPkg .soak else d
      | .soak =>
        if h ≥ kelvin 100 then d.enterPkg .cooling
        else if d.soaked then d.enterPkg .coldReady else d
      | .coldReady | .run => if h ≥ kelvin 100 then d.enterRetreat else d.readyOrRun
      | .retreat => d.sampleRetreat m h
      | .warming => match coldest rs with
        | some (v, _) => if v ≥ kelvin 250 then d.enterPkg .service else d
        | none => d

/-- RETREAT_ROW_REFRESH_COMPLETE: every row has been refreshed once since the entry, and the channel groups
begin to retrain (R410 steps 3 and 4). -/
def bodyRetreatRowRefreshComplete (_ : Mem) (d : Dev) : Dev :=
  if d.pkg == .retreat && d.retreat == .refreshing then { d with retreat := .toB } else d

/-- HBM_GROUP_RETRAIN: one channel group has retrained; the last one ends the entry with event 0, or the exit
with refresh off, the state left and event 1 (R410) (DEDUCED, log entry 22). -/
def bodyHbmGroupRetrain (grp : Nat) (_ : Mem) (d : Dev) : Dev :=
  if d.pkg != .retreat || grp ≥ 48 then d
  else
    let retrained := fun (k : Nat) => { d with sets := d.sets.set grp k }
    match d.retreat with
    | .settled | .refreshing => d
    | .toB =>
      let d := retrained 1
      if d.sets.all (· == 1) then { d.thermalEvent 0 d.thermInfo with retreat := .settled } else d
    | .back =>
      let d := retrained 1
      if d.sets.all (· == 1) then { d with retreat := .settled } else d
    | .toC =>
      let d := retrained 2
      if d.sets.all (· == 2) then (d.enterPkg d.readyState).thermalEvent 1 d.thermInfo else d

/-! ### The patrol -/

/-- Symbols that a pass corrected: in each line that it corrected at least one, and at most one for each codeword of the
line and of its MAC line, of which a condition does not say how many (R392, R411) (DEDUCED, log entry 23). -/
def Dev.fixed (d : Dev) (corrected : Nat) : Nat := max d.fixes (min corrected (4 * d.fixes))

/-- PATROL_PASS_COMPLETE: a pass ends once its time has run, and the next begins at once; a pass that corrected more
than 4,096 symbols switches refresh on and calls for event 2 (R411, R412) (DEDUCED, log entry 23). -/
def bodyPatrolPassComplete (corrected : Nat) (_ : Mem) (d : Dev) : Dev :=
  if !d.pkg.patrols || d.patrolNs < passNs then d
  else
    let fixed := d.fixed corrected
    let audit := fixed > 4096
    { d with
      patrolNs := d.patrolNs - passNs, passes := d.passes + 1, corrected := fixed, fixes := 0
      passClean := d.passClean || !d.passBad, passBad := false
      refresh := d.refresh || audit, auditDue := d.auditDue || audit }.patrol 0 (d.patrolNs - passNs)

/-! ### The power governor -/

/-- Tile domains of pages that hold an instance, by 4 × page + tile (R416). -/
def Dev.busyDomains (d : Dev) : List Nat :=
  (List.range 128).flatMap fun pg =>
    if (d.instOn pg).isSome then (List.range 4).map (4 * pg + ·) else []

/-- The clocks after a decision on the modelled power of the last interval, in mW (R416) (DEDUCED, log entry 29). -/
def Dev.setClocks (d : Dev) (mw : Nat) : Dev :=
  let cap := d.pkg.clockCap
  let limit := d.pwrCap.toNat * 1000
  let now := fun (k : Nat) => match lookup k d.clk with
    | some s => if d.lowered.contains k then min s cap else cap
    | none => cap
  let next := fun (k : Nat) =>
    let s := now k
    if mw > limit then s - 1
    else if 100 * mw < 95 * limit then min (s + 1) cap else s
  let clk := d.busyDomains.map fun k => (k, next k)
  { d with clk := clk, lowered := (clk.filter fun e => e.2 < cap).map (·.1) }

/-- Grants of a partition's permits to its instances in ascending CFGID (R417) (DEDUCED, log entry 29). -/
def grantAll : Nat → List (Nat × Inst) → List (Nat × Nat)
  | _, [] => []
  | left, (k, x) :: rest => (k, min x.heavy left) :: grantAll (left - min x.heavy left) rest

/-- Instances in ascending CFGID. -/
def byCfg (xs : List (Nat × Inst)) : List (Nat × Inst) :=
  xs.foldl (fun (acc : List (Nat × Inst)) e => acc.takeWhile (·.1 < e.1) ++ e :: acc.dropWhile (·.1 < e.1)) []

/-- The permits of every partition granted anew (R417). -/
def Dev.setGrants (d : Dev) : Dev :=
  (List.range 16).foldl (fun (d : Dev) p =>
    (grantAll (d.permitsOf p) (byCfg (d.insts.filter fun e => e.2.part == p))).foldl
      (fun (d : Dev) g => d.updInst g.1 fun x => { x with granted := g.2 }) d) d

/-- GOVERNOR_DECISION on the modelled package power of the last millisecond, in mW (R416 to R419)
(DEDUCED, log entry 29). -/
def bodyGovernorDecision (mw : Nat) (_ : Mem) (d : Dev) : Dev :=
  if !d.pkg.powered then d else { (d.setClocks mw).setGrants with energy := d.energy + mw }

/-- One step of MEMORY_LINE_READ. -/
def execMemoryLineRead (q : LineReq) (s : State) : Host.Outcome State Fault Refusal :=
  act s (bodyMemoryLineRead q)

/-- One step of MEMORY_LINE_WRITE. -/
def execMemoryLineWrite (q : LineReq) (s : State) : Host.Outcome State Fault Refusal :=
  act s (bodyMemoryLineWrite q)

/-- One step of POWER_LOSS. -/
def execPowerLoss (s : State) : Host.Outcome State Fault Refusal :=
  act s (bodyPowerLoss)

/-- One step of BOOT. -/
def execBoot (s : State) : Host.Outcome State Fault Refusal :=
  act s (bodyBoot)

/-- One step of BAND_SAMPLE. -/
def execBandSample (readings : List (Option Nat)) (s : State) : Host.Outcome State Fault Refusal :=
  act s (bodyBandSample readings)

/-- One step of RETREAT_ROW_REFRESH_COMPLETE. -/
def execRetreatRowRefreshComplete (s : State) : Host.Outcome State Fault Refusal :=
  act s (bodyRetreatRowRefreshComplete)

/-- One step of HBM_GROUP_RETRAIN. -/
def execHbmGroupRetrain (grp : Nat) (s : State) : Host.Outcome State Fault Refusal :=
  act s (bodyHbmGroupRetrain grp)

/-- One step of PATROL_PASS_COMPLETE. -/
def execPatrolPassComplete (corrected : Nat) (s : State) : Host.Outcome State Fault Refusal :=
  act s (bodyPatrolPassComplete corrected)

/-- One step of GOVERNOR_DECISION. -/
def execGovernorDecision (mw : Nat) (s : State) : Host.Outcome State Fault Refusal :=
  act s (bodyGovernorDecision mw)

end Sys2Proof.Machine
end

