-- ==== Sys2Proof/Machine/Dataflow.lean ====
section
/-! DEFINITION. Dataflow instructions (R119 to R129). -/

namespace Sys2Proof.Machine

/-- Index of loop counter `k` among a block's enabled counters (R33). -/
def Site.ctr (e : Site) (k : Nat) : Nat := ((List.range k).filter fun j => e.hdr.lcen.getLsbD j).length

/-- `value(ej, n)` of R127, the enabled counters given innermost first. -/
def loopValue : List LoopCtr → Nat → Nat → Int
  | [], _, _ => 0
  | c :: _, 0, n => Word.toSigned 32 (Word.wrap (c.start + c.step * ((n % c.count : Nat) : Int)) 32)
  | c :: cs, j + 1, n => loopValue cs j (n / c.count)

/-- Bits 23:0 of the origin word when the cause of a poisoned token is selected (R128). -/
def poisLane (mask : BitVec 16) (t : Tok) : Nat :=
  if t.p && mask.getLsbD (t.org.toNat % 128) then t.org.toNat else 0

/-- NOP (R120). -/
def execNop (o : OpG) (s : State) : Host.Outcome State Fault Refusal :=
  act s fun _ d => d.fireRes (.nop o) fun _ _ => .none

/-- RDP: the head data token of an input port, with S cleared (R121). -/
def execRdp (o : OpI) (s : State) : Host.Outcome State Fault Refusal :=
  act s fun _ d => d.fire (.rdp o) false fun e _ d =>
    match (d.inst e.cfg).bind (·.tile e.tile) with
    | none => .wait
    | some t => match lookup o.imm.toNat t.inp with
      | none => .wait
      | some p => match p.q with
        | [] => .wait
        | x :: rest =>
          .done (d.updInst e.cfg fun y =>
            y.setTile e.tile { t with inp := insert o.imm.toNat { p with q := rest } t.inp })
            (.tok { x with s := false })

/-- MOVI (R122). -/
def execMovi (o : OpI) (s : State) : Host.Outcome State Fault Refusal :=
  act s fun _ d => d.alu (.movi o) fun ctl _ =>
    splat ctl o.ty (moviLane o.ty o.imm)

/-- MOVH (R122). -/
def execMovh (o : OpI) (s : State) : Host.Outcome State Fault Refusal :=
  act s fun _ d => d.alu (.movh o) fun ctl _ =>
    splat ctl o.ty (o.imm.toNat * 2 ^ (16 * o.fn.toNat))

/-- FAN (R123). -/
def execFan (o : OpG) (s : State) : Host.Outcome State Fault Refusal :=
  act s fun _ d => d.fireRes (.fan o) fun _ g => .data g.a.data none

/-- NULL (R124). -/
def execNull (o : OpG) (s : State) : Host.Outcome State Fault Refusal :=
  act s fun _ d => d.fireRes (.null o) fun _ _ => .tok { n := true }

/-- DROP (R123). -/
def execDrop (o : OpG) (s : State) : Host.Outcome State Fault Refusal :=
  act s fun _ d => d.fireRes (.drop o) fun _ _ => .none

/-- GATE: one value passes with the poison of R66, of which a null operand has none (R29, R125). -/
def execGate (o : OpG) (s : State) : Host.Outcome State Fault Refusal :=
  act s fun _ d => d.fireRes (.gate o) fun _ g =>
    if g.a.n && g.b.n then .null
    else .data (if g.a.n then g.b.data else g.a.data) none

/-- SEL (R126). -/
def execSel (o : OpG) (s : State) : Host.Outcome State Fault Refusal :=
  act s fun _ d => d.alu (.sel o) fun ctl g =>
    selLanes ctl o.ty g.a.data g.b.data g.c.data

/-- LCNT (R127). -/
def execLcnt (o : OpI) (s : State) : Host.Outcome State Fault Refusal :=
  act s fun _ d => d.fireRes (.lcnt o) fun e _ =>
    .alu (splat e.ctl o.ty (Word.wrap (loopValue e.lcs (e.ctr (o.imm.toNat % 4)) e.record) 32))

/-- LIDX (R127). -/
def execLidx (o : OpI) (s : State) : Host.Outcome State Fault Refusal :=
  act s fun _ d => d.fireRes (.lidx o) fun e _ =>
    let v := loopValue e.lcs (e.ctr (o.imm.toNat % 4)) e.record
    .alu (mapLanes e.ctl o.ty fun l =>
      { code := Word.wrap (v + ((l * 2 ^ (o.imm.toNat / 16 % 16) : Nat) : Int)) 32 })

/-- POIS (R128). -/
def execPois (o : OpI) (s : State) : Host.Outcome State Fault Refusal :=
  act s fun _ d => d.fireRes (.pois o) fun e g =>
    .alu (splat e.ctl o.ty (poisLane o.imm g.a))

/-- POISC (R128). -/
def execPoisc (o : OpG) (s : State) : Host.Outcome State Fault Refusal :=
  act s fun _ d => d.fireRes (.poisc o) fun _ g =>
    .data (if g.a.p then g.b.data else g.a.data) none

/-- MARK: in control mode the marker is sent at commit (R129). -/
def execMark (o : OpI) (s : State) : Host.Outcome State Fault Refusal :=
  act s fun _ d => d.fire (.mark o) false fun e g d =>
    let k := o.imm.toNat % 4096
    .done (if e.ctl then d.updFrame e.core fun f => { f with marks := f.marks ++ [(e.slot, k)] }
      else d.updInst e.cfg fun x => { x with marks := x.marks ++ [k] }) (.data g.a.data none)

end Sys2Proof.Machine
end

