-- ==== Sys2Proof/Machine/Exits.lean ====
section
/-! DEFINITION. Exits of element blocks (R130, R131), transfers of control (R132 to R134) and the
general registers (R135). The transfers of TRAP, HCALL and RTE stand in Machine/System.lean. -/

namespace Sys2Proof.Machine

/-! ### ROUTE -/

/-- The group ROUTE selects (R130); 0 is none. -/
def routeGroup (exg : Nat) (g : Gathered) : Nat :=
  if !g.computes then 0
  else if exg != 0 then exg
  else
    let v := g.a.data.toNat % 2 ^ 32
    if v ≤ 3 then v else 0

/-- ROUTE (R130): the group is recorded for the record, also when it does not compute (R30). -/
def bodyRoute (o : OpC) (_ : Mem) (d : Dev) : Dev :=
  d.fire (.route o) true fun e g d =>
    .done (d.updInst e.cfg fun x => match x.ct e.tile with
      | some c => x.setCt e.tile { c with blks := c.blks.modify e.blk fun b =>
          { b with chosen := insert e.record (routeGroup o.exg.val g) b.chosen } }
      | none => x) .none

/-! ### Transfers -/

/-- First 16-byte boundary after a block's last word (R132). -/
def Frame.after (f : Frame) : Nat := f.addr + 16 * Word.ceilDiv (16 + 8 * (f.blk.hdr.nins + 1)) 16

/-- The block at an offset of OFF22 from the current one (R90, R132). -/
def Frame.atOffset (f : Frame) (off : BitVec 22) : Nat :=
  Word.wrap ((f.addr : Int) + 16 * off.toInt) 64

/-- The next block of a core's thread set. -/
def Dev.goto (d : Dev) (id : CoreId) (a : Nat) : Dev := d.updCore id fun c => { c with next := a }

/-- BRO (R132). -/
def bodyBro (o : OpC) (_ : Mem) (d : Dev) : Dev :=
  d.commits (.bro o) fun id f _ d => d.goto id (f.atOffset o.off)

/-- BRX: a poisoned address still transfers, and is a sink (R132, R133). -/
def bodyBrx (o : OpC) (_ : Mem) (d : Dev) : Dev :=
  d.fireCommit (.brx o) false (fun _ _ _ => none) (fun _ _ _ => .wait) fun id _ c d =>
    let d := if c.a.p then d.logConsumed (d.commitSite id c.slot) c.a.org else d
    d.goto id (c.a.data.toNat % 2 ^ 64)

/-- CALLB: its link is the block after this one (R132, R135). -/
def bodyCallb (o : OpC) (_ : Mem) (d : Dev) : Dev :=
  d.commits (.callb o) fun id f c d =>
    (d.gWrite id c.slot true o.ga { v := BitVec.ofNat 64 f.after }).goto id (f.atOffset o.off)

/-- RETB: the value of its register at entry (R132, R133). -/
def bodyRetb (o : OpC) (_ : Mem) (d : Dev) : Dev :=
  d.commits (.retb o) fun id _ c d =>
    let r := (d.core id).reg o.ga
    let d := if r.p then d.logConsumed (d.commitSite id c.slot) r.org else d
    d.goto id r.v.toNat

/-- HALT: the thread ends after its block commits (R134). -/
def bodyHalt (o : OpC) (_ : Mem) (d : Dev) : Dev :=
  d.commits (.halt o) fun id _ _ d => d.updCore id fun c => { c with thread := .halted }

/-! ### General registers -/

/-- RDG: the register's value at entry with its P bit and origin word (R135). -/
def bodyRdg (o : OpC) (_ : Mem) (d : Dev) : Dev :=
  d.fireRes (.rdg o) fun e _ =>
    let r := (d.core e.core).reg o.ga
    .data (BitVec.ofNat 1024 r.v.toNat) (if r.p then some r.org else none)

/-- WRG: the operand with its P bit and origin word, at commit (R135). -/
def bodyWrg (o : OpC) (_ : Mem) (d : Dev) : Dev :=
  d.commits (.wrg o) fun id _ c d =>
    d.gWrite id c.slot false o.ga { v := BitVec.ofNat 64 c.a.data.toNat, p := c.a.p, org := c.a.org }

/-- One step of ROUTE. -/
def execRoute (o : OpC) (s : State) : Host.Outcome State Fault Refusal :=
  act s (bodyRoute o)

/-- One step of BRO. -/
def execBro (o : OpC) (s : State) : Host.Outcome State Fault Refusal :=
  act s (bodyBro o)

/-- One step of BRX. -/
def execBrx (o : OpC) (s : State) : Host.Outcome State Fault Refusal :=
  act s (bodyBrx o)

/-- One step of CALLB. -/
def execCallb (o : OpC) (s : State) : Host.Outcome State Fault Refusal :=
  act s (bodyCallb o)

/-- One step of RETB. -/
def execRetb (o : OpC) (s : State) : Host.Outcome State Fault Refusal :=
  act s (bodyRetb o)

/-- One step of HALT. -/
def execHalt (o : OpC) (s : State) : Host.Outcome State Fault Refusal :=
  act s (bodyHalt o)

/-- One step of RDG. -/
def execRdg (o : OpC) (s : State) : Host.Outcome State Fault Refusal :=
  act s (bodyRdg o)

/-- One step of WRG. -/
def execWrg (o : OpC) (s : State) : Host.Outcome State Fault Refusal :=
  act s (bodyWrg o)

end Sys2Proof.Machine
end

