-- ==== Sys2Proof/Machine/Float.lean ====
section
/-! DEFINITION. Floating-point instructions (R147 to R161). -/

namespace Sys2Proof.Machine

/-- FADD (R151). -/
def execFadd (o : OpG) (s : State) : Host.Outcome State Fault Refusal :=
  act s fun _ d => d.fpAlu (.fadd o) o.rm (o.ty.lanes) fun ctl us g =>
    fpBin ctl o.ty o.ty.fmt o.rm o.sat us (fun x y => Fv.sum o.rm [x, y]) g.a.data g.b.data

/-- FSUB (R151). -/
def execFsub (o : OpG) (s : State) : Host.Outcome State Fault Refusal :=
  act s fun _ d => d.fpAlu (.fsub o) o.rm (o.ty.lanes) fun ctl us g =>
    fpBin ctl o.ty o.ty.fmt o.rm o.sat us (fun x y => Fv.sum o.rm [x, y.negate]) g.a.data g.b.data

/-- FMUL (R151). -/
def execFmul (o : OpG) (s : State) : Host.Outcome State Fault Refusal :=
  act s fun _ d => d.fpAlu (.fmul o) o.rm (o.ty.lanes) fun ctl us g =>
    fpBin ctl o.ty o.ty.fmt o.rm o.sat us Fv.mul g.a.data g.b.data

/-- FFMA (R145, R151). -/
def execFfma (o : OpG) (s : State) : Host.Outcome State Fault Refusal :=
  act s fun _ d => d.fpAlu (.ffma o) o.rm (o.ty.lanes) fun ctl us g =>
    fpFma ctl o.ty o.ty.fmt o.rm o.sat us g.a.data g.b.data g.c.data

/-- FMIN (R152). -/
def execFmin (o : OpG) (s : State) : Host.Outcome State Fault Refusal :=
  act s fun _ d => d.alu (.fmin o) fun ctl g =>
    fpExtremum ctl o.ty o.ty.fmt .min g.a.data g.b.data

/-- FMAX (R152). -/
def execFmax (o : OpG) (s : State) : Host.Outcome State Fault Refusal :=
  act s fun _ d => d.alu (.fmax o) fun ctl g =>
    fpExtremum ctl o.ty o.ty.fmt .max g.a.data g.b.data

/-- FAMAX (R152). -/
def execFamax (o : OpG) (s : State) : Host.Outcome State Fault Refusal :=
  act s fun _ d => d.alu (.famax o) fun ctl g =>
    fpExtremum ctl o.ty o.ty.fmt .amax g.a.data g.b.data

/-- FABS (R153). -/
def execFabs (o : OpG) (s : State) : Host.Outcome State Fault Refusal :=
  act s fun _ d => d.alu (.fabs o) fun ctl g =>
    mapLanes ctl o.ty fun l => signOp o.ty.fmt (laneOf o.ty.laneWidth g.a.data l) false

/-- FNEG (R153). -/
def execFneg (o : OpG) (s : State) : Host.Outcome State Fault Refusal :=
  act s fun _ d => d.alu (.fneg o) fun ctl g =>
    mapLanes ctl o.ty fun l =>
      let a := laneOf o.ty.laneWidth g.a.data l
      signOp o.ty.fmt a (!a.testBit o.ty.fmt.signBit)

/-- FCPYS: a NaN sign operand generates NAN_INPUT (R153). -/
def execFcpys (o : OpG) (s : State) : Host.Outcome State Fault Refusal :=
  act s fun _ d => d.alu (.fcpys o) fun ctl g =>
    mapLanes ctl o.ty fun l =>
      let b := laneOf o.ty.laneWidth g.b.data l
      let r := signOp o.ty.fmt (laneOf o.ty.laneWidth g.a.data l) (b.testBit o.ty.fmt.signBit)
      { r with nanIn := r.nanIn || o.ty.fmt.isNan b }

/-- FCMP (R154). -/
def execFcmp (o : OpG) (s : State) : Host.Outcome State Fault Refusal :=
  act s fun _ d => d.alu (.fcmp o) fun ctl g =>
    fpCmp ctl o.ty o.ty.fmt o.fn.toNat g.a.data g.b.data

/-- FCLASS (R155). -/
def execFclass (o : OpG) (s : State) : Host.Outcome State Fault Refusal :=
  act s fun _ d => d.alu (.fclass o) fun ctl g =>
    mapLanes ctl o.ty fun l =>
      let a := laneOf o.ty.laneWidth g.a.data l
      { code := fpClass o.ty.fmt a, nanIn := o.ty.fmt.isNan a }

/-- FCVT: FN names the source type and PART (R156, R157). -/
def execFcvt (o : OpG) (s : State) : Host.Outcome State Fault Refusal :=
  act s fun _ d => d.fpAlu (.fcvt o) o.rm (fcvtDraws o.ty (Ty.ofCode (o.fn.toNat % 16))) fun ctl us g =>
    fpConvert ctl o.ty (Ty.ofCode (o.fn.toNat % 16)) (o.fn.toNat / 16) o.rm o.sat us g.a.data

/-- FRND (R158). -/
def execFrnd (o : OpG) (s : State) : Host.Outcome State Fault Refusal :=
  act s fun _ d => d.fpAlu (.frnd o) o.rm (o.ty.lanes) fun ctl us g =>
    mapLanes ctl o.ty fun l =>
      frndLane o.ty.fmt o.rm (drawAt us l) (laneOf o.ty.laneWidth g.a.data l)

/-- FRCP (R76 to R78, R159). -/
def execFrcp (o : OpG) (s : State) : Host.Outcome State Fault Refusal :=
  act s fun _ d => d.fpAlu (.frcp o) o.rm (o.ty.lanes) fun ctl us g =>
    mapLanes ctl o.ty fun l =>
      frcpLane o.ty.fmt o.rm o.sat (drawAt us l) (laneOf o.ty.laneWidth g.a.data l)

/-- FRSQ (R76 to R78, R159). -/
def execFrsq (o : OpG) (s : State) : Host.Outcome State Fault Refusal :=
  act s fun _ d => d.fpAlu (.frsq o) o.rm (o.ty.lanes) fun ctl us g =>
    mapLanes ctl o.ty fun l =>
      fnLane .rsq o.ty o.ty.fmt o.rm o.sat (drawAt us l) (laneOf o.ty.laneWidth g.a.data l)

/-- FSQRT (R76 to R78, R159). -/
def execFsqrt (o : OpG) (s : State) : Host.Outcome State Fault Refusal :=
  act s fun _ d => d.fpAlu (.fsqrt o) o.rm (o.ty.lanes) fun ctl us g =>
    mapLanes ctl o.ty fun l =>
      fsqrtLane o.ty.fmt o.rm o.sat (drawAt us l) (laneOf o.ty.laneWidth g.a.data l)

/-- FEXP2 (R76 to R78, R159). -/
def execFexp2 (o : OpG) (s : State) : Host.Outcome State Fault Refusal :=
  act s fun _ d => d.fpAlu (.fexp2 o) o.rm (o.ty.lanes) fun ctl us g =>
    mapLanes ctl o.ty fun l =>
      fnLane .exp2 o.ty o.ty.fmt o.rm o.sat (drawAt us l) (laneOf o.ty.laneWidth g.a.data l)

/-- FLOG2 (R76 to R78, R159). -/
def execFlog2 (o : OpG) (s : State) : Host.Outcome State Fault Refusal :=
  act s fun _ d => d.fpAlu (.flog2 o) o.rm (o.ty.lanes) fun ctl us g =>
    mapLanes ctl o.ty fun l =>
      fnLane .log2 o.ty o.ty.fmt o.rm o.sat (drawAt us l) (laneOf o.ty.laneWidth g.a.data l)

/-- FSINT (R76 to R78, R159). -/
def execFsint (o : OpG) (s : State) : Host.Outcome State Fault Refusal :=
  act s fun _ d => d.fpAlu (.fsint o) o.rm (o.ty.lanes) fun ctl us g =>
    mapLanes ctl o.ty fun l =>
      fnLane .sint o.ty o.ty.fmt o.rm o.sat (drawAt us l) (laneOf o.ty.laneWidth g.a.data l)

/-- FCOST (R76 to R78, R159). -/
def execFcost (o : OpG) (s : State) : Host.Outcome State Fault Refusal :=
  act s fun _ d => d.fpAlu (.fcost o) o.rm (o.ty.lanes) fun ctl us g =>
    mapLanes ctl o.ty fun l =>
      fnLane .cost o.ty o.ty.fmt o.rm o.sat (drawAt us l) (laneOf o.ty.laneWidth g.a.data l)

/-- FTANH (R76 to R78, R159). -/
def execFtanh (o : OpG) (s : State) : Host.Outcome State Fault Refusal :=
  act s fun _ d => d.fpAlu (.ftanh o) o.rm (o.ty.lanes) fun ctl us g =>
    mapLanes ctl o.ty fun l =>
      fnLane .tanh o.ty o.ty.fmt o.rm o.sat (drawAt us l) (laneOf o.ty.laneWidth g.a.data l)

/-- FSCALE (R160). -/
def execFscale (o : OpG) (s : State) : Host.Outcome State Fault Refusal :=
  act s fun _ d => d.fpAlu (.fscale o) o.rm (o.ty.lanes) fun ctl us g =>
    mapLanes ctl o.ty fun l =>
      fscaleLane o.ty o.ty.fmt o.rm o.sat (drawAt us l) (laneOf o.ty.laneWidth g.a.data l)
        (laneOf o.ty.laneWidth g.b.data l)

/-- FDOT2 (R161). -/
def execFdot2 (o : OpG) (s : State) : Host.Outcome State Fault Refusal :=
  act s fun _ d => d.fpAlu (.fdot2 o) o.rm (32) fun ctl us g =>
    fpDot ctl o.ty o.ty.fmt 2 o.rm o.sat us g.a.data g.b.data g.c.data

/-- FDOT4 (R161). -/
def execFdot4 (o : OpG) (s : State) : Host.Outcome State Fault Refusal :=
  act s fun _ d => d.fpAlu (.fdot4 o) o.rm (32) fun ctl us g =>
    fpDot ctl o.ty o.ty.fmt 4 o.rm o.sat us g.a.data g.b.data g.c.data

end Sys2Proof.Machine
end

