-- ==== Sys2Proof/Machine/Integer.lean ====
section
/-! DEFINITION. Integer instructions (R136 to R144). -/

namespace Sys2Proof.Machine

/-- ADD (R137). -/
def execAdd (o : OpG) (s : State) : Host.Outcome State Fault Refusal :=
  act s fun _ d => d.alu (.add o) fun ctl g =>
    intBin ctl o.ty o.sat (· + ·) g.a.data g.b.data

/-- ADDI: FN bit 0 is its saturation (R119, R137). -/
def execAddi (o : OpI) (s : State) : Host.Outcome State Fault Refusal :=
  act s fun _ d => d.alu (.addi o) fun ctl g =>
    intUn ctl o.ty (o.fn.getLsbD 0) (· + o.imm.toInt) g.a.data

/-- SUB (R137). -/
def execSub (o : OpG) (s : State) : Host.Outcome State Fault Refusal :=
  act s fun _ d => d.alu (.sub o) fun ctl g =>
    intBin ctl o.ty o.sat (· - ·) g.a.data g.b.data

/-- ADDS (R138). -/
def execAdds (o : OpG) (s : State) : Host.Outcome State Fault Refusal :=
  act s fun _ d => d.alu (.adds o) fun ctl g =>
    intBin ctl o.ty o.sat (fun a b => outOfRange o.ty (a + b)) g.a.data g.b.data

/-- SUBS (R138). -/
def execSubs (o : OpG) (s : State) : Host.Outcome State Fault Refusal :=
  act s fun _ d => d.alu (.subs o) fun ctl g =>
    intBin ctl o.ty o.sat (fun a b => outOfRange o.ty (a - b)) g.a.data g.b.data

/-- NEG (R137). -/
def execNeg (o : OpG) (s : State) : Host.Outcome State Fault Refusal :=
  act s fun _ d => d.alu (.neg o) fun ctl g =>
    intUn ctl o.ty o.sat (fun a => -a) g.a.data

/-- ABS (R137). -/
def execAbs (o : OpG) (s : State) : Host.Outcome State Fault Refusal :=
  act s fun _ d => d.alu (.abs o) fun ctl g =>
    intUn ctl o.ty o.sat (fun a => (a.natAbs : Int)) g.a.data

/-- MUL (R137). -/
def execMul (o : OpG) (s : State) : Host.Outcome State Fault Refusal :=
  act s fun _ d => d.alu (.mul o) fun ctl g =>
    intBin ctl o.ty o.sat (· * ·) g.a.data g.b.data

/-- MULH (R137). -/
def execMulh (o : OpG) (s : State) : Host.Outcome State Fault Refusal :=
  act s fun _ d => d.alu (.mulh o) fun ctl g =>
    intBin ctl o.ty o.sat (mulHigh o.ty) g.a.data g.b.data

/-- MULHW (R137). -/
def execMulhw (o : OpG) (s : State) : Host.Outcome State Fault Refusal :=
  act s fun _ d => d.alu (.mulhw o) fun ctl g =>
    intBin ctl o.ty o.sat (mulHigh o.ty) g.a.data g.b.data

/-- MADD (R114, R137). -/
def execMadd (o : OpG) (s : State) : Host.Outcome State Fault Refusal :=
  act s fun _ d => d.alu (.madd o) fun ctl g =>
    intMadd ctl o.ty o.sat g.a.data g.b.data g.c.data

/-- DIV (R139). -/
def execDiv (o : OpG) (s : State) : Host.Outcome State Fault Refusal :=
  act s fun _ d => d.alu (.div o) fun ctl g =>
    intDivRem ctl o.ty true g.a.data g.b.data

/-- DIVW (R139). -/
def execDivw (o : OpG) (s : State) : Host.Outcome State Fault Refusal :=
  act s fun _ d => d.alu (.divw o) fun ctl g =>
    intDivRem ctl o.ty true g.a.data g.b.data

/-- REM (R139). -/
def execRem (o : OpG) (s : State) : Host.Outcome State Fault Refusal :=
  act s fun _ d => d.alu (.rem o) fun ctl g =>
    intDivRem ctl o.ty false g.a.data g.b.data

/-- REMW (R139). -/
def execRemw (o : OpG) (s : State) : Host.Outcome State Fault Refusal :=
  act s fun _ d => d.alu (.remw o) fun ctl g =>
    intDivRem ctl o.ty false g.a.data g.b.data

/-- LEA (R137). -/
def execLea (o : OpG) (s : State) : Host.Outcome State Fault Refusal :=
  act s fun _ d => d.alu (.lea o) fun ctl g =>
    intBin ctl o.ty o.sat (fun a b => a + b * ((2 ^ o.fn.toNat : Nat) : Int)) g.a.data g.b.data

/-- MIN (R137). -/
def execMin (o : OpG) (s : State) : Host.Outcome State Fault Refusal :=
  act s fun _ d => d.alu (.min o) fun ctl g =>
    intBin ctl o.ty o.sat (fun a b => if b < a then b else a) g.a.data g.b.data

/-- MINW (R137). -/
def execMinw (o : OpG) (s : State) : Host.Outcome State Fault Refusal :=
  act s fun _ d => d.alu (.minw o) fun ctl g =>
    intBin ctl o.ty o.sat (fun a b => if b < a then b else a) g.a.data g.b.data

/-- MAX (R137). -/
def execMax (o : OpG) (s : State) : Host.Outcome State Fault Refusal :=
  act s fun _ d => d.alu (.max o) fun ctl g =>
    intBin ctl o.ty o.sat (fun a b => if a < b then b else a) g.a.data g.b.data

/-- MAXW (R137). -/
def execMaxw (o : OpG) (s : State) : Host.Outcome State Fault Refusal :=
  act s fun _ d => d.alu (.maxw o) fun ctl g =>
    intBin ctl o.ty o.sat (fun a b => if a < b then b else a) g.a.data g.b.data

/-- AND (R137). -/
def execAnd (o : OpG) (s : State) : Host.Outcome State Fault Refusal :=
  act s fun _ d => d.alu (.and o) fun ctl g =>
    patBin ctl o.ty (· &&& ·) g.a.data g.b.data

/-- OR (R137). -/
def execOr (o : OpG) (s : State) : Host.Outcome State Fault Refusal :=
  act s fun _ d => d.alu (.or o) fun ctl g =>
    patBin ctl o.ty (· ||| ·) g.a.data g.b.data

/-- XOR (R137). -/
def execXor (o : OpG) (s : State) : Host.Outcome State Fault Refusal :=
  act s fun _ d => d.alu (.xor o) fun ctl g =>
    patBin ctl o.ty (· ^^^ ·) g.a.data g.b.data

/-- ANDN (R137). -/
def execAndn (o : OpG) (s : State) : Host.Outcome State Fault Refusal :=
  act s fun _ d => d.alu (.andn o) fun ctl g =>
    patBin ctl o.ty (fun a b => a &&& (b ^^^ (2 ^ o.ty.width - 1))) g.a.data g.b.data

/-- SHL (R140). -/
def execShl (o : OpG) (s : State) : Host.Outcome State Fault Refusal :=
  act s fun _ d => d.alu (.shl o) fun ctl g =>
    patBin ctl o.ty (shlPat o.ty.width) g.a.data g.b.data

/-- SHR (R140). -/
def execShr (o : OpG) (s : State) : Host.Outcome State Fault Refusal :=
  act s fun _ d => d.alu (.shr o) fun ctl g =>
    patBin ctl o.ty (shrPat o.ty.width) g.a.data g.b.data

/-- SRA (R140). -/
def execSra (o : OpG) (s : State) : Host.Outcome State Fault Refusal :=
  act s fun _ d => d.alu (.sra o) fun ctl g =>
    patBin ctl o.ty (sraPat o.ty.width) g.a.data g.b.data

/-- ROTL (R140). -/
def execRotl (o : OpG) (s : State) : Host.Outcome State Fault Refusal :=
  act s fun _ d => d.alu (.rotl o) fun ctl g =>
    patBin ctl o.ty (rotlPat o.ty.width) g.a.data g.b.data

/-- CLZ (R141). -/
def execClz (o : OpG) (s : State) : Host.Outcome State Fault Refusal :=
  act s fun _ d => d.alu (.clz o) fun ctl g =>
    patUn ctl o.ty (clzPat o.ty.width) g.a.data

/-- POPC (R141). -/
def execPopc (o : OpG) (s : State) : Host.Outcome State Fault Refusal :=
  act s fun _ d => d.alu (.popc o) fun ctl g =>
    patUn ctl o.ty (popcPat o.ty.width) g.a.data

/-- BREV (R141). -/
def execBrev (o : OpG) (s : State) : Host.Outcome State Fault Refusal :=
  act s fun _ d => d.alu (.brev o) fun ctl g =>
    patUn ctl o.ty (brevPat o.ty.width) g.a.data

/-- CMP (R142). -/
def execCmp (o : OpG) (s : State) : Host.Outcome State Fault Refusal :=
  act s fun _ d => d.alu (.cmp o) fun ctl g =>
    intCmp ctl o.ty o.fn.toNat g.a.data fun l => o.ty.intVal (laneOf o.ty.laneWidth g.b.data l)

/-- CMPI (R142). -/
def execCmpi (o : OpI) (s : State) : Host.Outcome State Fault Refusal :=
  act s fun _ d => d.alu (.cmpi o) fun ctl g =>
    intCmp ctl o.ty o.fn.toNat g.a.data fun _ => cmpImm o.ty o.imm

/-- BFX (R143). -/
def execBfx (o : OpI) (s : State) : Host.Outcome State Fault Refusal :=
  act s fun _ d => d.alu (.bfx o) fun ctl g =>
    patUn ctl o.ty (bfxPat o.ty o.imm.toNat) g.a.data

/-- BFI (R143). -/
def execBfi (o : OpI) (s : State) : Host.Outcome State Fault Refusal :=
  act s fun _ d => d.alu (.bfi o) fun ctl g =>
    patBin ctl o.ty (bfiPat o.imm.toNat) g.a.data g.b.data

end Sys2Proof.Machine
end

