-- ==== Sys2Proof/Machine/Inval.lean ====
section
/-! DEFINITION. RINV and XINV: dropping copies of translation data (R369 to R372). -/

namespace Sys2Proof.Machine

/-- The translation copies that meet a condition dropped, once what their units have sent through them has performed
(R371) (DEDUCED, log entry 17). -/
def Dev.dropCopies (d : Dev) (f : XlCopy → Bool) : Dev :=
  let units := (d.xl.filter f).map (·.unit)
  { d with xl := d.xl.filter fun c => !f c }.peerAdvance fun _ w => units.contains w.unit

/-- Range copies of the contexts that meet a condition, changed (R358). -/
def Dev.updRcopy (d : Dev) (ctxs : Nat → Bool)
    (f : List (Option (BitVec 512 × Nat)) → List (Option (BitVec 512 × Nat))) : Dev :=
  { d with rcopy := d.rcopy.map fun e => if ctxs (e.1 % 4096) then (e.1, f e.2) else e }

/-- The XL_RTAB that units have taken dropped for the contexts that meet a condition (R372). -/
def Dev.dropRoots (d : Dev) (ctxs : Nat → Bool) : Dev :=
  { d with rroot := d.rroot.filter fun e => !ctxs (e.1 % 4096) }

/-- The range table of a context, as its units know it, lies in guest frames that meet a condition. -/
def Dev.rootIn (d : Dev) (f : Nat → Bool) (ctx : Nat) : Bool :=
  let roots := (d.ctx ctx).rtab :: (d.rroot.filter fun e => e.1 % 4096 == ctx).map (·.2)
  roots.any fun (r : Word) => f (r.toNat / 2 ^ 21) || f ((r.toNat + 4095) / 2 ^ 21)

/-- A copy was combined from the leaf of one of some pages or from a table entry that leads to one (R372). -/
def XlCopy.covers (c : XlCopy) (lo hi : Nat) : Bool :=
  (lo ≤ c.page && c.page ≤ hi) || c.deps.any fun e => match e.key with
    | .leaf p => lo ≤ p && p ≤ hi
    | .table va => va / 65536 ≤ hi && lo < va / 65536 + 8192
    | .root | .range _ | .s2 _ => false

/-- The partition whose copies RINV drops: the issuer's on a CC, `sel` on a system core (R372). -/
def Dev.rinvPart (d : Dev) (id : CoreId) (sel : Nat) : Nat := if id.isSys then sel else (d.core id).part

/-- Checks of RINV at entry: `page` is the page operand when there is one (R372) (DEDUCED, log entry 36). -/
def rinvPre (page : Option (Fin 32)) (gb : Fin 32) (e : Site) (d : Dev) : Option (Nat × Nat × Nat) :=
  let c := d.core e.core
  let mis := match page with
    | some ga => let a := (c.reg ga).v.toNat; if a % 65536 != 0 then some a else none
    | none => none
  match mis with
  | some a => some (cMISALIGNED, a, 0)
  | none =>
    if !e.core.isSys && !(d.part c.part).hasCtx ((c.reg gb).v.toNat % 4096) then some (cPERMISSION, 0, 0)
    else none

/-- An invalidation: checked at entry, performed at commit (R371). -/
def Dev.invalidates (i : Instr) (d : Dev) (pre : Site → Dev → Option (Nat × Nat × Nat))
    (f : CoreId → Dev → Dev) : Dev :=
  d.fireCommit i false (fun e _ d => pre e d) (fun _ _ _ => .wait) fun id _ _ d => f id d

/-- RINV pages (R372). -/
def bodyRinvPages (o : OpY) (_ : Mem) (d : Dev) : Dev :=
  d.invalidates (.rinvPages o) (rinvPre (some o.ga) o.gb) fun id d =>
    let c := d.core id
    let b := (c.reg o.gb).v.toNat
    let part := d.rinvPart id (Word.bits b 15 12)
    let p := (c.reg o.ga).v.toNat / 65536
    d.dropCopies fun x => x.part == part && x.ctx == b % 4096 && x.covers p (p + o.imm.toNat)

/-- RINV range (R358, R372). -/
def bodyRinvRange (o : OpY) (_ : Mem) (d : Dev) : Dev :=
  d.invalidates (.rinvRange o) (rinvPre none o.gb) fun id d =>
    let b := ((d.core id).reg o.gb).v.toNat
    let part := d.rinvPart id (Word.bits b 15 12)
    let k := Word.bits b 21 16
    (d.dropCopies fun x => x.part == part && x.ctx == b % 4096 && (x.range == k || x.deps.any (·.key == .range k))).updRcopy
      (fun c => c == b % 4096 && (d.part part).hasCtx c) fun es => es.set k none

/-- RINV context (R358, R372). -/
def bodyRinvContext (o : OpY) (_ : Mem) (d : Dev) : Dev :=
  d.invalidates (.rinvContext o) (rinvPre none o.gb) fun id d =>
    let b := ((d.core id).reg o.gb).v.toNat
    let part := d.rinvPart id (Word.bits b 15 12)
    let mine := fun c => c == b % 4096 && (d.part part).hasCtx c
    ((d.dropCopies fun x => x.part == part && x.ctx == b % 4096).updRcopy mine fun _ => []).dropRoots mine

/-- RINV part (R372). -/
def bodyRinvPart (o : OpY) (_ : Mem) (d : Dev) : Dev :=
  d.invalidates (.rinvPart o) (fun _ _ => none) fun id d =>
    let part := d.selPart id
    ((d.dropCopies fun x => x.part == part).updRcopy (d.part part).hasCtx fun _ => []).dropRoots (d.part part).hasCtx

/-- XINV frames (R372). -/
def bodyXinvFrames (o : OpY) (_ : Mem) (d : Dev) : Dev :=
  d.invalidates (.xinvFrames o) (fun e d =>
      let a := ((d.core e.core).reg o.ga).v.toNat
      if a % 2 ^ 21 != 0 then some (cMISALIGNED, a, 0) else none) fun id d =>
    let c := d.core id
    let part := (c.reg o.gb).v.toNat % 16
    let f := (c.reg o.ga).v.toNat / 2 ^ 21
    (d.dropCopies fun x => x.part == part && (x.used ++ x.deps.filterMap fun e => match e.key with
        | .s2 u => some u
        | .root | .range _ | .table _ | .leaf _ => none).any fun u => f ≤ u && u ≤ f + o.imm.toNat).updRcopy
      (fun k => (d.part part).hasCtx k && d.rootIn (fun u => f ≤ u && u ≤ f + o.imm.toNat) k) fun _ => []

/-- XINV part: the partition's stage-2 copies and XL_S2BASE (R372, R381). -/
def bodyXinvPart (o : OpY) (_ : Mem) (d : Dev) : Dev :=
  d.invalidates (.xinvPart o) (fun _ _ => none) fun id d =>
    let part := ((d.core id).reg o.gb).v.toNat % 16
    ((d.dropCopies fun x => x.part == part).updRcopy (d.part part).hasCtx fun _ => []).updPart part
      fun p => { p with s2cur := p.s2base }

/-- One step of RINV_PAGES. -/
def execRinvPages (o : OpY) (s : State) : Host.Outcome State Fault Refusal :=
  act s (bodyRinvPages o)

/-- One step of RINV_RANGE. -/
def execRinvRange (o : OpY) (s : State) : Host.Outcome State Fault Refusal :=
  act s (bodyRinvRange o)

/-- One step of RINV_CONTEXT. -/
def execRinvContext (o : OpY) (s : State) : Host.Outcome State Fault Refusal :=
  act s (bodyRinvContext o)

/-- One step of RINV_PART. -/
def execRinvPart (o : OpY) (s : State) : Host.Outcome State Fault Refusal :=
  act s (bodyRinvPart o)

/-- One step of XINV_FRAMES. -/
def execXinvFrames (o : OpY) (s : State) : Host.Outcome State Fault Refusal :=
  act s (bodyXinvFrames o)

/-- One step of XINV_PART. -/
def execXinvPart (o : OpY) (s : State) : Host.Outcome State Fault Refusal :=
  act s (bodyXinvPart o)

end Sys2Proof.Machine
end

