-- ==== Sys2Proof/Machine/Lane.lean ====
section
/-! DEFINITION. Lane instructions (R162 to R169). -/

namespace Sys2Proof.Machine

/-- LSWP (R163). -/
def execLswp (o : OpI) (s : State) : Host.Outcome State Fault Refusal :=
  act s fun _ d => d.alu (.lswp o) fun _ g =>
    lswp o.ty (o.imm.toNat % 8) (o.imm.getLsbD 8) g.a.data

/-- LPERM (R164). -/
def execLperm (o : OpG) (s : State) : Host.Outcome State Fault Refusal :=
  act s fun _ d => d.alu (.lperm o) fun _ g =>
    lperm o.ty g.a.data g.b.data

/-- LBCST (R164). -/
def execLbcst (o : OpI) (s : State) : Host.Outcome State Fault Refusal :=
  act s fun _ d => d.alu (.lbcst o) fun _ g =>
    lbcst o.ty o.imm.toNat g.a.data

/-- LSLD (R164). -/
def execLsld (o : OpI) (s : State) : Host.Outcome State Fault Refusal :=
  act s fun _ d => d.alu (.lsld o) fun _ g =>
    lsld o.ty o.imm.toNat g.a.data g.b.data

/-- LRED (R165). -/
def execLred (o : OpG) (s : State) : Host.Outcome State Fault Refusal :=
  act s fun _ d => d.fpAlu (.lred o) o.rm (1) fun _ us g =>
    lred o.ty o.fn.toNat o.rm o.sat us g.a.data

/-- LSCAN (R165). -/
def execLscan (o : OpG) (s : State) : Host.Outcome State Fault Refusal :=
  act s fun _ d => d.fpAlu (.lscan o) o.rm (o.ty.lanes) fun _ us g =>
    lscan o.ty o.fn.toNat o.rm o.sat us g.a.data

/-- LVOTE (R166). -/
def execLvote (o : OpG) (s : State) : Host.Outcome State Fault Refusal :=
  act s fun _ d => d.alu (.lvote o) fun _ g =>
    lvote o.ty o.fn.toNat g.a.data

/-- LMSK (R166). -/
def execLmsk (o : OpG) (s : State) : Host.Outcome State Fault Refusal :=
  act s fun _ d => d.alu (.lmsk o) fun _ g =>
    lmsk o.ty o.fn.toNat g.a.data

/-- LCMPR (R167). -/
def execLcmpr (o : OpG) (s : State) : Host.Outcome State Fault Refusal :=
  act s fun _ d => d.alu (.lcmpr o) fun _ g =>
    lcmpr o.ty g.a.data g.b.data

/-- LEXPD (R167). -/
def execLexpd (o : OpG) (s : State) : Host.Outcome State Fault Refusal :=
  act s fun _ d => d.alu (.lexpd o) fun _ g =>
    lexpd o.ty g.a.data g.b.data

/-- LPACK (R168). -/
def execLpack (o : OpG) (s : State) : Host.Outcome State Fault Refusal :=
  act s fun _ d => d.alu (.lpack o) fun _ g =>
    lpack o.ty o.fn.toNat o.sat g.a.data g.b.data

/-- LUNPK (R169). -/
def execLunpk (o : OpG) (s : State) : Host.Outcome State Fault Refusal :=
  act s fun _ d => d.alu (.lunpk o) fun _ g =>
    lunpk o.ty o.fn.toNat g.a.data g.b.data

end Sys2Proof.Machine
end

