-- ==== Sys2Proof/Machine/System.lean ====
section
/-! DEFINITION. The system instructions: TRAP, HCALL, BRK, RTE, SRD, SWR and WFI (R300, R318 to R325), and
the debug read (R319). -/

namespace Sys2Proof.Machine

/-! ### Calls and breakpoints -/

/-- TRAP: after the block commits, SYSCALL of class 3 is raised; EPC is the block that R133 chooses
(R321). -/
def bodyTrap (o : OpY) (_ : Mem) (d : Dev) : Dev :=
  d.commits (.trap o) fun id _ c d =>
    d.raise id { d.coreRec id with cause := cSYSCALL, cls := 3, slot := c.slot, info := o.imm.toNat } (d.core id).next

/-- HCALL: after the block commits, the thread is held with a SYSCALL posted to H, whose acknowledgement
writes gGB; on a system core it is entered as TRAP is (R321). -/
def bodyHcall (o : OpY) (_ : Mem) (d : Dev) : Dev :=
  d.commits (.hcall o) fun id _ c d =>
    let r := { d.coreRec id with
      cause := cSYSCALL, cls := 3, slot := c.slot, info := o.imm.toNat, addr := ((d.core id).reg o.ga).v.toNat
      toH := true }
    let d := d.raise id r (d.core id).next
    if id.isSys then d else d.updCore id fun c => { c with callReg := some o.gb }

/-- A BRK traps: in U code when BRKEN = 1, in S and H code while INH = 0 (R322). -/
def Dev.brkTraps (d : Dev) (id : CoreId) : Bool :=
  let c := d.core id
  match c.level with
  | .u => (d.ctx c.ctx).dbgCtl.getLsbD 0
  | .s | .h => !c.st.inh

/-- BRK: a fault of class 0, unless it does nothing; an armed skip makes the first BRK of the block do
nothing (R318, R322) (DEDUCED, log entry 48). -/
def bodyBrk (o : OpY) (_ : Mem) (d : Dev) : Dev :=
  d.fire (.brk o) false fun e _ d =>
    let c := d.core e.core
    let skips := c.skipArmed && match c.frame with
      | some f => !f.skipped
      | none => true
    if skips then .done (d.updFrame e.core fun f => { f with skipped := true }) .none
    else if d.brkTraps e.core then .fault d cBREAK e.addr o.imm.toNat
    else .done d .none

/-! ### RTE and WFI -/

/-- RTE: the held configuration is released by ACT, and the core returns from its handler; a WFI of the
same block then waits at the level returned to (R310, R323) (DEDUCED, log entry 48). -/
def bodyRte (o : OpY) (_ : Mem) (d : Dev) : Dev :=
  d.commits (.rte o) fun id _ _ d =>
    let c := d.core id
    let d := match c.entry with
      | some r => if !id.isSys && c.st.hold then d.releaseConfig r.seqNo r.cause c.st.act else d
      | none => d
    d.updCore id fun k =>
      let k' := k.returnFromTrap id
      match k'.thread, c.thread with
      | .live, .wfi b => { k' with thread := .wfi b }
      | _, _ => k'

/-- WFI: the thread waits before its next block, until a bound when TIMED (R325). -/
def bodyWfi (o : OpY) (_ : Mem) (d : Dev) : Dev :=
  d.commits (.wfi o) fun id _ _ d =>
    let c := d.core id
    d.setCore id { c with
      thread := .wfi (if o.sub.getLsbD 0 then some (c.reg o.gb).v.toNat else none) }

/-! ### System registers -/

/-- SRD: the value read at entry; a per-context register of a context that is not in the partition faults
(R301, R324). -/
def bodySrd (o : OpY) (_ : Mem) (d : Dev) : Dev :=
  d.fire (.srd o) false fun e _ d =>
    if d.selFault e.core o.imm.toNat then .fault d cPERMISSION 0 0
    else match (d.core e.core).frame with
      | some f => .done d (.tok { data := BitVec.ofNat 1024 (f.sr e.slot).toNat })
      | none => .wait

/-- DBG_MTDATA read: 8 bytes of a bank as they stood at entry (R319). -/
def bodyDbgMtdata (o : OpY) (_ : Mem) (d : Dev) : Dev :=
  d.fire (.dbgMtdata o) false fun e _ d =>
    let a := (d.core e.core).mtaddr.toNat
    let v := match (d.core e.core).frame with
      | some f => d.entryView e.core f 0
      | none => d
    (v.ctlBank e.core a 1 8 bankBytes [.tile, .fifo, .line, .scale]).fire d a 6 fun _ _ _ _ b =>
      .done d (.tok { data := BitVec.ofNat 1024 (b.elem (mtOfs a) 8) })

/-- PART_CTL written: CMD is a command, and the other fields are read-only (R385, R386). -/
def partCtl (part : Nat) (v : Word) (m : Mem) (d : Dev) : Dev :=
  match Word.bits v.toNat 7 4 with
  | 1 => bodyPartCtlOpen part m d
  | 2 => bodyPartCtlStart part m d
  | 3 => bodyPartCtlStop part m d
  | _ => d

/-- A system register written at commit (R324): a plain write, or the behaviour of the register; a selection acts from
the next block on. -/
def Dev.swr (m : Mem) (d : Dev) (id : CoreId) (n : Nat) (v : Word) : Dev :=
  match n with
  | 0x09C => bodyTrapHAck id v m d
  | 0x105 => bodyPrivWake id v m d
  | 0x302 => bodySchedCgtab id v m d
  | 0x400 => bodyShepPaddock id v m d
  | 0x403 => bodyShepPlown id v m d
  | 0x404 => bodyShepPlmap id v m d
  | 0x580 => bodyXlS2base id v m d
  | 0x600 => partCtl (d.selPart id) v m d
  | 0x612 => bodyPartFtag id v m d
  | _ => if selects n then d.updFrame id fun f => { f with sels := f.sels ++ [(n, v)] } else d.srWrite id n v

/-- SWR: a null operand writes nothing; the write is made at commit (R300, R324). -/
def bodySwr (o : OpY) (m : Mem) (d : Dev) : Dev :=
  d.fireCommit (.swr o) false
    (fun e _ d => if d.selFault e.core o.imm.toNat then some (cPERMISSION, 0, 1) else none)
    (fun _ _ _ => .wait)
    fun id _ c d => d.swr m id o.imm.toNat (BitVec.ofNat 64 c.a.data.toNat)

/-- One step of TRAP. -/
def execTrap (o : OpY) (s : State) : Host.Outcome State Fault Refusal :=
  act s (bodyTrap o)

/-- One step of HCALL. -/
def execHcall (o : OpY) (s : State) : Host.Outcome State Fault Refusal :=
  act s (bodyHcall o)

/-- One step of BRK. -/
def execBrk (o : OpY) (s : State) : Host.Outcome State Fault Refusal :=
  act s (bodyBrk o)

/-- One step of RTE. -/
def execRte (o : OpY) (s : State) : Host.Outcome State Fault Refusal :=
  act s (bodyRte o)

/-- One step of WFI. -/
def execWfi (o : OpY) (s : State) : Host.Outcome State Fault Refusal :=
  act s (bodyWfi o)

/-- One step of SRD. -/
def execSrd (o : OpY) (s : State) : Host.Outcome State Fault Refusal :=
  act s (bodySrd o)

/-- One step of DBG_MTDATA. -/
def execDbgMtdata (o : OpY) (s : State) : Host.Outcome State Fault Refusal :=
  act s (bodyDbgMtdata o)

/-- One step of SWR. -/
def execSwr (o : OpY) (s : State) : Host.Outcome State Fault Refusal :=
  act s (bodySwr o)

end Sys2Proof.Machine
end

