-- ==== Sys2Proof/Machine/Run.lean ====
section
/-! DEFINITION. The instruction words as changes of the device: what a control block's commit performs
for its slots, one after the other, within one step (R26, R300). -/

namespace Sys2Proof.Machine

/-- An instruction without an effect on main memory, performed within a longer step: what the step has
written so far stands. -/
def Dev.viaExec (d : Dev) (m : Mem) (f : State → Host.Outcome State Fault Refusal) : Dev :=
  match f { mem := m, dev := d } with
  | .next s => { s.dev with wq := d.wq, tx := d.tx }
  | .fault _ | .refused _ => d

/-- An instruction word at the place that the focus names; register and event rows have no slot. -/
def performInstr (i : Instr) (m : Mem) (d : Dev) : Dev :=
  match i with
  | .nop o => d.viaExec m (execNop o)
  | .rdp o => d.viaExec m (execRdp o)
  | .movi o => d.viaExec m (execMovi o)
  | .movh o => d.viaExec m (execMovh o)
  | .fan o => d.viaExec m (execFan o)
  | .null o => d.viaExec m (execNull o)
  | .drop o => d.viaExec m (execDrop o)
  | .gate o => d.viaExec m (execGate o)
  | .sel o => d.viaExec m (execSel o)
  | .lcnt o => d.viaExec m (execLcnt o)
  | .lidx o => d.viaExec m (execLidx o)
  | .pois o => d.viaExec m (execPois o)
  | .poisc o => d.viaExec m (execPoisc o)
  | .mark o => d.viaExec m (execMark o)
  | .route o => bodyRoute o m d
  | .bro o => bodyBro o m d
  | .brx o => bodyBrx o m d
  | .callb o => bodyCallb o m d
  | .retb o => bodyRetb o m d
  | .halt o => bodyHalt o m d
  | .rdg o => bodyRdg o m d
  | .wrg o => bodyWrg o m d
  | .add o => d.viaExec m (execAdd o)
  | .addi o => d.viaExec m (execAddi o)
  | .sub o => d.viaExec m (execSub o)
  | .adds o => d.viaExec m (execAdds o)
  | .subs o => d.viaExec m (execSubs o)
  | .neg o => d.viaExec m (execNeg o)
  | .abs o => d.viaExec m (execAbs o)
  | .mul o => d.viaExec m (execMul o)
  | .mulh o => d.viaExec m (execMulh o)
  | .mulhw o => d.viaExec m (execMulhw o)
  | .madd o => d.viaExec m (execMadd o)
  | .div o => d.viaExec m (execDiv o)
  | .divw o => d.viaExec m (execDivw o)
  | .rem o => d.viaExec m (execRem o)
  | .remw o => d.viaExec m (execRemw o)
  | .lea o => d.viaExec m (execLea o)
  | .min o => d.viaExec m (execMin o)
  | .max o => d.viaExec m (execMax o)
  | .minw o => d.viaExec m (execMinw o)
  | .maxw o => d.viaExec m (execMaxw o)
  | .and o => d.viaExec m (execAnd o)
  | .or o => d.viaExec m (execOr o)
  | .xor o => d.viaExec m (execXor o)
  | .andn o => d.viaExec m (execAndn o)
  | .shl o => d.viaExec m (execShl o)
  | .shr o => d.viaExec m (execShr o)
  | .sra o => d.viaExec m (execSra o)
  | .rotl o => d.viaExec m (execRotl o)
  | .clz o => d.viaExec m (execClz o)
  | .popc o => d.viaExec m (execPopc o)
  | .brev o => d.viaExec m (execBrev o)
  | .cmp o => d.viaExec m (execCmp o)
  | .cmpi o => d.viaExec m (execCmpi o)
  | .bfx o => d.viaExec m (execBfx o)
  | .bfi o => d.viaExec m (execBfi o)
  | .fadd o => d.viaExec m (execFadd o)
  | .fsub o => d.viaExec m (execFsub o)
  | .fmul o => d.viaExec m (execFmul o)
  | .ffma o => d.viaExec m (execFfma o)
  | .fmin o => d.viaExec m (execFmin o)
  | .fmax o => d.viaExec m (execFmax o)
  | .famax o => d.viaExec m (execFamax o)
  | .fabs o => d.viaExec m (execFabs o)
  | .fneg o => d.viaExec m (execFneg o)
  | .fcpys o => d.viaExec m (execFcpys o)
  | .fcmp o => d.viaExec m (execFcmp o)
  | .fclass o => d.viaExec m (execFclass o)
  | .fcvt o => d.viaExec m (execFcvt o)
  | .frnd o => d.viaExec m (execFrnd o)
  | .frcp o => d.viaExec m (execFrcp o)
  | .frsq o => d.viaExec m (execFrsq o)
  | .fsqrt o => d.viaExec m (execFsqrt o)
  | .fexp2 o => d.viaExec m (execFexp2 o)
  | .flog2 o => d.viaExec m (execFlog2 o)
  | .fsint o => d.viaExec m (execFsint o)
  | .fcost o => d.viaExec m (execFcost o)
  | .ftanh o => d.viaExec m (execFtanh o)
  | .fscale o => d.viaExec m (execFscale o)
  | .fdot2 o => d.viaExec m (execFdot2 o)
  | .fdot4 o => d.viaExec m (execFdot4 o)
  | .lswp o => d.viaExec m (execLswp o)
  | .lperm o => d.viaExec m (execLperm o)
  | .lbcst o => d.viaExec m (execLbcst o)
  | .lsld o => d.viaExec m (execLsld o)
  | .lred o => d.viaExec m (execLred o)
  | .lscan o => d.viaExec m (execLscan o)
  | .lvote o => d.viaExec m (execLvote o)
  | .lmsk o => d.viaExec m (execLmsk o)
  | .lcmpr o => d.viaExec m (execLcmpr o)
  | .lexpd o => d.viaExec m (execLexpd o)
  | .lpack o => d.viaExec m (execLpack o)
  | .lunpk o => d.viaExec m (execLunpk o)
  | .mbind o => bodyMbind o m d
  | .mma o => bodyMma o m d
  | .mmasp o => bodyMmasp o m d
  | .mzero o => bodyMzero o m d
  | .macci o => bodyMacci o m d
  | .mout o => bodyMout o m d
  | .mswap o => bodyMswap o m d
  | .mscls o => bodyMscls o m d
  | .lds o => bodyLds o m d
  | .sts o => bodySts o m d
  | .ldb o => bodyLdb o m d
  | .stb o => bodyStb o m d
  | .ldv o => bodyLdv o m d
  | .stv o => bodyStv o m d
  | .vrecl o => bodyVrecl o m d
  | .wfa o => bodyWfa o m d
  | .uwait o => bodyUwait o m d
  | .ldg o => bodyLdg o m d
  | .stg o => bodyStg o m d
  | .upd o => bodyUpd o m d
  | .updf o => bodyUpdf o m d
  | .ucas o => bodyUcas o m d
  | .fence o => bodyFence o m d
  | .bara o => bodyBara o m d
  | .barw o => bodyBarw o m d
  | .apset o => bodyApset o m d
  | .apcpy o => bodyApcpy o m d
  | .apld o => bodyApld o m d
  | .apclr o => bodyApclr o m d
  | .sbind o => bodySbind o m d
  | .sbindw o => bodySbindw o m d
  | .sgath o => bodySgath o m d
  | .sscat o => bodySscat o m d
  | .supd o => bodySupd o m d
  | .scopy o => bodyScopy o m d
  | .sscl o => bodySscl o m d
  | .swait o => bodySwait o m d
  | .sstat o => bodySstat o m d
  | .skill o => bodySkill o m d
  | .sbar o => bodySbar o m d
  | .cred o => bodyCred o m d
  | .cbcst o => bodyCbcst o m d
  | .cagth o => bodyCagth o m d
  | .cfgnx o => bodyCfgnx o m d
  | .btok o => bodyBtok o m d
  | .ttld o => bodyTtld o m d
  | .ttldClear o => bodyTtldClear o m d
  | .tfetch o => bodyTfetch o m d
  | .tevict o => bodyTevict o m d
  | .tpin o => bodyTpin o m d
  | .tpinUnpin o => bodyTpinUnpin o m d
  | .tresStatus o => bodyTresStatus o m d
  | .tresResume o => bodyTresResume o m d
  | .tresResident o => bodyTresResident o m d
  | .scopyk o => bodyScopyk o m d
  | .kopen o => bodyKopen o m d
  | .kclose o => bodyKclose o m d
  | .trap o => bodyTrap o m d
  | .brk o => bodyBrk o m d
  | .rte o => bodyRte o m d
  | .srd o => bodySrd o m d
  | .swr o => bodySwr o m d
  | .hcall o => bodyHcall o m d
  | .wfi o => bodyWfi o m d
  | .qpost o => bodyQpost o m d
  | .qctlStatus o => bodyQctlStatus o m d
  | .qctlPrio o => bodyQctlPrio o m d
  | .qctlEnable o => bodyQctlEnable o m d
  | .qctlDisable o => bodyQctlDisable o m d
  | .qctlFlush o => bodyQctlFlush o m d
  | .qctlAssign o => bodyQctlAssign o m d
  | .placeLaunch o => bodyPlaceLaunch o m d
  | .placeMove o => bodyPlaceMove o m d
  | .placeCompact o => bodyPlaceCompact o m d
  | .placeDiscard o => bodyPlaceDiscard o m d
  | .psnapCut o => bodyPsnapCut o m d
  | .psnapMarker o => bodyPsnapMarker o m d
  | .prest o => bodyPrest o m d
  | .plsw o => bodyPlsw o m d
  | .rinvPages o => bodyRinvPages o m d
  | .rinvRange o => bodyRinvRange o m d
  | .rinvContext o => bodyRinvContext o m d
  | .rinvPart o => bodyRinvPart o m d
  | .xinvFrames o => bodyXinvFrames o m d
  | .xinvPart o => bodyXinvPart o m d
  | .kshrAssign o => bodyKshrAssign o m d
  | .kshrBegin o => bodyKshrBegin o m d
  | .kshrFinish o => bodyKshrFinish o m d
  | .kshrErase o => bodyKshrErase o m d
  | .mtrdRead o => bodyMtrdRead o m d
  | .mtrdRecord o => bodyMtrdRecord o m d
  | .mtrdQuote o => bodyMtrdQuote o m d
  | .dbgMtdata o => bodyDbgMtdata o m d
  | .trapHAck _ _ | .privWake _ _ | .shepPaddock _ _ | .shepPlown _ _ | .shepPlmap _ _
  | .schedCgtab _ _ | .xlS2base _ _ | .partCtlOpen _ | .partCtlStart _ | .partCtlStop _ | .partFtag _ _
  | .controlBlockEntry _ | .controlBlockCommit _ | .recordStart _ _ _ | .recordCommit _ _ _
  | .roundBoundary _ | .roundResume _ | .roundVoid _ | .tokenArrival _
  | .bankOwnershipTokenArrival _ _ _ | .fillPortToken _ _ _ | .reconfigTokenPass _ _
  | .lengthMismatch _ _ _ _ | .stallWatchdog _ | .operatorJoin _ _ _ | .operatorMerge _ _ _
  | .operatorSplay _ _ _ | .operatorZip _ _ _ | .operatorUnzip _ _ _ | .operatorScan _ _ _
  | .operatorReduce _ _ _ | .operatorCompact _ _ _ | .operatorQuant _ _ _ | .operatorDequant _ _ _
  | .operatorTranspose _ _ _ | .scoreboardCommandStart _ _ | .streamFetch _ _ | .streamDeliver _ _
  | .streamFetchFaultRaise _ _ | .streamOutputStage _ _ | .gatherIndexToken _ _
  | .scatterIndexToken _ _ | .updateIndexToken _ _ | .copyComplete _ | .copyFault _
  | .collectiveComplete _ _ | .teMarkerReport | .teFetchAction _ _ | .teEvictAction _ _
  | .teFillComplete _ _ | .teDrainComplete _ _ | .dispatchDecision | .dependenceReread _
  | .queuePromotion _ | .install | .restoreSourcesResume _ | .instanceEnd _ | .shepherdMove _
  | .compactTimeout _ | .snapshotCut _ | .snapshotMarkerArrival _ _ | .snapshotImageWrite _
  | .planeSwitch _ | .edgeDepthApply _ _ _ | .trapEntry _ | .hQueueTake | .eventRingWrite _
  | .eventRingAck _ _ | .wfiTimeout _ | .clearLine _ _ | .memoryLineRead _ | .memoryLineWrite _
  | .bandSample _ | .hbmGroupRetrain _ | .patrolPassComplete _ | .governorDecision _
  | .meterPeriodicRecord _ | .kshrBeginServe | .kshrFinishServe | .mtrdRecordServe | .mtrdQuoteServe
  | .boot | .powerLoss | .mgmtOpen _ | .mgmtConfirm _ | .mgmtClose _ | .mgmtLock _ | .mgmtRenew _
  | .mgmtUnlock _ | .mgmtWrite _ | .mgmtActivate _ | .mgmtSetkeys _ | .mgmtCool _ | .mgmtWarm _
  | .mgmtExport _ | .mgmtSetival _ | .mgmtReset _ | .mgmtPowerOff _ | .lockLeaseExpiry _
  | .sessionTimeout _ | .peerReadRequest _ | .peerReadData _ | .peerWrite _ | .peerWriteAck _
  | .peerUpdate _ | .peerCollective _ | .peerTokenData _ | .peerCreditReturn _ | .peerReservedFlit _
  | .linkDown _ | .t2ReadData _ | .t2WriteAck _ | .t2CreditReturn _ | .t2ReservedFlit _
  | .rdmaWriteInbound _ | .rdmaReadInbound _ | .rdmaSendInbound _ | .roceUnsupportedRequest _
  | .retreatRowRefreshComplete | .roceResponseInbound _ | .priorityFlowControlFrame _ _ _
  | .congestionNotificationPacket _ | .flitAcknowledgement _ _ => d

end Sys2Proof.Machine
end

