-- ==== Sys2Proof/Machine/Blocks.lean ====
section
/-! DEFINITION. Control blocks: fetch and entry (R99, R100), the choice of the slot that fires next (R26,
R118), and the commit (R94, R133, R300, R374). -/

namespace Sys2Proof

/-- The system register that an instruction reads or writes. -/
def Instr.srNumber (i : Instr) : Option Nat :=
  if i.opcode == 0xD3 || i.opcode == 0xD4 then match i with
    | .srd o | .swr o | .dbgMtdata o => some o.imm.toNat
    | _ => none
  else none

/-- Instructions that choose the next block (R132, R321, R323). -/
def Instr.isTransfer (i : Instr) : Bool := [0x11, 0x12, 0x13, 0x14, 0x15, 0xD0, 0xD2, 0xD5].contains i.opcode

/-- Stream, collective, tier and key commands (R210, R227, R268, R275). -/
def Instr.isCommand (i : Instr) : Bool := 0xA0 ≤ i.opcode && i.opcode ≤ 0xCA

/-- SWRs that select what other registers name take effect after the block's other SWRs (R299, R324). -/
def isSelection (n : Nat) : Bool :=
  [0x102, 0x201, 0x402, 0x610, 0x611, 0x700, 0x901, 0xA03, 0x09C].contains n

/-- Order of an instruction's effect within a commit: stores, then commands, FENCE, SWRs, invalidations, the
instructions that deliver a result, WFI, and the transfer (R203, R300, R371). -/
def Instr.phase (i : Instr) : Nat :=
  if i.isStore then 0
  else if i.isTransfer then 9
  else if i.isCommand then 2
  else match i.opcode with
    | 0x94 => 3
    | 0xD4 => if (i.srNumber.map isSelection).getD false then 5 else 4
    | 0xE0 | 0xE1 => 6
    | 0xD8 | 0xD9 | 0xDA | 0xDB | 0xDC | 0xDD | 0xE8 | 0xE9 => 7
    | 0xD6 => 8
    | _ => 1

end Sys2Proof

namespace Sys2Proof.Machine

/-! ### Fetching a block -/

/-- What a fetch of a granule gives: the bytes now, or while a write of them has not been fenced what they were
before it (R100) (DESIGN CHOICE, log entry 7). -/
def Dev.codeVersion (d : Dev) (g : Nat) (bs : List Byte) : Dev × List Byte :=
  match lookup g d.stale with
  | none => (d, bs)
  | some vs =>
    let vs := vs ++ [bs]
    let (v, d) := d.fresh
    (d, vs.getD (v.toNat % vs.length) bs)

/-- One aligned granule of code (DEDUCED, log entry 16). -/
def Dev.fetchGranule (m : Mem) (d : Dev) (a : Acc) (va : Nat) :
    Dev × Except XlFault (List Byte) :=
  let (d, r) := d.loadPlain m a va 32
  match r with
  | .error f => (d, .error f)
  | .ok (h, bs, _) =>
    let d := d.countAccess m h 32
    if h.peer.isSome || h.window.isSome then (d, .ok bs)
    else
      let (d, v) := d.codeVersion (h.host / 32) bs
      (d, .ok v)

/-- Granules of code in order, up to the first fault and its address. -/
def Dev.fetchAll (m : Mem) (a : Acc) : List Nat → Dev → Dev × Except (Nat × XlFault) (List Byte)
  | [], d => (d, .ok [])
  | g :: rest, d =>
    let (d, r) := d.fetchGranule m a g
    match r with
    | .error f => (d, .error (g, f))
    | .ok bs =>
      let (d, r) := Dev.fetchAll m a rest d
      (d, r.map (bs ++ ·))

/-- The bytes of the block at an address: its header's granule first, then as many as NINS gives; a fault comes with
the address of the first access that fails (R373). -/
def Dev.fetchBlock (m : Mem) (d : Dev) (id : CoreId) (addr : Nat) :
    Dev × Except (Nat × XlFault) (List Byte) :=
  let a := d.coreAcc id .fetch .fetch 3
  let g0 := addr / 32 * 32
  let (d, r) := d.fetchGranule m a g0
  match r with
  | .error f => (d, .error (addr, f))
  | .ok bs =>
    let front := bs.drop (addr - g0)
    let total := blkBytes (Word.ofBytes (front.take 16))
    let n := (addr + total + 31) / 32 - g0 / 32
    let (d, r) := Dev.fetchAll m a ((List.range (n - 1)).map fun k => g0 + 32 * (k + 1)) d
    (d, r.map fun more => (front ++ more).take total)

/-! ### Entry -/

/-- The cause that a slot of a control block raises at decode on a core: ILLEGAL_INSTR before
PRIV_VIOLATION (R97, R99, R298, R299). -/
def slotCause (sys : Bool) (level : Level) (b : RawBlk) (k : Nat) (w : Word) : Option Nat :=
  if !slotOk .control b k w then some cILLEGAL
  else match decode w with
    | .error _ => some cILLEGAL
    | .ok i => match i.srNumber with
      | some n => srFault sys level n
      | none => if level.rank < (i.row .control).level.rank then some cPRIV else none

/-- The first offending slot of a control block, with its cause and word. -/
def firstCauseSlot (sys : Bool) (level : Level) (b : RawBlk) : Option (Nat × Nat × Word) :=
  (b.words.mapIdx fun k w => (k, w)).findSome? fun (k, w) =>
    (slotCause sys level b k w).map fun c => (k, c, w)

/-- System registers and meters that a block reads as it is entered (R300, R402). -/
def Dev.entryReads (d : Dev) (id : CoreId) (ss : List Slot) : Dev × List (Nat × Word) :=
  (ss.mapIdx fun k s => (k, s)).foldl (fun (acc : Dev × List (Nat × Word)) ks =>
    match ks.2.ins with
    | .srd o => (acc.1.fresh.2, acc.2 ++ [(ks.1, acc.1.srRead id o.imm.toNat)])
    | .mtrdRead o => (acc.1, acc.2 ++ [(ks.1,
        BitVec.ofNat 64 ((acc.1.part (acc.1.issuer id).2.1).meterAt o.imm.toNat))])
    | _ => acc) (d, [])

/-- A block entered: fetched, decoded whole, and checked before any of its instructions fires (R99, R100,
R134). -/
def Dev.enterBlock (m : Mem) (d : Dev) (id : CoreId) : Dev :=
  let c := d.core id
  let addr := c.next
  let d := d.updCore id fun c => { c with sync := [] }
  if addr % 16 != 0 then d.faultAt id addr cMISALIGNED addr 3 0
  else
    let (d, r) := d.fetchBlock m id addr
    match r with
    | .error (va, f) => d.faultAt id addr f.cause va (f.info 3) 0
    | .ok bs => match rawBlock bs with
      | none => d.raise id { d.coreRec id with cause := cILLEGAL, addr := addr, hdr := true } addr
      | some b =>
        if !hdrOk .control b then
          d.raise id { d.coreRec id with cause := cILLEGAL, addr := addr, hdr := true } addr
        else match firstCauseSlot id.isSys c.level b with
          | some (k, cause, w) => d.faultAt id addr cause addr w.toNat k
          | none =>
            let blk := b.build []
            let (d, srs) := d.entryReads id blk.slots
            let d := d.peerSettle fun _ => false
            let own := d.peerAdvance fun _ w => w.unit == id.key
            d.updCore id fun c => { c with
              frame := some { addr := addr, blk := blk, srs := srs, mem0 := writeAll m d.wq
                              fab0 := (d.instOf id).map (·.2.fab), peers0 := own.peers
                              state0 := some ((List.range 16).map fun p => (p, d.heavyFree p),
                                d.queues.map fun q => (q.1, q.2.owner)) } }

/-- The package is powered, and code runs. -/
def Dev.powered (d : Dev) : Bool := d.pkg.powered

/-- CONTROL_BLOCK_ENTRY: at a boundary a core takes a pending record, or ends a WFI, or enters its thread's
next block (R99, R308, R310, R312, R325). -/
def bodyControlBlockEntry (id : CoreId) (m : Mem) (d : Dev) : Dev :=
  let c := d.core id
  if c.frame.isSome || !d.powered then d
  else if d.takesS id then bodyTrapEntry id m d
  else if d.takerH.any (fun k => id == .sys k) then bodyHQueueTake m d
  else match c.thread with
    | .none | .halted | .held _ => d
    | .wfi b =>
      if b.any (· ≤ d.time) || (!id.isSys && c.level == .s && !c.st.ie && !c.queue.isEmpty) then
        d.updCore id fun c => { c with thread := .live }
      else d
    | .live => if !c.sync.all d.syncDone || d.shepherdHolds id then d else d.enterBlock m id

/-! ### Which slot fires next -/

/-- The slots of a block that have not fired and whose operands have arrived. -/
def Frame.ready (f : Frame) : List Nat :=
  (f.blk.slots.mapIdx fun k s => (k, s)).filterMap fun (k, s) =>
    if s.fired == 0 && (gather (s.ins.row .control).slots s.ins.head.pm s.ins.isGate s).isSome then some k
    else none

/-- The instruction of a slot. -/
def Frame.instr (f : Frame) (k : Nat) : Option Instr := (f.blk.slots[k]?).map (·.ins)

/-- Store-class instructions of lower LSID than a load have all fired, so that it can see them (R94)
(DEDUCED, log entry 14). -/
def Frame.loadReady (f : Frame) (k : Nat) : Bool :=
  match (f.instr k).bind Instr.lsid with
  | none => true
  | some l => f.blk.slots.all fun s => !s.ins.isStore || s.fired != 0 || match s.ins.lsid with
      | some j => l ≤ j
      | none => true

/-- The slot that fires next: slots that have been found waiting come last, and loads after the other
slots (R26, R94) (DEDUCED, log entry 14). -/
def Frame.choose (f : Frame) : Option Nat :=
  let all := f.ready
  let fresh := all.filter fun k => !f.waits.contains k
  let ks := if fresh.isEmpty then all else fresh
  let isLoad := fun k => (f.instr k).any Instr.isLoad
  match ks.find? fun k => !isLoad k with
  | some k => some k
  | none => match ks.find? f.loadReady with
    | some k => some k
    | none => ks.head?

/-! ### Commit -/

/-- Place of a capture in the order of its block's commit. -/
def Frame.place (f : Frame) (c : Capture) : Nat :=
  match f.instr c.slot with
  | none => 0
  | some i => i.phase * 4096 + if i.isStore then (i.lsid.getD 0) else c.slot

/-- The first of some captures in the order of the commit. -/
def Frame.least (f : Frame) (cs : List Capture) : Option Capture :=
  cs.foldl (fun acc c => match acc with
    | none => some c
    | some a => if f.place c < f.place a then some c else some a) none

/-- The effect that is performed next; WFI and the transfer come when the others are done. -/
def Frame.nextCap (f : Frame) : Option Capture :=
  f.least (f.caps.filter fun c => !c.done && f.place c < 8 * 4096)

/-- The state with a capture performed. -/
def Dev.markDone (d : Dev) (id : CoreId) (slot : Nat) : Dev :=
  d.updFrame id fun f =>
    { f with caps := f.caps.map fun c => if c.slot == slot then { c with done := true } else c }

/-- One slot's instruction performed at a place. -/
def Dev.performAt (m : Mem) (d : Dev) (i : Option Instr) (f : Focus) : Dev :=
  match i with
  | some i => performInstr i m { d with focus := f }
  | none => d

/-- The effects of a block performed in their order; a result that one delivers lets further slots fire.
It ends at a trap, or at a wait unless `past` passes over it. -/
def Dev.commitLoop (m : Mem) (id : CoreId) (past : Bool) : Nat → Dev → Dev
  | 0, d => d
  | n + 1, d => match (d.core id).frame with
    | none => d
    | some f => match f.nextCap with
      | some c =>
        let d1 := d.performAt m (f.instr c.slot) (.commit id c.slot)
        match d1.tx with
        | .ok => Dev.commitLoop m id past n (d1.markDone id c.slot)
        | .wait =>
          if past then Dev.commitLoop m id past n (({ d1 with tx := .ok } : Dev).markDone id c.slot)
          else { d with tx := .wait }
        | .trap _ _ _ _ => d1
      | none => match f.ready.find? fun k => !f.waits.contains k with
        | some k => Dev.commitLoop m id past n (d.performAt m (f.instr k) (.fire id k))
        | none => if f.ready.isEmpty || past then d else { d with tx := .wait }

/-- A fault of a block: its rank and key in the order of R374, and its slot, cause, address and INFO. -/
abbrev BlkFault := Nat × Nat × Nat × Nat × Nat × Nat

/-- The checks of the store-class effects of a block before any of them performs (R374). -/
def Dev.storeFaults (m : Mem) (d : Dev) (id : CoreId) (f : Frame) : List BlkFault :=
  let checked := [cMISALIGNED, cTRANSLATION, cPERMISSION, cREMOTE, cSEALED]
  (f.caps.filter fun c => !c.done && (f.instr c.slot).any Instr.isStore).filterMap fun c =>
    match (d.performAt m (f.instr c.slot) (.commit id c.slot)).tx with
    | .trap cause addr info slot =>
      if checked.contains cause then
        some (1, ((f.instr c.slot).bind Instr.lsid).getD 0, slot, cause, addr, info)
      else none
    | .ok | .wait => none

/-- The second of several transfers that computed raises ILLEGAL_INSTR (R133). -/
def Frame.transferFault (f : Frame) : List BlkFault :=
  let ts := (f.blk.slots.mapIdx fun k s => (k, s)).filter fun (k, s) =>
    s.ins.isTransfer && f.caps.any (·.slot == k)
  match ts with
  | _ :: (k, s) :: _ => [(2, k, k, cILLEGAL, f.addr, s.word.toNat)]
  | _ => []

/-- The trap of a commit under way as a fault of the block. -/
def Tx.fault (t : Tx) (f : Frame) : List BlkFault :=
  match t with
  | .trap cause addr info slot =>
    let store := (f.instr slot).any Instr.isStore
    [(if store then 1 else 2, if store then ((f.instr slot).bind Instr.lsid).getD 0 else slot, slot, cause,
      addr, info)]
  | .ok | .wait => []

/-- The fault that the record names: the lowest rank, then the lowest key (R374). -/
def firstBlkFault (fs : List BlkFault) : Option BlkFault :=
  fs.foldl (fun acc f => match acc with
    | none => some f
    | some a => if f.1 < a.1 || (f.1 == a.1 && f.2.1 < a.2.1) then some f else some a) none

/-- A state to which the records that `d1` posted are carried over: a block that does not commit keeps the
reports its accesses raised, and no unit holds on to copies whose use has faulted (R369, R374). -/
def Dev.keepRecords (d d1 : Dev) : Dev :=
  { d with
    hqueue := d1.hqueue, hlost := d1.hlost, heldRecs := d1.heldRecs, seqNo := d1.seqNo, free := d1.free
    xl := d.xl.filter fun c => d1.xl.any fun e => e.unit == c.unit && e.part == c.part && e.ctx == c.ctx && e.page == c.page
    cores := d1.cores.foldl (fun t e =>
      let c := (lookup e.1 d.cores).getD (freshCore (coreOfKey e.1))
      insert e.1 { c with queue := e.2.queue, lost := e.2.lost } t) d.cores
    ctxs := d1.ctxs.foldl (fun t e =>
      let c := (lookup e.1 d.ctxs).getD {}
      insert e.1 { c with evq := e.2.evq } t) d.ctxs }

/-- A core with the g-register writes of its block made: the highest slot wins, and a link over all
(R135). -/
def Core.writeRegs (c : Core) (gw : List (Nat × Bool × Fin 32 × GReg)) : Core :=
  let put := fun (c : Core) (w : Nat × Bool × Fin 32 × GReg) => c.setReg w.2.2.1 w.2.2.2
  let plain := gw.filter fun w => !w.2.1
  let slots := (List.range 128).flatMap fun k => plain.filter (·.1 == k)
  (gw.filter (·.2.1)).foldl put (slots.foldl put c)

/-- The captures of one phase performed in slot order. -/
def Dev.runPhase (m : Mem) (id : CoreId) (f : Frame) (ph : Nat) (d : Dev) : Dev :=
  ((List.range 128).filterMap f.cap).foldl (fun d c =>
    if (f.instr c.slot).any (·.phase == ph) then d.performAt m (f.instr c.slot) (.commit id c.slot)
    else d) d

/-- The end of a commit: WFI, the transfer, the g-registers, markers and the poison log; then the thread is
at a boundary, where an armed step traps (R129, R133, R69, R318) (DEDUCED, log entry 42). -/
def Dev.finishBlock (m : Mem) (d : Dev) (id : CoreId) (f : Frame) : Dev :=
  let c := d.core id
  let ctx := d.accCtx id
  let part := (d.issuer id).2.1
  let r := d.coreRec id
  let called := f.caps.any fun c => (f.instr c.slot).any fun i => i.opcode == 0xD0 || i.opcode == 0xD5
  let d := d.updCore id fun c => { c with next := f.after, skipArmed := false, stepArmed := false }
  let d := f.sels.foldl (fun d e => d.srWrite id e.1 e.2) d
  let d := (d.runPhase m id f 8).runPhase m id f 9
  let f := ((d.core id).frame).getD f
  let d := d.updCore id fun c => { c.writeRegs f.gw with frame := none }
  let ms := (List.range 128).flatMap fun k => (f.marks.filter (·.1 == k)).map (·.2)
  let d := { d with
    reports := d.reports ++ ms.map fun k => ({ ctx := ctx, part := part, core := id, markers := [k] } : Report) }
  let es := (List.range 128).flatMap fun k => (f.plog.filter (·.1 == k)).map (·.2)
  let (d, rep) := d.plogWrite m part ctx r es
  let d := (match rep with
    | some p => d.postCore id p
    | none => d).progress (.core id)
  if c.stepArmed && !called then
    d.raise id { r with cause := cBREAK, cls := 3, addr := f.addr, info := 2 ^ 20 } (d.core id).next
  else d

/-- The commit waits on an SWAIT or a FENCE behind commands or stores that the block itself has issued: what it has
performed stands, so that they can run and be acknowledged (R203, R215, R244). -/
def Frame.waitsOnOwn (f : Frame) : Bool :=
  let has := fun (p : Instr → Bool) => f.caps.any fun c => c.done && (f.instr c.slot).any p
  match f.nextCap with
  | some c => (f.instr c.slot).any fun i =>
      (i.opcode == 0xAB && has Instr.isCommand)
        || (i.opcode == 0x94 && (has Instr.isCommand || has Instr.isStore))
  | none => false

/-- The effects of a block performed, with its frame after them and the faults found, `early` among them. -/
def Dev.commitRun (m : Mem) (id : CoreId) (f : Frame) (early : List BlkFault) (past : Bool) (d : Dev) :
    Dev × Frame × List BlkFault :=
  let e := Dev.commitLoop m id past (2 * f.blk.slots.length + 4) d
  let g := ((e.core id).frame).getD f
  (e, g, early ++ g.faults ++ g.transferFault ++ e.tx.fault g)

/-- CONTROL_BLOCK_COMMIT: the block commits whole, or faults without effect, or waits (R26, R94, R133, R300,
R374) (DEDUCED, log entry 15). -/
def bodyControlBlockCommit (id : CoreId) (m : Mem) (d : Dev) : Dev :=
  match (d.core id).frame with
  | none => d
  | some f =>
    if !f.ready.isEmpty then d
    else
      let d0 := { d with focus := .none }
      let early := d.storeFaults m id f
      let trap := fun (e : Dev) (x : BlkFault) =>
        ({ d0.keepRecords e with tx := .ok } : Dev).faultAt id f.addr x.2.2.2.1 x.2.2.2.2.1 x.2.2.2.2.2 x.2.2.1
      let (e, g, fs) := Dev.commitRun m id f early false d
      match firstBlkFault fs with
      | some x => trap e x
      | none =>
        if e.tx = .wait then
          if g.waitsOnOwn then
            match Dev.commitRun m id f early true { e with tx := .ok } with
            | (e', _, fs') => match firstBlkFault fs' with
              | some x => trap e' x
              | none => { e with tx := .ok, focus := .none }
          else d0
        else { e.finishBlock m id g with tx := .ok, focus := .none }

/-- One step of CONTROL_BLOCK_ENTRY. -/
def execControlBlockEntry (id : CoreId) (s : State) : Host.Outcome State Fault Refusal :=
  act s (bodyControlBlockEntry id)

/-- One step of CONTROL_BLOCK_COMMIT. -/
def execControlBlockCommit (id : CoreId) (s : State) : Host.Outcome State Fault Refusal :=
  act s (bodyControlBlockCommit id)

end Sys2Proof.Machine
end

