-- ==== Sys2Proof/Machine/Mgmt.lean ====
section
/-! DEFINITION. Management sessions over Ethernet: sessions, interface locks and their commands (R404 to
R406, R408, R414, R415). -/

namespace Sys2Proof

/-- An image written to a flash bank carries an SM2 signature and an SM3 hash that verify, and what it
holds; the manual does not give its layout (R414; log entry 5). -/
opaque Config.imageOk : List Byte → Bool
opaque Config.imageFw : List Byte → List (List Byte)
opaque Config.imageHyp : List Byte → List (Nat × List Byte)
opaque Config.imageEntry : List Byte → Nat

end Sys2Proof

namespace Sys2Proof.Machine

/-! ### Datagrams -/

/-- Bytes 0x00 to 0x17 + LEN of a management message (R406). -/
def mgmtBytes (session counter op iface status : Nat) (payload : List Byte) : List Byte :=
  Word.toBytesBe 4 session ++ Word.toBytesBe 8 counter ++ Word.toBytesBe 2 op ++ Word.toBytesBe 1 iface
    ++ Word.toBytesBe 1 status ++ Word.toBytesBe 2 payload.length ++ List.replicate 6 0 ++ payload

/-- The key of requests and the key of replies: the two halves of the 256 agreed bits (R406). -/
def Session.requestKey (s : Session) : List Byte := Word.toBytesBe 16 (Word.bits s.agreed.toNat 767 640)
def Session.replyKey (s : Session) : List Byte := Word.toBytesBe 16 (Word.bits s.agreed.toNat 639 512)

/-- The MAC of a request of a session verifies (R406). -/
def macOk (q : MgmtMsg) (op : Nat) (s : Session) : Bool :=
  q.mac == (hmacSm3 s.requestKey (mgmtBytes q.session q.counter op q.iface 0 q.payload)).take 8

/-- A datagram the SEP sends. -/
def Dev.sendMgmt (d : Dev) (bs : List Byte) : Dev :=
  { d with out := d.out ++ [({ kind := 0x30, link := 0, body := bs.map fun (b : Byte) => b.toNat } : OutMsg)] }

/-- The reply to a request: its COUNTER, bit 15 of OPCODE, and a MAC under the reply key (R406). -/
def Dev.mgmtReply (d : Dev) (q : MgmtMsg) (s : Session) (op status : Nat) (payload : List Byte) : Dev :=
  let bs := mgmtBytes q.session q.counter (op ||| 0x8000) q.iface status payload
  d.sendMgmt (bs ++ (hmacSm3 s.replyKey bs).take 8)

/-- STATUS values (R406). -/
def mOK : Nat := 0
def mLOCKHELD : Nat := 1
def mNOTHOLDER : Nat := 2
def mREFUSED : Nat := 3
def mBAD : Nat := 4
def mVERIFYFAIL : Nat := 5

/-- A request of an open session served: it is dropped unless its COUNTER exceeds the previous one and its
MAC verifies; otherwise it is answered (R404, R406). `after` acts once the reply is sent. -/
def Dev.mgmt (d : Dev) (q : MgmtMsg) (op : Nat) (f : Dev → Dev × Nat × List Byte) (after : Nat → Dev → Dev) : Dev :=
  if d.pkg == .off then d
  else match lookup q.session d.sessions with
    | none => d
    | some s =>
      if !s.opened || q.counter ≤ s.counter || q.counter ≥ 2 ^ 64 || !macOk q op s then d
      else
        let d := { d with
          sessions := insert q.session { s with counter := q.counter, lastMsg := d.time } d.sessions }
        let (d, status, payload) := f d
        after status (d.mgmtReply q s op status payload)

/-! ### Sessions -/

/-- The public key that a key index names: an operator key, or PROVKEY while the operator area is empty
(R406, R413) (DEDUCED, log entry 28). -/
def Flash.opKey (f : Flash) (k : Nat) : Option (BitVec 512) :=
  if k == 8 then if f.opkeys.isEmpty then some f.provKey else none
  else f.opkeys[k]?

/-- MGMT_OPEN: the SEP answers with its ephemeral point and its confirmation and assigns the session's
number; a failed OPEN has no reply (R404, R406) (DEDUCED, log entry 28). -/
def bodyMgmtOpen (q : MgmtMsg) (_ : Mem) (d : Dev) : Dev :=
  let n := Word.ofBytes (sub q.payload 1 1)
  let ida := sub q.payload 2 n
  let ra := BitVec.ofNat 512 (Word.ofBytesBe (sub q.payload (2 + n) 64))
  if d.pkg == .off || q.session != 0 || q.counter != 0 || q.iface != 0xFF || n == 0 || n > 64
    || q.payload.length != 66 + n then d
  else match d.flash.opKey (Word.ofBytes (sub q.payload 0 1)) with
    | none => d
    | some pa =>
      if !sm2OnCurve pa || !sm2OnCurve ra then d
      else
        let (d1, rb, agreed) := d.respond pa ra ida
        match agreed with
        | none => d1
        | some agreed =>
          let num := d.nextSession
          let s : Session := { agreed := agreed, lastMsg := d.time }
          let reply := mgmtBytes num 0 0x8001 0xFF 0 (beBytes rb ++ Word.toBytesBe 32 (Word.bits agreed.toNat 511 256))
          { d1 with sessions := insert num s d1.sessions, nextSession := num + 1 }.sendMgmt
            (reply ++ List.replicate 8 0)

/-- The locks of a session freed. -/
def Dev.freeLocks (d : Dev) (session : Nat) : Dev := { d with locks := d.locks.filter (·.2.1 != session) }

/-- A session closed (R404). -/
def Dev.closeSession (d : Dev) (session : Nat) : Dev :=
  { d.freeLocks session with sessions := remove session d.sessions }

/-- MGMT_CONFIRM: the operator's confirmation opens the session; a failed one closes the attempt without a
reply (R406). -/
def bodyMgmtConfirm (q : MgmtMsg) (_ : Mem) (d : Dev) : Dev :=
  if d.pkg == .off then d
  else match lookup q.session d.sessions with
    | none => d
    | some s =>
      if s.opened then d
      else if q.counter != 1 || q.iface != 0xFF || !macOk q 2 s
        || q.payload != Word.toBytesBe 32 (Word.bits s.agreed.toNat 255 0) then d.closeSession q.session
      else { d with
        sessions := insert q.session { s with counter := 1, opened := true, lastMsg := d.time } d.sessions }.mgmtReply
          q s 2 mOK []

/-- MGMT_CLOSE: the session closes and its locks are freed (R404). -/
def bodyMgmtClose (q : MgmtMsg) (_ : Mem) (d : Dev) : Dev :=
  d.mgmt q 3 (fun d => (d, if q.iface != 0xFF || !q.payload.isEmpty then mBAD else mOK, []))
    fun status d => if status == mOK then d.closeSession q.session else d

/-- SESSION_TIMEOUT: 300 s without a valid message close a session (R404) (DESIGN CHOICE, log entry 49). -/
def bodySessionTimeout (session : Nat) (_ : Mem) (d : Dev) : Dev :=
  match lookup session d.sessions with
  | none => d
  | some s => if s.lastMsg + 300 * 10 ^ 9 ≤ d.time then d.closeSession session else d

/-! ### Locks -/

/-- The session that holds the lock of an interface, and its expiry; an expired lease holds nothing
(R405). -/
def Dev.holder (d : Dev) (iface : Nat) : Option (Nat × Nat) :=
  match d.locks.find? fun e => e.1 == iface && d.time < e.2.2 with
  | some e => some e.2
  | none => none

/-- The interfaces a package accepts commands on (R413) (DEDUCED, log entry 27). -/
def Dev.ifaceOpen (d : Dev) (iface : Nat) : Bool := d.bootOk || iface == 0 || iface == 3

/-- A lease of 30 s from now (R405). -/
def Dev.lease (d : Dev) (iface session : Nat) : Dev × Nat × List Byte :=
  let t := d.time + 30 * 10 ^ 9
  ({ d with locks := d.locks.filter (·.1 != iface) ++ [(iface, session, t)] }, mOK, Word.toBytesBe 8 t)

/-- A request for a lock: BAD_REQUEST for a bad interface or payload, and REFUSED on an interface that a
package which failed to boot does not accept (R406, R413). -/
def Dev.mgmtLock (d : Dev) (q : MgmtMsg) (op : Nat) (f : Option (Nat × Nat) → Dev → Dev × Nat × List Byte) :
    Dev :=
  d.mgmt q op (fun d =>
    if q.iface > 3 || !q.payload.isEmpty then (d, mBAD, [])
    else if !d.ifaceOpen q.iface then (d, mREFUSED, [])
    else f (d.holder q.iface) d) fun _ d => d

/-- MGMT_LOCK (R405). -/
def bodyMgmtLock (q : MgmtMsg) (_ : Mem) (d : Dev) : Dev :=
  d.mgmtLock q 0x10 fun h d => match h with
    | some (s, _) =>
      if s == q.session then d.lease q.iface q.session else (d, mLOCKHELD, Word.toBytesBe 4 s)
    | none => d.lease q.iface q.session

/-- MGMT_RENEW (R405). -/
def bodyMgmtRenew (q : MgmtMsg) (_ : Mem) (d : Dev) : Dev :=
  d.mgmtLock q 0x11 fun h d => match h with
    | some (s, _) => if s == q.session then d.lease q.iface q.session else (d, mNOTHOLDER, [])
    | none => (d, mNOTHOLDER, [])

/-- MGMT_UNLOCK (R405). -/
def bodyMgmtUnlock (q : MgmtMsg) (_ : Mem) (d : Dev) : Dev :=
  d.mgmtLock q 0x12 fun h d => match h with
    | some (s, _) =>
      if s == q.session then ({ d with locks := d.locks.filter (·.1 != q.iface) }, mOK, [])
      else (d, mNOTHOLDER, [])
    | none => (d, mNOTHOLDER, [])

/-- LOCK_LEASE_EXPIRY: a lease that has reached its expiry frees the lock (R405). -/
def bodyLockLeaseExpiry (iface : Nat) (_ : Mem) (d : Dev) : Dev :=
  { d with locks := d.locks.filter fun e => !(e.1 == iface && e.2.2 ≤ d.time) }

/-! ### Commands of the interfaces -/

/-- A command on an interface performs only for the session that holds its lock (R405, R406)
(DEDUCED, log entry 28). -/
def Dev.command (d : Dev) (q : MgmtMsg) (op iface : Nat) (ok : Bool) (f : Dev → Dev × Nat × List Byte)
    (after : Nat → Dev → Dev := fun _ d => d) : Dev :=
  d.mgmt q op (fun d =>
    if q.iface != iface || !ok || q.payload.length > 1400 then (d, mBAD, [])
    else if !d.ifaceOpen iface then (d, mREFUSED, [])
    else match d.holder iface with
      | some (s, _) => if s == q.session then f d else (d, mNOTHOLDER, [])
      | none => (d, mNOTHOLDER, [])) after

/-- OPCODEs of requests (R406). -/
def mgmtOps : List Nat := [1, 2, 3, 0x10, 0x11, 0x12, 0x20, 0x21, 0x22, 0x30, 0x31, 0x40, 0x41, 0x50, 0x51]

/-- A valid message of a session with an unknown OPCODE is answered BAD_REQUEST (R406). -/
def Dev.mgmtUnknown (d : Dev) (q : MgmtMsg) (op : Nat) : Dev :=
  if mgmtOps.contains op || op ≥ 2 ^ 16 then d
  else d.mgmt q op (fun d => (d, mBAD, [])) fun _ d => d

/-- The state with the flash changed. -/
def Dev.updFlash (d : Dev) (f : Flash → Flash) : Dev := { d with flash := f d.flash }

/-- The inactive bank, which the next boot does not read, replaced (R414) (DEDUCED, log entry 28). -/
def Flash.setInactive (f : Flash) (b : FlashBank) : Flash := if f.bank then { f with bank0 := b } else { f with bank1 := b }

/-- Bytes of a WRITE taken in; the bytes of an image of another TOTAL are dropped (R406) (DEDUCED, log entry 28). -/
def Flash.takeWrite (f : Flash) (off total : Nat) (bs : List Byte) : List (Nat × Byte) :=
  let old := match f.writing with
    | some (t, ws) => if t == total then ws else []
    | none => []
  (bytesAt off bs).foldl (fun acc e => insert e.1 e.2 acc) old

/-- The whole image of a WRITE: it is accepted when it verifies, and otherwise the bank holds none
(R406, R414). -/
def Dev.acceptImage (d : Dev) (img : List Byte) : Dev × Nat × List Byte :=
  let ok := Config.imageOk img
  let b : FlashBank := if ok then
      { image := img, ok := true, fw := Config.imageFw img, hyp := Config.imageHyp img
        hypEntry := Config.imageEntry img }
    else {}
  (d.updFlash fun f => { f.setInactive b with writing := none }, if ok then mOK else mVERIFYFAIL, [])

/-- MGMT_WRITE (R414): while bytes are missing the inactive bank holds no verified image. -/
def bodyMgmtWrite (q : MgmtMsg) (_ : Mem) (d : Dev) : Dev :=
  let off := Word.ofBytesBe (sub q.payload 0 4)
  let total := Word.ofBytesBe (sub q.payload 4 4)
  let bs := q.payload.drop 8
  d.command q 0x20 0 (q.payload.length ≥ 8 && off + bs.length ≤ total) fun d =>
    let ws := d.flash.takeWrite off total bs
    if ws.length == total then d.acceptImage ((List.range total).map fun k => (lookup k ws).getD 0)
    else (d.updFlash fun f => { f.setInactive {} with writing := some (total, ws) }, mOK, [])

/-- MGMT_ACTIVATE: the next boot reads the other bank, when its image is verified (R414). -/
def bodyMgmtActivate (q : MgmtMsg) (_ : Mem) (d : Dev) : Dev :=
  d.command q 0x21 0 q.payload.isEmpty fun d =>
    if (d.flash.bankOf !d.flash.bank).ok then
      (d.updFlash fun f => { f with bank := !f.bank, writing := none }, mOK, [])
    else (d, mREFUSED, [])

/-- MGMT_SETKEYS: up to eight keys replace the operator area (R414). -/
def bodyMgmtSetkeys (q : MgmtMsg) (_ : Mem) (d : Dev) : Dev :=
  let n := Word.ofBytes (sub q.payload 0 1)
  d.command q 0x22 0 (!q.payload.isEmpty && n ≤ 8 && q.payload.length == 1 + 64 * n) fun d =>
    (d.updFlash fun f => { f with
      opkeys := (List.range n).map fun k =>
        BitVec.ofNat 512 (Word.ofBytesBe (sub q.payload (1 + 64 * k) 64)) }, mOK, [])

/-- MGMT_COOL: SERVICE with no partition RUNNING, or WARMING, becomes COOLING (R408). -/
def bodyMgmtCool (q : MgmtMsg) (_ : Mem) (d : Dev) : Dev :=
  d.command q 0x30 1 q.payload.isEmpty fun d =>
    if (d.pkg == .service && d.runningParts.isEmpty) || d.pkg == .warming then (d.enterPkg .cooling, mOK, [])
    else (d, mREFUSED, [])

/-- MGMT_WARM: COOLING, SOAK or COLD_READY becomes WARMING (R408, R409). -/
def bodyMgmtWarm (q : MgmtMsg) (m : Mem) (d : Dev) : Dev :=
  d.command q 0x31 1 q.payload.isEmpty fun d =>
    if d.pkg == .cooling || d.pkg == .soak || d.pkg == .coldReady then (d.enterWarming m, mOK, [])
    else (d, mREFUSED, [])

/-- MGMT_EXPORT: up to five stored records of a partition from an index (R400, R406) (DEDUCED, log entry 28). -/
def bodyMgmtExport (q : MgmtMsg) (_ : Mem) (d : Dev) : Dev :=
  let p := Word.ofBytes (sub q.payload 0 1)
  d.command q 0x40 2 (q.payload.length == 2 && p < 16) fun d =>
    let rs := ((d.part p).records.drop (Word.ofBytes (sub q.payload 1 1))).take 5
    (d, mOK, Word.toBytes 1 rs.length ++ rs.flatten)

/-- MGMT_SETIVAL: METER_IVAL of a partition written (R397, R406). -/
def bodyMgmtSetival (q : MgmtMsg) (_ : Mem) (d : Dev) : Dev :=
  let p := Word.ofBytes (sub q.payload 0 1)
  d.command q 0x41 2 (q.payload.length == 5 && p < 16) fun d =>
    (d.updPart p fun x => x.srWrite 0x800 (BitVec.ofNat 64 (Word.ofBytesBe (sub q.payload 1 4))), mOK, [])

/-- MGMT_RESET: the reply, then a reset and a boot; refused in TRIP (R414). -/
def bodyMgmtReset (q : MgmtMsg) (m : Mem) (d : Dev) : Dev :=
  d.command q 0x50 3 q.payload.isEmpty (fun d => (d, if d.pkg == .trip then mREFUSED else mOK, []))
    fun status d => if status == mOK then d.resetBoot m else d

/-- MGMT_POWER_OFF: the reply, then OFF (R408, R414). -/
def bodyMgmtPowerOff (q : MgmtMsg) (m : Mem) (d : Dev) : Dev :=
  d.command q 0x51 3 q.payload.isEmpty (fun d => (d, mOK, []))
    fun status d => if status == mOK then d.powerOff m else d

/-- One step of MGMT_OPEN. -/
def execMgmtOpen (q : MgmtMsg) (s : State) : Host.Outcome State Fault Refusal :=
  act s (bodyMgmtOpen q)

/-- One step of MGMT_CONFIRM. -/
def execMgmtConfirm (q : MgmtMsg) (s : State) : Host.Outcome State Fault Refusal :=
  act s (bodyMgmtConfirm q)

/-- One step of MGMT_CLOSE. -/
def execMgmtClose (q : MgmtMsg) (s : State) : Host.Outcome State Fault Refusal :=
  act s (bodyMgmtClose q)

/-- One step of SESSION_TIMEOUT. -/
def execSessionTimeout (session : Nat) (s : State) : Host.Outcome State Fault Refusal :=
  act s (bodySessionTimeout session)

/-- One step of MGMT_LOCK. -/
def execMgmtLock (q : MgmtMsg) (s : State) : Host.Outcome State Fault Refusal :=
  act s (bodyMgmtLock q)

/-- One step of MGMT_RENEW. -/
def execMgmtRenew (q : MgmtMsg) (s : State) : Host.Outcome State Fault Refusal :=
  act s (bodyMgmtRenew q)

/-- One step of MGMT_UNLOCK. -/
def execMgmtUnlock (q : MgmtMsg) (s : State) : Host.Outcome State Fault Refusal :=
  act s (bodyMgmtUnlock q)

/-- One step of LOCK_LEASE_EXPIRY. -/
def execLockLeaseExpiry (iface : Nat) (s : State) : Host.Outcome State Fault Refusal :=
  act s (bodyLockLeaseExpiry iface)

/-- One step of MGMT_WRITE. -/
def execMgmtWrite (q : MgmtMsg) (s : State) : Host.Outcome State Fault Refusal :=
  act s (bodyMgmtWrite q)

/-- One step of MGMT_ACTIVATE. -/
def execMgmtActivate (q : MgmtMsg) (s : State) : Host.Outcome State Fault Refusal :=
  act s (bodyMgmtActivate q)

/-- One step of MGMT_SETKEYS. -/
def execMgmtSetkeys (q : MgmtMsg) (s : State) : Host.Outcome State Fault Refusal :=
  act s (bodyMgmtSetkeys q)

/-- One step of MGMT_COOL. -/
def execMgmtCool (q : MgmtMsg) (s : State) : Host.Outcome State Fault Refusal :=
  act s (bodyMgmtCool q)

/-- One step of MGMT_WARM. -/
def execMgmtWarm (q : MgmtMsg) (s : State) : Host.Outcome State Fault Refusal :=
  act s (bodyMgmtWarm q)

/-- One step of MGMT_EXPORT. -/
def execMgmtExport (q : MgmtMsg) (s : State) : Host.Outcome State Fault Refusal :=
  act s (bodyMgmtExport q)

/-- One step of MGMT_SETIVAL. -/
def execMgmtSetival (q : MgmtMsg) (s : State) : Host.Outcome State Fault Refusal :=
  act s (bodyMgmtSetival q)

/-- One step of MGMT_RESET. -/
def execMgmtReset (q : MgmtMsg) (s : State) : Host.Outcome State Fault Refusal :=
  act s (bodyMgmtReset q)

/-- One step of MGMT_POWER_OFF. -/
def execMgmtPowerOff (q : MgmtMsg) (s : State) : Host.Outcome State Fault Refusal :=
  act s (bodyMgmtPowerOff q)

end Sys2Proof.Machine
end

