-- ==== Sys2Proof/Machine/Agenda.lean ====
section
/-! DEFINITION. What happens next: the order of the agents' steps and of the inputs from outside, which the
manual leaves open, stands in the state's agenda (log entry 6). -/

namespace Sys2Proof.Machine

/-! ### The environment -/

/-- Whole microseconds of a partition's run between two times (R398). -/
def runUs (start t0 t1 : Nat) : Nat := (t1 - start) / 1000 - (t0 - start) / 1000

/-- Time passes: PRIV_TIME, the waits of queued launches, the patrol and TILEUS (R301, R334, R398, R411); the span of an
agent that the watchdog does not count now, such as a thread in WFI, begins anew (R317) (DESIGN CHOICE, log entry
49). -/
def Dev.elapse (d : Dev) (ns : Nat) : Dev :=
  let t := d.time + ns
  let d := d.runningParts.foldl (fun (d : Dev) k =>
    d.meter k 0 (4 * (d.part k).pages.length * runUs (d.part k).startAt d.time t)) d
  let d := if d.pkg.powered then d.waitsRun ns else d
  let d := { d with watch := d.watch.map fun (e : Watched × Nat × Bool) => if d.watched e.1 then e else (e.1, t, e.2.2) }
  let d := { d with time := t }
  if d.pkg.patrols then { d.patrol d.patrolNs (d.patrolNs + ns) with patrolNs := d.patrolNs + ns } else d

/-- A granule of a bank takes an uncorrectable error (R175) (DESIGN CHOICE, log entry 2). -/
def Dev.spoil (d : Dev) (cfg tile bank granule : Nat) : Dev :=
  d.updInst cfg fun x => match x.bank tile bank with
    | some b => x.setBank tile bank { b with bad := b.bad.filter (· != granule) ++ [granule] }
    | none => x

/-- What a pick that is no row of the opcode table does: time, which also lets late completion words be written
(R222), a copy engine's granule (R223), and conditions
that come about outside the rules (R175, R369, R392) (DESIGN CHOICE, log entry 2). -/
def environment (p : Pick) (m : Mem) (d : Dev) : Dev :=
  match p with
  | .ctl _ | .elem _ _ _ _ | .ev _ => d
  | .elapse ns => (d.slowed.foldl Dev.easeFlow (d.elapse ns)).retryWords m
  | .copy id write granule => d.copyStep m id write granule
  | .lineCond line c => if d.pkg.powered then { d with conds := insert line c d.conds } else d
  | .badGranule cfg tile bank granule => d.spoil cfg tile bank granule
  | .dropCopy k => { d with xl := d.xl.eraseIdx k }
  | .mgmtOther op q => d.mgmtUnknown q op

/-! ### The next step -/

/-- The next pick and the state after it is taken from the agenda: with nothing on the agenda a package without
power boots, and one with power lets system core 0 step (DESIGN CHOICE, log entry 6). -/
def Dev.takePick (d : Dev) : Pick × Dev :=
  match d.agenda with
  | p :: rest => (p, { d with agenda := rest })
  | [] => (if d.pkg == .off then .ev .boot else .ctl (.sys 0), d)

/-- An instruction word or a register access: no step of its own (DESIGN CHOICE, log entry 6). -/
def withinStep (i : Instr) : Bool :=
  i.parts.isSome || match i with
    | .trapHAck _ _ | .privWake _ _ | .shepPaddock _ _ | .shepPlown _ _ | .shepPlmap _ _ | .schedCgtab _ _
    | .xlS2base _ _ | .partFtag _ _ | .partCtlOpen _ | .partCtlStart _ | .partCtlStop _ => true
    | _ => false

/-- What a step executes: a row of the opcode table at a place, or a pick of the environment; a pick of a row
that is no step of its own is bad. -/
inductive Todo
  | row (i : Instr) (f : Focus)
  | env (p : Pick)
  | bad
  deriving DecidableEq, Repr

/-- The next step of a core: its block's next instruction, or the block's commit, or the entry of a block
(R26, R94, R99). -/
def Dev.coreTodo (d : Dev) (id : CoreId) : Todo :=
  match (d.core id).frame with
  | none => .row (.controlBlockEntry id) .none
  | some f => match f.choose with
    | none => .row (.controlBlockCommit id) .none
    | some k => match f.instr k with
      | some i => .row i (.fire id k)
      | none => .env (.ctl id)

/-- The instruction of a slot of an element's block. -/
def Dev.elemInstr (d : Dev) (cfg tile blk slot : Nat) : Option Instr :=
  (((d.inst cfg).bind fun x => x.ct tile).bind fun c => c.blks[blk]?).bind fun b => (b.slots[slot]?).map (·.ins)

/-- What a pick lets happen (DESIGN CHOICE, log entry 6). -/
def Dev.todo (d : Dev) (p : Pick) : Todo :=
  match p with
  | .ctl id => d.coreTodo id
  | .elem cfg tile blk slot => match d.elemInstr cfg tile blk slot with
    | some i => .row i (.elem cfg tile blk slot)
    | none => .env p
  | .ev i => if withinStep i then .bad else .row i .none
  | .elapse _ | .copy _ _ _ | .lineCond _ _ | .badGranule _ _ _ _ | .dropCopy _ | .mgmtOther _ _ => .env p

/-- Slots that have been found waiting are tried again once every ready slot has been (DEDUCED, log entry 14). -/
def Frame.retry (f : Frame) : Frame := if f.ready.all f.waits.contains then { f with waits := [] } else f

/-- The state in which a row executes: the focus names its place. -/
def Dev.focused (d : Dev) (f : Focus) : Dev :=
  match f with
  | .fire id _ => { d.updFrame id Frame.retry with focus := f }
  | .none | .commit _ _ | .elem _ _ _ _ | .engine _ => { d with focus := f }

/-! ### A word as the next instruction -/

/-- A block that holds one instruction with a token in each of its slots (DESIGN CHOICE, log entry 13). -/
def loneBlock (mode : BlkMode) (i : Instr) (w : Nat) : Blk :=
  { hdr := {
      nins := 1, mode := mode, stmask := 0, portmask := 0, pgrp := 0, lcen := 0, marker := 0, markf := false
      roundb := false, ppol := .plain, heavy := 0 }
    slots := [{ ins := i, word := BitVec.ofNat 64 w, l := [{}], r := [{}], t := [{}] }], started := 1 }

/-- An instance of one page whose first tile holds a block, with a token at every input port
(DESIGN CHOICE, log entry 13). -/
def loneInst (b : Blk) : Inst :=
  { ctx := 0, part := 0, row0 := 0, col0 := 0, w := 1, h := 1
    fab := { tiles := [(0, ({
      kind := .ct { blks := [b] }
      inp := (List.range 16).map fun k => (k, ({ feeder := .route, q := [{}] } : InPort))
      out := (List.range 16).map fun k => (k, ({ sink := .unused } : OutPort)) } : Tile))] } }

/-- A machine whose next step runs an instruction: a control instruction in the block that system core 0 has
entered, and an element instruction in a block of an instance (DESIGN CHOICE, log entry 13). -/
def Dev.withNext (d : Dev) (i : Instr) (w : Nat) : Dev :=
  let d := { d with pkg := if d.pkg.powered then d.pkg else .service }
  if i.legalIn .control then
    let fr : Frame := { addr := 0, blk := loneBlock .control i w }
    { d with agenda := .ctl (.sys 0) :: d.agenda }.updCore (.sys 0) fun c =>
      { c with thread := .live, frame := some fr }
  else
    { d with
      agenda := .elem 1 0 0 0 :: d.agenda, insts := insert 1 (loneInst (loneBlock .element i w)) d.insts }

end Sys2Proof.Machine
end

