-- ==== Sys2Proof/Machine/Rounds.lean ====
section
/-! DEFINITION. Records (R25, R31), rounds and their boundaries (R36 to R42, R69, R214, R250, R318), voided
rounds (R40, R174, R200, R304, R437), ownership tokens (R42), LENGTH mismatches (R116), and the end of a
configuration with its next image (R43, R230, R349). -/

namespace Sys2Proof.Machine

/-! ### Records -/

/-- Values of a chain of counters (R33). -/
def chainLength (cs : List LoopCtr) : Nat := (cs.map (·.count)).foldl (· * ·) 1

/-- A token of record `n` stands at an input port that a block reads and that no delay line feeds (R25). -/
def Tile.tokenFor (t : Tile) (b : Blk) (n : Nat) : Bool :=
  b.slots.any fun s => match s.ins with
    | .rdp o => match lookup o.imm.toNat t.inp with
      | some p => p.feeder != .delay && n - s.fired < p.q.length
      | none => false
    | _ => false

/-- RECORD_START: a block starts its next record (R25). -/
def bodyRecordStart (cfg tile blk : Nat) (_ : Mem) (d : Dev) : Dev :=
  match d.inst cfg with
  | none => d
  | some x => match x.tile tile with
    | none => d
    | some t => match t.kind with
      | .mt _ => d
      | .ct c => match c.blks[blk]? with
        | none => d
        | some b =>
          let n := b.started
          let counts := !b.lcs.isEmpty && t.selfStarts b.ports && n < chainLength b.lcs
            && x.admits (n - b.base)
          if x.fires && !x.stopped tile 0 && n - b.committed < 4 && (t.tokenFor b n || counts) then
            d.updInst cfg fun x =>
              x.setCt tile { c with blks := setAt c.blks blk { b with started := n + 1 } }
          else d

/-- What R31 counts for record `n` of a block has been counted. -/
def Blk.complete (b : Blk) (t : Tile) (blk n : Nat) : Bool :=
  let sel := lookup n b.chosen
  b.slots.all (fun s => match s.ins.lsid with
    | some k => !(s.ins.isStore && b.hdr.stmask.getLsbD k) || n < s.fired
    | none => true)
  && (b.hdr.pgrp == 0 || sel.isSome)
  && t.out.all fun p =>
      let g := b.hdr.group p.1
      !b.hdr.portmask.getLsbD p.1 || !(g == 0 || sel == some g)
        || n < (lookup blk p.2.writes).getD 0

/-- RECORD_COMMIT (R31). -/
def bodyRecordCommit (cfg tile blk : Nat) (_ : Mem) (d : Dev) : Dev :=
  match d.inst cfg with
  | none => d
  | some x => match x.tile tile with
    | none => d
    | some t => match t.kind with
      | .mt _ => d
      | .ct c => match c.blks[blk]? with
        | none => d
        | some b =>
          if x.fires && b.committed < b.started && b.complete t blk b.committed then
            d.updInst cfg fun x =>
              x.setCt tile { c with blks := setAt c.blks blk { b with committed := b.committed + 1 } }
          else d

/-! ### LENGTH mismatches (R116) -/

/-- LENGTH_MISMATCH: the discards of a mismatch are complete, and the report goes to the lead CC; bit 1 of
TRAP_REPEN lets it (R116, R306, R316). -/
def bodyLengthMismatch (cfg tile blk slot : Nat) (_ : Mem) (d : Dev) : Dev :=
  match d.inst cfg with
  | none => d
  | some x => match x.ct tile with
    | none => d
    | some c => match (c.blks[blk]?).bind (·.slots[slot]?) with
      | none => d
      | some s => match s.disc with
        | none => d
        | some q =>
          if q.l || q.r || q.t || q.nulls < max q.nl (max q.nr q.nt) then d
          else
            let d := d.updInst cfg fun x => x.setCt tile { c with
              blks := c.blks.modify blk fun b => b.updSlot slot fun s => { s with disc := none } }
            if (d.ctx x.ctx).repen.getLsbD 1 then
              d.post x.lead { d.instRec cfg x with
                cause := cLENGTH, round := q.round, record := q.record, tcol := tileCol tile
                trow := tileRow tile, blk := blk, slot := slot
                info := q.nl % 65536 + q.nr % 65536 * 2 ^ 16 + q.nt % 65536 * 2 ^ 32
                  + q.npois % 65536 * 2 ^ 48 }
            else d

/-! ### Boundaries (R38) -/

/-- A source has admitted its round's records, or is exhausted (R36). -/
def Inst.sourcesDone (x : Inst) : Bool :=
  x.fab.vps.all (fun v => v.2.dirOut || x.roundE ≤ v.2.adm || v.2.exhausted)
  && x.fab.tiles.all fun t => match t.2.kind with
    | .mt _ => true
    | .ct c => c.blks.all fun b =>
        b.lcs.isEmpty || !t.2.selfStarts b.ports || x.roundE ≤ b.started - b.base
          || chainLength b.lcs ≤ b.started

/-- Every source is exhausted (R36). -/
def Inst.sourcesExhausted (x : Inst) : Bool :=
  x.fab.vps.all (fun v => v.2.dirOut || v.2.exhausted)
  && x.fab.tiles.all fun t => match t.2.kind with
    | .mt _ => true
    | .ct c => c.blks.all fun b =>
        b.lcs.isEmpty || !t.2.selfStarts b.ports || chainLength b.lcs ≤ b.started

/-- A tile holds no token but those of its delay lines, and has committed every record it started (R38). -/
def Tile.drained (t : Tile) : Bool :=
  t.out.all (fun p => p.2.q.isEmpty)
  && t.inp.all (fun p => p.2.q.isEmpty || p.2.feeder == .delay)
  && match t.kind with
    | .mt _ => true
    | .ct c => c.blks.all fun b => b.started == b.committed
        && b.slots.all fun s => s.l.isEmpty && s.r.isEmpty && s.t.isEmpty && s.disc.isNone

/-- A slot that waits for no token: it fires for every record its block starts. -/
def Slot.selfFed (s : Slot) : Bool :=
  let sl := (s.ins.row .element).slots
  !(sl.l || sl.r || sl.t) && s.ins.head.pm == .none && match s.ins with
    | .rdp _ => false
    | _ => true

/-- No slot still owes a firing that waits for no token, so nothing is in a pipeline (R38, R43). -/
def Tile.fired (t : Tile) : Bool :=
  match t.kind with
  | .mt _ => true
  | .ct c => c.blks.all fun b => b.slots.all fun s => !s.selfFed || b.started ≤ s.fired

/-- The configuration is quiescent at the end of its round (R38, steps 1 and 2). -/
def Inst.quiescent (x : Inst) : Bool :=
  x.sourcesDone && x.fab.tiles.all fun t => t.2.drained && t.2.fired

/-- A list in an order that free draws choose (R226) (DESIGN CHOICE, log entry 7). -/
def Dev.shuffle {α : Type} : Nat → List α → Dev → Dev × List α
  | 0, xs, d => (d, xs)
  | n + 1, xs, d =>
    if xs.length ≤ 1 then (d, xs)
    else
      let (bits, d) := d.fresh
      let k := bits.toNat % xs.length
      match xs[k]? with
      | none => (d, xs)
      | some x => let (d, r) := Dev.shuffle n (xs.eraseIdx k) d; (d, x :: r)

/-- The virtual port of a staged effect. -/
def Staged.vp : Staged → Nat
  | .store v _ _ _ => v
  | .update v _ _ _ _ _ _ => v

/-- Whom a staged effect is accessed for. -/
def Staged.who : Staged → BindFor
  | .store _ w _ _ => w
  | .update _ w _ _ _ _ _ => w

/-- The staged effects of a round in the order in which they perform: stores by virtual port, then updates by
virtual port, those of an UNORDERED stream in any order (R226, R250). -/
def Dev.stagedOrder (d : Dev) (x : Inst) : Dev × List Staged :=
  let of := fun (n : Nat) => x.staged.filter (·.vp == n)
  let stores := x.fab.vps.flatMap fun v => (of v.1).filter fun s => match s with
    | .store _ _ _ _ => true
    | .update _ _ _ _ _ _ _ => false
  let ups := x.fab.vps.map fun v => (of v.1).filter fun s => match s with
    | .store _ _ _ _ => false
    | .update _ _ _ _ _ _ _ => true
  let (d, ups) := ups.foldl (fun (acc : Dev × List Staged) us =>
    match us.head? with
    | some (.update _ _ _ _ _ _ false) =>
      let (d, us) := Dev.shuffle us.length us acc.1
      (d, acc.2 ++ us)
    | some (.update _ _ _ _ _ _ true) | some (.store _ _ _ _) | none => (acc.1, acc.2 ++ us)) (d, [])
  (d, stores ++ ups)

/-- One staged effect performed at its home, or its fault: virtual port, cause, address and INFO. -/
def Dev.performStaged (m : Mem) (d : Dev) (cfg : Nat) (x : Inst) (s : Staged) :
    Dev × Option (Nat × Nat × Nat × Nat) :=
  match x.vp s.vp with
  | none => (d, none)
  | some v =>
    match s with
      | .store n w va bs =>
        let (d, f) := d.storeSpan m (d.vpAccFor cfg x v w .wr) va bs
        (d, f.map fun (a, f) => (n, f.cause, a, f.info 4))
      | .update n w va op ty operand _ =>
        let (d, r) := d.update m (d.vpAccFor cfg x v w .upd) va 4 (fun old => updateOp op ty old operand)
          (some (op, ty, operand))
        (d, match r with
          | .error f => some (n, f.cause, va, f.info 4)
          | .ok _ => none)

/-- Staged effects performed in order, up to the first fault. -/
def Dev.performAll (m : Mem) (cfg : Nat) (x : Inst) : List Staged → Dev → Dev × Option (Nat × Nat × Nat × Nat)
  | [], d => (d, none)
  | s :: rest, d =>
    let (d, f) := d.performStaged m cfg x s
    match f with
    | some f => (d, some f)
    | none => Dev.performAll m cfg x rest d

/-- Order of poison-log entries at a boundary: record, SINKLOC, SKIND (R69). -/
def logBefore (a b : LogEntry) : Bool :=
  a.record < b.record || (a.record == b.record
    && (a.loc < b.loc || (a.loc == b.loc && a.skind ≤ b.skind)))

/-- An entry put in its place. -/
def logInsert (e : LogEntry) : List LogEntry → List LogEntry
  | [] => [e]
  | x :: xs => if logBefore x e then x :: logInsert e xs else e :: x :: xs

/-- Entries in the order of R69. -/
def logSort (es : List LogEntry) : List LogEntry := es.foldl (fun acc e => logInsert e acc) []

/-- A virtual port at a round's commit: what was staged is done, and its binding ends when all its elements
have passed (R214). -/
def Vp.committed (v : Vp) : Vp :=
  match v.bind with
  | none => v
  | some b =>
    let b := { b with done := b.passed }
    if b.passed ≥ patTotal b.pat then
      { v with bind := none, ended := true, spent := !v.dirOut, elems := b.passed }
    else { v with bind := some b }

/-- Started commands of a virtual port's CC that no binding of the port serves any more, ended (R213). -/
def Dev.endBoundCmds (d : Dev) (cfg : Nat) (x : Inst) : Dev :=
  { d with cores := d.cores.map fun e => (e.1, { e.2 with
      board := e.2.board.filter fun c => match c.vp with
        | some (k, n) => k != cfg || !c.started || match (x.vp n).bind (·.bind) with
          | some b => b.id == c.id
          | none => false
        | none => true }) }

/-- Step 4 of R38 for a tile: records of what a rewind would undo start anew. -/
def Tile.atBoundary (t : Tile) : Tile :=
  match t.kind with
  | .mt m => { t with kind := .mt { m with
      undo := []
      banks := m.banks.map fun b => { b with caps := b.caps.filter (!·.released) } } }
  | .ct c => { t with kind := .ct { c with
      skips := []
      blks := c.blks.map fun b => { b with chosen := [], base := b.started } } }

/-- Markers of a round: of each block with MARKF, and of MARK (R38, R80, R129). -/
def Inst.roundMarks (x : Inst) : List Nat :=
  let flagged := x.fab.tiles.flatMap fun t => match t.2.kind with
    | .mt _ => []
    | .ct c => (c.blks.filter (·.hdr.markf)).map (·.hdr.marker)
  (List.range 4096).filter fun k => flagged.contains k || x.marks.contains k

/-- Banks whose BTOK stands for a round, passed: the producer has no access any more, and the bank's state
goes to the consumer that imports it (R42, R231). -/
def Dev.passBanks (d : Dev) (cfg : Nat) (bs : List (Nat × Nat)) : Dev :=
  bs.foldl (fun d e =>
    let d := match d.consumerOf cfg e.1 e.2 with
      | some (k, i) => d.moveBank cfg i k
      | none => d
    d.updInst cfg fun x => match x.bank e.1 e.2 with
      | some b => x.setBank e.1 e.2 { b with passed := true }
      | none => x) d

/-- The round stop of a context stands for a round (R318). -/
def Dev.stopsRound (d : Dev) (ctx round : Nat) : Bool :=
  (d.ctx ctx).dbgCtl.getLsbD 1 && (d.ctx ctx).dbgRstop.toNat == round

/-- A class 1 record that holds a configuration until it is released (R302, R310). -/
def Dev.holdInst (d : Dev) (cfg : Nat) (x : Inst) (r : TrapRec) : Dev :=
  let seqNo := d.seqNo
  (d.updInst cfg fun x => { x with heldBy := some seqNo }).post x.lead { r with holds := true }

/-- Steps 3 to 5 of R38, and a round stop, once the staged effects have performed (DEDUCED, log entry 42). -/
def Dev.passBoundary (m : Mem) (d : Dev) (cfg : Nat) (x : Inst) : Dev :=
  let round := x.fab.round
  let d := d.plogCommit m x.part x.ctx x.lead { d.instRec cfg x with cause := cPOISONREPORT } (logSort x.logs)
  let last := x.last || x.sourcesExhausted
  let vps := x.fab.vps.map fun v => (v.1, { v.2.committed with adm := 0 })
  let fab := { x.fab with
    vps := vps, tiles := x.fab.tiles.map fun t => (t.1, t.2.atBoundary), round := (round + 1) % 2 ^ 64 }
  let (d, fab) := if last then (d, fab) else d.roundReset fab false false
  let marks := x.roundMarks
  let y := { x with
    fab := fab, staged := [], logs := [], marks := [], btoks := [], last := last, paused := true
    roundE := x.roundN
    phase := .boundary
    reconf := if last then some [] else x.reconf }
  let d := ((d.setInst cfg y).endBoundCmds cfg y).passBanks cfg x.btoks
  let d := d.updInst cfg fun x => { x with rew := x.fab }
  let d := if marks.isEmpty then d
    else { d with reports := d.reports ++ [
      ({ ctx := x.ctx, part := x.part, cfg := some (cfg, round), core := coreOfKey x.lead, markers := marks } :
        Report)] }
  if d.stopsRound x.ctx round then
    d.holdInst cfg y { d.instRec cfg y with
      cause := cBREAK, cls := 1, round := round, info := 2 ^ 21 }
  else d

/-- A peer has not acknowledged a staged effect of an instance's step 3 (R244). -/
def Dev.step3Awaits (d : Dev) (cfg : Nat) : Bool :=
  d.peerq.any fun w => 200 ≤ w.unit && w.unit < 300 && w.job == cfg

/-- ROUND_BOUNDARY: a quiescent round commits: its staged effects perform, its log is written, its bindings
and the rewind point move on, and its markers go to the TE (R38). Step 3 completes when every peer has acknowledged
(R244). A fault of a staged element, translated again, voids the round instead (R371) (DEDUCED, log entry 15). -/
def bodyRoundBoundary (cfg : Nat) (m : Mem) (d : Dev) : Dev :=
  match d.inst cfg with
  | none => d
  | some x =>
    if x.phase == .running && x.step3 then
      if d.step3Awaits cfg then d else d.passBoundary m cfg { x with step3 := false }
    else if x.phase != .running || x.paused || x.snap.isSome || !x.faults.isEmpty || !x.quiescent then d
    else
      let (d1, ss) := d.stagedOrder x
      let (d2, f) := Dev.performAll m cfg x ss d1
      match f with
      | none =>
        if d2.step3Awaits cfg then
          d2.updInst cfg fun x => { x with step3 := true, paused := true, staged := [] }
        else d2.passBoundary m cfg x
      | some (n, cause, va, info) => match x.vp n with
        | some v => d.vpElemFault cfg x n v cause va info
        | none => d

/-- Refetches of an instance that hold its sources back (R437). -/
def Dev.refetching (d : Dev) (cfg : Nat) : Bool :=
  d.copies.any fun e => e.2.refetch && !e.2.again && e.2.dst.inst == some cfg

/-- Granules that missed at a boundary all count as resident (R258, R261, R266). -/
def Dev.missesMet (m : Mem) (d : Dev) (x : Inst) : Dev × Bool :=
  x.stallMiss.foldl (fun (acc : Dev × Bool) k =>
    let (d, ok) := acc.1.resident m x.part (granCtx k) (granVa k)
    (d, acc.2 && ok)) (d, true)

/-- The timetable may still stall the boundary: a report of it has not reached the TE (R264, R266). -/
def Dev.reportAwaited (d : Dev) (cfg : Nat) (x : Inst) : Bool :=
  (match (d.ctx x.ctx).tt with
    | some t => t.stall
    | none => false) && d.reports.any fun r => r.cfg.map (·.1) == some cfg

/-- ROUND_RESUME: step 7 of R38, when nothing holds it; after the last round the reconfiguration token follows (R36,
R43). -/
def bodyRoundResume (cfg : Nat) (m : Mem) (d : Dev) : Dev :=
  match d.inst cfg with
  | none => d
  | some x =>
    let (d1, free) := match x.phase with
      | .boundary => (d, true)
      | .stalled => if x.stallRes then d.missesMet m x else (d, false)
      | .running | .held | .snapshotted | .restoring | .ending => (d, false)
    if free && x.heldBy.isNone && x.pend.isNone && x.snap.isNone && d.activePlane x.lead == x.plane
      && !d.refetching cfg && !d.reportAwaited cfg x then
      (d1.updInst cfg fun x => { x with
        phase := if x.reconf.isSome then .ending else .running, paused := x.reconf.isSome, stallRes := false
        stallMiss := [] }).progress (.config cfg)
    else d

/-! ### Voided rounds (R40) -/

/-- One element effect of a voided round undone (R200). -/
def Mt.undoOne (m : Mt) (u : Undo) : Mt :=
  match u with
  | .stv k w v =>
    let drop := fun (b : Bank) =>
      b.setVword w { b.vword w with live := (b.vword w).live.filter (·.1 != v) }
    { m with banks := m.banks.modify k drop }
  | .vrecl k w floor gone =>
    { m with banks := m.banks.modify k fun b => b.setVword w ((b.vword w).undoVrecl floor gone) }
  | .bara k inc => { m with bc := m.bc.modify k fun v => v - inc }

/-- A bank that holds fills made by copies, or is sealed, after a rewind: the fills that it held at the rewind
point and those completed since; with those to refetch into their buffers, and those to make again because
their buffer is taken (R437). `busy` are buffers that copies are writing. -/
def Bank.refilled (cur old : Bank) (busy : List Nat) : Bank × List CapFill × List CapFill :=
  let held := old.caps.filter (!·.released)
  let new := cur.caps.filter fun c => old.caps.all (·.index < c.index)
  let (b, placed, again) := new.foldl (fun (acc : Bank × List (CapFill × Nat) × List CapFill) c =>
    let (b, placed, again) := acc
    if !again.isEmpty || b.fillFull then (b, placed, again ++ [c])
    else (b.endFill, placed ++ [({ c with buf := b.fillPtr, released := false }, c.buf)], again))
    ({ old with
      bytes := cur.bytes, sflags := cur.sflags, bad := cur.bad, sealed := cur.sealed
      writes := cur.writes, layers := cur.layers }, [], [])
  let overran := fun (c : CapFill) (buf : Nat) =>
    busy.contains buf || new.any fun e => e.index > c.index && e.buf == buf
  let lost := (held.filter fun c => cur.sealed || overran c c.buf)
    ++ (placed.filter fun e => cur.sealed || e.1.buf != e.2 || overran e.1 e.2).map (·.1)
  ({ b with caps := held ++ placed.map (·.1) }, lost, again)

/-- A bank after a rewind (R39, R40, R174, R437). -/
def Bank.rewound (cur old : Bank) (busy : List Nat) : Bank × List CapFill × List CapFill :=
  if cur.mode == .version then (cur, [], [])
  else if cur.sealed || !cur.caps.isEmpty || !old.caps.isEmpty then cur.refilled old busy
  else match cur.cls with
    | .round => (cur, [], [])
    | .persist | .input => ({ old with owned := cur.owned, passed := cur.passed }, [], [])

/-- Buffers of a bank that copies are writing. -/
def Dev.busyBufs (d : Dev) (cfg tile bank : Nat) : List Nat :=
  d.copies.filterMap fun e => if e.2.dst == .bank cfg tile bank then e.2.buf else none

/-- A tile after a rewind, with the fills of its banks to refetch and to make again: tile, bank, fill. -/
def Dev.rewoundTile (d : Dev) (cfg tile : Nat) (cur old : Tile) :
    Tile × List (Nat × CapFill) × List (Nat × CapFill) :=
  match cur.kind, old.kind with
  | .mt m, .mt o =>
    let m := m.undo.reverse.foldl Mt.undoOne m
    let rs := m.banks.mapIdx fun i b => b.rewound (o.banks.getD i {}) (d.busyBufs cfg tile i)
    ({ old with kind := .mt { m with banks := rs.map (·.1), undo := [] } },
      (rs.mapIdx fun i r => r.2.1.map fun c => (i, c)).flatten,
      (rs.mapIdx fun i r => r.2.2.map fun c => (i, c)).flatten)
  | .ct c, .ct o =>
    ({ old with kind := .ct { o with me := { o.me with
        acc := o.me.acc.mapIdx fun i a => if a.persist then a else c.me.acc.getD i a } } }, [], [])
  | _, _ => (old, [], [])

/-- A virtual port after a rewind: its binding returns to its recorded position, or to its start when it began
in the round; an input that SKILL ended closes its consumers again (R40, R214, R216, R218)
(DEDUCED, log entry 34). -/
def Vp.rewound (cur old : Vp) : Vp :=
  let back := fun (o : VpBind) => if cur.dirOut then o else o.refetched
  match cur.bind with
  | none => { cur with adm := 0 }
  | some b =>
    let o := match old.bind with
      | some o => if o.id == b.id then o
          else { kind := b.kind, pat := b.pat, ctx := b.ctx, part := b.part, id := b.id, idxVp := b.idxVp
                 op := b.op, ty := b.ty }
      | none => { kind := b.kind, pat := b.pat, ctx := b.ctx, part := b.part, id := b.id, idxVp := b.idxVp
                  op := b.op, ty := b.ty }
    { cur with bind := some (back o), adm := 0, overran := false, elems := o.passed }

/-- Copies in progress whose buffer a rewind has given to a fill that the bank holds again, or that is not the next
one to fill any more, begin again (R437). -/
def Dev.restartFills (d : Dev) (cfg tile bank : Nat) (b : Bank) : Dev :=
  let taken := fun (c : Copy) => match c.buf with
    | some k => k != b.fillPtr || b.fillFull
    | none => false
  { d with copies := d.copies.map fun e =>
      if e.2.dst == .bank cfg tile bank && (!e.2.refetch || e.2.again) && taken e.2 then
        (e.1, { e.2 with buf := none, got := [], moved := [] })
      else e }

/-- The banks of an instance, by tile and number. -/
def Inst.allBanks (x : Inst) : List (Nat × Nat × Bank) :=
  x.fab.tiles.flatMap fun t => match t.2.kind with
    | .ct _ => []
    | .mt m => m.banks.mapIdx fun i b => (t.1, i, b)

/-- An instance at its rewind point (R40) (DEDUCED, log entry 34). -/
def Dev.rewind (d : Dev) (cfg : Nat) (x : Inst) : Dev :=
  let rs := x.rew.tiles.map fun t =>
    (t.1, d.rewoundTile cfg t.1 ((lookup t.1 x.fab.tiles).getD t.2) t.2)
  let tiles := rs.map fun r => (r.1, r.2.1)
  let vps := x.fab.vps.map fun v => (v.1, v.2.rewound ((lookup v.1 x.rew.vps).getD v.2))
  let (d, fab) := d.roundReset { x.rew with tiles := tiles, vps := vps } true true
  let killed := x.fab.vps.filter fun v => !v.2.dirOut && v.2.bind.isNone && v.2.killed
    && ((lookup v.1 x.rew.vps).bind (·.bind)).isSome
  let y := { x with
    fab := fab, staged := [], logs := [], marks := [], btoks := [], faults := [], paused := true
    roundE := x.roundN, snap := x.snap.map fun _ => [] }
  let y := killed.foldl (fun y v => y.enter v.2.tile v.2.port { n := true, l := true } false) y
  let d := y.allBanks.foldl (fun d e => d.restartFills cfg e.1 e.2.1 e.2.2) d
  let cs := rs.flatMap fun r =>
    (r.2.2.1.map fun e => e.2.copy y (.bank cfg r.1 e.1) false) ++
      r.2.2.2.map fun e => e.2.copy y (.bank cfg r.1 e.1) true
  (d.setInst cfg y).addCopies cs

/-- The order in which a voided round names its fault: priority, tile, block, slot, record (R304). -/
def faultBefore (a b : TrapRec) : Bool :=
  let key := fun (r : TrapRec) => [causePriority r.cause, r.trow, r.tcol, r.blk, r.slot, r.record]
  decide (key a < key b)

/-- The fault a voided round names (DEDUCED, log entry 34). -/
def firstFaultOf (rs : List TrapRec) : Option TrapRec :=
  rs.foldl (fun acc r => match acc with
    | none => some r
    | some a => if faultBefore r a then some r else some a) none

/-- ROUND_VOID: the faults of a round's elements void it; the configuration stands at its rewind point, held by
the record of the first of them (R40, R302, R304) (DEDUCED, log entry 34). -/
def bodyRoundVoid (cfg : Nat) (_ : Mem) (d : Dev) : Dev :=
  match d.inst cfg with
  | none => d
  | some x => match firstFaultOf x.faults with
    | none => d
    | some r =>
      if !x.fires then d
      else
        let n := x.faults.length - 1
        let d := d.rewind cfg x
        let d := d.updInst cfg fun x => { x with phase := .held }
        d.holdInst cfg x { r with
          cls := 1, tid := d.tidOf x.part x.ctx, more := n != 0, count := n }

/-! ### Ownership tokens -/

/-- BANK_OWNERSHIP_TOKEN_ARRIVAL: the consumer's address generators may read the bank (R42). -/
def bodyBankOwnershipTokenArrival (cfg mt bank : Nat) (_ : Mem) (d : Dev) : Dev :=
  match d.inst cfg with
  | none => d
  | some x =>
    if x.arriving.contains (mt, bank) then
      d.updInst cfg fun x =>
        let y := match x.bank mt bank with
          | some b => x.setBank mt bank { b with owned := true }
          | none => x
        { y with arriving := y.arriving.filter (· != (mt, bank)) }
    else d

/-! ### The reconfiguration token (R43, R230) -/

/-- A started copy or collective of an instance's threads has not ended. -/
def Dev.enginesBusy (d : Dev) (cfg : Nat) (x : Inst) : Bool :=
  d.copiesInto cfg
  || (x.threads.any fun p => (d.ccOf p x.plane).board.any fun c => c.started && match c.kind with
    | .copy _ | .coll _ _ => true
    | .bind _ | .sbar => false)
  || (d.ctx x.ctx).groups.any fun g => g.2.calls.any fun c => c.elem.map (·.1) == some cfg

/-- The edges of a new image on the tiles of the old one: an edge that stood before takes its new depth once it
is empty (R43, R349). -/
def Tile.reedged (new old : Tile) : Tile :=
  { new with inp := new.inp.map fun p => match lookup p.1 old.inp with
      | some q => if p.2.feeder == .route && q.feeder == .route && q.depth != p.2.depth then
          (p.1, { p.2 with depth := q.depth, newDepth := some p.2.depth })
        else p
      | none => p }

/-- The next image of a graph on the pages of the one that retires, or why it is not installed
(DEDUCED, log entry 33). -/
def Dev.nextPlan (m : Mem) (d : Dev) (x : Inst) : Dev × Except TrapRec Plan :=
  let (d, r) := d.checkedPlan m x.part x.ctx x.nextImage (d.planeOwns x.row0 x.col0 x.plane)
  (d, match r with
    | .error e => .error (if e.cause == cCFGINVALID then { e with info := e.info / 16 * 16 + 10 } else e)
    | .ok p =>
      if p.img.w != x.w || p.img.h != x.h then .error (checkFail 10)
      else if p.img.heavy > x.heavy + d.heavyFree x.part then
        .error { cause := cHEAVY, cls := 2, info := p.img.heavy }
      else .ok p)

/-- The retirement of a configuration: its bindings end, and its graph's next image goes on in its place
(R43, R215, R230, R231). -/
def Dev.retire (m : Mem) (d : Dev) (cfg : Nat) (x : Inst) : Dev :=
  let d := (d.passBanks cfg x.btoks).dropCalls cfg
  let gone := fun (d : Dev) => (d.updInst cfg fun x => { x with
    retired := true, btoks := []
    fab := { x.fab with vps := x.fab.vps.map fun e => (e.1, e.2.endShort) } }).endVpCmds cfg
  if x.nextImage == 0 || x.failed.isSome then gone d
  else
    let (d, r) := d.nextPlan m x
    match r with
    | .error e => (gone d).post x.page { d.instRec cfg x with
        cause := e.cause, cls := 2, addr := e.addr, info := e.info, tcol := e.tcol, trow := e.trow
        blk := e.blk, slot := e.slot, hdr := e.hdr, stage2 := e.stage2 }
    | .ok p =>
      let mpts := x.fab.vps.map fun v => (v.1, v.2.mpt, winUnits v.2.winmax)
      let fab := p.build [] mpts
      let fab := { fab with tiles := fab.tiles.map fun t => (t.1, match lookup t.1 x.fab.tiles with
        | some o => t.2.reedged o
        | none => t.2) }
      let y := { x with
        idhash := p.img.idhash, image := x.nextImage, heavy := p.img.heavy, granted := p.img.heavy
        roundN := p.img.roundN, roundE := p.img.roundN, phase := .running, paused := false, last := false
        nextImage := 0, reconf := none, fab := fab, rew := fab, staged := [], logs := [], marks := []
        faults := [], btoks := [], imports := [], arriving := [] }
      let live := fun (c : CtlEnt) => (d.ccOf (x.vpageAt c.vx c.vy) x.plane).threadLive
      let d := ((d.endVpCmds cfg).setInst cfg y).takeRanges m cfg
      let d := d.startPrograms cfg x.nextImage x.arg (p.img.ctls.filter fun c => !live c)
      d.updInst cfg fun y => { y with threads := (x.threads ++ y.threads).eraseDups }

/-- RECONFIG_TOKEN_PASS: the token passes a tile once its queues and the configuration's engines have drained;
with the last tile the configuration retires (R43). An aborted configuration's tokens are gone
(DEDUCED, log entry 33). -/
def bodyReconfigTokenPass (cfg tile : Nat) (m : Mem) (d : Dev) : Dev :=
  match d.inst cfg with
  | none => d
  | some x => match x.reconf, x.tile tile with
    | some ts, some t =>
      if x.phase != .ending || x.retired || ts.contains tile || x.heldBy.isSome then d
      else if x.failed.isNone && !(t.drained && t.fired && !d.enginesBusy cfg x) then d
      else
        let ts := ts ++ [tile]
        let y := { x with reconf := some ts }
        let d := d.setInst cfg y
        if x.fab.tiles.all fun t => ts.contains t.1 then d.retire m cfg y else d
    | _, _ => d

/-- One step of RECORD_START. -/
def execRecordStart (cfg tile blk : Nat) (s : State) : Host.Outcome State Fault Refusal :=
  act s (bodyRecordStart cfg tile blk)

/-- One step of RECORD_COMMIT. -/
def execRecordCommit (cfg tile blk : Nat) (s : State) : Host.Outcome State Fault Refusal :=
  act s (bodyRecordCommit cfg tile blk)

/-- One step of LENGTH_MISMATCH. -/
def execLengthMismatch (cfg tile blk slot : Nat) (s : State) : Host.Outcome State Fault Refusal :=
  act s (bodyLengthMismatch cfg tile blk slot)

/-- One step of ROUND_BOUNDARY. -/
def execRoundBoundary (cfg : Nat) (s : State) : Host.Outcome State Fault Refusal :=
  act s (bodyRoundBoundary cfg)

/-- One step of ROUND_RESUME. -/
def execRoundResume (cfg : Nat) (s : State) : Host.Outcome State Fault Refusal :=
  act s (bodyRoundResume cfg)

/-- One step of ROUND_VOID. -/
def execRoundVoid (cfg : Nat) (s : State) : Host.Outcome State Fault Refusal :=
  act s (bodyRoundVoid cfg)

/-- One step of BANK_OWNERSHIP_TOKEN_ARRIVAL. -/
def execBankOwnershipTokenArrival (cfg mt bank : Nat) (s : State) : Host.Outcome State Fault Refusal :=
  act s (bodyBankOwnershipTokenArrival cfg mt bank)

/-- One step of RECONFIG_TOKEN_PASS. -/
def execReconfigTokenPass (cfg tile : Nat) (s : State) : Host.Outcome State Fault Refusal :=
  act s (bodyReconfigTokenPass cfg tile)

end Sys2Proof.Machine
end

