-- ==== Sys2Proof/Machine/CollectiveEngine.lean ====
section
/-! DEFINITION. The collective engines joining the n-th calls of a group's ranks (R227 to R229, R350), with
ranks of other packages by messages of peer links (R221). -/

namespace Sys2Proof.Machine

/-- What a collective message of a peer carries: the context, the group and the call. The manual gives its
payload no layout (log entry 24). -/
opaque Config.peerCall : List Byte → Option (Nat × Nat × CollCall)

/-- What a null contribution counts as in an operation: 0, or the type's greatest or least value, or all ones
(R228) (DEDUCED, log entry 41). -/
def redIdentity (t : Ty) (op : Nat) : Nat :=
  let w := t.width
  let signed := t == .i32 || t == .i16 || t == .i8 || t == .i64
  let float := t.ffmt.isSome
  let inf := match t with
    | .fp32 => 0x7F800000
    | .bf16 => 0x7F80
    | .fp16 => 0x7C00
    | _ => 0
  match op with
  | 1 => if float then inf else if signed then 2 ^ (w - 1) - 1 else 2 ^ w - 1
  | 2 => if float then inf + 2 ^ (w - 1) else if signed then 2 ^ (w - 1) else 0
  | 4 => 2 ^ w - 1
  | _ => 0

/-- Values of the ranks combined in ascending rank order, each step by R165 (R228). -/
def combine (t : Ty) (op : Nat) : List Nat → Nat
  | [] => 0
  | x :: xs => xs.foldl (fun acc y => (redLanes t op .rne false 0 [acc, y]).code) x

/-- The calls of ranks agree (R227). -/
def callsAgree (cs : List CollCall) : Bool :=
  match cs with
  | [] => true
  | c :: rest => rest.all fun e => e.mnem == c.mnem && e.op == c.op && e.ty == c.ty && e.bytes == c.bytes

/-- The data a call contributes: a token's bytes, or those of its source; a null one the identity of its
operation in every element (R228). -/
def CollCall.contribution (c : CollCall) : List Byte :=
  if c.elem.isNone then c.data
  else if !c.tok.n then Word.toBytes 128 c.tok.data.toNat
  else if c.mnem == 0xB2 then List.replicate 128 0
  else
    let s := c.ty.laneWidth / 8
    (List.range (128 / s)).flatMap fun _ => Word.toBytes s (redIdentity c.ty c.op)

/-- The result of a call from the contributions of all ranks in rank order, which agree; none where the root
is no rank (R228) (DEDUCED, log entry 41). -/
def CollCall.result (c : CollCall) (cs : List CollCall) : Option (List Byte) :=
  match c.mnem with
  | 0xB0 =>
    let s := c.ty.laneWidth / 8
    let at_ := fun (e : CollCall) (k : Nat) => Word.ofBytes ((e.contribution.drop (k * s)).take s)
    some ((List.range (c.bytes / s)).flatMap fun k =>
      Word.toBytes s (combine c.ty c.op (cs.map fun e => at_ e k)))
  | 0xB1 => (cs[c.root]?).map (·.contribution)
  | _ => some (cs.flatMap (·.contribution))

/-- Tokens of bytes, all with the same poison. -/
def poisonedToks (bs : List Byte) (org : Option (BitVec 24)) : List Tok :=
  (List.range (bs.length / 128)).map fun k =>
    { data := dataOf ((bs.drop (128 * k)).take 128), p := org.isSome, org := org.getD 0 }

/-- A result retained for the call of an element rank, for the current and the previous round (R229)
(DEDUCED, log entry 41). -/
def Dev.keepResult (d : Dev) (ctx grp : Nat) (c : CollCall) (e : Nat × Nat × Nat × Nat) (ts : List Tok) :
    Dev :=
  let (cfg, tile, blk, slot) := e
  let round := match d.inst cfg with
    | some x => x.fab.round
    | none => 0
  d.updGroup ctx grp fun g => { g with
    kept := (g.kept.filter fun k => !(k.cfg == cfg && k.tile == tile && k.round + 1 < round)) ++
      [{ cfg := cfg, tile := tile, place := 128 * blk + slot, record := c.record, round := round, toks := ts }] }

/-- The report of calls that do not agree, to the lead CC of a tile's configuration or to the issuing thread's
CC, when TRAP_REPEN lets it (R227, R309, R316) (DEDUCED, log entry 41). -/
def Dev.mismatch (d : Dev) (c : CollCall) : Dev :=
  if !(d.ctx c.ctx).repen.getLsbD 1 then d
  else match c.elem, c.ctl with
    | some (cfg, tile, blk, slot), _ => match d.inst cfg with
      | some x => d.post x.lead { d.instRec cfg x with
          cause := cLENGTH, record := c.record, tcol := tileCol tile, trow := tileRow tile, blk := blk
          slot := slot }
      | none => d
    | none, some (id, _, _, _) => d.postCore (d.cmdCore c.cmd id) { c.who with cause := cLENGTH, cls := 2, ctx := c.ctx }
    | none, none => d

/-- Elements of a destination pattern written with bytes, up to the first fault. -/
def Dev.writeElems (m : Mem) (a : Acc) (p : BitVec 512) :
    List Nat → List Byte → Dev → Dev × Option (Nat × XlFault)
  | [], _, d => (d, none)
  | n :: rest, bs, d => match patAddr p n with
    | none => (d, some (patVa p n, { cause := cTRANSLATION }))
    | some va =>
      let (d, f) := d.storeSpan m a va (bs.take (patBytes p))
      match f with
      | some e => (d, some e)
      | none => Dev.writeElems m a p rest (bs.drop (patBytes p)) d

/-- The result of a control rank written to its destination, then its completion word, with which the command ends; a
fault ends the command with a report (R222, R228, R303). Bytes of the destination beyond the result are free. -/
def Dev.finishControl (m : Mem) (d : Dev) (grp : Nat) (c : CollCall) (id : CoreId) (dst : BitVec 512)
    (a : Nat) (v : Word) (bs : List Byte) : Dev :=
  let n := patTotal dst * patBytes dst
  let (more, d) := d.freshBytes (n - bs.length)
  let acc := { d.coreAcc id .scopy .wr 5 with
    unit := 400, job := id.key * 2 ^ 32 + c.cmd, hyp := false, part := c.part, ctx := c.ctx
    who := { c.who with ctx := c.ctx }, core := some (d.cmdCore c.cmd id) }
  let (d, f) := Dev.writeElems m acc dst (List.range (patTotal dst)) (bs ++ more) d
  match f with
  | none => d.tryWord m
    { acc := acc, cfg := c.cfg, addr := a, v := v, cmd := some c.cmd }
  | some (va, f) =>
    let info := f.info 5
    (d.endCmd c.cmd).postAcc acc { acc.who with
      cause := f.cause, addr := va, info := info % 2 ^ 64, stage2 := info ≥ 2 ^ 64 }

/-- One rank of this package receives its result (R228). -/
def Dev.finishCall (m : Mem) (d : Dev) (ctx grp : Nat) (cs : List CollCall) (c : CollCall) : Dev :=
  let agree := callsAgree cs
  let org := cs.findSome? fun e => if e.tok.p && !e.tok.n then some e.tok.org else none
  let d := if agree then d else d.mismatch c
  let (free, d) := d.freshBytes 128
  match c.elem, c.ctl with
  | some e, _ =>
    let (_, tile, _, slot) := e
    let ts := if agree then poisonedToks ((c.result cs).getD free) org
      else List.replicate (if c.mnem == 0xB2 then cs.length else 1)
        { p := true, org := originWord false (tileCol tile) (tileRow tile) slot 5 }
    d.keepResult ctx grp c e ts
  | none, some (id, dst, a, v) =>
    if agree then d.finishControl m grp c id dst a v ((c.result cs).getD [])
    else d.endCmd c.cmd
  | none, none => d

/-- The oldest call of each rank of a group, when every rank has made one (R227). -/
def Group.nextCalls (g : Group) : Option (List CollCall) :=
  match g.ranks with
  | none => none
  | some (_, rs) =>
    let cs := (List.range rs.length).filterMap fun k => g.calls.find? (·.rank == k)
    if cs.length == rs.length && !rs.isEmpty then some cs else none

/-- Calls without the oldest of each rank. -/
def Group.joined (g : Group) (cs : List CollCall) : Group :=
  { g with calls := cs.foldl (fun calls c => match calls.findIdx? (·.rank == c.rank) with
      | some k => calls.eraseIdx k
      | none => calls) g.calls }

/-- COLLECTIVE_COMPLETE: the oldest calls of all ranks join, and each rank of this package receives its result;
the packages of the other ranks have received this one's calls (R227 to R229). -/
def bodyCollectiveComplete (ctx grp : Nat) (m : Mem) (d : Dev) : Dev :=
  match lookup grp (d.ctx ctx).groups with
  | none => d
  | some g => match g.nextCalls with
    | none => d
    | some cs =>
      let d := d.updGroup ctx grp fun g => g.joined cs
      cs.foldl (fun d c => d.finishCall m ctx grp cs c) d

/-- One step of COLLECTIVE_COMPLETE. -/
def execCollectiveComplete (ctx grp : Nat) (s : State) : Host.Outcome State Fault Refusal :=
  act s (bodyCollectiveComplete ctx grp)

end Sys2Proof.Machine
end

