-- ==== Sys2Proof/Machine/Links.lean ====
section
/-! DEFINITION. Links of the package: peer links (R221, R255, R365, R367), tier-2 links (R422, R423) and
Ethernet (R5, R256, R326, R420, R421). -/

namespace Sys2Proof.Machine

/-- What the payload of a peer's update holds: the operation of R202, the code of its type and its operand,
and the value a compare asks for. The manual gives the payload no layout (log entry 24). -/
opaque Config.peerUpdate : List Byte → Nat × Nat × Nat × Option Nat

/-- The input port of an instance that a circuit of a peer ends at, by instance, tile and port, and the token
that a payload holds; the manual gives neither (log entry 24). -/
opaque Config.circuitPort : Nat → Nat × Nat × Nat
opaque Config.circuitToken : List Byte → Option Tok

/-! ### Links -/

/-- A peer link. -/
def Dev.link (d : Dev) (k : Nat) : Link := (lookup k d.links).getD {}
/-- A tier-2 link. -/
def Dev.t2link (d : Dev) (k : Nat) : Link := (lookup k d.t2links).getD {}
/-- The state with a peer link changed. -/
def Dev.updLink (d : Dev) (k : Nat) (f : Link → Link) : Dev := { d with links := insert k (f (d.link k)) d.links }
/-- The state with a tier-2 link changed. -/
def Dev.updT2link (d : Dev) (k : Nat) (f : Link → Link) : Dev :=
  { d with t2links := insert k (f (d.t2link k)) d.t2links }

/-- A message sent. -/
def Dev.send (d : Dev) (kind link : Nat) (body : List Nat) : Dev :=
  { d with out := d.out ++ [({ kind := kind, link := link, body := body } : OutMsg)] }

/-- The messages of a link that are not acknowledged fail as it goes down: each may or may not have performed
(R422), by a free value (log entry 7). -/
def Dev.peerLost (d : Dev) (k : Nat) : Dev :=
  let d := d.peerSettle fun _ => false
  { d with peerq := d.peerq.filter fun w => Config.peerLink w.peer != k }

/-- Links 0 to 15 are the peer links, and links 16 to 31 the tier-2 links (DEDUCED, log entry 25). -/
def Dev.takeDown (d : Dev) (k : Nat) : Dev :=
  let up := if k < 16 then (d.link k).up else (d.t2link (k - 16)).up
  if !up || k ≥ 32 then d
  else
    let d := if k < 16 then (d.peerLost k).updLink k fun l => { l with up := false }
      else d.updT2link (k - 16) fun l => { l with up := false, waiting := [] }
    d.post 0 {
      cause := cUNCORRECTABLE, cls := 2, toH := true, noag := true, cfgid := 0xFFFF, tid := tidH
      info := 2 ^ 63 + k }

/-- LINK_DOWN: the link is taken down and reported to H; later accesses over it fail (R221, R422). -/
def bodyLinkDown (k : Nat) (_ : Mem) (d : Dev) : Dev := if d.pkg.powered then d.takeDown k else d

/-- FLIT_ACKNOWLEDGEMENT: an acknowledged flit is done; one that is not is resent, and after eight failed
resends the link is taken down (R221, R423) (DEDUCED, log entry 25). -/
def bodyFlitAcknowledgement (k : Nat) (ok : Bool) (_ : Mem) (d : Dev) : Dev :=
  if !d.pkg.powered then d
  else
    let upd := fun (f : Link → Link) => if k < 16 then d.updLink k f else d.updT2link (k - 16) f
    let l := if k < 16 then d.link k else d.t2link (k - 16)
    if k ≥ 32 || !l.up then d
    else if ok then upd fun l => { l with resends := 0 }
    else if l.resends ≥ 8 then d.takeDown k
    else upd fun l => { l with resends := l.resends + 1 }

/-! ### Messages of peers -/

/-- A message that a link brings in its circuit's order, and the state after it is taken in; none when it
cannot arrive (R221, R255). -/
def Dev.peerIn (d : Dev) (q : PeerMsg) (kinds : Nat → Bool) : Option Dev :=
  let l := d.link q.link
  let due := match lookup q.circ l.seqs with
    | some n => n == q.seqNo
    | none => true
  if !d.pkg.powered || !l.up || q.link ≥ 16 || !kinds q.kind || !due || q.npay > 32
    || q.payload.length > 64 * q.npay then none
  else some (d.updLink q.link fun l => { l with seqs := insert q.circ ((q.seqNo + 1) % 2 ^ 16) l.seqs })

/-- The answer to a peer's message, on its circuit (R221). -/
def Dev.peerAnswer (d : Dev) (q : PeerMsg) (kind : Nat) (bs : List Byte) : Dev :=
  (d.sendPeer q.link q.circ kind q.tid q.part q.addr bs).meterTid q.tid 4 bs.length

/-- PEER_READ_REQUEST: the 64-byte line of an address, after the tag check of its frame; a bad line is
recorded here (R221, R367, R389, R392) (DESIGN CHOICE, log entry 24). -/
def bodyPeerReadRequest (q : PeerMsg) (m : Mem) (d : Dev) : Dev :=
  match d.peerIn q (· == 0) with
  | none => d
  | some d =>
    let line := q.addr / 64 * 64
    let (bad, bs, _, d) := d.readLocal m q.tid true line 64
    (d.postNoAgent q.tid line bad).peerAnswer q 1 bs

/-- The message of ours that a peer's answer acknowledges: the oldest of its kind to that address, which has now
performed behind the earlier ones of its circuit (R244, R255) (DESIGN CHOICE, log entry 24). -/
def Dev.peerAcked (d : Dev) (q : PeerMsg) (upd : Bool) : Option Dev :=
  (d.peerq.findIdx? fun w => w.peer == q.srcpkg && w.addr == q.addr && w.upd.isSome == upd).map fun k =>
    let d := match d.peerq[k]? with
      | some w => d.peerAdvance fun i e => i ≤ k && e.sameCircuit w
      | none => d
    { d with peerq := d.peerq.eraseIdx k }

/-- PEER_READ_DATA: the answer to an update that has been sent, or the bytes that a peer's memory holds, for the
read that asks for them (R221, R365) (DESIGN CHOICE, log entry 24). -/
def bodyPeerReadData (q : PeerMsg) (_ : Mem) (d : Dev) : Dev :=
  match d.peerIn q (· == 1) with
  | none => d
  | some d => (d.peerAcked q true).getD (d.setRemote q.srcpkg q.addr q.payload)

/-- PEER_WRITE: the bytes are written after the tag check, and the write is acknowledged (R221, R367,
R389). -/
def bodyPeerWrite (q : PeerMsg) (_ : Mem) (d : Dev) : Dev :=
  match d.peerIn q (· == 2) with
  | none => d
  | some d =>
    let (bad, d) := d.writeLocal q.tid true q.addr q.payload
    ((d.meterTid q.tid 4 q.payload.length).postNoAgent q.tid (q.addr / 64 * 64) bad).peerAnswer q 3 []

/-- PEER_WRITE_ACK: the write it acknowledges has performed at every scope (R221, R244). -/
def bodyPeerWriteAck (q : PeerMsg) (_ : Mem) (d : Dev) : Dev :=
  match d.peerIn q (· == 3) with
  | none => d
  | some d => (d.peerAcked q false).getD d

/-- PEER_UPDATE: an update performs at the home update unit, and its old value goes back (R202, R221,
R365). -/
def bodyPeerUpdate (q : PeerMsg) (m : Mem) (d : Dev) : Dev :=
  match d.peerIn q (· == 4) with
  | none => d
  | some d =>
    let (op, code, operand, compare) := Config.peerUpdate q.payload
    let ty := Ty.ofCode code
    let n := ty.laneWidth / 8
    let a := q.addr / n * n
    let (bad, bs, _, d) := d.readLocal m q.tid true a n
    let old := Word.ofBytes bs
    let new := match compare with
      | some c => if old == c then operand else old
      | none => updateOp op ty old operand
    let (_, d) := d.writeLocal q.tid true a (Word.toBytes n new)
    ((d.meterTid q.tid 4 q.payload.length).postNoAgent q.tid (a / 64 * 64) bad).peerAnswer q 1 bs

/-- PEER_COLLECTIVE: the call of a rank of another package joins its group (R221, R227). -/
def bodyPeerCollective (q : PeerMsg) (_ : Mem) (d : Dev) : Dev :=
  match d.peerIn q (· == 5) with
  | none => d
  | some d =>
    let d := d.meterTid q.tid 4 q.payload.length
    match Config.peerCall q.payload with
    | none => d
    | some (ctx, grp, c) => d.updGroup ctx grp fun g => g.join c

/-- PEER_TOKEN_DATA: a token of a circuit enters the port that the circuit ends at, when that has room
(R220, R221). -/
def bodyPeerTokenData (q : PeerMsg) (_ : Mem) (d : Dev) : Dev :=
  match d.peerIn q (· == 6) with
  | none => d
  | some d1 =>
    let (cfg, tile, port) := Config.circuitPort q.circ
    match d1.inst cfg, Config.circuitToken q.payload with
    | none, _ | _, none => d1
    | some x, some t =>
      if (x.catches tile port t).isSome then d1.updInst cfg fun x => (x.catches tile port t).getD x
      else if t.c then d1.controlToken cfg tile port x t
      else if x.edgeTakes tile port then d1.updInst cfg fun x => x.enter tile port t false
      else if ((x.tile tile).bind fun t => lookup port t.inp).isSome then d
      else d1

/-- PEER_CREDIT_RETURN: credits of a circuit return, as many as the message's address field says (R220,
R221) (DESIGN CHOICE, log entry 24). -/
def bodyPeerCreditReturn (q : PeerMsg) (_ : Mem) (d : Dev) : Dev :=
  match d.peerIn q (· == 7) with
  | none => d
  | some d => d.updLink q.link fun l =>
      { l with circCredits := insert q.circ ((lookup q.circ l.circCredits).getD 0 + q.addr) l.circCredits }

/-- PEER_RESERVED_FLIT: a message of a reserved kind is dropped and counted (R221). -/
def bodyPeerReservedFlit (q : PeerMsg) (_ : Mem) (d : Dev) : Dev :=
  match d.peerIn q (fun k => 8 ≤ k && k < 16) with
  | none => d
  | some d => d.updLink q.link fun l => { l with dropped := l.dropped + 1 }

/-! ### Tier-2 links (R423) -/

/-- A tier-2 link brings a message of some kind. -/
def Dev.t2In (d : Dev) (q : T2Msg) (kinds : Nat → Bool) : Bool :=
  d.pkg.powered && (d.t2link q.link).up && q.link < 16 && kinds q.kind

/-- Host physical address of a device address of a tier-2 link (R423). -/
def t2Host (link daddr : Nat) : Nat := 0x40000000000 + 4096 * (daddr / 256) + 256 * link + daddr % 256

/-- The condition of a line that returns other bytes than were written: one wrong symbol of a codeword is
corrected, and more are not (R392) (DEDUCED, log entry 25). -/
def lineSymbols (stored back : List Byte) : Option LineCond :=
  let wrong := fun (k : Nat) =>
    ((((stored.zip back).drop (32 * k)).take 32).filter fun p => p.1 != p.2).length
  if wrong 0 > 1 || wrong 1 > 1 then some { ecc := true }
  else if wrong 0 + wrong 1 > 0 then some { corr := true }
  else none

/-- T2_READ_DATA: the lines that a device returns meet their code; a line that differs from what was stored
has wrong symbols (R392, R423) (DEDUCED, log entry 25). -/
def bodyT2ReadData (q : T2Msg) (m : Mem) (d : Dev) : Dev :=
  if !d.t2In q (· == 1) then d
  else
    (List.range (min 4 (q.payload.length / 64))).foldl (fun (d : Dev) k =>
      let host := t2Host q.link (q.addr / 64 * 64 + 64 * k)
      match lineSymbols (rdBytes m d host 64) ((q.payload.drop (64 * k)).take 64) with
      | none => d
      | some c => if inTier2 host then { d with conds := insert (host / 64) c d.conds } else d) d

/-- T2_WRITE_ACK: the write it acknowledges has performed in the step that sent it, whose flit is done. -/
def bodyT2WriteAck (q : T2Msg) (_ : Mem) (d : Dev) : Dev :=
  if d.t2In q (· == 3) then d.updT2link q.link fun l => { l with resends := 0 } else d

/-- T2_CREDIT_RETURN: TAG request credits return, up to the 64 of the link, and requests that waited go out (R423). -/
def bodyT2CreditReturn (q : T2Msg) (_ : Mem) (d : Dev) : Dev :=
  if d.t2In q (· == 4) then
    let l := d.t2link q.link
    let r := { l with credits := min 64 (l.credits + q.tag) }.drain
    { d.updT2link q.link fun _ => r.1 with out := d.out ++ r.2 }
  else d

/-- T2_RESERVED_FLIT: a flit of a reserved kind is dropped and counted (R423). -/
def bodyT2ReservedFlit (q : T2Msg) (_ : Mem) (d : Dev) : Dev :=
  if d.t2In q (fun k => 5 ≤ k && k < 16) then d.updT2link q.link fun l => { l with dropped := l.dropped + 1 }
  else d

/-! ### Ethernet -/

/-- Kinds of RoCEv2 messages sent: an acknowledgement, a NAK with its code, READ data, and a congestion
notification. -/
def roceAck : Nat := 0x20
def roceNak : Nat := 0x21
def roceData : Nat := 0x22
def roceCnp : Nat := 0x23
/-- NAK codes: remote access, and remote invalid request. -/
def nakAccess : Nat := 1
def nakInvalid : Nat := 2

/-- The endpoint of a partition's queue pair: its flow, with its context, range and LKEY (R420, R421)
(DEDUCED, log entry 20). -/
def Dev.inbound (m : Mem) (part qp : Nat) : Nat → Nat → Dev → Dev × Option (EthFlow × Nat × Nat × Nat)
  | 0, _, d => (d, none)
  | n + 1, w, d =>
    let sup := d.supCtx part
    let (d, r) := (d.readGuest m unitDevice part sup (64 * w) 64).posted (d.deviceAcc part sup .rd 0) 0
    match r with
    | .error _ => Dev.inbound m part qp n (w + 1) d
    | .ok (e, _) =>
      let eth := (d.part part).eth.toNat
      if Word.bit e 0 && Word.bits e 31 16 == qp && qp < eth % 2 ^ 16 && Word.bit eth (28 + Word.bits e 1 1) then
        (d, some (d.flowOf part e, Word.bits e 367 352, Word.bits e 375 368, Word.bits e 127 96))
      else Dev.inbound m part qp n (w + 1) d

/-- The virtual address of an offset in range RANGE of a context, and the bytes of the range that lie from
there on (R356, R421). -/
def Dev.rangeOffset (m : Mem) (d : Dev) (part ctx range off : Nat) : Dev × Option (Nat × Nat × Nat) :=
  let (d, r) := ((d.rootOf unitDevice part ctx).andThen fun d rtab =>
    if rtab == 0 then Walk.fail d { cause := cTRANSLATION }
    else d.readRange m unitDevice part ctx rtab range).posted (d.deviceAcc part ctx .rd 0) 0
  match r with
  | .error _ => (d, none)
  | .ok (e, _) =>
    let vbase := Word.bits e 63 0
    let vsize := Word.bits e 127 64
    if range < 64 && Word.bit e 128 && rangeOk e && off ≤ vsize then (d, some (vbase + off, vsize - off, vsize))
    else (d, none)

/-- Whether every piece of a span may be accessed. -/
def Dev.spanOk (m : Mem) (a : Acc) : List (Nat × Nat) → Dev → Dev × Bool
  | [], d => (d, true)
  | (va, _) :: rest, d =>
    let (d, f) := d.probe m a va
    if f.isSome then (d, false) else Dev.spanOk m a rest d

/-- An inbound request of `n` bytes checked: its endpoint, its key when it carries one, its range and the
translation of every byte; the flow that its answer takes, and the virtual address and the accessor, with the
size of the range (R421) (DEDUCED, log entry 20). -/
def Dev.admitRdma (m : Mem) (d : Dev) (q : RdmaMsg) (keyed : Bool) (kind : AccKind) (off n : Nat) :
    Dev × Option EthFlow × Option (Nat × Acc × Nat) :=
  if (d.part q.part).state != .running then (d, none, none)
  else
    let (d, e) := Dev.inbound m q.part q.qp 256 0 d
    match e with
    | none => (d, none, none)
    | some (f, ctx, range, lkey) =>
      if (keyed && q.rkey != lkey) || !(d.part q.part).hasCtx ctx then (d, some f, none)
      else
        let (d, r) := d.rangeOffset m q.part ctx range off
        match r with
        | none => (d, some f, none)
        | some (va, left, size) =>
          let a := { d.deviceAcc q.part ctx kind (if kind == .wr then 1 else 0) with path := .rdma }
          let (d, ok) := if n ≤ left then Dev.spanOk m a (pieces va n) d else (d, false)
          (d, some f, if ok then some (va, a, size) else none)

/-- An answer to an inbound message: to its endpoint, or to no known one. -/
def Dev.answer (d : Dev) (q : RdmaMsg) (f : Option EthFlow) (kind : Nat) (body : List Nat) : Dev :=
  match f with
  | some f => d.roce kind f (q.part :: body)
  | none => d.send kind q.qp (q.part :: body)

/-- A request answered with a NAK. -/
def Dev.nak (d : Dev) (q : RdmaMsg) (f : Option EthFlow) (code : Nat) : Dev := d.answer q f roceNak [code]

/-- A message that arrives with a congestion mark is notified to the sender of its flow (R5). -/
def Dev.notify (m : Mem) (d : Dev) (q : RdmaMsg) : Dev :=
  if !q.ecn then d
  else
    let (d, e) := Dev.inbound m q.part q.qp 256 0 d
    match e with
    | some (f, _) => d.roce roceCnp f [q.part]
    | none => d

/-- RDMA_WRITE_INBOUND: the bytes are written through the endpoint's context, or nothing is and a
remote-access NAK answers (R256, R421). -/
def bodyRdmaWriteInbound (q : RdmaMsg) (m : Mem) (d : Dev) : Dev :=
  if !d.pkg.powered then d
  else
    let n := q.payload.length
    let (d, f, r) := ((d.meter q.part 5 n).notify m q).admitRdma m q true .wr q.addr n
    match r with
    | none => d.nak q f nakAccess
    | some (va, a, _) => (d.storeSpan m a va q.payload).1.answer q f roceAck [q.addr]

/-- RDMA_READ_INBOUND: the bytes read through the endpoint's context, or a remote-access NAK (R421). -/
def bodyRdmaReadInbound (q : RdmaMsg) (m : Mem) (d : Dev) : Dev :=
  if !d.pkg.powered then d
  else
    let (d, f, r) := (d.notify m q).admitRdma m q true .rd q.addr q.len
    match r with
    | none => d.nak q f nakAccess
    | some (va, a, _) =>
      let (d, x) := d.loadSpan m a va q.len
      match x with
      | .error _ => d.nak q f nakAccess
      | .ok (bs, _) =>
        (d.meter q.part 5 q.len).answer q f roceData (q.addr :: bs.map fun (b : Byte) => b.toNat)

/-- The bytes of an entry of a command area, then PRODUCED, written (R326, R421) (DEDUCED, log entry 20). -/
def Dev.putEntry (m : Mem) (d : Dev) (a : Acc) (base slots : Nat) (bs : List Byte) : Dev × Bool :=
  let (d, x) := d.load m { a with kind := .rd, code := 0 } base 8
  match x with
  | .error _ => (d, false)
  | .ok (pb, _) =>
    let n := Word.ofBytes pb
    let at_ := base + 64 + 256 * (n % slots)
    let (d, ok) := Dev.spanOk m a (pieces at_ bs.length) d
    if !ok then (d, false)
    else ((((d.storeSpan m a at_ bs).1).store m a base (Word.toBytes 8 (n + 1))).1, true)

/-- RDMA_SEND_INBOUND: up to 256 bytes become the next entry of the command area at the start of the
endpoint's range, and PRODUCED follows (R326, R421) (DEDUCED, log entry 20). -/
def bodyRdmaSendInbound (q : RdmaMsg) (m : Mem) (d : Dev) : Dev :=
  if !d.pkg.powered then d
  else
    let n := q.payload.length
    let (d, f, r) := ((d.meter q.part 5 n).notify m q).admitRdma m q false .wr 0 8
    if n > 256 then d.nak q f nakInvalid
    else
      match r with
      | none => d.nak q f nakAccess
      | some (va, a, size) =>
        let (d, ok) := if size < 320 then (d, false) else d.putEntry m a va ((size - 64) / 256) q.payload
        if ok then d.answer q f roceAck [0] else d.nak q f nakAccess

/-- ROCE_UNSUPPORTED_REQUEST: a remote-invalid-request NAK; memory is unchanged (R5). -/
def bodyRoceUnsupportedRequest (q : RdmaMsg) (m : Mem) (d : Dev) : Dev :=
  if !d.pkg.powered then d
  else
    let (d, e) := Dev.inbound m q.part q.qp 256 0 (d.notify m q)
    d.nak q (e.map (·.1)) nakInvalid

/-- A host's answer to a message of a copy (R256) (DEDUCED, log entry 21). -/
def Copy.answered (c : Copy) (q : RdmaMsg) : Copy :=
  match q.kind with
  | 0 => { c with unacked := c.unacked.erase (q.qp, q.addr) }
  | 1 =>
    if c.unacked.contains (q.qp, q.addr) || c.asked.any fun e => e.2 == (q.qp, q.addr) then
      { c with fault := some (cPERMISSION, q.addr, 5) }
    else c
  | _ => match c.asked.find? fun e => e.2 == (q.qp, q.addr) with
    | some e => { c with asked := c.asked.erase e, got := c.got ++ [(e.1, q.payload.take 32)] }
    | none => c

/-- ROCE_RESPONSE_INBOUND: the host acknowledges, refuses or answers a message of a copy (R256, R421). -/
def bodyRoceResponseInbound (q : RdmaMsg) (m : Mem) (d : Dev) : Dev :=
  if !d.pkg.powered then d
  else
    let d := d.notify m q
    match d.copies.find? fun e => e.2.part == q.part && e.2.answered q != e.2 with
    | none => d
    | some (id, c) => { d with copies := insert id (c.answered q) d.copies }.meter q.part 5 q.payload.length

/-- PRIORITY_FLOW_CONTROL_FRAME: transmission on one of the eight priorities of one of the two ports pauses, or
resumes with what has waited (R5). -/
def bodyPriorityFlowControlFrame (port prio : Nat) (pause : Bool) (_ : Mem) (d : Dev) : Dev :=
  if !d.pkg.powered || port ≥ 2 || prio ≥ 8 then d
  else
    let rest := d.paused.filter (· != (port, prio))
    if pause then { d with paused := rest ++ [(port, prio)] } else { d with paused := rest }.flushEth

/-- CONGESTION_NOTIFICATION_PACKET: the device slows the flow (R5). -/
def bodyCongestionNotificationPacket (flow : Nat) (_ : Mem) (d : Dev) : Dev :=
  if d.pkg.powered then { d with slowed := d.slowed.filter (· != flow) ++ [flow] } else d

/-- One step of LINK_DOWN. -/
def execLinkDown (k : Nat) (s : State) : Host.Outcome State Fault Refusal :=
  act s (bodyLinkDown k)

/-- One step of FLIT_ACKNOWLEDGEMENT. -/
def execFlitAcknowledgement (k : Nat) (ok : Bool) (s : State) : Host.Outcome State Fault Refusal :=
  act s (bodyFlitAcknowledgement k ok)

/-- One step of PEER_READ_REQUEST. -/
def execPeerReadRequest (q : PeerMsg) (s : State) : Host.Outcome State Fault Refusal :=
  act s (bodyPeerReadRequest q)

/-- One step of PEER_READ_DATA. -/
def execPeerReadData (q : PeerMsg) (s : State) : Host.Outcome State Fault Refusal :=
  act s (bodyPeerReadData q)

/-- One step of PEER_WRITE. -/
def execPeerWrite (q : PeerMsg) (s : State) : Host.Outcome State Fault Refusal :=
  act s (bodyPeerWrite q)

/-- One step of PEER_WRITE_ACK. -/
def execPeerWriteAck (q : PeerMsg) (s : State) : Host.Outcome State Fault Refusal :=
  act s (bodyPeerWriteAck q)

/-- One step of PEER_UPDATE. -/
def execPeerUpdate (q : PeerMsg) (s : State) : Host.Outcome State Fault Refusal :=
  act s (bodyPeerUpdate q)

/-- One step of PEER_COLLECTIVE. -/
def execPeerCollective (q : PeerMsg) (s : State) : Host.Outcome State Fault Refusal :=
  act s (bodyPeerCollective q)

/-- One step of PEER_TOKEN_DATA. -/
def execPeerTokenData (q : PeerMsg) (s : State) : Host.Outcome State Fault Refusal :=
  act s (bodyPeerTokenData q)

/-- One step of PEER_CREDIT_RETURN. -/
def execPeerCreditReturn (q : PeerMsg) (s : State) : Host.Outcome State Fault Refusal :=
  act s (bodyPeerCreditReturn q)

/-- One step of PEER_RESERVED_FLIT. -/
def execPeerReservedFlit (q : PeerMsg) (s : State) : Host.Outcome State Fault Refusal :=
  act s (bodyPeerReservedFlit q)

/-- One step of T2_READ_DATA. -/
def execT2ReadData (q : T2Msg) (s : State) : Host.Outcome State Fault Refusal :=
  act s (bodyT2ReadData q)

/-- One step of T2_WRITE_ACK. -/
def execT2WriteAck (q : T2Msg) (s : State) : Host.Outcome State Fault Refusal :=
  act s (bodyT2WriteAck q)

/-- One step of T2_CREDIT_RETURN. -/
def execT2CreditReturn (q : T2Msg) (s : State) : Host.Outcome State Fault Refusal :=
  act s (bodyT2CreditReturn q)

/-- One step of T2_RESERVED_FLIT. -/
def execT2ReservedFlit (q : T2Msg) (s : State) : Host.Outcome State Fault Refusal :=
  act s (bodyT2ReservedFlit q)

/-- One step of RDMA_WRITE_INBOUND. -/
def execRdmaWriteInbound (q : RdmaMsg) (s : State) : Host.Outcome State Fault Refusal :=
  act s (bodyRdmaWriteInbound q)

/-- One step of RDMA_READ_INBOUND. -/
def execRdmaReadInbound (q : RdmaMsg) (s : State) : Host.Outcome State Fault Refusal :=
  act s (bodyRdmaReadInbound q)

/-- One step of RDMA_SEND_INBOUND. -/
def execRdmaSendInbound (q : RdmaMsg) (s : State) : Host.Outcome State Fault Refusal :=
  act s (bodyRdmaSendInbound q)

/-- One step of ROCE_UNSUPPORTED_REQUEST. -/
def execRoceUnsupportedRequest (q : RdmaMsg) (s : State) : Host.Outcome State Fault Refusal :=
  act s (bodyRoceUnsupportedRequest q)

/-- One step of ROCE_RESPONSE_INBOUND. -/
def execRoceResponseInbound (q : RdmaMsg) (s : State) : Host.Outcome State Fault Refusal :=
  act s (bodyRoceResponseInbound q)

/-- One step of PRIORITY_FLOW_CONTROL_FRAME. -/
def execPriorityFlowControlFrame (port prio : Nat) (pause : Bool) (s : State) : Host.Outcome State Fault Refusal :=
  act s (bodyPriorityFlowControlFrame port prio pause)

/-- One step of CONGESTION_NOTIFICATION_PACKET. -/
def execCongestionNotificationPacket (flow : Nat) (s : State) : Host.Outcome State Fault Refusal :=
  act s (bodyCongestionNotificationPacket flow)

end Sys2Proof.Machine
end

