-- ==== Sys2Proof/Machine/TierEngine.lean ====
section
/-! DEFINITION. The tier engine: marker reports and the timetable (R260, R264 to R266, R316), and the residency
directory's actions (R257 to R259, R269, R373). -/

namespace Sys2Proof.Machine

/-! ### The directory (R258) -/

/-- A partition's tier cache: its OWNED frames with TC (R257, R387, R388). -/
def Dev.tierFrames (d : Dev) (part : Nat) : List Nat :=
  (d.tags.filter fun t => t.2.state == 1 && t.2.tc && t.2.owner == part && inTier1 (t.1 * frameBytes)).map (·.1)

/-- A granule holds an entry of the tier cache (R258). -/
def Granule.holdsEntry (g : Granule) : Bool := g.res == .filling || g.res == .resident || g.res == .draining

/-- Entries of a partition's tier cache that no granule holds. -/
def Dev.freeEntries (d : Dev) (part : Nat) : List Nat :=
  (d.tierFrames part).filter fun f => !(d.part part).grans.any fun g => g.2.holdsEntry && g.2.entry == f

/-- One of a list by a free draw, where there is a choice. -/
def Dev.pickOf (d : Dev) (fs : List Nat) : Dev × Option Nat :=
  match fs with
  | [] => (d, none)
  | [f] => (d, some f)
  | fs =>
    let (bits, d) := d.fresh
    (d, fs[bits.toNat % fs.length]?)

/-- Granules of a timetable entry, by number. -/
def Dev.entryGrans (m : Mem) (d : Dev) (part ctx : Nat) (e : TtEntry) : Dev × List Nat :=
  let (d, r) := d.rangeEntry m part ctx e.range
  (d, match r with
    | none => []
    | some r => (granules (Word.bits r 63 0 + e.offset) e.length).map (· / granBytes))

/-- A fetch of a granule is under way or awaited. -/
def Granule.unfinished (g : Granule) : Bool :=
  g.acts.contains .fetch || g.res == .pending || g.res == .filling

/-- Fired fetch entries of a context that have completed, forgotten (R271). -/
def Dev.pruneFired (m : Mem) (d : Dev) (part ctx : Nat) : Dev :=
  match (d.ctx ctx).tt with
  | none => d
  | some t =>
    let (d, fired) := t.fired.foldl (fun (acc : Dev × List Nat) k =>
      match t.entries[k]? with
      | none => acc
      | some e =>
        let (d, gs) := acc.1.entryGrans m part ctx e
        let open_ := gs.any fun g => ((d.part part).gran (granKey ctx (g * granBytes))).unfinished
        (d, if open_ then acc.2 ++ [k] else acc.2)) (d, [])
    d.loadTimetable ctx (some { t with fired := fired })

/-- The first action of a granule taken off its queue, with the pins behind it. -/
def Granule.taken (g : Granule) : Granule :=
  let g := { g with acts := g.acts.tail, acted := g.acted + 1 }
  g.pinned g.acts

/-- A granule goes to FILLING in a free entry of its partition's tier cache, if one is free (R258, R259). -/
def Dev.startFill (d : Dev) (part k : Nat) : Dev × Bool :=
  let (d, f) := d.pickOf (d.freeEntries part)
  match f with
  | none => (d, false)
  | some f => (d.updGran part k fun g => { g with res := .filling, dirty := false, entry := f }, true)

/-- The oldest PENDING granule of a partition goes to FILLING when an entry is free (R258, R259)
(DEDUCED, log entry 51). -/
def Dev.giveEntry (d : Dev) (part : Nat) : Dev :=
  let p := d.part part
  match (p.grans.filter fun g => g.2.res == .pending).foldl (fun (acc : Option (Nat × Granule)) g =>
      match acc with
      | none => some g
      | some a => if g.2.order < a.2.order then some g else some a) none with
  | none => d
  | some (k, _) => (d.startFill part k).1

/-! ### Copying (R258, R259, R392) -/

/-- One line moved by the TE, from `src` to `dst`; `home` is where the model keeps the granule's bytes. What fails at
the source is written into the destination as an uncorrectable symbol, and a line that reads as zeros is written as
zeros (R259, R389, R392) (DEDUCED, log entry 51). -/
def Dev.moveLine (tid : Nat) (d : Dev) (src dst home : Nat) : Dev :=
  let o := d.lineOut tid false src
  let d := if o.poison.isSome then d.postNoAgent tid src [{ out := o, host := src, tid := tid }] else d
  if !d.tagPass tid false dst then d.postNoAgent tid dst [{ out := .tenant, host := dst, tid := tid }]
  else
    let d := if o.zeros then d.write (bytesAt home (List.replicate 64 0)) else d
    let d := (d.markCleared dst).cureLine dst
    if o.poison.isSome then { d with conds := insert (dst / 64) { ecc := true } d.conds } else d

/-- The lines of one page of a granule moved between its home and its entry, with the bytes that pass the channels
and the requests to the device, a block of 256 bytes each (R259, R398, R423). -/
def Dev.movePage (d : Dev) (tid entryAt home : Nat) (up : Bool) : Dev :=
  let d := (List.range 1024).foldl (fun d i =>
    let h := home + 64 * i
    let e := entryAt + 64 * i
    if up then d.moveLine tid h e h else d.moveLine tid e h h) d
  let d := (List.range 256).foldl (fun d i =>
    let a := home + 256 * i
    if d.t2Down a then d else d.t2Request tid a (!up) 4) d
  (d.meterTid tid 2 65536).meterTid tid 3 65536

/-- The pages of a granule moved, up to the first that the TE cannot reach, which drops the action (R373). -/
def Dev.movePages (m : Mem) (part ctx : Nat) (up : Bool) (entryAt : Nat) : List Nat → Dev → Dev × Bool
  | [], d => (d, true)
  | va :: vas, d =>
    let (d, v) := d.teView m part ctx va
    match v with
    | .tiered host =>
      Dev.movePages m part ctx up entryAt vas
        (d.movePage (d.tidOf part ctx) (entryAt + va % granBytes) (host / 65536 * 65536) up)
    | .faults | .plain => (d, false)

/-- A granule's bytes moved between its home and its tier-1 frame; whether every page could be reached. -/
def Dev.moveGranule (m : Mem) (d : Dev) (part ctx k : Nat) (up : Bool) : Dev × Bool :=
  let g := (d.part part).gran k
  Dev.movePages m part ctx up (g.entry * frameBytes) ((List.range 32).map fun i => granVa k + i * 65536) d

/-! ### Actions (R258) -/

/-- The first action of a granule taken when it is the one that an event names: it acts on a tiered range, does nothing
on another, and is dropped where the TE's access faults (R257, R258, R373) (DEDUCED, log entry 51). -/
def Dev.actsOn (m : Mem) (d : Dev) (ctx gran : Nat) (act : TeAct) (f : Nat → Nat → Granule → Dev → Dev) : Dev :=
  let k := granKey ctx (gran * granBytes)
  match d.ctxPart ctx with
  | none => d
  | some part =>
    let g := (d.part part).gran k
    if g.acts.head? ≠ some act then d
    else
      let (d, v) := d.teView m part ctx (gran * granBytes)
      let d := match v with
        | .tiered _ => f part k g d
        | .plain => d
        | .faults => d.updGran part k fun g => { g with drops := g.drops ++ [g.acted + 1] }
      (d.updGran part k Granule.taken).pruneFired m part ctx

/-- TE_FETCH_ACTION: the TE acts on a fetch that stands first among a granule's actions (R258)
(DEDUCED, log entry 51). -/
def bodyTeFetchAction (ctx gran : Nat) (m : Mem) (d : Dev) : Dev :=
  d.actsOn m ctx gran .fetch fun part k g d =>
    match g.res with
    | .home =>
      let (d, ok) := d.startFill part k
      if ok then d
      else
        let n := (d.part part).teOrder
        (d.updGran part k fun g => { g with res := .pending, order := n }).updPart part fun p =>
          { p with teOrder := n + 1 }
    | .draining => d.updGran part k fun g => { g with res := .resident }
    | .pending | .filling | .resident => d

/-- TE_EVICT_ACTION: the TE acts on an eviction that stands first among a granule's actions; a pinned granule is
not drained (R258) (DEDUCED, log entry 51). -/
def bodyTeEvictAction (ctx gran : Nat) (m : Mem) (d : Dev) : Dev :=
  d.actsOn m ctx gran .evict fun part k g d =>
    if g.pin then d
    else match g.res with
      | .home | .draining => d
      | .pending => d.updGran part k fun g => { g with res := .home }
      | .filling => d.updGran part k fun g => { g with evictNext := true }
      | .resident => d.updGran part k fun g => { g with res := .draining }

/-- TE_FILL_COMPLETE: the copy of a FILLING granule is complete and it becomes RESIDENT, and an eviction that waits for
it takes effect; a page that the TE cannot reach drops the fetch (R258, R259, R373). -/
def bodyTeFillComplete (ctx gran : Nat) (m : Mem) (d : Dev) : Dev :=
  let k := granKey ctx (gran * granBytes)
  match d.ctxPart ctx with
  | none => d
  | some part =>
    if ((d.part part).gran k).res != .filling then d
    else
      let (d, ok) := d.moveGranule m part ctx k true
      if ok then (d.updGran part k fun g => { g with
        res := if g.evictNext && !g.pin then .draining else .resident
        evictNext := false }).pruneFired m part ctx
      else ((d.updGran part k fun g => { g with
        res := .home, evictNext := false, drops := g.drops ++ [g.lastFetch] }).giveEntry part).pruneFired m part ctx

/-- TE_DRAIN_COMPLETE: a DRAINING granule is written back when dirty, is HOME again, and its entry goes to the oldest
PENDING one; a page that the TE cannot reach drops the eviction (R258, R259, R373). -/
def bodyTeDrainComplete (ctx gran : Nat) (m : Mem) (d : Dev) : Dev :=
  let k := granKey ctx (gran * granBytes)
  match d.ctxPart ctx with
  | none => d
  | some part =>
    let g := (d.part part).gran k
    if g.res != .draining then d
    else
      let (d, ok) := if g.dirty then d.moveGranule m part ctx k false else (d, true)
      if ok then (d.updGran part k fun g => { g with res := .home, dirty := false }).giveEntry part
      else d.updGran part k fun g => { g with res := .resident, drops := g.drops ++ [g.lastEvict] }

/-! ### Marker reports (R264) -/

/-- A configuration whose boundary a miss of a STALL timetable holds (R266). -/
def Dev.stallInst (d : Dev) (cfg round : Nat) (ks : List Nat) : Dev :=
  d.updInst cfg fun x =>
    if (x.phase == .boundary || x.phase == .stalled) && x.fab.round == (round + 1) % 2 ^ 64 then
      { x with phase := .stalled, stallMiss := (x.stallMiss ++ ks).eraseDups }
    else x

/-- SCHEDULE_MISS of an entry checked at marker `mk`, with the granules that are missing (R265, R306, R316). -/
def Dev.scheduleMiss (d : Dev) (r : Report) (stall : Bool) (k mk : Nat) (miss : List Nat) : Dev :=
  if !stall && !(d.ctx r.ctx).repen.getLsbD 3 then d
  else
    let base := match r.cfg with
      | some (cfg, round) => { d.deviceRec r.part r.ctx with olev := 3, cfgid := cfg, round := round }
      | none => { d.coreRec r.core with cls := 2, cfgid := 0, ctx := r.ctx, part := r.part }
    let core := match r.cfg with
      | some (cfg, _) => match d.inst cfg with
        | some x => coreOfKey x.lead
        | none => r.core
      | none => r.core
    d.postCore core { base with
      cause := cSCHEDMISS, cls := 2
      addr := miss.foldl (fun a g => min a (g * granBytes)) (2 ^ 64 - 1)
      info := k % 4096 + mk % 4096 * 2 ^ 12 + miss.length % 2 ^ 32 * 2 ^ 32 }

/-- The deadline checks of one marker of a report (R265). -/
def Dev.checkMarker (m : Mem) (r : Report) (d : Dev) (mk : Nat) : Dev :=
  match (d.ctx r.ctx).tt with
  | none => d
  | some t => t.pending.foldl (fun d k =>
      match t.entries[k]? with
      | none => d
      | some e =>
        if e.deadline != some mk then d
        else
          let upd := fun (d : Dev) (f : Timetable → Timetable) => match (d.ctx r.ctx).tt with
            | some t => d.loadTimetable r.ctx (some (f t))
            | none => d
          let d := upd d fun t => { t with pending := t.pending.filter (· != k) }
          let (d, gs) := d.entryGrans m r.part r.ctx e
          let (d, miss) := gs.foldl (fun (acc : Dev × List Nat) g =>
            let (d, ok) := acc.1.resident m r.part r.ctx (g * granBytes)
            (d, if ok then acc.2 else acc.2 ++ [g])) (d, [])
          if miss.isEmpty then d
          else
            let d := upd d fun t => { t with misses := min (t.misses + 1) 0xFFFFFFFF }
            let stall := t.stall && r.cfg.isSome
            let d := d.scheduleMiss r stall k mk miss
            match r.cfg with
            | some (cfg, round) =>
              if stall then d.stallInst cfg round
                (gs.map fun g => granKey r.ctx (g * granBytes))
              else d
            | none => d) d

/-- An entry fired: its action passes to its granules, and a fetch with a deadline is pending on it (R264). -/
def Dev.fireEntry (m : Mem) (r : Report) (d : Dev) (k : Nat) (e : TtEntry) : Dev :=
  let (d, gs) := d.entryGrans m r.part r.ctx e
  let act : TeAct := match e.action with
    | 0 => .fetch
    | 1 => .evict
    | 2 => .pin
    | _ => .unpin
  let d := gs.foldl (fun d g =>
    let (d, v) := d.teView m r.part r.ctx (g * granBytes)
    match v with
    | .tiered _ => d.passAction r.part (granKey r.ctx (g * granBytes)) act
    | .faults | .plain => d) d
  match (d.ctx r.ctx).tt with
  | none => d
  | some t => d.loadTimetable r.ctx (some { t with
      fired := if e.action == 0 && !t.fired.contains k then t.fired ++ [k] else t.fired
      pending := if e.deadline.isSome && !t.pending.contains k then t.pending ++ [k] else t.pending })

/-- The entries that a marker of a report fires (R264). -/
def Dev.fireMarker (m : Mem) (r : Report) (d : Dev) (mk : Nat) : Dev :=
  match (d.ctx r.ctx).tt with
  | none => d
  | some t => (t.entries.mapIdx fun k e => (k, e)).foldl (fun d ke =>
      if ke.2.trig == mk then Dev.fireEntry m r d ke.1 ke.2 else d) d

/-- Two reports have one source: one configuration, whose lead CC a move may change, or one thread (R260). -/
def Report.sameSource (a b : Report) : Bool :=
  a.ctx == b.ctx && match a.cfg, b.cfg with
    | some (x, _), some (y, _) => x == y
    | none, none => a.core == b.core
    | some _, none | none, some _ => false

/-- Places of the reports that are the oldest of their sources (R260) (DEDUCED, log entry 42). -/
def oldestReports (rs : List Report) : List Nat :=
  (List.range rs.length).filter fun k => match rs[k]? with
    | none => false
    | some r => (rs.take k).all fun q => !q.sameSource r

/-- TE_MARKER_REPORT: one of the reports that are the oldest of their sources reaches the TE, by a free draw:
its deadlines are checked, then its entries fire (R260, R264, R265) (DEDUCED, log entry 42). -/
def bodyTeMarkerReport (m : Mem) (d : Dev) : Dev :=
  let ks := oldestReports d.reports
  let (bits, d1) := if ks.length ≤ 1 then ((0 : BitVec 1024), d) else d.fresh
  match ks[bits.toNat % ks.length]? with
  | none => d
  | some k => match d1.reports[k]? with
    | none => d
    | some r =>
      let d := { d1 with reports := d1.reports.eraseIdx k }
      let mks := (List.range 4096).filter r.markers.contains
      let d := mks.foldl (Dev.checkMarker m r) d
      (mks.foldl (Dev.fireMarker m r) d).pruneFired m r.part r.ctx

/-- One step of TE_FETCH_ACTION. -/
def execTeFetchAction (ctx gran : Nat) (s : State) : Host.Outcome State Fault Refusal :=
  act s (bodyTeFetchAction ctx gran)

/-- One step of TE_EVICT_ACTION. -/
def execTeEvictAction (ctx gran : Nat) (s : State) : Host.Outcome State Fault Refusal :=
  act s (bodyTeEvictAction ctx gran)

/-- One step of TE_FILL_COMPLETE. -/
def execTeFillComplete (ctx gran : Nat) (s : State) : Host.Outcome State Fault Refusal :=
  act s (bodyTeFillComplete ctx gran)

/-- One step of TE_DRAIN_COMPLETE. -/
def execTeDrainComplete (ctx gran : Nat) (s : State) : Host.Outcome State Fault Refusal :=
  act s (bodyTeDrainComplete ctx gran)

/-- One step of TE_MARKER_REPORT. -/
def execTeMarkerReport (s : State) : Host.Outcome State Fault Refusal :=
  act s (bodyTeMarkerReport)

end Sys2Proof.Machine
end

