-- ==== Sys2Proof/Machine/Dispatch.lean ====
section
/-! DEFINITION. The dispatch of every instruction to its meaning. -/

namespace Sys2Proof.Machine

/-- One step of an instruction or of another agent. -/
def exec (i : Instr) (s : State) : Host.Outcome State Fault Refusal :=
  match i with
  | .nop o => Sys2Proof.Machine.execNop o s
  | .rdp o => Sys2Proof.Machine.execRdp o s
  | .movi o => Sys2Proof.Machine.execMovi o s
  | .movh o => Sys2Proof.Machine.execMovh o s
  | .fan o => Sys2Proof.Machine.execFan o s
  | .null o => Sys2Proof.Machine.execNull o s
  | .drop o => Sys2Proof.Machine.execDrop o s
  | .gate o => Sys2Proof.Machine.execGate o s
  | .sel o => Sys2Proof.Machine.execSel o s
  | .lcnt o => Sys2Proof.Machine.execLcnt o s
  | .lidx o => Sys2Proof.Machine.execLidx o s
  | .pois o => Sys2Proof.Machine.execPois o s
  | .poisc o => Sys2Proof.Machine.execPoisc o s
  | .mark o => Sys2Proof.Machine.execMark o s
  | .route o => Sys2Proof.Machine.execRoute o s
  | .bro o => Sys2Proof.Machine.execBro o s
  | .brx o => Sys2Proof.Machine.execBrx o s
  | .callb o => Sys2Proof.Machine.execCallb o s
  | .retb o => Sys2Proof.Machine.execRetb o s
  | .halt o => Sys2Proof.Machine.execHalt o s
  | .rdg o => Sys2Proof.Machine.execRdg o s
  | .wrg o => Sys2Proof.Machine.execWrg o s
  | .add o => Sys2Proof.Machine.execAdd o s
  | .addi o => Sys2Proof.Machine.execAddi o s
  | .sub o => Sys2Proof.Machine.execSub o s
  | .adds o => Sys2Proof.Machine.execAdds o s
  | .subs o => Sys2Proof.Machine.execSubs o s
  | .neg o => Sys2Proof.Machine.execNeg o s
  | .abs o => Sys2Proof.Machine.execAbs o s
  | .mul o => Sys2Proof.Machine.execMul o s
  | .mulh o => Sys2Proof.Machine.execMulh o s
  | .mulhw o => Sys2Proof.Machine.execMulhw o s
  | .madd o => Sys2Proof.Machine.execMadd o s
  | .div o => Sys2Proof.Machine.execDiv o s
  | .divw o => Sys2Proof.Machine.execDivw o s
  | .rem o => Sys2Proof.Machine.execRem o s
  | .remw o => Sys2Proof.Machine.execRemw o s
  | .lea o => Sys2Proof.Machine.execLea o s
  | .min o => Sys2Proof.Machine.execMin o s
  | .max o => Sys2Proof.Machine.execMax o s
  | .minw o => Sys2Proof.Machine.execMinw o s
  | .maxw o => Sys2Proof.Machine.execMaxw o s
  | .and o => Sys2Proof.Machine.execAnd o s
  | .or o => Sys2Proof.Machine.execOr o s
  | .xor o => Sys2Proof.Machine.execXor o s
  | .andn o => Sys2Proof.Machine.execAndn o s
  | .shl o => Sys2Proof.Machine.execShl o s
  | .shr o => Sys2Proof.Machine.execShr o s
  | .sra o => Sys2Proof.Machine.execSra o s
  | .rotl o => Sys2Proof.Machine.execRotl o s
  | .clz o => Sys2Proof.Machine.execClz o s
  | .popc o => Sys2Proof.Machine.execPopc o s
  | .brev o => Sys2Proof.Machine.execBrev o s
  | .cmp o => Sys2Proof.Machine.execCmp o s
  | .cmpi o => Sys2Proof.Machine.execCmpi o s
  | .bfx o => Sys2Proof.Machine.execBfx o s
  | .bfi o => Sys2Proof.Machine.execBfi o s
  | .fadd o => Sys2Proof.Machine.execFadd o s
  | .fsub o => Sys2Proof.Machine.execFsub o s
  | .fmul o => Sys2Proof.Machine.execFmul o s
  | .ffma o => Sys2Proof.Machine.execFfma o s
  | .fmin o => Sys2Proof.Machine.execFmin o s
  | .fmax o => Sys2Proof.Machine.execFmax o s
  | .famax o => Sys2Proof.Machine.execFamax o s
  | .fabs o => Sys2Proof.Machine.execFabs o s
  | .fneg o => Sys2Proof.Machine.execFneg o s
  | .fcpys o => Sys2Proof.Machine.execFcpys o s
  | .fcmp o => Sys2Proof.Machine.execFcmp o s
  | .fclass o => Sys2Proof.Machine.execFclass o s
  | .fcvt o => Sys2Proof.Machine.execFcvt o s
  | .frnd o => Sys2Proof.Machine.execFrnd o s
  | .frcp o => Sys2Proof.Machine.execFrcp o s
  | .frsq o => Sys2Proof.Machine.execFrsq o s
  | .fsqrt o => Sys2Proof.Machine.execFsqrt o s
  | .fexp2 o => Sys2Proof.Machine.execFexp2 o s
  | .flog2 o => Sys2Proof.Machine.execFlog2 o s
  | .fsint o => Sys2Proof.Machine.execFsint o s
  | .fcost o => Sys2Proof.Machine.execFcost o s
  | .ftanh o => Sys2Proof.Machine.execFtanh o s
  | .fscale o => Sys2Proof.Machine.execFscale o s
  | .fdot2 o => Sys2Proof.Machine.execFdot2 o s
  | .fdot4 o => Sys2Proof.Machine.execFdot4 o s
  | .lswp o => Sys2Proof.Machine.execLswp o s
  | .lperm o => Sys2Proof.Machine.execLperm o s
  | .lbcst o => Sys2Proof.Machine.execLbcst o s
  | .lsld o => Sys2Proof.Machine.execLsld o s
  | .lred o => Sys2Proof.Machine.execLred o s
  | .lscan o => Sys2Proof.Machine.execLscan o s
  | .lvote o => Sys2Proof.Machine.execLvote o s
  | .lmsk o => Sys2Proof.Machine.execLmsk o s
  | .lcmpr o => Sys2Proof.Machine.execLcmpr o s
  | .lexpd o => Sys2Proof.Machine.execLexpd o s
  | .lpack o => Sys2Proof.Machine.execLpack o s
  | .lunpk o => Sys2Proof.Machine.execLunpk o s
  | .mbind o => Sys2Proof.Machine.execMbind o s
  | .mma o => Sys2Proof.Machine.execMma o s
  | .mmasp o => Sys2Proof.Machine.execMmasp o s
  | .mzero o => Sys2Proof.Machine.execMzero o s
  | .macci o => Sys2Proof.Machine.execMacci o s
  | .mout o => Sys2Proof.Machine.execMout o s
  | .mswap o => Sys2Proof.Machine.execMswap o s
  | .mscls o => Sys2Proof.Machine.execMscls o s
  | .lds o => Sys2Proof.Machine.execLds o s
  | .sts o => Sys2Proof.Machine.execSts o s
  | .ldb o => Sys2Proof.Machine.execLdb o s
  | .stb o => Sys2Proof.Machine.execStb o s
  | .ldv o => Sys2Proof.Machine.execLdv o s
  | .stv o => Sys2Proof.Machine.execStv o s
  | .vrecl o => Sys2Proof.Machine.execVrecl o s
  | .wfa o => Sys2Proof.Machine.execWfa o s
  | .uwait o => Sys2Proof.Machine.execUwait o s
  | .ldg o => Sys2Proof.Machine.execLdg o s
  | .stg o => Sys2Proof.Machine.execStg o s
  | .upd o => Sys2Proof.Machine.execUpd o s
  | .updf o => Sys2Proof.Machine.execUpdf o s
  | .ucas o => Sys2Proof.Machine.execUcas o s
  | .fence o => Sys2Proof.Machine.execFence o s
  | .bara o => Sys2Proof.Machine.execBara o s
  | .barw o => Sys2Proof.Machine.execBarw o s
  | .apset o => Sys2Proof.Machine.execApset o s
  | .apcpy o => Sys2Proof.Machine.execApcpy o s
  | .apld o => Sys2Proof.Machine.execApld o s
  | .apclr o => Sys2Proof.Machine.execApclr o s
  | .sbind o => Sys2Proof.Machine.execSbind o s
  | .sbindw o => Sys2Proof.Machine.execSbindw o s
  | .sgath o => Sys2Proof.Machine.execSgath o s
  | .sscat o => Sys2Proof.Machine.execSscat o s
  | .supd o => Sys2Proof.Machine.execSupd o s
  | .scopy o => Sys2Proof.Machine.execScopy o s
  | .sscl o => Sys2Proof.Machine.execSscl o s
  | .swait o => Sys2Proof.Machine.execSwait o s
  | .sstat o => Sys2Proof.Machine.execSstat o s
  | .skill o => Sys2Proof.Machine.execSkill o s
  | .sbar o => Sys2Proof.Machine.execSbar o s
  | .cred o => Sys2Proof.Machine.execCred o s
  | .cbcst o => Sys2Proof.Machine.execCbcst o s
  | .cagth o => Sys2Proof.Machine.execCagth o s
  | .cfgnx o => Sys2Proof.Machine.execCfgnx o s
  | .btok o => Sys2Proof.Machine.execBtok o s
  | .ttld o => Sys2Proof.Machine.execTtld o s
  | .ttldClear o => Sys2Proof.Machine.execTtldClear o s
  | .tfetch o => Sys2Proof.Machine.execTfetch o s
  | .tevict o => Sys2Proof.Machine.execTevict o s
  | .tpin o => Sys2Proof.Machine.execTpin o s
  | .tpinUnpin o => Sys2Proof.Machine.execTpinUnpin o s
  | .tresStatus o => Sys2Proof.Machine.execTresStatus o s
  | .tresResume o => Sys2Proof.Machine.execTresResume o s
  | .tresResident o => Sys2Proof.Machine.execTresResident o s
  | .scopyk o => Sys2Proof.Machine.execScopyk o s
  | .kopen o => Sys2Proof.Machine.execKopen o s
  | .kclose o => Sys2Proof.Machine.execKclose o s
  | .trap o => Sys2Proof.Machine.execTrap o s
  | .brk o => Sys2Proof.Machine.execBrk o s
  | .rte o => Sys2Proof.Machine.execRte o s
  | .srd o => Sys2Proof.Machine.execSrd o s
  | .swr o => Sys2Proof.Machine.execSwr o s
  | .hcall o => Sys2Proof.Machine.execHcall o s
  | .wfi o => Sys2Proof.Machine.execWfi o s
  | .qpost o => Sys2Proof.Machine.execQpost o s
  | .qctlStatus o => Sys2Proof.Machine.execQctlStatus o s
  | .qctlPrio o => Sys2Proof.Machine.execQctlPrio o s
  | .qctlEnable o => Sys2Proof.Machine.execQctlEnable o s
  | .qctlDisable o => Sys2Proof.Machine.execQctlDisable o s
  | .qctlFlush o => Sys2Proof.Machine.execQctlFlush o s
  | .qctlAssign o => Sys2Proof.Machine.execQctlAssign o s
  | .placeLaunch o => Sys2Proof.Machine.execPlaceLaunch o s
  | .placeMove o => Sys2Proof.Machine.execPlaceMove o s
  | .placeCompact o => Sys2Proof.Machine.execPlaceCompact o s
  | .placeDiscard o => Sys2Proof.Machine.execPlaceDiscard o s
  | .psnapCut o => Sys2Proof.Machine.execPsnapCut o s
  | .psnapMarker o => Sys2Proof.Machine.execPsnapMarker o s
  | .prest o => Sys2Proof.Machine.execPrest o s
  | .plsw o => Sys2Proof.Machine.execPlsw o s
  | .rinvPages o => Sys2Proof.Machine.execRinvPages o s
  | .rinvRange o => Sys2Proof.Machine.execRinvRange o s
  | .rinvContext o => Sys2Proof.Machine.execRinvContext o s
  | .rinvPart o => Sys2Proof.Machine.execRinvPart o s
  | .xinvFrames o => Sys2Proof.Machine.execXinvFrames o s
  | .xinvPart o => Sys2Proof.Machine.execXinvPart o s
  | .kshrAssign o => Sys2Proof.Machine.execKshrAssign o s
  | .kshrBegin o => Sys2Proof.Machine.execKshrBegin o s
  | .kshrFinish o => Sys2Proof.Machine.execKshrFinish o s
  | .kshrErase o => Sys2Proof.Machine.execKshrErase o s
  | .mtrdRead o => Sys2Proof.Machine.execMtrdRead o s
  | .mtrdRecord o => Sys2Proof.Machine.execMtrdRecord o s
  | .mtrdQuote o => Sys2Proof.Machine.execMtrdQuote o s
  | .dbgMtdata o => Sys2Proof.Machine.execDbgMtdata o s
  | .trapHAck core v => Sys2Proof.Machine.execTrapHAck core v s
  | .privWake core v => Sys2Proof.Machine.execPrivWake core v s
  | .shepPaddock core v => Sys2Proof.Machine.execShepPaddock core v s
  | .shepPlown core v => Sys2Proof.Machine.execShepPlown core v s
  | .shepPlmap core v => Sys2Proof.Machine.execShepPlmap core v s
  | .schedCgtab core v => Sys2Proof.Machine.execSchedCgtab core v s
  | .xlS2base core v => Sys2Proof.Machine.execXlS2base core v s
  | .partCtlOpen part => Sys2Proof.Machine.execPartCtlOpen part s
  | .partCtlStart part => Sys2Proof.Machine.execPartCtlStart part s
  | .partCtlStop part => Sys2Proof.Machine.execPartCtlStop part s
  | .partFtag core v => Sys2Proof.Machine.execPartFtag core v s
  | .controlBlockEntry core => Sys2Proof.Machine.execControlBlockEntry core s
  | .controlBlockCommit core => Sys2Proof.Machine.execControlBlockCommit core s
  | .recordStart cfg tile blk => Sys2Proof.Machine.execRecordStart cfg tile blk s
  | .recordCommit cfg tile blk => Sys2Proof.Machine.execRecordCommit cfg tile blk s
  | .roundBoundary cfg => Sys2Proof.Machine.execRoundBoundary cfg s
  | .roundResume cfg => Sys2Proof.Machine.execRoundResume cfg s
  | .roundVoid cfg => Sys2Proof.Machine.execRoundVoid cfg s
  | .tokenArrival arr => Sys2Proof.Machine.execTokenArrival arr s
  | .bankOwnershipTokenArrival cfg mt bank => Sys2Proof.Machine.execBankOwnershipTokenArrival cfg mt bank s
  | .fillPortToken cfg mt port => Sys2Proof.Machine.execFillPortToken cfg mt port s
  | .reconfigTokenPass cfg tile => Sys2Proof.Machine.execReconfigTokenPass cfg tile s
  | .lengthMismatch cfg tile blk slot => Sys2Proof.Machine.execLengthMismatch cfg tile blk slot s
  | .stallWatchdog agent => Sys2Proof.Machine.execStallWatchdog agent s
  | .operatorJoin cfg tile slot => Sys2Proof.Machine.execOperatorJoin cfg tile slot s
  | .operatorMerge cfg tile slot => Sys2Proof.Machine.execOperatorMerge cfg tile slot s
  | .operatorSplay cfg tile slot => Sys2Proof.Machine.execOperatorSplay cfg tile slot s
  | .operatorZip cfg tile slot => Sys2Proof.Machine.execOperatorZip cfg tile slot s
  | .operatorUnzip cfg tile slot => Sys2Proof.Machine.execOperatorUnzip cfg tile slot s
  | .operatorScan cfg tile slot => Sys2Proof.Machine.execOperatorScan cfg tile slot s
  | .operatorReduce cfg tile slot => Sys2Proof.Machine.execOperatorReduce cfg tile slot s
  | .operatorCompact cfg tile slot => Sys2Proof.Machine.execOperatorCompact cfg tile slot s
  | .operatorQuant cfg tile slot => Sys2Proof.Machine.execOperatorQuant cfg tile slot s
  | .operatorDequant cfg tile slot => Sys2Proof.Machine.execOperatorDequant cfg tile slot s
  | .operatorTranspose cfg tile slot => Sys2Proof.Machine.execOperatorTranspose cfg tile slot s
  | .scoreboardCommandStart core idx => Sys2Proof.Machine.execScoreboardCommandStart core idx s
  | .streamFetch cfg vp => Sys2Proof.Machine.execStreamFetch cfg vp s
  | .streamDeliver cfg vp => Sys2Proof.Machine.execStreamDeliver cfg vp s
  | .streamFetchFaultRaise cfg vp => Sys2Proof.Machine.execStreamFetchFaultRaise cfg vp s
  | .streamOutputStage cfg vp => Sys2Proof.Machine.execStreamOutputStage cfg vp s
  | .gatherIndexToken cfg vp => Sys2Proof.Machine.execGatherIndexToken cfg vp s
  | .scatterIndexToken cfg vp => Sys2Proof.Machine.execScatterIndexToken cfg vp s
  | .updateIndexToken cfg vp => Sys2Proof.Machine.execUpdateIndexToken cfg vp s
  | .copyComplete id => Sys2Proof.Machine.execCopyComplete id s
  | .copyFault id => Sys2Proof.Machine.execCopyFault id s
  | .collectiveComplete ctx grp => Sys2Proof.Machine.execCollectiveComplete ctx grp s
  | .teMarkerReport => Sys2Proof.Machine.execTeMarkerReport s
  | .teFetchAction ctx gran => Sys2Proof.Machine.execTeFetchAction ctx gran s
  | .teEvictAction ctx gran => Sys2Proof.Machine.execTeEvictAction ctx gran s
  | .teFillComplete ctx gran => Sys2Proof.Machine.execTeFillComplete ctx gran s
  | .teDrainComplete ctx gran => Sys2Proof.Machine.execTeDrainComplete ctx gran s
  | .dispatchDecision => Sys2Proof.Machine.execDispatchDecision s
  | .dependenceReread queue => Sys2Proof.Machine.execDependenceReread queue s
  | .queuePromotion queue => Sys2Proof.Machine.execQueuePromotion queue s
  | .install => Sys2Proof.Machine.execInstall s
  | .restoreSourcesResume cfg => Sys2Proof.Machine.execRestoreSourcesResume cfg s
  | .instanceEnd cfg => Sys2Proof.Machine.execInstanceEnd cfg s
  | .shepherdMove cfg => Sys2Proof.Machine.execShepherdMove cfg s
  | .compactTimeout cfg => Sys2Proof.Machine.execCompactTimeout cfg s
  | .snapshotCut cfg => Sys2Proof.Machine.execSnapshotCut cfg s
  | .snapshotMarkerArrival cfg node => Sys2Proof.Machine.execSnapshotMarkerArrival cfg node s
  | .snapshotImageWrite cfg => Sys2Proof.Machine.execSnapshotImageWrite cfg s
  | .planeSwitch part => Sys2Proof.Machine.execPlaneSwitch part s
  | .edgeDepthApply cfg tile port => Sys2Proof.Machine.execEdgeDepthApply cfg tile port s
  | .trapEntry core => Sys2Proof.Machine.execTrapEntry core s
  | .hQueueTake => Sys2Proof.Machine.execHQueueTake s
  | .eventRingWrite ctx => Sys2Proof.Machine.execEventRingWrite ctx s
  | .eventRingAck ctx entry => Sys2Proof.Machine.execEventRingAck ctx entry s
  | .wfiTimeout core => Sys2Proof.Machine.execWfiTimeout core s
  | .clearLine hfn line => Sys2Proof.Machine.execClearLine hfn line s
  | .memoryLineRead req => Sys2Proof.Machine.execMemoryLineRead req s
  | .memoryLineWrite req => Sys2Proof.Machine.execMemoryLineWrite req s
  | .bandSample readings => Sys2Proof.Machine.execBandSample readings s
  | .hbmGroupRetrain grp => Sys2Proof.Machine.execHbmGroupRetrain grp s
  | .patrolPassComplete corrected => Sys2Proof.Machine.execPatrolPassComplete corrected s
  | .governorDecision mw => Sys2Proof.Machine.execGovernorDecision mw s
  | .meterPeriodicRecord part => Sys2Proof.Machine.execMeterPeriodicRecord part s
  | .kshrBeginServe => Sys2Proof.Machine.execKshrBeginServe s
  | .kshrFinishServe => Sys2Proof.Machine.execKshrFinishServe s
  | .mtrdRecordServe => Sys2Proof.Machine.execMtrdRecordServe s
  | .mtrdQuoteServe => Sys2Proof.Machine.execMtrdQuoteServe s
  | .boot => Sys2Proof.Machine.execBoot s
  | .powerLoss => Sys2Proof.Machine.execPowerLoss s
  | .mgmtOpen msg => Sys2Proof.Machine.execMgmtOpen msg s
  | .mgmtConfirm msg => Sys2Proof.Machine.execMgmtConfirm msg s
  | .mgmtClose msg => Sys2Proof.Machine.execMgmtClose msg s
  | .mgmtLock msg => Sys2Proof.Machine.execMgmtLock msg s
  | .mgmtRenew msg => Sys2Proof.Machine.execMgmtRenew msg s
  | .mgmtUnlock msg => Sys2Proof.Machine.execMgmtUnlock msg s
  | .mgmtWrite msg => Sys2Proof.Machine.execMgmtWrite msg s
  | .mgmtActivate msg => Sys2Proof.Machine.execMgmtActivate msg s
  | .mgmtSetkeys msg => Sys2Proof.Machine.execMgmtSetkeys msg s
  | .mgmtCool msg => Sys2Proof.Machine.execMgmtCool msg s
  | .mgmtWarm msg => Sys2Proof.Machine.execMgmtWarm msg s
  | .mgmtExport msg => Sys2Proof.Machine.execMgmtExport msg s
  | .mgmtSetival msg => Sys2Proof.Machine.execMgmtSetival msg s
  | .mgmtReset msg => Sys2Proof.Machine.execMgmtReset msg s
  | .mgmtPowerOff msg => Sys2Proof.Machine.execMgmtPowerOff msg s
  | .lockLeaseExpiry iface => Sys2Proof.Machine.execLockLeaseExpiry iface s
  | .sessionTimeout session => Sys2Proof.Machine.execSessionTimeout session s
  | .peerReadRequest msg => Sys2Proof.Machine.execPeerReadRequest msg s
  | .peerReadData msg => Sys2Proof.Machine.execPeerReadData msg s
  | .peerWrite msg => Sys2Proof.Machine.execPeerWrite msg s
  | .peerWriteAck msg => Sys2Proof.Machine.execPeerWriteAck msg s
  | .peerUpdate msg => Sys2Proof.Machine.execPeerUpdate msg s
  | .peerCollective msg => Sys2Proof.Machine.execPeerCollective msg s
  | .peerTokenData msg => Sys2Proof.Machine.execPeerTokenData msg s
  | .peerCreditReturn msg => Sys2Proof.Machine.execPeerCreditReturn msg s
  | .peerReservedFlit msg => Sys2Proof.Machine.execPeerReservedFlit msg s
  | .linkDown link => Sys2Proof.Machine.execLinkDown link s
  | .t2ReadData msg => Sys2Proof.Machine.execT2ReadData msg s
  | .t2WriteAck msg => Sys2Proof.Machine.execT2WriteAck msg s
  | .t2CreditReturn msg => Sys2Proof.Machine.execT2CreditReturn msg s
  | .t2ReservedFlit msg => Sys2Proof.Machine.execT2ReservedFlit msg s
  | .rdmaWriteInbound msg => Sys2Proof.Machine.execRdmaWriteInbound msg s
  | .rdmaReadInbound msg => Sys2Proof.Machine.execRdmaReadInbound msg s
  | .rdmaSendInbound msg => Sys2Proof.Machine.execRdmaSendInbound msg s
  | .roceUnsupportedRequest msg => Sys2Proof.Machine.execRoceUnsupportedRequest msg s
  | .retreatRowRefreshComplete => Sys2Proof.Machine.execRetreatRowRefreshComplete s
  | .roceResponseInbound msg => Sys2Proof.Machine.execRoceResponseInbound msg s
  | .priorityFlowControlFrame port prio pause => Sys2Proof.Machine.execPriorityFlowControlFrame port prio pause s
  | .congestionNotificationPacket flow => Sys2Proof.Machine.execCongestionNotificationPacket flow s
  | .flitAcknowledgement link ok => Sys2Proof.Machine.execFlitAcknowledgement link ok s

end Sys2Proof.Machine
end

