-- ==== Sys2Proof/Machine/Step.lean ====
section
/-! DEFINITION. One step of the machine, and a word placed as its next instruction. -/

namespace Sys2Proof.Machine

/-- One step: what the next pick of the agenda lets happen (DESIGN CHOICE, log entry 6). -/
def step (s : State) : Host.Outcome State Fault Refusal :=
  let (p, d) := s.dev.takePick
  match d.todo p with
  | .row i f => exec i { s with dev := d.focused f }
  | .env p => act { s with dev := d } (environment p)
  | .bad => .fault .noSuchEvent

/-- The state whose next step runs the instruction of a word; one that no instruction has places nothing
(DESIGN CHOICE, log entry 13). -/
def State.withFetchWord (s : State) (nbits w : Nat) : State :=
  match decodeTableWord nbits w with
  | some i => { s with dev := s.dev.withNext i w }
  | none => s

end Sys2Proof.Machine
end

