-- ==== Sys2Proof/Safety.lean ====
section
/-! DEFINITION. What counts as a sound state and a safe run, and the forms in which claims say what an
instruction does. -/

namespace Sys2Proof

open Machine

/-- A state between two steps: memory in its canonical form, no write of a step left over, and no commit's
transaction open. -/
def Machine.State.Sound (s : State) : Prop := s.mem.wf = true ∧ s.dev.wq = [] ∧ s.dev.tx = .ok

/-- A run of steps is safe when every one of its steps answers a next state. -/
def Safe : Nat → State → Prop
  | 0, _ => True
  | k + 1, s => ∃ t, step s = .next t ∧ Safe k t

/-- The state with its memory as it was and its device replaced. -/
def Machine.State.withDev (s : State) (d : Dev) : State := { s with dev := d }

/-- Wherever the instruction can fire, it answers the state in which its operands are consumed: when it computes,
`f` gives the change it makes and the result it delivers; when it does not, nothing else changes and its targets
receive null (R28, R29). Memory is unchanged. -/
def FiresWith (i : Instr) (f : Site → Gathered → Dev → Dev × Res) : Prop :=
  ∀ s e g, s.Sound → s.dev.firing i = some (e, g) →
    Machine.exec i s = .next (s.withDev
      (if g.computes then (f e g s.dev).1.deliver i e g (f e g s.dev).2 else s.dev.deliver i e g .none))

/-- Wherever the instruction can fire, it answers the state in which its operands are consumed and its result `r`
is delivered when it computes, null when it does not, and in which nothing else has changed. -/
def Delivers (i : Instr) (r : Site → Gathered → Res) : Prop := FiresWith i fun e g d => (d, r e g)

/-- Lane `l` of a token as the integer its type gives it (R52, R136). -/
def intLane (t : Ty) (d : Data) (l : Nat) : Int := t.intVal (laneOf t.laneWidth d l)

/-- Lane `l` of a token as an unsigned pattern (R136). -/
def bitLane (t : Ty) (d : Data) (l : Nat) : Nat := laneOf t.laneWidth d l

/-- Lane `l` of a token as the number a floating-point type gives it (R149). -/
def fpLane (t : Ty) (d : Data) (l : Nat) : Fv := t.fmt.decode (laneOf t.laneWidth d l)

/-- A finite value is the whole number `k`. -/
def Fv.isWhole (x : Fv) (k : Int) : Prop :=
  ∃ (n : Bool) (m : Nat) (e : Int), x = .fin n m e ∧
    (if n then -1 else 1) * (m : Int) * 2 ^ e.toNat = k * 2 ^ (-e).toNat

/-- A finite value is `a * 2^c`. -/
def Fv.isScaled (x : Fv) (a : Nat) (c : Int) : Prop :=
  ∃ (n : Bool) (m : Nat) (e : Int), x = .fin n m e ∧ m * 2 ^ (e - c).toNat = a * 2 ^ (c - e).toNat

/-- An exact value as a result lane: saturated to the type's range with SAT, else its low bits (R136). -/
def exactLane (t : Ty) (sat : Bool) (x : Int) : LaneOut :=
  { code := if sat then saturate x t else Word.wrap x t.width }

/-- The state that a changed device leaves behind a step: its writes to memory performed in their order, with what a
fetch of code may still find of unfenced granules kept (R100). -/
def Machine.State.settled (s : State) (d : Dev) : State :=
  { mem := writeAll s.mem d.wq, dev := { d.keepOld s.mem with wq := [], tx := .ok } }

/-- Wherever the instruction fires and computes and a condition on the state and its operands holds, it answers the
state in which `f` has made its change and its result has been delivered. -/
def FiresIf (i : Instr) (ok : Site → Gathered → Mem → Dev → Prop) (f : Site → Gathered → Mem → Dev → Dev × Res) :
    Prop :=
  ∀ s e g, s.Sound → s.dev.firing i = some (e, g) → g.computes = true → ok e g s.mem s.dev →
    Machine.exec i s = .next (s.settled ((f e g s.mem s.dev).1.deliver i e g (f e g s.mem s.dev).2))

/-- Wherever the instruction can fire, it makes the change of `f` and its result goes to `deliver`, whether or not it
computes (R30). -/
def FiresAlways (i : Instr) (f : Site → Gathered → Dev → Dev × Res) : Prop :=
  ∀ s e g, s.Sound → s.dev.firing i = some (e, g) →
    Machine.exec i s = .next (s.withDev ((f e g s.dev).1.deliver i e g (f e g s.dev).2))

/-- Wherever the instruction fires with operands that let it compute, under a condition on the state and the operands
alone, it completes: it answers a next state in which its operands are consumed and a token that is not null has been
delivered. -/
def Completes (i : Instr) (ok : Site → Gathered → Dev → Prop) : Prop :=
  ∀ s e g, s.Sound → s.dev.firing i = some (e, g) → g.computes = true → ok e g s.dev →
    ∃ (t : State) (d : Dev) (r : Res) (tok : Tok), Machine.exec i s = .next t ∧ t = s.settled (d.deliver i e g r)
      ∧ settle e.ctl e.hdr.ppol e.origin g r = some tok ∧ tok.n = false

/-- As `FiresWith`, with `n` draws of the tile's generator when the rounding is stochastic (R59). -/
def Draws (i : Instr) (rm : Rm) (n : Nat) (r : Site → List Nat → Gathered → Res) : Prop :=
  FiresWith i fun e g d => ((d.draw e rm n).2, r e (d.draw e rm n).1 g)

/-- Wherever the instruction fires in a control block and computes, under a condition, it answers the state in which
its operands are consumed and captured for the block's commit; memory is unchanged (R26). -/
def CapturesIf (i : Instr) (ok : Site → Gathered → Dev → Prop) : Prop :=
  ∀ s e g, s.Sound → s.dev.firing i = some (e, g) → e.ctl = true → g.computes = true → ok e g s.dev →
    Machine.exec i s = .next (s.withDev (s.dev.captureCtl i e g))

/-- A core is committing its block, and its slot has captured its operands and has not performed (R26). -/
def Machine.Dev.committing (d : Dev) (id : CoreId) (f : Frame) (c : Capture) : Prop :=
  ∃ slot, d.focus = .commit id slot ∧ (d.core id).frame = some f ∧ f.cap slot = some c ∧ c.done = false

/-- At the commit of its block the instruction answers the state that `com` gives, under a condition on the state
and the operands. -/
def CommitsIf (i : Instr) (ok : CoreId → Frame → Capture → Mem → Dev → Prop)
    (com : CoreId → Frame → Capture → Mem → Dev → Dev) : Prop :=
  ∀ s id f c, s.Sound → s.dev.committing id f c → ok id f c s.mem s.dev →
    Machine.exec i s = .next (s.settled (com id f c s.mem s.dev))

/-- At the commit of its block the instruction answers the state that `com` gives; memory is unchanged. -/
def Commits (i : Instr) (com : CoreId → Frame → Capture → Dev → Dev) : Prop :=
  ∀ s id f c, s.Sound → s.dev.committing id f c → Machine.exec i s = .next (s.withDev (com id f c s.dev))

/-- At the commit of its block the instruction makes the change of `com` and delivers a word to its targets then,
under a condition on the state and the operands (R352, R353, R402). -/
def LateIf (i : Instr) (ok : CoreId → Frame → Capture → Mem → Dev → Prop)
    (com : CoreId → Frame → Capture → Mem → Dev → Dev × Word) : Prop :=
  CommitsIf i ok fun id f c m d => (com id f c m d).1.deliverLate id c.slot (com id f c m d).2

/-- A step answers the state whose device `f` gives, under a condition on the state; memory is unchanged. -/
def StepsIf (i : Instr) (ok : Mem → Dev → Prop) (f : Mem → Dev → Dev) : Prop :=
  ∀ s, s.Sound → ok s.mem s.dev → Machine.exec i s = .next (s.withDev (f s.mem s.dev))

/-- A step answers the state in which `f` has changed the device and its writes have been performed, under a
condition on the state. -/
def WritesIf (i : Instr) (ok : Mem → Dev → Prop) (f : Mem → Dev → Dev) : Prop :=
  ∀ s, s.Sound → ok s.mem s.dev → Machine.exec i s = .next (s.settled (f s.mem s.dev))

/-- The bank that a binding slot of the tile of an element firing names: its ownership token has arrived and has not
been passed, it is not sealed, and no store goes to a bank of class INPUT (R172, R197). -/
def ElemBank (d : Dev) (e : Site) (k : Nat) (wr : Bool) (x : Inst) (bd : Binding) (b : Bank) : Prop :=
  e.ctl = false ∧ d.inst e.cfg = some x ∧ x.bound e.tile k = some (bd, b) ∧ b.owned = true ∧ b.passed = false ∧
    b.sealed = false ∧ (wr = true → b.cls ≠ .input)

end Sys2Proof
end

