-- ==== Sys2Proof/Certificates/Slice0/Obligations.lean ====
section
/-! DEFINITION. The statements for the provers. -/

section Statements

open Sys2Proof Sys2Proof.Machine

/-! ### Encoding and stepping -/

/-- Decoding the word of a well-formed instruction gives the instruction back, whatever its operands (R82 to R92,
R95). -/
def Obligations.DecodeOfEncode : Prop :=
  ∀ i w, i.wellFormed = true → encode i = some w → decode w = .ok i

/-- A word that decodes is the word of the instruction it decodes to, so no bit of an accepted word is dropped
(R82 to R92, R97). -/
def Obligations.EncodeOfDecode : Prop := ∀ w i, decode w = .ok i → encode i = some w ∧ i.wellFormed = true

/-- Words written out in the manual's examples decode to the instructions that stand beside them (R135, R139, R162,
R182, R190, R218, R271, R291, R372, R403). -/
def Obligations.KnownWords : Prop :=
  let h : Tgt → Head := fun t => { pm := .none, t0 := t, t1 := .none }
  decode 0x2010E00E00000000#64
      = .ok (.add { hd := h (.left 7), ty := .i64, rm := .rne, sat := false, lrl := false, lrr := false, fn := 0 })
    ∧ decode 0x1700000080000000#64 = .ok (.wrg { hd := h .none, ga := 1, gb := 0, exg := 0, off := 0 })
    ∧ decode 0x1140000000000000#64
      = .ok (.bro { hd := { pm := .onTrue, t0 := .none, t1 := .none }, ga := 0, gb := 0, exg := 0, off := 0 })
    ∧ decode 0x4A30E00600000000#64
      = .ok (.fmul { hd := h (.pred 7), ty := .fp32, rm := .rne, sat := false, lrl := false, lrr := false, fn := 0 })
    ∧ decode 0x6810E00601000000#64
      = .ok (.lswp { hd := h (.left 7), ty := .fp32, imm := 0x100, fn := 0, lrl := false, lrr := false })
    ∧ decode 0x7910A00004000010#64
      = .ok (.mma { hd := h (.left 5), afmt := .e4m3, bfmt := .e4m3, acc := .set, ks := 0, scm := 0, bank := 0
                    ba := 0, bb := 1, tra := false, trb := false })
    ∧ decode 0x8111400602000001#64
      = .ok (.sts { hd := h (.left 10), ty := .fp32, lsid := 0, mode := .bcast, off := 0, auxh := 0, auxl := 1 })
    ∧ decode 0xA500000044000000#64
      = .ok (.sbindw { hd := h .none, vp := 1, ap := 1, ga := 0, gb := 0, sub := 0, aux := 0 })
    ∧ decode 0xC400000000C00200#64
      = .ok (.tresResident { hd := h .none, vp := 0, ap := 0, ga := 6, gb := 0, sub := 2, aux := 0 })
    ∧ decode 0xE10000000640001F#64 = .ok (.xinvFrames { hd := h .none, sub := 0, ga := 3, gb := 4, imm := 31 })

/-! ### Dataflow instructions -/

/-- NOP and DROP deliver nothing, FAN its operand unchanged, NULL a null token, GATE the alternative that is not null,
SEL lane by lane, POISC the substitute's DATA when its operand is poisoned; MOVI and MOVH splat their constants, and
POIS gives the origin word of a selected cause (R120 to R126, R128). LCNT and LIDX deliver the value of an enabled
loop counter, LIDX with the lane's number scaled added; MARK delivers its operand and records its marker in the
instance, or in the block it commits; RDP takes the head token of its input port, with S cleared (R121, R127,
R129). -/
def Obligations.DataflowDelivers : Prop :=
  (
    (∀ o, Delivers (.nop o) fun _ _ => .none)
      ∧ (∀ o, Delivers (.drop o) fun _ _ => .none)
      ∧ (∀ o, Delivers (.fan o) fun _ g => .data g.a.data none)
      ∧ (∀ o, Delivers (.null o) fun _ _ => .tok { n := true })
      ∧ (∀ o, Delivers (.gate o) fun _ g => match g.a.n, g.b.n with
          | true, true => .null
          | true, false => .data g.b.data none
          | false, _ => .data g.a.data none)
      ∧ (∀ o, Delivers (.sel o) fun e g => .alu (mapLanes e.ctl o.ty fun l =>
          { code := if rawLane e.ctl o.ty g.c.data l = 0 then rawLane e.ctl o.ty g.b.data l
                    else rawLane e.ctl o.ty g.a.data l }))
      ∧ (∀ o, Delivers (.poisc o) fun _ g => .data (if g.a.p then g.b.data else g.a.data) none)
      ∧ (∀ o, Delivers (.pois o) fun e g => .alu (mapLanes e.ctl o.ty fun _ =>
          { code := if g.a.p && o.imm.getLsbD (g.a.org.toNat % 128) then g.a.org.toNat else 0 }))
      ∧ (∀ o, Delivers (.movi o) fun e _ => .alu (mapLanes e.ctl o.ty fun _ => { code := moviLane o.ty o.imm }))
      ∧ (∀ o, Delivers (.movh o) fun e _ => .alu (mapLanes e.ctl o.ty fun _ =>
          { code := o.imm.toNat * 2 ^ (16 * o.fn.toNat) })))
  ∧ (
    (∀ o, Delivers (.lcnt o) fun e _ => .alu (mapLanes e.ctl o.ty fun _ =>
        { code := Word.wrap (loopValue e.lcs (e.ctr (o.imm.toNat % 4)) e.record) 32 }))
      ∧ (∀ o, Delivers (.lidx o) fun e _ => .alu (mapLanes e.ctl o.ty fun l =>
          { code := Word.wrap (loopValue e.lcs (e.ctr (o.imm.toNat % 4)) e.record
              + ((l * 2 ^ (o.imm.toNat / 16 % 16) : Nat) : Int)) 32 }))
      ∧ (∀ o, FiresWith (.mark o) fun e g d =>
          (if e.ctl then d.updFrame e.core fun f => { f with marks := f.marks ++ [(e.slot, o.imm.toNat % 4096)] }
            else d.updInst e.cfg fun x => { x with marks := x.marks ++ [o.imm.toNat % 4096] },
            .data g.a.data none))
      ∧ ∀ o x t p y rest, FiresIf (.rdp o)
          (fun e _ _ d => d.inst e.cfg = some x ∧ x.tile e.tile = some t ∧ lookup o.imm.toNat t.inp = some p
            ∧ p.q = y :: rest)
          fun e _ _ d => (d.updInst e.cfg fun x =>
            x.setTile e.tile { t with inp := insert o.imm.toNat { p with q := rest } t.inp },
            .tok { y with s := false }))

/-- The value of loop counter `j` in record `n` moves by STEP each time the counters inside it have run once, and
starts again after COUNT times (R127). -/
def Obligations.LoopCounterValue : Prop :=
  ∀ (cs : List LoopCtr) (j : Nat) (c : LoopCtr) (n : Nat), cs[j]? = some c →
    loopValue cs j n = Word.toSigned 32 (Word.wrap
      (c.start + c.step * ((n / ((cs.take j).map LoopCtr.count).prod % c.count : Nat) : Int)) 32)

/-! ### Integer instructions -/

/-- ADD to LEA narrow the exact value of their operation once, saturated with SAT and wrapped without it: sums,
differences, products, high halves, extrema and the out-of-range indications of ADDS and SUBS (R136 to R138). -/
def Obligations.IntegerExact : Prop :=
  let two : OpG → (Int → Int → Int) → Site → Gathered → Res := fun o f e g => .alu (mapLanes e.ctl o.ty fun l =>
    exactLane o.ty o.sat (f (intLane o.ty g.a.data l) (intLane o.ty g.b.data l)))
  let one : OpG → (Int → Int) → Site → Gathered → Res := fun o f e g => .alu (mapLanes e.ctl o.ty fun l =>
    exactLane o.ty o.sat (f (intLane o.ty g.a.data l)))
  let out : Ty → Int → Int := fun t x => if t.intMin ≤ x ∧ x ≤ t.intMax then 0 else 1
  (∀ o, Delivers (.add o) (two o fun a b => a + b))
    ∧ (∀ o, Delivers (.sub o) (two o fun a b => a - b))
    ∧ (∀ o, Delivers (.adds o) (two o fun a b => out o.ty (a + b)))
    ∧ (∀ o, Delivers (.subs o) (two o fun a b => out o.ty (a - b)))
    ∧ (∀ o, Delivers (.mul o) (two o fun a b => a * b))
    ∧ (∀ o, Delivers (.mulh o) (two o fun a b => a * b / ((2 ^ o.ty.width : Nat) : Int)))
    ∧ (∀ o, Delivers (.mulhw o) (two o fun a b => a * b / ((2 ^ o.ty.width : Nat) : Int)))
    ∧ (∀ o, Delivers (.lea o) (two o fun a b => a + b * ((2 ^ o.fn.toNat : Nat) : Int)))
    ∧ (∀ o, Delivers (.min o) (two o min))
    ∧ (∀ o, Delivers (.minw o) (two o min))
    ∧ (∀ o, Delivers (.max o) (two o max))
    ∧ (∀ o, Delivers (.maxw o) (two o max))
    ∧ (∀ o, Delivers (.neg o) (one o fun a => -a))
    ∧ (∀ o, Delivers (.abs o) (one o fun a => |a|))
    ∧ (∀ o, Delivers (.addi o) fun e g => .alu (mapLanes e.ctl o.ty fun l =>
        exactLane o.ty (o.fn.getLsbD 0) (intLane o.ty g.a.data l + o.imm.toInt)))
    ∧ (∀ o, Delivers (.madd o) fun e g => .alu (mapLanes e.ctl o.ty fun l =>
        exactLane o.ty o.sat
          (intLane o.ty g.a.data l * intLane o.ty g.b.data l + intLane o.ty g.c.data l)))

/-- Division truncates towards zero; by zero the quotient is 0 and the remainder the dividend, and the lane carries
the integer-division cause. A shift by the width or more gives 0, SRA the sign; ROTL shifts modulo the width
(R139, R140). -/
def Obligations.DivideAndShift : Prop :=
  let quot : OpG → (Int → Int → Int) → (Int → Int) → Site → Gathered → Res := fun o f z e g =>
    .alu (mapLanes e.ctl o.ty fun l =>
      let a := intLane o.ty g.a.data l
      let b := intLane o.ty g.b.data l
      { code := Word.wrap (if b = 0 then z a else f a b) o.ty.width, intDiv := decide (b = 0) })
  let shift : OpG → (Nat → Nat → Nat → Nat) → Site → Gathered → Res := fun o f e g =>
    .alu (mapLanes e.ctl o.ty fun l =>
      { code := f o.ty.width (bitLane o.ty g.a.data l) (bitLane o.ty g.b.data l) % 2 ^ o.ty.width })
  (∀ o, Delivers (.div o) (quot o Int.tdiv fun _ => 0))
    ∧ (∀ o, Delivers (.divw o) (quot o Int.tdiv fun _ => 0))
    ∧ (∀ o, Delivers (.rem o) (quot o Int.tmod id))
    ∧ (∀ o, Delivers (.remw o) (quot o Int.tmod id))
    ∧ (∀ o, Delivers (.shl o) (shift o fun w a k => if k < w then a * 2 ^ k else 0))
    ∧ (∀ o, Delivers (.shr o) (shift o fun w a k => if k < w then a / 2 ^ k else 0))
    ∧ (∀ o, Delivers (.sra o) (shift o fun w a k =>
        Word.wrap (Word.toSigned w a / ((2 ^ (min k (w - 1)) : Nat) : Int)) w))
    ∧ (∀ o, Delivers (.rotl o) (shift o fun w a k => a * 2 ^ (k % w) % 2 ^ w + a / 2 ^ (w - k % w)))

/-- AND, OR, XOR and ANDN act bit by bit; CLZ, POPC and BREV count and reverse the bits of a lane; CMP and CMPI give
all ones or zero; BFX and BFI take and replace a field (R137, R141 to R143). BREV puts bit `i` of a pattern at bit
`w - 1 - i`, CLZ counts the zero bits above the highest one, and BFI replaces exactly the bits of its field (R141,
R143). -/
def Obligations.BitInstructions : Prop :=
  (
    let bits : OpG → (Nat → Nat → Nat) → Site → Gathered → Res := fun o f e g =>
      .alu (mapLanes e.ctl o.ty fun l =>
        { code := f (bitLane o.ty g.a.data l) (bitLane o.ty g.b.data l) % 2 ^ o.ty.width })
    let bit : OpG → (Nat → Nat) → Site → Gathered → Res := fun o f e g =>
      .alu (mapLanes e.ctl o.ty fun l => { code := f (bitLane o.ty g.a.data l) % 2 ^ o.ty.width })
    let truth : Nat → Int → Int → Bool := fun fn a b =>
      [decide (a = b), decide (a ≠ b), decide (a < b), decide (a ≤ b), decide (a > b)].getD fn (decide (a ≥ b))
    (∀ o, Delivers (.and o) (bits o fun a b => a &&& b))
      ∧ (∀ o, Delivers (.or o) (bits o fun a b => a ||| b))
      ∧ (∀ o, Delivers (.xor o) (bits o fun a b => a ^^^ b))
      ∧ (∀ o, Delivers (.andn o) (bits o fun a b => a &&& (b ^^^ (2 ^ o.ty.width - 1))))
      ∧ (∀ o, Delivers (.clz o) (bit o (clzPat o.ty.width)))
      ∧ (∀ o, Delivers (.popc o) (bit o fun a => ((List.range o.ty.width).filter fun i => a.testBit i).length))
      ∧ (∀ o, Delivers (.brev o) (bit o (brevPat o.ty.width)))
      ∧ (∀ o, Delivers (.cmp o) fun e g => .alu (mapLanes e.ctl o.ty fun l =>
          { code := maskLane o.ty.width
              (truth o.fn.toNat (intLane o.ty g.a.data l) (intLane o.ty g.b.data l)) }))
      ∧ (∀ o, Delivers (.cmpi o) fun e g => .alu (mapLanes e.ctl o.ty fun l =>
          { code := maskLane o.ty.width (truth o.fn.toNat (intLane o.ty g.a.data l)
              (if o.ty.isI then o.imm.toInt else (o.imm.toNat : Int))) }))
      ∧ (∀ o, Delivers (.bfx o) fun e g => .alu (mapLanes e.ctl o.ty fun l =>
          { code := bfxPat o.ty o.imm.toNat (bitLane o.ty g.a.data l) % 2 ^ o.ty.width }))
      ∧ (∀ o, Delivers (.bfi o) fun e g => .alu (mapLanes e.ctl o.ty fun l =>
          { code := bfiPat o.imm.toNat (bitLane o.ty g.a.data l) (bitLane o.ty g.b.data l) % 2 ^ o.ty.width })))
  ∧ (
    (∀ w a i, i < w → (brevPat w a).testBit i = a.testBit (w - 1 - i))
      ∧ (∀ w a, 0 < w → a < 2 ^ w → a < 2 ^ (w - clzPat w a) ∧ (a ≠ 0 → 2 ^ (w - clzPat w a - 1) ≤ a))
      ∧ ∀ imm a b i, (bfiPat imm a b).testBit i
          = if imm % 64 ≤ i ∧ i < imm % 64 + (imm / 64 % 64 + 1) then b.testBit (i - imm % 64) else a.testBit i)

/-- A saturated lane holds the exact value when the type holds it, and the nearer end of the type's range when it
does not; a wrapped lane agrees with the exact value modulo 2^w (R11, R136). -/
def Obligations.NarrowingExact : Prop :=
  ∀ (t : Ty) (x : Int), t.ffmt = none →
    t.intVal (exactLane t true x).code = max t.intMin (min t.intMax x)
      ∧ (t.intVal (exactLane t false x).code - x) % ((2 ^ t.width : Nat) : Int) = 0

/-! ### Floating-point instructions -/

/-- FADD to FFMA round the exact result once: the value of each lane is the exact sum, difference, product or fused
sum rounded by RM, an invalid operation and a NaN operand carry their causes, and under stochastic rounding each lane
takes one draw (R59, R145, R151). FMIN, FMAX and FAMAX pick one of their operands' codes, FABS, FNEG and FCPYS set the
sign, FCMP gives a mask and FCLASS a class number; a NaN operand gives the canonical NaN, or the comparison's
unordered answer, and carries its cause (R152 to R155). -/
def Obligations.FloatArithmetic : Prop :=
  (
    let two : OpG → (Fv → Fv → Fv × Bool) → Site → List Nat → Gathered → Res := fun o f e us g =>
      .alu (mapLanes e.ctl o.ty fun l =>
        let x := fpLane o.ty g.a.data l
        let y := fpLane o.ty g.b.data l
        { code := o.ty.fmt.deliver o.rm o.sat (drawAt us l) (f x y).1, invalid := (f x y).2
          nanIn := x == .nan || y == .nan })
    (∀ o, Draws (.fadd o) o.rm o.ty.lanes (two o fun x y => Fv.sum o.rm [x, y]))
      ∧ (∀ o, Draws (.fsub o) o.rm o.ty.lanes (two o fun x y => Fv.sum o.rm [x, y.negate]))
      ∧ (∀ o, Draws (.fmul o) o.rm o.ty.lanes (two o Fv.mul))
      ∧ (∀ o, Draws (.ffma o) o.rm o.ty.lanes fun e us g => .alu (mapLanes e.ctl o.ty fun l =>
          let x := fpLane o.ty g.a.data l
          let y := fpLane o.ty g.b.data l
          let z := fpLane o.ty g.c.data l
          let s := if (x.mul y).2 then (.nan, false) else Fv.sum o.rm [(x.mul y).1, z]
          { code := o.ty.fmt.deliver o.rm o.sat (drawAt us l) s.1, invalid := (x.mul y).2 || s.2
            nanIn := x == .nan || y == .nan || z == .nan })))
  ∧ (
    let a : OpG → Gathered → Nat → Nat := fun o g l => bitLane o.ty g.a.data l
    let b : OpG → Gathered → Nat → Nat := fun o g l => bitLane o.ty g.b.data l
    let ext : OpG → Extremum → Site → Gathered → Res := fun o k e g => .alu (mapLanes e.ctl o.ty fun l =>
      { code := k.pick o.ty.fmt (a o g l) (b o g l), nanIn := o.ty.fmt.isNan (a o g l) || o.ty.fmt.isNan (b o g l) })
    let sign : OpG → (Gathered → Nat → Bool) → Site → Gathered → Res := fun o n e g =>
      .alu (mapLanes e.ctl o.ty fun l =>
        if o.ty.fmt.isNan (a o g l) then { code := o.ty.fmt.nanCode.getD 0, nanIn := true }
        else { code := o.ty.fmt.withSign (n g l) (a o g l % 2 ^ o.ty.fmt.signBit) })
    (∀ o, Delivers (.fmin o) (ext o .min))
      ∧ (∀ o, Delivers (.fmax o) (ext o .max))
      ∧ (∀ o, Delivers (.famax o) (ext o .amax))
      ∧ (∀ o, Delivers (.fabs o) (sign o fun _ _ => false))
      ∧ (∀ o, Delivers (.fneg o) (sign o fun g l => !(a o g l).testBit o.ty.fmt.signBit))
      ∧ (∀ o, Delivers (.fcpys o) fun e g => .alu (mapLanes e.ctl o.ty fun l =>
          { signOp o.ty.fmt (a o g l) ((b o g l).testBit o.ty.fmt.signBit) with
            nanIn := o.ty.fmt.isNan (a o g l) || o.ty.fmt.isNan (b o g l) }))
      ∧ (∀ o, Delivers (.fcmp o) fun e g => .alu (mapLanes e.ctl o.ty fun l =>
          { code := maskLane o.ty.laneWidth
              (fcmpHolds o.fn.toNat (fpLane o.ty g.a.data l) (fpLane o.ty g.b.data l))
            nanIn := o.ty.fmt.isNan (a o g l) || o.ty.fmt.isNan (b o g l) }))
      ∧ (∀ o, Delivers (.fclass o) fun e g => .alu (mapLanes e.ctl o.ty fun l =>
          { code := fpClass o.ty.fmt (a o g l), nanIn := o.ty.fmt.isNan (a o g l) })))

/-- FCVT converts the elements that R156 pairs, FRND rounds to whole numbers, FSCALE scales by powers of two, FDOT2
and FDOT4 sum their products with the FP32 lane of c before one rounding, and FRCP, FSQRT and the six functions of
R76 give their value lane by lane, with the draws each takes under stochastic rounding (R76 to R78, R156 to R161).
The special and exact cases of R78's table hold in FP32, BF16 and FP16, with one rounding by RM in BF16 and FP16; FRCP
and FSQRT round the exact reciprocal and root once (R77, R78); FRND leaves a whole number as it stands and FSCALE
rounds `a * 2^b` once. The value of the six functions where no special or exact case of R78 holds is free (log entry
8). -/
def Obligations.FloatFunctions : Prop :=
  (
  let un : OpG → (FFmt → Nat → Nat → LaneOut) → Site → List Nat → Gathered → Res := fun o f e us g =>
    .alu (mapLanes e.ctl o.ty fun l => f o.ty.fmt (drawAt us l) (bitLane o.ty g.a.data l))
  let fn : FnId → OpG → Site → List Nat → Gathered → Res := fun k o =>
    un o fun f u x => fnLane k o.ty f o.rm o.sat u x
  (∀ o, Draws (.fcvt o) o.rm (fcvtDraws o.ty (Ty.ofCode (o.fn.toNat % 16))) fun e us g =>
      .alu (fpConvert e.ctl o.ty (Ty.ofCode (o.fn.toNat % 16)) (o.fn.toNat / 16) o.rm o.sat us g.a.data))
    ∧ (∀ o, Draws (.frnd o) o.rm o.ty.lanes (un o fun f u x => frndLane f o.rm u x))
    ∧ (∀ o, Draws (.frcp o) o.rm o.ty.lanes (un o fun f u x => frcpLane f o.rm o.sat u x))
    ∧ (∀ o, Draws (.fsqrt o) o.rm o.ty.lanes (un o fun f u x => fsqrtLane f o.rm o.sat u x))
    ∧ (∀ o, Draws (.frsq o) o.rm o.ty.lanes (fn .rsq o))
    ∧ (∀ o, Draws (.fexp2 o) o.rm o.ty.lanes (fn .exp2 o))
    ∧ (∀ o, Draws (.flog2 o) o.rm o.ty.lanes (fn .log2 o))
    ∧ (∀ o, Draws (.fsint o) o.rm o.ty.lanes (fn .sint o))
    ∧ (∀ o, Draws (.fcost o) o.rm o.ty.lanes (fn .cost o))
    ∧ (∀ o, Draws (.ftanh o) o.rm o.ty.lanes (fn .tanh o))
    ∧ (∀ o, Draws (.fscale o) o.rm o.ty.lanes fun e us g => .alu (mapLanes e.ctl o.ty fun l =>
        fscaleLane o.ty o.ty.fmt o.rm o.sat (drawAt us l) (bitLane o.ty g.a.data l) (bitLane o.ty g.b.data l)))
    ∧ (∀ o, Draws (.fdot2 o) o.rm 32 fun e us g =>
        .alu (fpDot e.ctl o.ty o.ty.fmt 2 o.rm o.sat us g.a.data g.b.data g.c.data))
    ∧ (∀ o, Draws (.fdot4 o) o.rm 32 fun e us g =>
        .alu (fpDot e.ctl o.ty o.ty.fmt 4 o.rm o.sat us g.a.data g.b.data g.c.data)))
  ∧ ∀ (t : Ty) (f : FFmt) (rm : Rm) (sat : Bool) (u x : Nat), t.ffmt = some f → f = .fp32 ∨ f = .bf16 ∨ f = .fp16 →
      let once : Rm → Fv → Nat := fun r v => f.deliver r sat u v
      let y := once (if f = .fp32 then .rne else rm)
      let out : FnId → LaneOut := fun k => fnLane k t f rm sat u x
      (f.decode x = .nan → ∀ k, (out k).code = y .nan ∧ (out k).nanIn = true ∧ (out k).invalid = false)
        ∧ (∀ n, f.decode x = .inf n →
            out .rsq = (if n then { code := y .nan, invalid := true } else { code := y (.fin false 0 0) })
              ∧ out .exp2 = { code := y (if n then .fin false 0 0 else .inf false) }
              ∧ out .log2 = (if n then { code := y .nan, invalid := true } else { code := y (.inf false) })
              ∧ out .sint = { code := y .nan, invalid := true } ∧ out .cost = { code := y .nan, invalid := true }
              ∧ out .tanh = { code := y (.fin n 1 0) }
              ∧ frcpLane f rm sat u x = { code := once rm (.fin n 0 0) }
              ∧ fsqrtLane f rm sat u x
                = (if n then { code := once rm .nan, invalid := true } else { code := once rm (.inf false) }))
        ∧ (∀ n e, f.decode x = .fin n 0 e →
            out .rsq = { code := y (.inf n), divZero := true } ∧ out .exp2 = { code := y (.fin false 1 0) }
              ∧ out .log2 = { code := y (.inf true), divZero := true } ∧ out .sint = { code := y (.fin n 0 0) }
              ∧ out .cost = { code := y (.fin false 1 0) } ∧ out .tanh = { code := y (.fin n 0 0) }
              ∧ frcpLane f rm sat u x = { code := once rm (.inf n), divZero := true }
              ∧ fsqrtLane f rm sat u x = { code := once rm (.fin n 0 0) })
        ∧ (∀ m e, m ≠ 0 → f.decode x = .fin true m e →
            out .rsq = { code := y .nan, invalid := true } ∧ out .log2 = { code := y .nan, invalid := true }
              ∧ fsqrtLane f rm sat u x = { code := once rm .nan, invalid := true })
        ∧ (∀ m e (k : Int), m = 2 ^ Nat.log2 m → f.decode x = .fin false m e → Nat.log2 m + e = 2 * k →
            out .rsq = { code := y (.fin false 1 (-k)) })
        ∧ (∀ m e (k : Int), m = 2 ^ Nat.log2 m → f.decode x = .fin false m e → Nat.log2 m + e = k →
            out .log2 = { code := y (.fin (decide (k < 0)) k.natAbs 0) })
        ∧ (∀ k : Int, (f.decode x).isWhole k →
            (128 ≤ k → out .exp2 = { code := y (if sat then FFmt.fp32.decode 0x7F7FFFFF else .inf false) })
              ∧ (-149 ≤ k → k < 128 → out .exp2 = { code := y (.fin false 1 k) })
              ∧ (k < -149 → out .exp2 = { code := y (.fin false 0 0) }))
        ∧ (∀ n m e (k : Int), m ≠ 0 → f.decode x = .fin n m e → (Fv.fin n m (e + 2)).isWhole k →
            out .sint = { code := y (if k % 4 = 1 then .fin false 1 0 else if k % 4 = 3 then .fin true 1 0
                else .fin false 0 0) }
              ∧ out .cost = { code := y (if k % 4 = 0 then .fin false 1 0 else if k % 4 = 2 then .fin true 1 0
                else .fin false 0 0) })
        ∧ (∀ n m (e : Int), f.decode x = .fin n m e → 10 * 2 ^ (-e).toNat ≤ m * 2 ^ e.toNat →
            out .tanh = { code := y (.fin n 1 0) })
        ∧ (∀ n m (e : Int), m ≠ 0 → f.decode x = .fin n m e →
            ∃ (j q : Nat), Nat.log2 m + 100 ≤ j ∧ q / 2 = 2 ^ j / m ∧ (q % 2 = 0 ↔ m ∣ 2 ^ j)
              ∧ frcpLane f rm sat u x = { code := once rm (.fin n q (-j - 1 - e)) })
        ∧ (∀ m (e : Int), m ≠ 0 → f.decode x = .fin false m e →
            ∃ (a r : Nat) (c : Int), (Fv.fin false m e).isScaled a (2 * c) ∧ (r / 2) * (r / 2) ≤ a
              ∧ a < (r / 2 + 1) * (r / 2 + 1) ∧ (r % 2 = 0 ↔ (r / 2) * (r / 2) = a) ∧ 2 ^ 200 ≤ a
              ∧ fsqrtLane f rm sat u x = { code := once rm (.fin false r (c - 1)) })
        ∧ (∀ n m (e : Int), f.decode x = .fin n m e → 0 ≤ e → (frndLane f rm u x).code = x % 2 ^ (f.signBit + 1))
        ∧ (∀ n m (e : Int), f.decode x = .fin n m e → frndLane f rm u x
            = { code := f.deliver .rne false 0 (.fin n (roundAt rm n u m e 0) 0) })
        ∧ (∀ n, f.decode x = .inf n → (frndLane f rm u x).code = f.infCode n)
        ∧ (∀ n m (e : Int) b, m ≠ 0 → f.decode x = .fin n m e →
            fscaleLane t f rm sat u x b = { code := once rm (.fin n m (e + Word.toSigned t.width b)) })
        ∧ ∀ b, f.decode x = .nan ∨ (f.decode x).isInf = true ∨ (f.decode x).isZero = true →
            (fscaleLane t f rm sat u x b).code = f.deliver .rne false 0 (f.decode x)

/-- Rounding a finite value that the format represents gives its code back, whatever the rounding mode and the draw
(R57, R59). -/
def Obligations.RoundingIsExact : Prop :=
  ∀ (f : FFmt) (rm : Rm) (sat : Bool) (u b : Nat) (n : Bool) (m : Nat) (e : Int), b < 2 ^ (f.signBit + 1) →
    f.decode b = .fin n m e → f.roundFin rm sat u n m e = b

/-! ### Lane instructions -/

/-- LSWP, LPERM, LBCST and LSLD move whole lanes; LRED and LSCAN fold them; LVOTE, LMSK, LCMPR and LEXPD read and
build lane masks; LPACK and LUNPK pack 4-bit and 6-bit elements (R162 to R169). LSWP exchanges lanes in blocks and
negates with NEG (R163); LRED gives every lane, and LSCAN each lane of its prefix, the exact sum narrowed once, the
least or greatest of the integers, or the bits of all of them (R165); LVOTE's four modes count and gather the lanes
that hold true (R166); LPACK and LUNPK place each bit as R168 and R169 say. -/
def Obligations.LaneInstructions : Prop :=
  (
  let raw : Ty → (Nat → Nat) → AluOut := fun t f =>
    { lanes := (List.range t.lanes).map fun l => { code := f l }, w := t.laneWidth }
  (∀ o, Delivers (.lswp o) fun _ g => .alu (lswp o.ty (o.imm.toNat % 8) (o.imm.getLsbD 8) g.a.data))
    ∧ (∀ o, Delivers (.lperm o) fun _ g => .alu (raw o.ty fun l =>
        bitLane o.ty g.a.data (bitLane o.ty g.b.data l % o.ty.lanes)))
    ∧ (∀ o, Delivers (.lbcst o) fun _ g => .alu (raw o.ty fun _ => bitLane o.ty g.a.data o.imm.toNat))
    ∧ (∀ o, Delivers (.lsld o) fun _ g => .alu (raw o.ty fun l =>
        if l + o.imm.toNat < o.ty.lanes then bitLane o.ty g.a.data (l + o.imm.toNat)
        else bitLane o.ty g.b.data (l + o.imm.toNat - o.ty.lanes)))
    ∧ (∀ o, Draws (.lred o) o.rm 1 fun _ us g => .alu (lred o.ty o.fn.toNat o.rm o.sat us g.a.data))
    ∧ (∀ o, Draws (.lscan o) o.rm o.ty.lanes fun _ us g =>
        .alu (lscan o.ty o.fn.toNat o.rm o.sat us g.a.data))
    ∧ (∀ o, Delivers (.lvote o) fun _ g => .alu (lvote o.ty o.fn.toNat g.a.data))
    ∧ (∀ o, Delivers (.lmsk o) fun _ g => .alu (raw o.ty fun l =>
        maskLane o.ty.laneWidth (if o.fn == 0 then decide (l < laneOf 32 g.a.data 0) else g.a.data.getLsbD l)))
    ∧ (∀ o, Delivers (.lcmpr o) fun _ g => .alu (raw o.ty fun l =>
        (((List.range o.ty.lanes).filter fun j => bitLane o.ty g.b.data j != 0).map
          fun j => bitLane o.ty g.a.data j).getD l 0))
    ∧ (∀ o, Delivers (.lexpd o) fun _ g => .alu (raw o.ty fun l =>
        if bitLane o.ty g.b.data l = 0 then 0
        else bitLane o.ty g.a.data ((List.range l).filter fun j => bitLane o.ty g.b.data j != 0).length))
    ∧ (∀ o, Delivers (.lpack o) fun _ g => .alu (lpack o.ty o.fn.toNat o.sat g.a.data g.b.data))
    ∧ (∀ o, Delivers (.lunpk o) fun _ g => .alu (lunpk o.ty o.fn.toNat g.a.data g.b.data)))
  ∧ ∀ (t : Ty) (rm : Rm) (sat : Bool) (us : List Nat) (a b : Data) (l : Nat), l < t.lanes →
      let ints : Nat → List Int := fun k => (List.range k).map (intLane t a)
      let red : Nat → Option LaneOut := fun fn => (lred t fn rm sat us a).lanes[l]?
      let scan : Nat → Option LaneOut := fun fn => (lscan t fn rm sat us a).lanes[l]?
      (∀ k, (lswp t k false a).lanes[l]? = some { code := bitLane t a (l ^^^ 2 ^ k) })
        ∧ (∀ k f v, t.ffmt = some f → v = bitLane t a (l ^^^ 2 ^ k) → (lswp t k true a).lanes[l]? = some
            (if l.testBit k then { code := v }
              else if f.isNan v then { code := f.nanCode.getD 0, nanIn := true }
              else { code := f.withSign (!v.testBit f.signBit) (v % 2 ^ f.signBit) }))
        ∧ (t.ffmt = none → red 0 = some (exactLane t sat (ints t.lanes).sum)
            ∧ scan 0 = some (exactLane t sat (ints (l + 1)).sum))
        ∧ (∀ f, t.ffmt = some f →
            let add : Nat → Nat → LaneOut := fun u k =>
              let vs := (List.range k).map (fpLane t a)
              { code := f.deliver rm sat u (Fv.sum rm vs).1, invalid := (Fv.sum rm vs).2
                nanIn := vs.any (· == .nan) }
            red 0 = some (add (drawAt us 0) t.lanes) ∧ scan 0 = some (add (drawAt us l) (l + 1)))
        ∧ (t.ffmt = none → ∃ x y, red 1 = some { code := x } ∧ red 2 = some { code := y }
            ∧ t.intVal x ∈ ints t.lanes ∧ t.intVal y ∈ ints t.lanes
            ∧ ∀ z ∈ ints t.lanes, t.intVal x ≤ z ∧ z ≤ t.intVal y)
        ∧ (∀ f j k, t.ffmt = some f → j < t.lanes → f.isNan (bitLane t a j) = true → 1 ≤ k → k ≤ 3 →
            red k = some { code := f.nanCode.getD 0, nanIn := true })
        ∧ (∃ x y z, red 4 = some { code := x } ∧ red 5 = some { code := y } ∧ red 6 = some { code := z }
            ∧ ∀ i, i < t.laneWidth →
              x.testBit i = (List.range t.lanes).all (fun j => i < t.width && (bitLane t a j).testBit i)
                ∧ y.testBit i = (List.range t.lanes).any (fun j => (bitLane t a j).testBit i)
                ∧ z.testBit i
                  = (((List.range t.lanes).filter fun j => (bitLane t a j).testBit i).length % 2 == 1))
        ∧ (∀ j, j < 32 → ∃ v0 v1 v2 v3, (lvote t 0 a).lanes[j]? = some { code := v0 }
            ∧ (lvote t 1 a).lanes[j]? = some { code := v1 } ∧ (lvote t 2 a).lanes[j]? = some { code := v2 }
            ∧ (lvote t 3 a).lanes[j]? = some { code := v3 }
            ∧ v0 = (if ∃ i, i < t.lanes ∧ bitLane t a i ≠ 0 then 0xFFFFFFFF else 0)
            ∧ v1 = (if ∀ i, i < t.lanes → bitLane t a i ≠ 0 then 0xFFFFFFFF else 0)
            ∧ (∀ i, i < 32 → v2.testBit i = decide (32 * j + i < t.lanes ∧ bitLane t a (32 * j + i) ≠ 0))
            ∧ v3 = ((List.range t.lanes).filter fun i => bitLane t a i != 0).length)
        ∧ (∀ q v j, v = (if t = .e3m2 ∨ t = .e2m3 then 6 else 4) → t.laneWidth = 8 → j < 1024 →
            let p := 1024 * q + j
            let x := laneOf 8 (if p / v / 128 = 8 * q / v then a else b) (p / v % 128)
            let el := if t = .i8 then Word.wrap (if sat then max (-8) (min 7 (Word.toSigned 8 x)) else Word.toSigned 8 x) 4
              else x % 2 ^ v
            (lpack t q sat a b).lanes[j]? = some { code := (el.testBit (p % v)).toNat })
        ∧ ∀ q v j, v = (if t = .e3m2 ∨ t = .e2m3 then 6 else 4) → j < 128 →
            let el := (b.toNat * 2 ^ 1024 + a.toNat) / 2 ^ (128 * q * v - 1024 * (q * v / 8) + v * j) % 2 ^ v
            (lunpk t q a b).lanes[j]?
              = some { code := if t = .i8 then Word.wrap (Word.toSigned v el) 8 else el }

/-- Lane `l` of the DATA that an instruction of several lanes delivers is lane `l` of what it computed (R7, R136). -/
def Obligations.LanesOfResult : Prop :=
  ∀ (o : AluOut) (l : Nat) (x : LaneOut), 0 < o.w → o.lanes.length * o.w ≤ 1024 → o.lanes[l]? = some x →
    laneOf o.w (o.data false) l = x.code % 2 ^ o.w

/-- Expanding what LCMPR compressed under one mask gives the masked lanes back, and 0 in the others (R167). -/
def Obligations.LaneRoundTrips : Prop :=
  ∀ (t : Ty) (a b : Data) (l : Nat), l < t.lanes →
    laneOf t.laneWidth ((lexpd t ((lcmpr t a b).data false) b).data false) l
      = if bitLane t b l = 0 then 0 else bitLane t a l

/-! ### Matrix instructions -/

/-- MBIND arms the bank for its binding with the holds it names, once the bank is owned, holds a complete fill and the
binding has no hold left; with none named it skips the binding for the record and delivers null (R178, R183). -/
def Obligations.MbindArms : Prop :=
  let holds : OpI → Gathered → Nat := fun o g =>
    if o.imm.toNat / 16 % 256 = 0 then laneOf 32 g.a.data 0 % 256 else o.imm.toNat / 16 % 256
  (∀ o x bd b, FiresIf (.mbind o)
      (fun e g _ d => d.inst e.cfg = some x ∧ x.bound e.tile (o.imm.toNat % 16) = some (bd, b)
        ∧ b.passed = false ∧ b.owned = true ∧ lookup (holdKey e.tile (o.imm.toNat % 16)) b.holds = none
        ∧ b.readFull = true ∧ holds o g ≠ 0)
      fun e g _ d => (d.putBank e.cfg bd.tile bd.bank
          { b with holds := insert (holdKey e.tile (o.imm.toNat % 16)) (holds o g, e.record) b.holds },
        .data g.a.data none))
    ∧ ∀ o, FiresIf (.mbind o) (fun _ g _ _ => holds o g = 0)
        fun e _ _ d => (d.updInst e.cfg fun x => x.skip e.tile (o.imm.toNat % 16) e.record, .null)

/-- MMA and MMASP, with both operands armed and a permit of the governor: the accumulator bank takes the sum of
products over the fills, from zero with SET, the holds of both bindings are released, the partition's meter counts
the tile clocks, and a is delivered (R45, R72 to R75, R178, R184, R185). -/
def Obligations.MatrixMultiply : Prop :=
  let acc : OpX → Bool → Site → Ct → Bank → Bank → AccBank := fun o sp e c a b =>
    let m := mmaOp o sp a.fill b.fill c.me.scale
    (c.me.bank o.bank.val).mma m (o.acc == .set) e.hdr.ppol e.origin (a.badRows (m.a.size m.groups))
      (b.badRows (m.b.size m.groups)) (originWord false e.col e.row o.ba.val 7)
      (originWord false e.col e.row o.bb.val 7)
  let ok : OpX → Inst → Ct → Binding → Bank → Binding → Bank → Site → Gathered → Mem → Dev → Prop :=
    fun o x c da a db b e _ _ d => d.inst e.cfg = some x ∧ x.ct e.tile = some c ∧ x.granted ≠ 0
      ∧ x.fillAt e.tile o.ba.val e.record = .ready da a ∧ x.fillAt e.tile o.bb.val e.record = .ready db b
  let eff : OpX → Bool → Inst → Ct → Binding → Bank → Binding → Bank → Site → Gathered → Mem → Dev → Dev × Res :=
    fun o sp x c da a db b e g _ d =>
      let m := mmaOp o sp a.fill b.fill c.me.scale
      let d := (d.operandReport e o.ba.val da a (a.badRows (m.a.size m.groups))).operandReport e o.bb.val db b
        (b.badRows (m.b.size m.groups))
      (((d.meter x.part 1 (mmaClocks o sp)).updInst e.cfg fun x =>
        x.updMe e.tile fun me => me.setBank o.bank.val (acc o sp e c a b)).releases e [o.ba.val, o.bb.val],
        .data g.a.data none)
  (∀ o x c da a db b, FiresIf (.mma o) (ok o x c da a db b) (eff o false x c da a db b))
    ∧ ∀ o x c da a db b, FiresIf (.mmasp o) (ok o x c da a db b) (eff o true x c da a db b)

/-- MZERO clears a bank, MSWAP exchanges two banks with their poisoned rows, MACCI loads a bank from a fill with its
KS set, and MSCLS copies a fill into scale memory; each delivers a (R186, R187, R189, R190). MOUT of a bank with no
poisoned row and no invalid conversion: the converted elements go row by row to the output port T0 names, or fill the
bank of its binding whole, and nothing is delivered (R188). -/
def Obligations.AccumulatorInstructions : Prop :=
  (
    (∀ o, FiresWith (.mzero o) fun e g d =>
        (d.updInst e.cfg fun x => x.updMe e.tile fun me =>
          me.setBank o.bank.val { me.bank o.bank.val with words := [], pois := [] }, .data g.a.data none))
      ∧ (∀ o, FiresWith (.mswap o) fun e g d =>
          (d.updInst e.cfg fun x => x.updMe e.tile fun me =>
            (me.setBank o.bank.val
              { me.bank o.bank.val with
                words := (me.bank (o.bb.val % 4)).words, pois := (me.bank (o.bb.val % 4)).pois }).setBank
              (o.bb.val % 4)
              { me.bank (o.bb.val % 4) with
                words := (me.bank o.bank.val).words, pois := (me.bank o.bank.val).pois }, .data g.a.data none))
      ∧ (∀ o, o.ks = 0 → Delivers (.macci o) fun _ g => .data g.a.data none)
      ∧ (∀ o x bd b, o.ks ≠ 0 → FiresIf (.macci o)
          (fun e _ _ d => d.inst e.cfg = some x ∧ x.fillAt e.tile o.ba.val e.record = .ready bd b
            ∧ b.sealed = false ∧ b.bad = [])
          fun e g _ d => ((d.updInst e.cfg fun x => x.updMe e.tile fun me =>
              me.setBank o.bank.val
                { me.bank o.bank.val with words := loadAcc (o.afmt == .bf16) b.fill, pois := [] }).releases e
              [o.ba.val], .data g.a.data none))
      ∧ ∀ o x bd b, FiresIf (.mscls o)
          (fun e _ _ d => d.inst e.cfg = some x ∧ x.fillAt e.tile o.ba.val e.record = .ready bd b ∧ b.bad = [])
          fun e g _ d => ((d.updInst e.cfg fun x => x.updMe e.tile fun me =>
              { me with
                scale := writeAll me.scale (bytesAt (1024 * o.bb.val)
                  (readBytes b.port (b.bufBase b.readPtr) (256 * (o.ks.toNat + 1))))
                scaleCaps := me.capsAfter b (1024 * o.bb.val) (256 * (o.ks.toNat + 1)) }).releases e [o.ba.val],
            .data g.a.data none))
  ∧ (
    let outs : OpG → Site → Ct → Dev → List LaneOut := fun o e c d =>
      moutElems o (c.me.bank (o.fn.toNat % 4)) (d.draw e o.rm (128 * 192)).1
    let clean : OpG → Site → Ct → Dev → Prop := fun o e c d =>
      (c.me.bank (o.fn.toNat % 4)).lowest = none
        ∧ (outs o e c d).all fun r => (laneCause e.hdr.ppol { code := 0, invalid := r.invalid }).isNone
    (∀ o p x c, o.hd.t0 = .out p → FiresIf (.mout o)
        (fun e _ _ d => d.inst e.cfg = some x ∧ x.ct e.tile = some c ∧ clean o e c d)
        fun e _ _ d =>
          let bits := packBitsOf o.ty.width ((outs o e c d).map (·.code))
          let bad := (outs o e c d).map fun r =>
            (laneCause e.hdr.ppol { code := 0, invalid := r.invalid }).isSome
          ((d.draw e o.rm (128 * 192)).2.updInst e.cfg fun x => match x.tile e.tile with
            | some t => x.setTile e.tile (t.burst e.blk e.record p.val
                (moutToks o.ty.width (c.me.bank (o.fn.toNat % 4)) bad bits (e.origin 1)) true)
            | none => x, .none))
      ∧ ∀ o x c bd b, (∀ p, o.hd.t0 ≠ .out p) → FiresIf (.mout o)
          (fun e _ _ d => ElemBank (d.draw e o.rm (128 * 192)).2 e (o.fn.toNat / 4) true x bd b
            ∧ d.inst e.cfg = some x ∧ x.ct e.tile = some c ∧ clean o e c d ∧ b.fillFull = false)
          fun e _ _ d =>
            ((d.draw e o.rm (128 * 192)).2.putBank e.cfg bd.tile bd.bank (b.wholeFill (Word.toBytes
              (128 * 192 * o.ty.width / 8) (packBitsOf o.ty.width ((outs o e c d).map (·.code))))), .none))

/-! ### Scratchpad and synchronisation -/

/-- LDS and STS of an element block read and write the elements that their addressing mode names, in lane order, when
all of them lie in the bank (R193, R194). UPD, UPDF and UCAS of an element block update their elements in ascending
lane order, UPDF and UCAS delivering the old values; FENCE fires when the stores and updates it names have performed,
BARA adds to a counter and BARW fires at its target (R202 to R204). -/
def Obligations.ElementScratch : Prop :=
  (
    (∀ o x bd b, FiresIf (.lds o)
        (fun e g _ d => ElemBank d e o.auxl.toNat false x bd b
          ∧ (eltOutside o (eltIdx o g.a.data o.ty.lanes)).2 = false)
        fun e g _ d =>
          let es := eltIdx o g.a.data o.ty.lanes
          let p := d.elemsPoison e o.auxl.toNat bd b (eltBytes o) es
          (p.1, .data (packLanes o.ty.laneWidth (b.loadElems (eltBytes o) es)) p.2))
      ∧ ∀ o x bd b, FiresIf (.sts o)
          (fun e g _ d => ElemBank d e o.auxl.toNat true x bd b
            ∧ (eltOutside o (eltIdx o g.a.data (if o.mode == .bcast then 1 else o.ty.lanes))).2 = false)
          fun e g _ d => (d.putBank e.cfg bd.tile bd.bank (b.storeElems (eltBytes o)
            (eltIdx o g.a.data (if o.mode == .bcast then 1 else o.ty.lanes)) (storeLanes o g.b.data)), .done))
  ∧ (
    let ok : OpM → Inst → Binding → Bank → Site → Gathered → Mem → Dev → Prop := fun o x bd b e g _ d =>
      ElemBank d e o.auxh.toNat true x bd b ∧ (eltOutside o (eltIdx o g.a.data o.ty.lanes)).2 = false
    let eff : OpM → Bool → (Gathered → Nat → Nat → Nat) → Binding → Bank → Site → Gathered → Mem → Dev → Dev × Res :=
      fun o res f bd b e g _ d =>
        let es := eltIdx o g.a.data o.ty.lanes
        let u := b.updateElems (eltBytes o) (f g) 0 es
        (d.putBank e.cfg bd.tile bd.bank u.1,
          if res then .data (packLanes o.ty.laneWidth u.2) none else .done)
    let op : OpM → Gathered → Nat → Nat → Nat := fun o g l old =>
      updateOp o.auxl.toNat o.ty old (laneOf o.ty.laneWidth g.b.data l)
    (∀ o x bd b, b.bad = [] → FiresIf (.upd o) (ok o x bd b) (eff o false (op o) bd b))
      ∧ (∀ o x bd b, b.bad = [] → FiresIf (.updf o) (ok o x bd b) (eff o true (op o) bd b))
      ∧ (∀ o x bd b, b.bad = [] → FiresIf (.ucas o) (ok o x bd b) (eff o true (fun g l old =>
          if old % 2 ^ o.ty.width = laneOf o.ty.laneWidth g.b.data l % 2 ^ o.ty.width
          then laneOf o.ty.laneWidth g.c.data l % 2 ^ o.ty.width else old) bd b))
      ∧ (∀ o c b, FiresIf (.fence o)
          (fun e _ _ d => e.ctl = false ∧ (d.inst e.cfg).bind (·.ct e.tile) = some c ∧ c.blks[e.blk]? = some b
            ∧ b.fenceMet (o.imm.getLsbD 8) (o.imm.getLsbD 9) e.record = true)
          fun _ g _ d => (d, .data g.a.data none))
      ∧ (∀ o x bd b mt, FiresIf (.bara o)
          (fun e _ _ d => e.ctl = false ∧ d.inst e.cfg = some x ∧ x.bound e.tile o.auxh.toNat = some (bd, b)
            ∧ x.mt bd.tile = some mt)
          fun e _ _ d => ((d.updInst e.cfg fun x =>
            x.setMt bd.tile (mt.bara o.auxl.toNat (BitVec.ofInt 32 o.off.toInt))).undoable e.cfg bd.tile
            (.bara o.auxl.toNat (BitVec.ofInt 32 o.off.toInt)), .done))
      ∧ ∀ o x bd b mt, FiresIf (.barw o)
          (fun e g _ d => e.ctl = false ∧ d.inst e.cfg = some x ∧ x.bound e.tile o.auxh.toNat = some (bd, b)
            ∧ x.mt bd.tile = some mt
            ∧ barrierMet (mt.counter o.auxl.toNat) (BitVec.ofNat 32 (laneOf 32 g.b.data 0)) = true)
          fun _ _ _ d => (d, .alu (splat false o.ty (mt.counter o.auxl.toNat).toNat)))

/-- A load of a bank reads back what a store of the same elements put there, and a store leaves every byte outside
its elements alone (R193, R194). -/
def Obligations.ElementReadAfterWrite : Prop :=
  ∀ (b : Bank) (off s x : Nat), b.bytes.wf = true →
    (b.setElem off s x).elem off s = x % 2 ^ (8 * s)
      ∧ ∀ a, (a < off ∨ off + s ≤ a) → readByte (b.setElem off s x).bytes a = readByte b.bytes a

/-- The row and word instructions of an element block: LDB reads a row of the armed fill, of the FIFO's oldest row or
of the LINE ring and with LAST ends its read; STB writes a row or pushes one; LDV, STV and VRECL act on one version
of a word; WFA and UWAIT deliver the element once its condition holds (R178, R195, R198, R199). -/
def Obligations.ElementRowsAndWords : Prop :=
  let key : OpM → Site → Nat := fun o e => holdKey e.tile o.auxl.toNat
  let ready : OpM → Inst → Bank → Site → Prop := fun o x b e =>
    b.mode = .tile → b.armedFor (key o e) e.record = true
      ∧ (x.skipped e.tile o.auxl.toNat e.record && o.auxh.getLsbD 0) = false
  (∀ o x bd b r off, b.bad = [] → FiresIf (.ldb o)
      (fun e g _ d => ElemBank d e o.auxl.toNat false x bd b ∧ rowIndex o g.a.data = r
        ∧ (b.mode ≠ .fifo → r.isSome = true) ∧ ready o x b e
        ∧ (b.mode = .tile → 0 ≤ r.getD 0 ∧ (r.getD 0).toNat < b.rowLimit)
        ∧ b.rowAt true (r.getD 0) = .at_ off)
      fun e g _ d => (d.putBank e.cfg bd.tile bd.bank (b.afterRead (o.auxh.getLsbD 0) (some (key o e))),
        .tok { data := b.row off, s := b.rowS off, p := g.org.isSome, org := g.org.getD 0 }))
    ∧ (∀ o x bd b, b.mode ≠ .fifo → FiresIf (.ldb o)
        (fun e g _ d => ElemBank d e o.auxl.toNat false x bd b ∧ rowIndex o g.a.data = none ∧ ready o x b e)
        fun e g _ d => (d.putBank e.cfg bd.tile bd.bank (b.afterRead (o.auxh.getLsbD 0) (some (key o e))),
          .tok { p := g.org.isSome, org := g.org.getD 0 }))
    ∧ (∀ o x bd b r, b.mode = .tile → FiresIf (.stb o)
        (fun e g _ d => ElemBank d e o.auxl.toNat true x bd b ∧ b.fillFull = false
          ∧ rowIndex o g.a.data = r ∧ ∀ i, r = some i → 0 ≤ i ∧ i.toNat < b.rowLimit)
        fun e g _ d => (d.putBank e.cfg bd.tile bd.bank (match r with
          | some i => b.putRow i.toNat g.b.data g.b.s (o.auxh.getLsbD 0)
          | none => if o.auxh.getLsbD 0 then b.endFill else b), .done))
    ∧ (∀ o x bd b b', b.mode ≠ .tile → FiresIf (.stb o)
        (fun e g _ d => ElemBank d e o.auxl.toNat true x bd b ∧ b.push g.b.data g.b.s = some b')
        fun e _ _ d => (d.putBank e.cfg bd.tile bd.bank b', .done))
    ∧ (∀ o x bd b r v, b.bad = [] → FiresIf (.ldv o)
        (fun e g _ d => ElemBank d e o.auxl.toNat false x bd b ∧ rowIndex o g.a.data = some r
          ∧ (wordOut (some r)).2 = false ∧ (b.vword r.toNat).ldv (laneOf 32 g.b.data 0) = .ok v)
        fun _ _ _ d => (d, .data ((splat false o.ty (v.toNat % 2 ^ o.ty.width)).data false) none))
    ∧ (∀ o x bd b r w, FiresIf (.stv o)
        (fun e g _ d => ElemBank d e o.auxl.toNat true x bd b ∧ rowIndex o g.a.data = some r
          ∧ (wordOut (some r)).2 = false
          ∧ (b.vword r.toNat).stv (laneOf 32 g.c.data 0) (BitVec.ofNat 64 (laneOf 32 g.b.data 0)) = .ok w)
        fun e g _ d => ((d.putBank e.cfg bd.tile bd.bank (b.setVword r.toNat w)).undoable e.cfg bd.tile
          (.stv bd.bank r.toNat (laneOf 32 g.c.data 0)), .done))
    ∧ (∀ o x bd b r, FiresIf (.vrecl o)
        (fun e g _ d => ElemBank d e o.auxl.toNat true x bd b ∧ rowIndex o g.a.data = some r
          ∧ (wordOut (some r)).2 = false)
        fun e g _ d => ((d.putBank e.cfg bd.tile bd.bank
          (b.setVword r.toNat ((b.vword r.toNat).vrecl (laneOf 32 g.b.data 0)))).undoable e.cfg bd.tile
          (.vrecl bd.bank r.toNat (b.vword r.toNat).floor
            ((b.vword r.toNat).live.filter fun p => p.1 < laneOf 32 g.b.data 0)), .done))
    ∧ (∀ i o x bd b, (i = .stv o ∨ i = .vrecl o) → FiresIf i
        (fun e g _ d => ElemBank d e o.auxl.toNat true x bd b ∧ rowIndex o g.a.data = none)
        fun _ _ _ d => (d, .done))
    ∧ (∀ o x bd b, FiresIf (.ldv o)
        (fun e g _ d => ElemBank d e o.auxl.toNat false x bd b ∧ rowIndex o g.a.data = none)
        fun _ _ _ d => (d, .data 0 none))
    ∧ (∀ o x bd b, b.bad = [] → FiresIf (.wfa o)
        (fun e g _ d => ElemBank d e o.auxl.toNat false x bd b
          ∧ (eltOutside o (eltIdx o g.a.data 1)).2 = false
          ∧ (b.loadElems (eltBytes o) (eltIdx o g.a.data 1)).headD 0 % 2 ^ o.ty.width
              = laneOf o.ty.laneWidth g.b.data 0 % 2 ^ o.ty.width)
        fun _ g _ d => (d, .data ((splat false o.ty
          ((b.loadElems (eltBytes o) (eltIdx o g.a.data 1)).headD 0)).data false) none))
    ∧ ∀ o x bd b, b.bad = [] → FiresIf (.uwait o)
        (fun e g _ d => ElemBank d e o.auxl.toNat false x bd b
          ∧ (eltOutside o (eltIdx o g.a.data 1)).2 = false
          ∧ o.ty.intVal (laneOf o.ty.laneWidth g.b.data 0)
              ≤ o.ty.intVal ((b.loadElems (eltBytes o) (eltIdx o g.a.data 1)).headD 0))
        fun _ g _ d => (d, .data ((splat false o.ty
          ((b.loadElems (eltBytes o) (eltIdx o g.a.data 1)).headD 0)).data false) none)

/-- In a control block the loads deliver the element that an MT address names or that main memory holds, as the
block's loads see it: LDS, LDB, LDV, LDG and BARW (R94, R173, R195, R198, R201, R204). In a control block WFA and
UWAIT deliver the element at their address, in an MT bank or in main memory, once it equals the wanted value or is at
least as large (R199). -/
def Obligations.ControlLoads : Prop :=
  (
    (∀ o k x t n b, b.bad = [] → FiresIf (.lds o)
        (fun e g _ d => e.ctl = true ∧ d.ctlBank e.core (effAddr g.a o.off (eltBytes o)) (eltBytes o) (eltBytes o)
          bankBytes [.tile] = .ok k x t n b)
        fun e g _ d =>
          let a := effAddr g.a o.off (eltBytes o)
          (d, .data (ctlValue o.ty ((((d.viewOf e.core o).ctlBank e.core a (eltBytes o) (eltBytes o) bankBytes
            [.tile]).seen b).elem (mtOfs a) (eltBytes o))) none))
      ∧ (∀ o k x t n b v off, v.bad = [] → FiresIf (.ldb o)
          (fun e g m d =>
            let at_ := effAddr g.a o.off 1
            let bank : Dev → CtlBank := fun d => d.ctlBank e.core at_ 1 0 (2 ^ 19) [.tile, .fifo, .line]
            e.ctl = true ∧ bank d = .ok k x t n b ∧ ¬(b.mode = .fifo ∧ o.auxh.getLsbD 0 = true)
              ∧ ((bank (d.viewOf e.core o)).seen b).rowSeen ((bank (d.underOwn m e.core o)).seen b) (mtOfs at_)
                  = (v, .at_ off))
          fun e g _ d => (if o.auxh.getLsbD 0 || b.mode == .fifo then d.alsoCommit e g else d,
            .data (BitVec.ofNat 1024 ((v.row off).toNat % 2 ^ 64)) none))
      ∧ (∀ o k x t n b f v, b.bad = [] → FiresIf (.ldv o)
          (fun e g _ d => e.ctl = true ∧ (d.core e.core).frame = some f
            ∧ (d.afterStores f.mem0 e.core f o.lsid.val).ctlBank e.core (effAddr g.a o.off 1) 1 1 versionWords
                [.version] = .ok k x t n b
            ∧ (b.vword (mtOfs (effAddr g.a o.off 1))).ldv (ctlBits g.b 32) = .ok v)
          fun _ _ _ d => (d, .data (ctlValue o.ty (v.toNat % 2 ^ o.ty.width)) none))
      ∧ (∀ o, FiresIf (.ldg o)
          (fun e g m d => e.ctl = true ∧ effAddr g.a o.off (eltBytes o) % eltBytes o = 0
            ∧ (d.load m (d.coreAcc e.core .ldg .rd 0) (effAddr g.a o.off (eltBytes o)) (eltBytes o)).2.isOk = true)
          fun e g m d =>
            let a := effAddr g.a o.off (eltBytes o)
            let r := d.load m (d.coreAcc e.core .ldg .rd 0) a (eltBytes o)
            (r.1, match r.2, ((d.viewOf e.core o).load (d.entryMem e.core m) (d.coreAcc e.core .ldg .rd 0) a
                (eltBytes o)).2 with
              | .ok (_, p), .ok (v, _) => .data (ctlValue o.ty (Word.ofBytes v)) (e.memOrigin p)
              | .ok (bs, p), .error _ => .data (ctlValue o.ty (Word.ofBytes bs)) (e.memOrigin p)
              | .error _, _ => .none))
      ∧ ∀ o k x t mt, FiresIf (.barw o)
          (fun e g _ d => e.ctl = true ∧ d.mtOf e.core (ctlBits g.a 64) = some (k, x, t, mt)
            ∧ barrierMet (mt.counter o.auxl.toNat) (BitVec.ofNat 32 (ctlBits g.b 32)) = true)
          fun _ _ _ d => (d, .data (ctlValue o.ty (mt.counter o.auxl.toNat).toNat) none))
  ∧ (
    let addr : OpM → Gathered → Nat := fun o g => effAddr g.a o.off (eltBytes o)
    let mt : Instr → OpM → (Nat → Nat → Prop) → Prop := fun i o met => ∀ k x t n b v, b.bad = [] → FiresIf i
      (fun e g m d =>
        let bank : Dev → CtlBank := fun d =>
          d.ctlBank e.core (addr o g) (eltBytes o) (eltBytes o) bankBytes [.tile]
        e.ctl = true ∧ Word.bit (addr o g) 63 = true ∧ bank d = .ok k x t n b
          ∧ v = (bank (d.underOwn m e.core o)).seen b
          ∧ met (v.elem (mtOfs (addr o g)) (eltBytes o)) (ctlBits g.b o.ty.width))
      fun _ g _ d => (d, .data (ctlValue o.ty (v.elem (mtOfs (addr o g)) (eltBytes o))) none)
    let mem : Instr → OpM → (Nat → Nat → Prop) → Prop := fun i o met => ∀ now bs p q, FiresIf i
      (fun e g m d => e.ctl = true ∧ Word.bit (addr o g) 63 = false ∧ addr o g % eltBytes o = 0
        ∧ (d.load m (d.coreAcc e.core .ctl .rd 0) (addr o g) (eltBytes o)).2 = .ok (now, p)
        ∧ ((d.underOwn m e.core o).load m (d.coreAcc e.core .ctl .rd 0) (addr o g) (eltBytes o)).2 = .ok (bs, q)
        ∧ met (Word.ofBytes bs) (ctlBits g.b o.ty.width))
      fun e g m d => ((d.load m (d.coreAcc e.core .ctl .rd 0) (addr o g) (eltBytes o)).1,
        .data (ctlValue o.ty (Word.ofBytes bs)) (e.memOrigin p))
    let same : OpM → Nat → Nat → Prop := fun o cur want => cur % 2 ^ o.ty.width = want % 2 ^ o.ty.width
    let least : OpM → Nat → Nat → Prop := fun o cur want => o.ty.intVal want ≤ o.ty.intVal cur
    (∀ o, mt (.wfa o) o (same o)) ∧ (∀ o, mem (.wfa o) o (same o))
      ∧ (∀ o, mt (.uwait o) o (least o)) ∧ ∀ o, mem (.uwait o) o (least o))

/-- At the commit of its block a store-class instruction writes the element, row, version or counter that its captured
address names, an LDB ends its read, and a FENCE waits for nothing more (R94, R173, R194 to R204): STS, STB, STV,
VRECL, BARA, STG, LDB and FENCE. At the commit of its block UPD, UPDF and UCAS update the element at their address, in
an MT bank or in main memory, from its old value; UPDF and UCAS write the old value to a g-register with the poison of
their operands and of the read (R202). -/
def Obligations.ControlStores : Prop :=
  (
    let addr : OpM → Capture → Nat := fun o c => effAddr c.a o.off (eltBytes o)
    (∀ o k x t n b, CommitsIf (.sts o)
        (fun id _ c _ d => d.ctlBank id (addr o c) (eltBytes o) (eltBytes o) bankBytes [.tile] = .ok k x t n b)
        fun _ _ c _ d => d.putBank k t n
          (b.setElem (mtOfs (addr o c)) (eltBytes o) (ctlBits c.b (8 * eltBytes o))))
      ∧ (∀ o k x t n b, b.mode = .tile → b.fillFull = false → CommitsIf (.stb o)
          (fun id _ c _ d => d.ctlBank id (effAddr c.a o.off 1) 1 0 (2 ^ 19) [.tile, .fifo, .line] = .ok k x t n b
            ∧ mtOfs (effAddr c.a o.off 1) < b.rowLimit)
          fun _ _ c _ d => d.putBank k t n (b.putRow (mtOfs (effAddr c.a o.off 1))
            (BitVec.ofNat 1024 (ctlBits c.b 64)) false (o.auxh.getLsbD 0)))
      ∧ (∀ o k x t n b w, CommitsIf (.stv o)
          (fun id _ c _ d => d.ctlBank id (effAddr c.a o.off 1) 1 1 versionWords [.version] = .ok k x t n b
            ∧ (b.vword (mtOfs (effAddr c.a o.off 1))).stv (ctlBits c.c 32)
                (BitVec.ofNat 64 (ctlBits c.b o.ty.width)) = .ok w)
          fun _ _ c _ d => d.putBank k t n (b.setVword (mtOfs (effAddr c.a o.off 1)) w))
      ∧ (∀ o k x t n b, CommitsIf (.vrecl o)
          (fun id _ c _ d => d.ctlBank id (effAddr c.a o.off 1) 1 1 versionWords [.version] = .ok k x t n b)
          fun _ _ c _ d => d.putBank k t n (b.setVword (mtOfs (effAddr c.a o.off 1))
            ((b.vword (mtOfs (effAddr c.a o.off 1))).vreclCtl (ctlBits c.b 32))))
      ∧ (∀ o k x t n b b', b.mode ≠ .tile → CommitsIf (.stb o)
          (fun id _ c _ d => d.ctlBank id (effAddr c.a o.off 1) 1 0 (2 ^ 19) [.tile, .fifo, .line] = .ok k x t n b
            ∧ b.push (BitVec.ofNat 1024 (ctlBits c.b 64)) false = some b')
          fun _ _ _ _ d => d.putBank k t n b')
      ∧ (∀ o k x t n b, CommitsIf (.ldb o)
          (fun id _ c _ d => d.ctlBank id (effAddr c.a o.off 1) 1 0 (2 ^ 19) [.tile, .fifo, .line] = .ok k x t n b)
          fun _ _ _ _ d => d.putBank k t n (b.afterRead (o.auxh.getLsbD 0) none))
      ∧ (∀ o, CommitsIf (.fence o)
          (fun id _ _ _ d => (o.imm.getLsbD 10 = false ∨ (d.core id).board = [])
            ∧ (o.imm.toNat % 8 = 4 → ∀ w ∈ d.peerq, w.unit = id.key →
                (if w.upd.isSome then o.imm.getLsbD 9 else o.imm.getLsbD 8) = false))
          fun id _ _ _ d =>
            if o.imm.getLsbD 8 && o.imm.toNat % 8 ≥ 2 then d.fenced id (o.imm.getLsbD 10) else d)
      ∧ (∀ o k x t mt, CommitsIf (.bara o)
          (fun id _ c _ d => d.mtOf id (ctlBits c.a 64) = some (k, x, t, mt))
          fun _ _ _ _ d => d.updInst k fun x =>
            x.setMt t (mt.bara o.auxl.toNat (BitVec.ofInt 32 o.off.toInt)))
      ∧ ∀ o, CommitsIf (.stg o)
          (fun id _ c m d => addr o c % eltBytes o = 0
            ∧ (d.store m (d.coreAcc id .ctl .wr 1) (addr o c)
                (Word.toBytes (eltBytes o) (ctlBits c.b (8 * eltBytes o)))).2 = none)
          fun id _ c m d => (d.store m (d.coreAcc id .ctl .wr 1) (addr o c)
            (Word.toBytes (eltBytes o) (ctlBits c.b (8 * eltBytes o)))).1)
  ∧ (
    let addr : OpM → Capture → Nat := fun o c => effAddr c.a o.off (eltBytes o)
    let old : OpM → CoreId → Capture → Bool → Nat → Option (BitVec 24) → Dev → Dev := fun o id c res v w d =>
      if res then
        let p := firstOrg (firstPoison [c.a, c.b, c.c]) w
        d.gWrite id c.slot false ⟨o.auxh.toNat, by omega⟩
          { v := BitVec.ofNat 64 (ctlValue o.ty v).toNat, p := p.isSome, org := p.getD 0 }
      else d
    let mt : Instr → OpM → Bool → (Capture → Nat → Nat) → Prop := fun i o res f => ∀ k x t n b, b.bad = [] →
      CommitsIf i
        (fun id _ c _ d => Word.bit (addr o c) 63 = true
          ∧ d.ctlBank id (addr o c) (eltBytes o) (eltBytes o) bankBytes [.tile] = .ok k x t n b)
        fun id _ c _ d =>
          let v := b.elem (mtOfs (addr o c)) (eltBytes o)
          old o id c res v none (d.putBank k t n (b.setElem (mtOfs (addr o c)) (eltBytes o) (f c v)))
    let mem : Instr → OpM → Bool → (Capture → Nat → Nat) → (Capture → Option (Nat × Ty × Nat)) → Prop :=
      fun i o res f late => ∀ v p, CommitsIf i
        (fun id _ c m d => Word.bit (addr o c) 63 = false ∧ addr o c % eltBytes o = 0
          ∧ (d.update m (d.coreAcc id .ctl .upd 2) (addr o c) (eltBytes o) (f c) (late c)).2 = .ok (v, p))
        fun id _ c m d =>
          let d := (d.update m (d.coreAcc id .ctl .upd 2) (addr o c) (eltBytes o) (f c) (late c)).1
          old o id c res v ((d.commitSite id c.slot).memOrigin p) d
    let op : OpM → Capture → Nat → Nat := fun o c v => updateOp o.auxl.toNat o.ty v (ctlBits c.b o.ty.width)
    let cas : OpM → Capture → Nat → Nat := fun o c v =>
      if v % 2 ^ o.ty.width = ctlBits c.b o.ty.width % 2 ^ o.ty.width then ctlBits c.c o.ty.width % 2 ^ o.ty.width
      else v
    (∀ o, mt (.upd o) o false (op o))
      ∧ (∀ o, mem (.upd o) o false (op o) fun c => some (o.auxl.toNat, o.ty, ctlBits c.b o.ty.width))
      ∧ (∀ o, mt (.updf o) o true (op o)) ∧ (∀ o, mem (.updf o) o true (op o) fun _ => none)
      ∧ (∀ o, mt (.ucas o) o true (cas o)) ∧ ∀ o, mem (.ucas o) o true (cas o) fun _ => none)

/-! ### Exits and general registers -/

/-- ROUTE records its group for the record whether or not it computes; RDG reads a register with its poison (R30,
R130, R135). At its block's commit a transfer chooses the next block: BRO by offset, BRX by its operand, CALLB by
offset with a link to the block after this one, RETB by its register, and HALT ends the thread; WRG writes a register
with the operand's poison (R90, R132 to R135). -/
def Obligations.ExitsAndRegisters : Prop :=
  (
    (∀ o, FiresAlways (.route o) fun e g d =>
        (d.updInst e.cfg fun x => match x.ct e.tile with
          | some c => x.setCt e.tile { c with blks := c.blks.modify e.blk fun b => { b with
              chosen := insert e.record
                (if g.computes = false then 0 else if o.exg.val ≠ 0 then o.exg.val
                  else if g.a.data.toNat % 2 ^ 32 ≤ 3 then g.a.data.toNat % 2 ^ 32 else 0) b.chosen } }
          | none => x, .none))
      ∧ ∀ o, FiresWith (.rdg o) fun e _ d =>
          (d, .data (BitVec.ofNat 1024 ((d.core e.core).reg o.ga).v.toNat)
            (if ((d.core e.core).reg o.ga).p then some ((d.core e.core).reg o.ga).org else none)))
  ∧ (
    let next : CoreId → Nat → Dev → Dev := fun id a d => d.updCore id fun k => { k with next := a }
    let after : Frame → Nat := fun f => f.addr + 16 * ((16 + 8 * (f.blk.hdr.nins + 1) + 15) / 16)
    (∀ o, Commits (.bro o) fun id f _ d => next id (Word.wrap ((f.addr : Int) + 16 * o.off.toInt) 64) d)
      ∧ (∀ o, Commits (.brx o) fun id _ c d => next id (c.a.data.toNat % 2 ^ 64)
          (if c.a.p then d.logConsumed (d.commitSite id c.slot) c.a.org else d))
      ∧ (∀ o, Commits (.callb o) fun id f c d => next id (Word.wrap ((f.addr : Int) + 16 * o.off.toInt) 64)
          (d.gWrite id c.slot true o.ga { v := BitVec.ofNat 64 (after f) }))
      ∧ (∀ o, Commits (.retb o) fun id _ c d => next id ((d.core id).reg o.ga).v.toNat
          (if ((d.core id).reg o.ga).p then d.logConsumed (d.commitSite id c.slot) ((d.core id).reg o.ga).org
            else d))
      ∧ (∀ o, Commits (.halt o) fun id _ _ d => d.updCore id fun k => { k with thread := .halted })
      ∧ ∀ o, Commits (.wrg o) fun id _ c d => d.gWrite id c.slot false o.ga
          { v := BitVec.ofNat 64 c.a.data.toNat, p := c.a.p, org := c.a.org })

/-- Instructions of a control block whose effect stands at its commit take and keep their operands when they fire,
whatever the state, and change nothing else then (R26, R94). A command that names a virtual port is kept for the
commit when the port is one of the core's page with the direction it needs; the commands that check an operand as
their block is entered are kept when it passes (R212, R230, R354, R371, R403). -/
def Obligations.InstructionsCapture : Prop :=
  (
    (∀ i o, (i = .bro o ∨ i = .brx o ∨ i = .callb o ∨ i = .retb o ∨ i = .halt o ∨ i = .wrg o) →
        CapturesIf i fun _ _ _ => True)
      ∧ (∀ i o, (i = .sts o ∨ i = .stb o ∨ i = .stv o ∨ i = .vrecl o ∨ i = .stg o ∨ i = .upd o ∨ i = .updf o
          ∨ i = .ucas o ∨ i = .bara o) → CapturesIf i fun _ _ _ => True)
      ∧ (∀ i o, (i = .apset o ∨ i = .apcpy o ∨ i = .apclr o ∨ i = .sscl o ∨ i = .sbar o ∨ i = .cred o ∨ i = .cbcst o
          ∨ i = .cagth o ∨ i = .ttldClear o ∨ i = .tfetch o ∨ i = .tevict o ∨ i = .tpin o ∨ i = .tpinUnpin o
          ∨ i = .tresStatus o ∨ i = .tresResume o ∨ i = .tresResident o ∨ i = .scopyk o ∨ i = .kclose o) →
          CapturesIf i fun _ _ _ => True)
      ∧ (∀ i o, (i = .trap o ∨ i = .hcall o ∨ i = .rte o ∨ i = .wfi o ∨ i = .placeMove o ∨ i = .placeCompact o
          ∨ i = .placeDiscard o ∨ i = .rinvPart o ∨ i = .xinvPart o ∨ i = .kshrAssign o
          ∨ i = .kshrErase o) → CapturesIf i fun _ _ _ => True)
      ∧ (∀ i o, (i = .fence o ∨ i = .btok o) → CapturesIf i fun _ _ _ => True)
      ∧ ∀ o, CapturesIf (.swr o) fun e _ d => d.selFault e.core o.imm.toNat = false)
  ∧ (
    let vp : OpS → Option Bool → Site → Gathered → Dev → Prop := fun o out e _ d =>
      d.vpFault e.core o.vp.val out = none
    let both : OpS → Bool → Site → Gathered → Dev → Prop := fun o out e g d =>
      vp o (some out) e g d ∧ d.vpFault e.core (o.aux.toNat % 64) (some true) = none
    let gA : OpY → Site → Dev → Nat := fun o e d => ((d.core e.core).reg o.ga).v.toNat
    let gB : OpY → Site → Dev → Nat := fun o e d => ((d.core e.core).reg o.gb).v.toNat
    let mine : OpY → Site → Dev → Prop := fun o e d => d.atH e.core = true ∨ nQueues ≤ gA o e d
      ∨ (d.queue (gA o e d)).owner = d.selPart e.core
    let ctx : OpY → Site → Dev → Prop := fun o e d => e.core.isSys = true
      ∨ (d.part (d.core e.core).part).hasCtx (gB o e d % 4096) = true
    (∀ o, CapturesIf (.sbind o) (vp o (some false))) ∧ (∀ o, CapturesIf (.sbindw o) (vp o (some true)))
      ∧ (∀ o, CapturesIf (.sgath o) (both o false)) ∧ (∀ o, CapturesIf (.sscat o) (both o true))
      ∧ (∀ o, CapturesIf (.supd o) (both o true))
      ∧ (∀ o, CapturesIf (.scopy o) fun e g d => o.sub.toNat % 4 = 2 → vp o (some false) e g d)
      ∧ (∀ i o, (i = .swait o ∨ i = .sstat o ∨ i = .skill o) → CapturesIf i (vp o none))
      ∧ (∀ o, CapturesIf (.cfgnx o) fun e _ d => ∃ p k x, e.core = .cc p ∧ d.instOf e.core = some (k, x)
          ∧ x.lead = p.val)
      ∧ (∀ i o, (i = .qctlStatus o ∨ i = .qctlPrio o ∨ i = .qctlEnable o ∨ i = .qctlDisable o ∨ i = .qctlFlush o) →
          CapturesIf i fun e _ d => mine o e d)
      ∧ (∀ o, CapturesIf (.qctlAssign o) fun e _ d => d.atH e.core = true)
      ∧ (∀ i o, (i = .psnapCut o ∨ i = .psnapMarker o) → CapturesIf i fun e _ d => gB o e d % 4096 = 0)
      ∧ (∀ o, CapturesIf (.plsw o) fun e _ d => gB o e d % 8 = 0)
      ∧ (∀ o, CapturesIf (.rinvPages o) fun e _ d => gA o e d % 65536 = 0 ∧ ctx o e d)
      ∧ (∀ i o, (i = .rinvRange o ∨ i = .rinvContext o) → CapturesIf i fun e _ d => ctx o e d)
      ∧ (∀ o, CapturesIf (.xinvFrames o) fun e _ d => gA o e d % 2 ^ 21 = 0)
      ∧ ∀ i o, (i = .kshrBegin o ∨ i = .kshrFinish o ∨ i = .mtrdRecord o ∨ i = .mtrdQuote o) →
          CapturesIf i fun e _ d => gA o e d % 64 = 0 ∧ gB o e d % 8 = 0)

/-- The registers of a core after a commit: the write of the highest slot stands, a link over every other write, and
a register that no write names keeps its value (R135). -/
def Obligations.RegisterWriteOrder : Prop :=
  ∀ (c : Core) (gw : List (Nat × Bool × Fin 32 × GReg)) (r : Fin 32), c.g.length = 32 →
    (∀ w ∈ gw, w.1 < 128) → gw.Pairwise (fun x y => (x.1, x.2.1) ≠ (y.1, y.2.1)) →
    (gw.filter fun w => w.2.1 && w.2.2.1 == r).length ≤ 1 →
    (∀ w ∈ gw, w.2.1 = true → w.2.2.1 = r → (c.writeRegs gw).reg r = w.2.2.2)
      ∧ ((∀ w ∈ gw, w.2.2.1 = r → w.2.1 = false) → ∀ w ∈ gw, w.2.2.1 = r →
          (∀ u ∈ gw, u.2.2.1 = r → u.1 ≤ w.1) → (c.writeRegs gw).reg r = w.2.2.2)
      ∧ ((∀ w ∈ gw, w.2.2.1 ≠ r) → (c.writeRegs gw).reg r = c.reg r)

/-! ### Streams, collectives, tiers and keys -/

/-- APSET writes one word of a pattern register, APCPY copies one and APCLR clears one, APLD loads the 64 bytes it read
at entry; SBAR queues a barrier, and each command takes the next place of the scoreboard (R211, R213, R216). -/
def Obligations.PatternRegisters : Prop :=
  (∀ o, Commits (.apset o) fun id _ _ d => d.updCore id fun c => { c with
      ap := setAt c.ap o.ap.val (setWord (c.ap.getD o.ap.val 0) (o.sub.toNat % 8) (c.reg o.ga).v) })
    ∧ (∀ o, Commits (.apcpy o) fun id _ _ d => d.updCore id fun c => { c with
        ap := setAt c.ap o.ap.val (c.ap.getD (o.aux.toNat % 16) 0) })
    ∧ (∀ o, Commits (.apclr o) fun id _ _ d => d.updCore id fun c => { c with ap := setAt c.ap o.ap.val 0 })
    ∧ (∀ o, Commits (.apld o) fun id _ c d => d.updCore id fun k => { k with
        ap := setAt k.ap o.ap.val (BitVec.ofNat 512 c.b.data.toNat) })
    ∧ (∀ o a, FiresIf (.apld o)
        (fun e _ m d => e.ctl = true ∧ ((d.core e.core).reg o.ga).v.toNat = a ∧ a % 64 = 0 ∧ Word.bit a 63 = false
          ∧ (d.load m (d.coreAcc e.core .ldg .rd 0) a 64).2.isOk = true
          ∧ ((d.atEntry e.core).load (d.entryMem e.core m) (d.coreAcc e.core .ldg .rd 0) a 64).2.isOk = true)
        fun e g m d =>
          let r := (d.atEntry e.core).load (d.entryMem e.core m) (d.coreAcc e.core .ldg .rd 0) a 64
          ((d.load m (d.coreAcc e.core .ldg .rd 0) a 64).1.alsoCommit e { g with
            b := { data := BitVec.ofNat 1024 (match r.2 with
              | .ok (bs, _) => Word.ofBytes bs
              | .error _ => 0) } }, .none))
    ∧ ∀ o, Commits (.sbar o) fun id _ _ d => ({ d with nextCmd := d.nextCmd + 1 } : Dev).updCore id fun c =>
        { c with board := c.board ++ [{ id := d.nextCmd, kind := .sbar, vp := none }] }

/-- A binding command whose pattern meets R208 and fits its virtual port enters the scoreboard queue of its thread:
SBIND, SBINDW, SGATH, SSCAT and SUPD (R210, R212 to R214, R225, R226). -/
def Obligations.BindingCommands : Prop :=
  let ok : BindKind → OpS → CoreId → Frame → Capture → Mem → Dev → Prop := fun kind o id _ _ _ d =>
    let p := (d.core id).pat o.ap.val
    ((d.core id).board.filter fun q => q.kind != .sbar).length < 32 ∧ patIllegal p false = false ∧ patFault p false = none
      ∧ (kind = .gather ∨ kind = .scatter ∨ kind = .update → patNdim p = 1)
      ∧ (kind = .update → patEsz p = 2)
      ∧ ∃ k x v, d.instOf id = some (k, x) ∧ x.liveVp o.vp.val = some v ∧ overWindow v p = false
  let com : BindKind → OpS → CoreId → Frame → Capture → Mem → Dev → Dev := fun kind o id _ _ _ d =>
    let i := kind == .gather || kind == .scatter || kind == .update
    let b : VpBind :=
      { kind := kind, pat := (d.core id).pat o.ap.val, ctx := (d.issuer id).1, part := (d.issuer id).2.1
        idxVp := if i then o.aux.toNat % 64 else 0
        op := if kind == .update then o.sub.toNat % 16 else 0
        ty := if kind == .update then Ty.ofCode (o.sub.toNat / 16) else .i32 }
    ({ d with nextCmd := d.nextCmd + 1 } : Dev).updCore id fun c => { c with
      board := c.board ++ [{ id := d.nextCmd, kind := .bind b, vp := (d.instOf id).map fun k => (k.1, o.vp.val) }] }
  (∀ o, CommitsIf (.sbind o) (ok .input o) (com .input o))
    ∧ (∀ o, CommitsIf (.sbindw o) (ok .output o) (com .output o))
    ∧ (∀ o, CommitsIf (.sgath o) (ok .gather o) (com .gather o))
    ∧ (∀ o, CommitsIf (.sscat o) (ok .scatter o) (com .scatter o))
    ∧ ∀ o, CommitsIf (.supd o) (ok .update o) (com .update o)

/-- SCOPY, SSCL and SCOPYK queue a copy that no check of its patterns, completion word, bank and key turns away; SWAIT
goes on once no queued command names its port; SSTAT writes the port's status; SKILL ends the port's binding (R215,
R216, R222 to R224, R276, R281). Ending an input binding sends its port's consumer a closing null token, once: the
port has ended, with the count of elements passed, and has no binding any more (R216). -/
def Obligations.CopiesAndPorts : Prop :=
  (
    let room : CoreId → Dev → Prop := fun id d => ((d.core id).board.filter fun q => q.kind != .sbar).length < 32
    let src : OpS → CoreId → Dev → BitVec 512 := fun o id d => (d.core id).pat o.ap.val
    let cw : OpS → CoreId → Dev → Option (Nat × Word) := fun o id d =>
      (d.core id).cwPair (o.sub.getLsbD 2) o.gb
    let queue : CoreId → Option (Nat × Nat) → Copy → Dev → Dev := fun id vp k d =>
      ({ d with nextCmd := d.nextCmd + 1 } : Dev).updCore id fun c =>
        { c with board := c.board ++ [{ id := d.nextCmd, kind := .copy k, vp := vp }] }
    let clean : Bool → OpS → CoreId → Dev → Prop := fun keyed o id d =>
      room id d ∧ patCauses (src o id d) keyed = [] ∧ d.cwCauses id (cw o id d) = []
    let ga : OpS → CoreId → Dev → Nat := fun o id d => ((d.core id).reg o.ga).v.toNat
    (∀ o, o.sub.toNat % 4 = 0 → CommitsIf (.scopy o)
        (fun id _ _ _ d =>
          let dst := (d.core id).pat (o.aux.toNat % 16)
          clean false o id d ∧ patCauses dst false = []
            ∧ patTotal (src o id d) * patBytes (src o id d) = patTotal dst * patBytes dst)
        fun id _ _ _ d => queue id none
          (d.newCopy id (src o id d) (.pattern ((d.core id).pat (o.aux.toNat % 16))) (cw o id d)) d)
      ∧ (∀ o dst, o.sub.toNat % 4 = 1 → CommitsIf (.scopy o)
          (fun id _ _ _ d => clean false o id d
            ∧ d.bankCauses id (ga o id d) (src o id d) [.tile, .scale] (fun _ => true) = ([], some dst))
          fun id _ _ _ d => queue id none (d.newCopy id (src o id d) dst (cw o id d)) d)
      ∧ (∀ o k x v, 2 ≤ o.sub.toNat % 4 → CommitsIf (.scopy o)
          (fun id _ _ _ d => clean false o id d ∧ d.instOf id = some (k, x) ∧ x.liveVp o.vp.val = some v
            ∧ overWindow v (src o id d) = false)
          fun id _ _ _ d => queue id (some (k, o.vp.val))
            (d.newCopy id (src o id d) (.vport k o.vp.val) (cw o id d)) d)
      ∧ (∀ o dst key, CommitsIf (.sscl o)
          (fun id _ _ _ d => clean (o.sub.getLsbD 0) o id d ∧ o.sub.getLsbD 0 = patKeyed (src o id d)
            ∧ d.bankCauses id (ga o id d) (src o id d) [.scale] (fun _ => true) = ([], some dst)
            ∧ key = (if o.sub.getLsbD 0 then
                d.keyCauses (d.issuer id).2.1 (d.issuer id).1 (o.aux.toNat % 16) (src o id d) true
              else ([], none)) ∧ key.1 = [])
          fun id _ _ _ d => queue id none
            { d.newCopy id (src o id d) dst (cw o id d) with scale := true, key := key.2 } d)
      ∧ (∀ o dst key, CommitsIf (.scopyk o)
          (fun id _ _ _ d => clean true o id d
            ∧ d.bankCauses id (ga o id d) (src o id d) [.tile] (fun b => b.cls == .input) = ([], some dst)
            ∧ d.keyCauses (d.issuer id).2.1 (d.issuer id).1 (o.aux.toNat % 16) (src o id d) false = ([], key))
          fun id _ _ _ d => queue id none { d.newCopy id (src o id d) dst (cw o id d) with key := key } d)
      ∧ (∀ o k x, CommitsIf (.swait o)
          (fun id _ _ _ d => d.instOf id = some (k, x) ∧ ∀ c ∈ (d.core id).board, c.names k o.vp.val = false)
          fun _ _ _ _ d => d)
      ∧ (∀ o k x v, CommitsIf (.sstat o)
          (fun id _ _ _ d => d.instOf id = some (k, x) ∧ x.vp o.vp.val = some v)
          fun id _ c _ d =>
            let cmds := (d.core id).board.filter (·.names k o.vp.val)
            (d.gWrite id c.slot false o.ga { v := BitVec.ofNat 64 (v.status (!cmds.isEmpty) (cmds.any (·.started))) }
              ).updInst k fun x => x.setVp o.vp.val { v with ended := false })
      ∧ ∀ o k x, CommitsIf (.skill o)
          (fun id _ _ _ d => d.instOf id = some (k, x))
          fun id _ _ _ d =>
            let d := d.updInst k fun x => x.killVp o.vp.val
            { d with copies := d.copies.filter fun e => e.2.dst != CopyDst.vport k o.vp.val }.updCore id fun c =>
              { c with board := c.board.filter fun q => !(q.started && q.vp == some (k, o.vp.val)) })
  ∧ (
    ∀ (x : Inst) (n : Nat) (v : Vp) (b : VpBind) (t : Tile) (q : InPort), x.vp n = some v → v.bind = some b →
      (b.kind = .input ∨ b.kind = .gather ∨ b.kind = .copyIn) → x.tile v.tile = some t →
      lookup v.port t.inp = some q →
      ((x.killVp n).vp n).map (fun u => (u.bind, u.ended, u.killed, u.elems)) = some (none, true, true, b.passed)
        ∧ (((x.killVp n).tile v.tile).bind fun t => lookup v.port t.inp)
            = some { q with q := q.q ++ [{ n := true, l := true }] })

/-- A collective of an element block whose result its group holds takes it: CRED and CBCST one token, CAGTH a burst at
its port; a collective command that meets no cause is queued for its rank (R227 to R229). CFGNX makes the round its
instance's last, once, and names the next image; BTOK lets a bank's ownership token pass at the next round commit,
once (R42, R230, R231). -/
def Obligations.CollectivesAndChaining : Prop :=
  (
    let kept : OpS → Inst → Nat → KeptRes → Site → Gathered → Mem → Dev → Prop := fun o x rank k e _ m d =>
      e.ctl = false ∧ d.inst e.cfg = some x
        ∧ (d.group m x.part x.ctx o.vp.val).2.rankOf (d.group m x.part x.ctx o.vp.val).1.self e.cfg (tileCol e.tile)
            (tileRow e.tile) true = some rank
        ∧ (d.group m x.part x.ctx o.vp.val).2.kept.find? (fun k =>
            k.cfg == e.cfg && k.tile == e.tile && k.place == 128 * e.blk + e.slot && k.record == e.record) = some k
    let one : Instr → OpS → Prop := fun i o => ∀ x rank k, FiresIf i (kept o x rank k)
      fun _ _ m d => ((d.group m x.part x.ctx o.vp.val).1, .tok (k.toks.headD {}))
    let cmd : Instr → OpS → Prop := fun i o => ∀ k x rank, CommitsIf i
      (fun id _ _ m d =>
        let p := d.group m (d.issuer id).2.1 (d.issuer id).1 o.vp.val
        let page := match id with
          | .cc p => p.val
          | .sys _ => 0
        d.instOf id = some (k, x) ∧ ((d.core id).board.filter fun q => q.kind != .sbar).length < 32
          ∧ patCauses ((d.core id).pat o.ap.val) false = []
          ∧ patCauses ((d.core id).pat (o.aux.toNat % 16)) false = []
          ∧ d.cwCauses id ((d.core id).cwPair true o.gb) = [] ∧ p.1.core id = d.core id
          ∧ p.2.rankOf p.1.self k (page % 16 - x.col0) (page / 16 - x.row0) false = some rank)
      fun id _ _ m d =>
        let src := (d.core id).pat o.ap.val
        let cw := ((d.core id).cwPair true o.gb).getD (0, 0)
        let call : CollCall :=
          { rank := rank, mnem := i.opcode, op := o.sub.toNat % 16, ty := Ty.ofCode (o.sub.toNat / 16)
            bytes := patTotal src * patBytes src, root := ((d.core id).reg o.ga).v.toNat, src := src
            ctl := some (id, (d.core id).pat (o.aux.toNat % 16), cw.1, cw.2), ctx := (d.issuer id).1
            part := (d.issuer id).2.1, cfg := k
            who := { (d.group m (d.issuer id).2.1 (d.issuer id).1 o.vp.val).1.coreRec id with cls := 2 } }
        let d1 := (d.group m (d.issuer id).2.1 (d.issuer id).1 o.vp.val).1
        ({ d1 with nextCmd := d1.nextCmd + 1 } : Dev).updCore id fun c =>
          { c with board := c.board ++ [{ id := d1.nextCmd, kind := .coll o.vp.val call }] }
    (∀ o, one (.cred o) o) ∧ (∀ o, one (.cbcst o) o)
      ∧ (∀ o x rank k p, o.hd.t0 = .out p → FiresIf (.cagth o) (kept o x rank k)
          fun e _ m d => ((d.group m x.part x.ctx o.vp.val).1.updInst e.cfg fun x => match x.tile e.tile with
            | some t => x.setTile e.tile (t.burst e.blk e.record p.val k.toks false)
            | none => x, .none))
      ∧ (∀ o, cmd (.cred o) o) ∧ (∀ o, cmd (.cbcst o) o) ∧ ∀ o, cmd (.cagth o) o)
  ∧ (
    let last : Nat → Inst → Inst := fun next x => if x.last then x else { x with last := true, nextImage := next }
    let pass : Nat → Nat → Inst → Inst := fun t b x =>
      if (t, b) ∈ x.btoks then x else { x with btoks := x.btoks ++ [(t, b)] }
    (∀ o, FiresIf (.cfgnx o) (fun e _ _ _ => e.ctl = false) fun e _ _ d => (d.updInst e.cfg (last 0), .none))
      ∧ (∀ o k x, CommitsIf (.cfgnx o) (fun id _ _ _ d => d.instOf id = some (k, x))
          fun id _ _ _ d => d.updInst k (last ((d.core id).reg o.ga).v.toNat))
      ∧ (∀ o x bd b, FiresIf (.btok o)
          (fun e _ _ d => e.ctl = false ∧ d.inst e.cfg = some x
            ∧ x.bound e.tile (o.imm.toNat % 16) = some (bd, b) ∧ b.passed = false ∧ b.owned = true)
          fun e _ _ d => (d.updInst e.cfg (pass bd.tile bd.bank), .none))
      ∧ ∀ o k x t mt b, CommitsIf (.btok o)
          (fun id _ c _ d => let a := c.a.data.toNat % 2 ^ 64
            d.mtOf id a = some (k, x, t, mt) ∧ mt.banks[mtBank a]? = some b ∧ b.passed = false ∧ mtOfs a = 0
              ∧ b.owned = true)
          fun _ _ c _ d => d.updInst k (pass t (mtBank (c.a.data.toNat % 2 ^ 64))))

/-- TTLD loads the timetable it checked at entry and its CLR form none; TFETCH, TEVICT, TPIN and TPIN with UNPIN act
on each tiered granule of a span that lies in one range; TRES gives the status word and resumes a stalled
configuration (R258, R263, R266, R269 to R271). TTLD and KOPEN read their table or record as their block is entered,
and keep what they read for the commit; KOPEN then binds the handle with the slot's generation when the slot is the
context's, admits the configuration and is ready, and KCLOSE ends a handle (R263, R270, R279, R282). -/
def Obligations.TierInstructions : Prop :=
  (
    let span : OpS → CoreId → Frame → Capture → Mem → Dev → Prop := fun o id _ _ m d =>
      let va := ((d.core id).reg o.ga).v.toNat
      let n := ((d.core id).reg o.gb).v.toNat
      n ≠ 0 ∧ n % granBytes = 0 ∧ va % granBytes = 0
        ∧ (d.spanInRange m (d.issuer id).2.1 (d.issuer id).1 va n).2 = true
    let each : OpS → (CoreId → Nat → Nat → Dev → Dev) → CoreId → Frame → Capture → Mem → Dev → Dev :=
      fun o f id _ _ m d =>
        let va := ((d.core id).reg o.ga).v.toNat
        let n := ((d.core id).reg o.gb).v.toNat
        let ctx := (d.issuer id).1
        let part := (d.issuer id).2.1
        ((List.range (n / granBytes)).map fun i => va + i * granBytes).foldl (fun d v =>
          match (d.teView m part ctx v).2 with
          | .tiered _ => f id part (granKey ctx v) (d.teView m part ctx v).1
          | .faults | .plain => (d.teView m part ctx v).1) (d.spanInRange m part ctx va n).1
    let stall : CoreId → Nat → Inst → OpS → Capture → (Inst → Inst) → Dev → Dev := fun id k x o c f d =>
      let d' := d.gWrite id c.slot false o.ga { v := BitVec.ofNat 64 (d.teStatus x) }
      if x.phase = .stalled then d'.updInst k f else d'
    (∀ o t, CommitsIf (.ttld o) (fun _ f c _ _ => lookup c.slot f.tts = some t)
        fun id _ _ _ d => d.updCtx (d.issuer id).1 fun x => { x with tt := some t })
      ∧ (∀ o, Commits (.ttldClear o) fun id _ _ d => d.updCtx (d.issuer id).1 fun x => { x with tt := none })
      ∧ (∀ o, CommitsIf (.tfetch o) (span o) (each o fun id part k d => d.tierAct id o true part k))
      ∧ (∀ o, CommitsIf (.tevict o) (span o) (each o fun id part k d => d.tierAct id o false part k))
      ∧ (∀ o, CommitsIf (.tpin o) (span o)
          (each o fun _ part k d => d.passAction part k .pin))
      ∧ (∀ o, CommitsIf (.tpinUnpin o) (span o)
          (each o fun _ part k d => d.passAction part k .unpin))
      ∧ (∀ o k x, CommitsIf (.tresStatus o) (fun id _ _ _ d => d.instOf id = some (k, x))
          fun id _ c _ d => stall id k x o c (fun x => x) d)
      ∧ (∀ o k x, CommitsIf (.tresResume o) (fun id _ _ _ d => d.instOf id = some (k, x))
          fun id _ c _ d => stall id k x o c (fun x =>
            { x with phase := if x.heldBy.isSome then .held else .boundary, stallMiss := [], stallRes := false }) d)
      ∧ ∀ o k x, CommitsIf (.tresResident o) (fun id _ _ _ d => d.instOf id = some (k, x))
          fun id _ c _ d => stall id k x o c (fun x => { x with stallRes := true }) d)
  ∧ (
    (∀ o a d1 h d2 es t d3, FiresIf (.ttld o)
        (fun e _ m d => e.ctl = true ∧ ((d.core e.core).reg o.ga).v.toNat = a ∧ a % 32 = 0
          ∧ Dev.ttRead m e.core (d.coreAcc e.core .ctl .rd 0) 1 a d = (d1, .ok [h]) ∧ ttHeaderOk h = true
          ∧ Dev.ttRead m e.core (d.coreAcc e.core .ctl .rd 0) (Word.bits h 63 48) (a + 32) d1 = (d2, .ok es)
          ∧ d2.timetable m (d.issuer e.core).2.1 (d.issuer e.core).1 h es = (d3, some t))
        fun e g _ _ => ((d3.alsoCommit e g).updFrame e.core fun f => { f with tts := f.tts ++ [(e.slot, t)] }, .none))
      ∧ (∀ o a d1 bs p, FiresIf (.kopen o)
          (fun e _ m d => e.ctl = true ∧ ((d.core e.core).reg o.ga).v.toNat = a ∧ a % 64 = 0
            ∧ d.entryLoad m e.core (d.coreAcc e.core .ctl .rd 0) a 64 = (d1, .ok (bs, p))
            ∧ layoutOk (BitVec.ofNat 512 (BitVec.ofNat 1024 (Word.ofBytes bs)).toNat) = true)
          fun e g _ _ => (d1.alsoCommit e { g with b := { data := BitVec.ofNat 1024 (Word.ofBytes bs) } }, .none))
      ∧ (∀ o k s, CommitsIf (.kopen o)
          (fun id _ c _ d =>
            k = laySlot (BitVec.ofNat 512 c.b.data.toNat) ∧ s = d.keySlot (d.issuer id).2.1 k ∧ s.assigned = true
              ∧ s.ctx = (d.issuer id).1 ∧ s.admits ((d.instOf id).map fun x => x.2.idhash) = true ∧ s.ready = true)
          fun id _ c _ d => d.updCtx (d.issuer id).1 fun x => { x with
            handles := setAt x.handles (o.aux.toNat % 16)
              (some { layout := BitVec.ofNat 512 c.b.data.toNat, slot := k, gen := s.gen }) })
      ∧ ∀ o, Commits (.kclose o) fun id _ _ d => d.updCtx (d.issuer id).1 fun x => { x with
          handles := setAt x.handles (o.aux.toNat % 16) none })

/-! ### System instructions and exceptions -/

/-- TRAP and HCALL raise SYSCALL after their block with the immediate in INFO, HCALL to H with its operand in ADDR and
the register its acknowledgement writes; WFI leaves the thread waiting, and RTE releases the held configuration and
returns the core from its handler. BRK faults its block with BREAKPOINT and the immediate in INFO where it traps; where
it does not, or where an armed skip covers it as the first BRK of its block, it does nothing (R310, R318, R321 to R323,
R325). -/
def Obligations.SystemInstructions : Prop :=
  let skips : Site → Dev → Bool := fun e d => (d.core e.core).skipArmed && match (d.core e.core).frame with
    | some f => !f.skipped
    | none => true
  let traps : Site → Dev → Bool := fun e d => match (d.core e.core).level with
    | .u => (d.ctx (d.core e.core).ctx).dbgCtl.getLsbD 0
    | .s | .h => !(d.core e.core).st.inh
  (∀ o, CommitsIf (.trap o) (fun _ _ _ _ _ => True) fun id _ c _ d =>
      d.raise id { d.coreRec id with cause := 0x17, cls := 3, slot := c.slot, info := o.imm.toNat } (d.core id).next)
    ∧ (∀ o, CommitsIf (.hcall o) (fun _ _ _ _ _ => True) fun id _ c _ d =>
        let d' := d.raise id { d.coreRec id with
          cause := 0x17, cls := 3, slot := c.slot, info := o.imm.toNat, addr := ((d.core id).reg o.ga).v.toNat, toH := true }
          (d.core id).next
        if id.isSys then d' else d'.updCore id fun c => { c with callReg := some o.gb })
    ∧ (∀ o, Commits (.wfi o) fun id _ _ d => d.updCore id fun c => { c with
        thread := .wfi (if o.sub.getLsbD 0 then some (c.reg o.gb).v.toNat else none) })
    ∧ (∀ o, CommitsIf (.rte o) (fun id _ _ _ d => (d.core id).entry = none ∧ ∀ b, (d.core id).thread ≠ .wfi b)
        fun id _ _ _ d => d.updCore id fun c => c.returnFromTrap id)
    ∧ (∀ o r, CommitsIf (.rte o)
        (fun id _ _ _ d => id.isSys = false ∧ (d.core id).entry = some r ∧ (d.core id).st.hold = true
          ∧ ∀ b, (d.core id).thread ≠ .wfi b)
        fun id _ _ _ d =>
          (d.releaseConfig r.seqNo r.cause (d.core id).st.act).updCore id fun c => c.returnFromTrap id)
    ∧ (∀ o, FiresIf (.brk o) (fun e _ _ d => skips e d = true) fun e _ _ d =>
        (d.updFrame e.core fun f => { f with skipped := true }, .none))
    ∧ (∀ o, FiresIf (.brk o) (fun e _ _ d => skips e d = false ∧ traps e d = false) fun _ _ _ d => (d, .none))
    ∧ ∀ o s e g, s.Sound → s.dev.firing (.brk o) = some (e, g) → e.ctl = true → g.computes = true →
        skips e s.dev = false → traps e s.dev = true →
        Machine.exec (.brk o) s = .next (s.withDev (s.dev.faultCtl (.brk o) e 0x18 e.addr o.imm.toNat))

/-- Taking an exception saves the record, the block to return to and the level and interrupt enable, masks further
records, and continues at the handler's block at S on a CC and at H on a system core; a core that returns takes back
what entry saved, clears INH and runs with the armed step and skip that the handler set, and a system core stays at H.
General, pattern and save registers, the queues, the scoreboard, memory, the instances and every other core are
unchanged (R297, R307, R308, R323). -/
def Obligations.ExceptionEntryAndReturn : Prop :=
  (∀ (d : Dev) (id : CoreId) (r : TrapRec) (epc : Nat),
    let c := d.core id
    let k := (d.enterTrap id r epc).core id
    k.record = r.bits ∧ k.epc = epc ∧ k.st.plev = c.level ∧ k.st.ie = false ∧ k.st.inh = true
      ∧ k.st.pie = (if c.level = .u then true else c.st.ie) ∧ k.st.hold = (r.cls == 1) ∧ k.st.act = false
      ∧ k.level = (if id.isSys then Level.h else Level.s)
      ∧ k.next = (if id.isSys then d.hvec else (d.part c.part).svec) / 16 * 16
      ∧ k.frame = none ∧ k.thread = .live
      ∧ k.ctxsel = BitVec.ofNat 16 (r.ctx % 4096 + 4096 * (r.part % 16))
      ∧ k.g = c.g ∧ k.ap = c.ap ∧ k.save = c.save ∧ k.queue = c.queue ∧ k.board = c.board
      ∧ (d.enterTrap id r epc).wq = d.wq ∧ (d.enterTrap id r epc).insts = d.insts
      ∧ ∀ j, j ≠ id → (d.enterTrap id r epc).core j = d.core j)
    ∧ ∀ (c : Core) (id : CoreId),
        let k := c.returnFromTrap id
        k.level = (if id.isSys then Level.h else c.st.plev)
          ∧ k.st = { c.st with ie := c.st.pie, inh := false }
          ∧ k.next = c.epc ∧ k.thread = (if c.st.halted then .halted else .live)
          ∧ k.stepArmed = c.st.stepOn ∧ k.skipArmed = c.st.skipbrk ∧ k.frame = none
          ∧ k.g = c.g ∧ k.ap = c.ap ∧ k.save = c.save ∧ k.queue = c.queue ∧ k.board = c.board

/-- A record raised on a core: a system core enters its H handler; a CC is held with the record at H or in the event
ring when the record goes there, and with a second fault at S while entry is inhibited; otherwise it enters its S
handler (R303, R309, R312, R313). -/
def Obligations.RaiseChooses : Prop :=
  ∀ (d : Dev) (id : CoreId) (r0 : TrapRec) (epc : Nat),
    let r : TrapRec := { r0 with holds := true, seqNo := d.seqNo }
    let e := d.raise id r0 epc
    e.seqNo = (d.seqNo + 1) % 2 ^ 32
      ∧ (id.isSys = true → e.core id = (d.enterTrap id { r0 with seqNo := d.seqNo } epc).core id)
      ∧ (id.isSys = false → handlerH r = true ∨ (handlerH r = false ∧ d.delegated r = false
            ∧ (d.core id).level = .s ∧ (d.core id).st.inh = true) →
          (e.core id).thread = .held d.seqNo ∧ (e.core id).next = epc ∧ (e.core id).frame = none
            ∧ e.hqueue = d.hqueue ++ [r] ∧ e.heldRecs = d.heldRecs ++ [r])
      ∧ (id.isSys = false → handlerH r = false → d.delegated r = true →
          (e.core id).thread = .held d.seqNo ∧ (e.ctx r.ctx).evq = (d.ctx r.ctx).evq ++ [r])
      ∧ (id.isSys = false → handlerH r = false → d.delegated r = false →
          ¬((d.core id).level = .s ∧ (d.core id).st.inh = true) →
          e.core id = (d.enterTrap id { r with holds := false } epc).core id)

/-- In a control block an instruction of a higher level raises PRIV_VIOLATION at its slot, a word that no row has or
that breaks a condition of its block ILLEGAL_INSTR, and an instruction that the level admits neither; and an element
block that breaks no condition holds in each slot the instruction that its word decodes to (R97 to R99, R298). -/
def Obligations.DecodeCauses : Prop :=
  (∀ (b : RawBlk) (lcs : List LoopCtr) (m : BlkMode), blockBreach m b = none →
    (b.build lcs).slots.length = b.words.length
      ∧ ∀ (k : Nat) (s : Slot), (b.build lcs).slots[k]? = some s → b.words[k]? = some s.word ∧ decode s.word = .ok s.ins
          ∧ s.ins.legalIn m = true)
    ∧ ∀ (sys : Bool) (level : Level) (b : RawBlk) (k : Nat) (w : Word),
    (slotOk .control b k w = false → slotCause sys level b k w = some 0x01)
      ∧ (∀ e, decode w = .error e → slotCause sys level b k w = some 0x01)
      ∧ ∀ i, slotOk .control b k w = true → decode w = .ok i → i.srNumber = none →
          slotCause sys level b k w = if level.rank < (i.row .control).level.rank then some 0x02 else none

/-- SRD and MTRD READ deliver the word read as their block was entered, DBG_MTDATA eight bytes of a bank as they stood
then; SWR of a register without a behaviour of its own writes it, and changes nothing of a read-only one; one of a
selection is kept for the end of its block, and acts from the next block on (R300, R301, R319, R324, R402). A system register that is written reads back what was written, in the fields it holds: the save
registers, EPC and the selectors of a core, and the vector and return value of H (R301). -/
def Obligations.SystemRegisters : Prop :=
  (
    let special : List Nat := [0x09C, 0x105, 0x302, 0x400, 0x403, 0x404, 0x580, 0x600, 0x612]
    let selectors : List Nat := [0x102, 0x201, 0x402, 0x610, 0x611, 0x700, 0x901, 0xA03, 0xB02]
    (∀ o f, FiresIf (.srd o)
        (fun e _ _ d => e.ctl = true ∧ d.selFault e.core o.imm.toNat = false ∧ (d.core e.core).frame = some f)
        fun e _ _ d => (d, .tok { data := BitVec.ofNat 1024 ((lookup e.slot f.srs).getD 0).toNat }))
      ∧ (∀ o f, FiresIf (.mtrdRead o) (fun e _ _ d => e.ctl = true ∧ (d.core e.core).frame = some f)
          fun e _ _ d => (d, .tok { data := BitVec.ofNat 1024 ((lookup e.slot f.srs).getD 0).toNat }))
      ∧ (∀ o f a k x t n b, FiresIf (.dbgMtdata o)
          (fun e _ _ d => e.ctl = true ∧ (d.core e.core).frame = some f ∧ (d.core e.core).mtaddr.toNat = a
            ∧ (d.entryView e.core f 0).ctlBank e.core a 1 8 bankBytes [.tile, .fifo, .line, .scale]
                = .ok k x t n b)
          fun _ _ _ d => (d, .tok { data := BitVec.ofNat 1024 (b.elem (mtOfs a) 8) }))
      ∧ (∀ o, o.imm.toNat ∉ special → o.imm.toNat ∉ selectors → CommitsIf (.swr o) (fun _ _ _ _ _ => True)
          fun id _ c _ d => d.srWrite id o.imm.toNat (BitVec.ofNat 64 c.a.data.toNat))
      ∧ ∀ o, o.imm.toNat ∈ selectors → CommitsIf (.swr o) (fun _ _ _ _ _ => True) fun id _ c _ d =>
          d.updFrame id fun f => { f with sels := f.sels ++ [(o.imm.toNat, BitVec.ofNat 64 c.a.data.toNat)] })
  ∧ (
    ∀ (d : Dev) (id : CoreId) (v : Word),
      (∀ k, k < 4 → id.isSys = false → (d.core id).save.length = 4 →
          (d.srWrite id (0x010 + k) v).srRead id (0x010 + k) = v)
        ∧ (id.isSys = false → (d.srWrite id 0x001 v).srRead id 0x001 = v)
        ∧ (d.srWrite id 0x102 v).srRead id 0x102 = BitVec.ofNat 64 (v.toNat % 2 ^ 16)
        ∧ (d.srWrite id 0x402 v).srRead id 0x402 = BitVec.ofNat 64 (v.toNat % 128)
        ∧ (id.isSys = true → (d.srWrite id 0x082 v).srRead id 0x082 = v)
        ∧ (id.isSys = true → (d.srWrite id 0x09D v).srRead id 0x09D = v))

/-- The writes of registers that act: TRAP_H_ACK releases the agent that a record holds, PRIV_WAKE ends a WFI, the
Shepherd's registers take a paddock or a plane map or refuse it, SCHED_CGTAB has every group read again, XL_S2BASE
waits for START or XINV, and PART_CTL opens, starts and stops a partition (R312, R325, R350, R351, R381, R386). -/
def Obligations.ActingRegisters : Prop :=
  let hfns : CoreId → Dev → List Nat := fun id d => (List.range (d.core id).ftcnt).map ((d.core id).ftsel + ·)
  (∀ a v r, WritesIf (.trapHAck a v)
      (fun _ d => d.heldRecs.find? (·.seqNo == v.toNat % 2 ^ 32) = some r)
      fun _ d => d.release (v.toNat % 2 ^ 32) r.cause (v.getLsbD 32))
    ∧ (∀ a v p b, StepsIf (.privWake a v)
        (fun _ d => v.toNat < 132 ∧ p = v.toNat ∧ (d.core (coreOfKey p)).thread = .wfi b)
        fun _ d => d.updCore (coreOfKey p) fun c => { c with thread := .live })
    ∧ (∀ id v, StepsIf (.shepPaddock id v)
        (fun _ d => v.getLsbD 16 = false ∧ d.ctxPages (d.selCtx id) = [])
        fun _ d => d.updCtx (d.selCtx id) fun x =>
          { x with paddock := if x.paddock.toNat.testBit 17 && !v.getLsbD 17 then 0x20000 else 0 })
    ∧ (∀ id v r, StepsIf (.shepPaddock id v)
        (fun _ d =>
          r = rectOf v.toNat ∧ v.getLsbD 16 = true ∧ v.getLsbD 17 = true ∧ r.inGrid = true
            ∧ (∀ g ∈ r.pages, d.pageFor (d.selPart id) g = true ∨ d.enabledPage g = false)
            ∧ (∀ e ∈ d.ctxs, e.1 ≠ d.selCtx id → (d.part (d.selPart id)).hasCtx e.1 = true →
                ∀ q, e.2.pad = some q → ∀ g ∈ q.pages, g ∉ r.pages)
            ∧ ∀ g ∈ d.ctxPages (d.selCtx id), g ∈ r.pages)
        fun _ d => ({ d with free := d.free + 1 } : Dev).updCtx (d.selCtx id) fun x => { x with
          worldKey := (Config.freeBits d.free).setWidth 128
          paddock := BitVec.ofNat 64 (v.toNat % 8 + Word.bits v.toNat 7 4 * 2 ^ 4 + Word.bits v.toNat 10 8 * 2 ^ 8
            + Word.bits v.toNat 15 12 * 2 ^ 12 + 2 ^ 16) })
    ∧ (∀ id v, StepsIf (.shepPlown id v)
        (fun _ d => ∀ k, k < 4 → d.occupied (d.core id).pgsel k = false)
        fun _ d => { d with plown := insert (d.core id).pgsel (low v 20) d.plown })
    ∧ (∀ id v, StepsIf (.shepPlmap id v)
        (fun _ d => ∀ k, k < 4 → d.occupied (d.core id).pgsel k = false)
        fun _ d => { d with plmap := insert (d.core id).pgsel (low v 42) d.plmap })
    ∧ (∀ id v, StepsIf (.schedCgtab id v) (fun _ _ => True) fun _ d =>
        d.updCtx (d.selCtx id) fun x => { x with
          cgtab := BitVec.ofNat 64 (v.toNat / 8 * 8)
          groups := x.groups.map fun g => (g.1, { g.2 with reread := true }) })
    ∧ (∀ id v, StepsIf (.xlS2base id v) (fun _ _ => True) fun _ d =>
        d.updPart (d.selPart id) fun p => { p with s2base := v })
    ∧ (∀ k, StepsIf (.partCtlOpen k) (fun _ d => (d.part k).state = .none) fun _ d =>
        d.updPart k fun p => { p with state := .config, err := 0 })
    ∧ (∀ k e, e ≠ 0 → StepsIf (.partCtlStart k) (fun _ d => (d.part k).state = .config ∧ d.startErr k = e)
        fun _ d => d.updPart k fun p => { p with err := e })
    ∧ (∀ k, WritesIf (.partCtlStart k) (fun _ d => (d.part k).state = .config ∧ d.startErr k = 0) fun m d =>
        let d := d.updPart k fun p =>
          { p with
            state := .running, err := 0, s2cur := p.s2base, meters := [0, 0, 0, 0, 0, 0]
            epoch := p.epoch + 1, useq := 0, tstart := d.time, startAt := d.time
            meterDue := d.time + p.ival.toNat * 1000000 }
        let d := { d with
          tags := d.tags.map fun (e : Nat × FrameTag) =>
            (e.1, if e.2.owner == k && e.2.state == 1 && !e.2.hyp then e.2.clearing else e.2) }
        let d := (d.makeRecord m k 3).1
        let p := d.part k
        let d := ((List.range 128).filter p.hasPage).foldl
          (fun d g => d.updCore (coreOfKey g) fun c => { c with part := k }) d
        let sup := p.supctx.toNat % 4096
        (d.updCore (coreOfKey (p.home.toNat % 128)) fun c =>
          c.start sup k (d.tidOf k sup) p.supentry.toNat (BitVec.ofNat 64 k) .s).progress
            (.core (coreOfKey (p.home.toNat % 128))))
    ∧ (∀ k, WritesIf (.partCtlStop k) (fun _ d => (d.part k).state = .running) fun m d => d.stopPartition m k 0x16)
    ∧ (∀ m (d : Dev) k c, ((d.stopPartition m k c).part k).state = .none)
    ∧ (∀ id v, StepsIf (.partFtag id v)
        (fun _ d => ((hfns id d).all fun h => (d.tag h).accepts v.toNat) = false)
        fun _ d => { d with
          tags := insert (d.core id).ftsel { d.tag (d.core id).ftsel with rej := true } d.tags })
    ∧ ∀ id v, StepsIf (.partFtag id v)
        (fun _ d => ((hfns id d).all fun h => (d.tag h).accepts v.toNat) = true
          ∧ d.ftagQuota (hfns id d) v.toNat = true)
        fun _ d =>
          let left := (hfns id d).filter fun h => (d.tag h).state == 1 && Word.bits v.toNat 5 4 != 1
          { d.discardFrames left.contains with
            tags := (hfns id d).foldl (fun t h => insert h ((d.tag h).write v.toNat) t) d.tags }

/-! ### Requests to the dispatcher, the Shepherd and the SEP -/

/-- QPOST appends the record it read at entry to a queue that is the issuer's, enabled and not full; QCTL gives the
status word of a queue and sets its priority, enable and owner, FLUSH failing each entry; each delivers its result at
commit (R352 to R354). KSHR ASSIGN gives a free slot a context of the partition and the number of shares, ERASE
empties one and ends its handles; KSHR BEGIN and FINISH and MTRD RECORD and QUOTE join the SEP's queue (R396, R402,
R403). -/
def Obligations.QueueAndSepInstructions : Prop :=
  (
    let q : (Core → Word) → CoreId → Dev → Nat := fun f id d => (f (d.core id)).toNat
    let sel : OpY → CoreId → Dev → Nat := fun o id d => q (fun c => (c.reg o.ga).v) id d
    let ctl : OpY → CoreId → Frame → Capture → Mem → Dev → Prop := fun o id _ _ _ d => sel o id d < 1024
    (∀ o bs r, LateIf (.qpost o)
        (fun id f c _ d =>
          let n := q (fun c => (c.reg o.gb).v) id d
          lookup c.slot f.recs = some bs ∧ parseLaunch bs = some r ∧ (d.part (d.selPart id)).hasCtx r.ctx = true
            ∧ n < 1024 ∧ ((d.core id).level = .h ∨ (d.queue n).owner = d.selPart id) ∧ (d.queue n).enabled = true
            ∧ (d.queue n).entries.length < 64)
        fun id _ _ _ d =>
          (d.updQueue (q (fun c => (c.reg o.gb).v) id d) fun x => { x with entries := x.entries ++ [bs] }, 0))
      ∧ (∀ o, LateIf (.qctlStatus o) (ctl o) fun id _ _ _ d => (d, d.queueStatus (sel o id d)))
      ∧ (∀ o, LateIf (.qctlPrio o)
          (fun id f c m d => ctl o id f c m d ∧ q (fun c => (c.reg o.gb).v) id d < 16)
          fun id _ _ _ d =>
            (d.updQueue (sel o id d) fun x => { x with prio := q (fun c => (c.reg o.gb).v) id d }, 0))
      ∧ (∀ o, LateIf (.qctlEnable o) (ctl o) fun id _ _ _ d =>
          (d.updQueue (sel o id d) fun x => { x with enabled := true }, 0))
      ∧ (∀ o, LateIf (.qctlDisable o) (ctl o) fun id _ _ _ d =>
          (d.updQueue (sel o id d) fun x => { x with enabled := false }, 0))
      ∧ (∀ o, LateIf (.qctlFlush o) (ctl o) fun id _ _ m d =>
          let n := sel o id d
          let x := d.queue n
          (x.entries.foldl (fun d bs => match parseLaunch bs with
            | some r => d.failDone m ((d.ctxPart r.ctx).getD x.owner) r.ctx r.doneaddr 0x16
            | none => d) (d.updQueue n fun x => { x with entries := [], met := [] }), 0))
      ∧ ∀ o, LateIf (.qctlAssign o)
          (fun id f c m d => ctl o id f c m d ∧ q (fun c => (c.reg o.gb).v) id d < 16
            ∧ (d.queue (sel o id d)).enabled = false ∧ (d.queue (sel o id d)).entries = [])
          fun id _ _ _ d =>
            (d.updQueue (sel o id d) fun x => { x with owner := q (fun c => (c.reg o.gb).v) id d }, 0))
  ∧ (
    let part : CoreId → Dev → Nat := fun id d => (d.issuer id).2.1
    let setSlot : Nat → OpY → (KeySlot → KeySlot) → Dev → Dev := fun p o f d =>
      d.updPart p fun x => { x with slots := x.slots.modify (o.imm.toNat % 16) f }
    let request : Instr → OpY → SepKind → Prop := fun i o kind => LateIf i
      (fun id _ _ _ d => (d.sepq.filter (·.part == part id d)).length < 4)
      fun id _ _ _ d =>
        let q : SepReq :=
          { kind := kind, part := part id d, ctx := (d.issuer id).1, slot := o.imm.toNat % 16
            role := if o.imm.getLsbD 4 then 1 else 0, buf := ((d.core id).reg o.ga).v.toNat
            cw := ((d.core id).reg o.gb).v.toNat, hyp := (d.issuer id).2.2.2, cfg := d.cfgOf id }
        ({ d with sepq := d.sepq ++ [q] }, 0)
    (∀ o v, LateIf (.kshrAssign o)
        (fun id _ _ _ d => ((d.core id).reg o.ga).v.toNat = v ∧ v < 2 ^ 13
          ∧ (d.part (part id d)).hasCtx (v % 4096) = true ∧ (d.keySlot (part id d) (o.imm.toNat % 16)).assigned = false)
        fun id _ _ _ d => (setSlot (part id d) o (fun s => { s with
          assigned := true, two := v.testBit 12, ctx := v % 4096 }) d, 0))
      ∧ (∀ o, LateIf (.kshrErase o) (fun _ _ _ _ _ => True) fun id _ _ _ d =>
          (setSlot (part id d) o (fun s => { gen := s.gen + 1 }) d, 0))
      ∧ (∀ o, request (.kshrBegin o) o .begin_) ∧ (∀ o, request (.kshrFinish o) o .finish)
      ∧ (∀ o, request (.mtrdRecord o) o .record) ∧ ∀ o, request (.mtrdQuote o) o .quote)

/-- PLACE launch and PREST answer the CFGID of a launch that was accepted; PLACE move, PLACE compact, PSNAP and PLSW
leave their request pending on the instances they name, and PLACE discard ends a snapshotted instance
(R337 to R339, R341, R342, R346, R348, R352 to R354). -/
def Obligations.PlacementInstructions : Prop :=
  let rec_ : Bool → OpY → List Byte → LRec → Nat → CoreId → Frame → Capture → Mem → Dev → Prop :=
    fun launch _ bs r part id f c _ d =>
      lookup c.slot f.recs = some bs ∧ parseLaunch bs = some r ∧ d.ctxPart r.ctx = some part
        ∧ r.deps = [] ∧ (launch = true ∨ r.kind = 2)
        ∧ ((d.core id).level = .h ∨ part = d.selPart id)
  let place : OpY → List Byte → LRec → Nat → CoreId → Frame → Capture → Mem → Dev → Dev × Word :=
    fun o bs r part id _ _ m d =>
      let page := match id with
        | .cc p => p.val
        | .sys _ => d.homePage part
      let a := d.accept m part bs r page
        (if o.imm.getLsbD 19 then none else some (o.imm.toNat % 8, Word.bits o.imm.toNat 7 4))
      (a.1, match a.2 with
        | some k => BitVec.ofNat 64 (k % 65536 * 256)
        | none => 3)
  let named : OpY → Inst → CoreId → Frame → Capture → Mem → Dev → Prop := fun o x id _ _ _ d =>
    d.inst ((d.core id).reg o.ga).v.toNat = some x ∧ ((d.core id).level = .h ∨ x.part = d.selPart id)
      ∧ ∀ l ∈ d.installs, l.cfg ≠ ((d.core id).reg o.ga).v.toNat
  let cfg : OpY → CoreId → Dev → Nat := fun o id d => ((d.core id).reg o.ga).v.toNat
  let res : OpY → CoreId → Dev → Word := fun o id d => BitVec.ofNat 64 (cfg o id d % 65536 * 256)
  let snap : Bool → OpY → Inst → CoreId → Frame → Capture → Mem → Dev → Dev × Word := fun marker o x id _ _ _ d =>
    let q : SnapReq :=
      { marker := marker, addr := ((d.core id).reg o.gb).v.toNat, cap := o.imm.toNat * 65536
        release := o.sub.getLsbD 1, issuer := id }
    let told := if (d.core id).level = .h then
        d.post (d.homePage x.part) { d.deviceRec x.part x.ctx with
          cause := 0x16, cls := 2, cfgid := cfg o id d, info := cfg o id d }
      else d
    (told.updInst (cfg o id d) fun x => { x with
      pend := some (.snap q), snap := if marker then some [] else none }, res o id d)
  (∀ o bs r p, LateIf (.placeLaunch o) (rec_ true o bs r p) (place o bs r p))
    ∧ (∀ o bs r p, LateIf (.prest o) (rec_ false o bs r p) (place o bs r p))
    ∧ (∀ o x, LateIf (.placeMove o)
        (fun id f c m d => named o x id f c m d ∧ x.movable = true ∧ x.pend = none
          ∧ (d.moveDest x (orgOf o.imm)).isSome = true)
        fun id _ _ _ d =>
          (d.updInst (cfg o id d) fun x => { x with pend := some (.move (orgOf o.imm)) }, res o id d))
    ∧ (∀ o part, LateIf (.placeCompact o)
        (fun id _ _ _ d => d.ctxPart (cfg o id d) = some part ∧ ((d.core id).level = .h ∨ part = d.selPart id))
        fun id _ _ _ d =>
          let mine := (d.insts.filter fun e => e.2.ctx == cfg o id d).mergeSort fun a b => a.2.lead ≤ b.2.lead
          let r := d.compactNext (cfg o id d) (mine.map (·.1))
          ({ r.1 with compacts := r.1.compacts ++ r.2.toList }, 0))
    ∧ (∀ o x, LateIf (.placeDiscard o)
        (fun id f c m d => named o x id f c m d ∧ x.phase = .snapshotted)
        fun id _ _ m d => ((d.updInst (cfg o id d) fun x => { x with failed := some 0x16 }).endInst m (cfg o id d),
          res o id d))
    ∧ (∀ o x, LateIf (.psnapCut o)
        (fun id f c m d => named o x id f c m d ∧ x.movable = true ∧ x.pend = none) (snap false o x))
    ∧ (∀ o x, LateIf (.psnapMarker o)
        (fun id f c m d => named o x id f c m d ∧ x.movable = true ∧ x.pend = none) (snap true o x))
    ∧ ∀ o r, LateIf (.plsw o)
        (fun id _ _ _ d =>
          plswRect ((d.core id).reg o.ga).v.toNat = some r
            ∧ ((d.core id).level = .h ∨ ∀ g ∈ r.pages, d.planeOwner g (o.imm.toNat % 4) = some (d.selPart id)
                ∧ d.planeOwner g (d.activePlane g) = some (d.selPart id))
            ∧ (∀ e ∈ d.activeOn r.pages, e.2.pend = none ∧ ∀ g ∈ e.2.pages, g ∈ r.pages)
            ∧ ∀ l ∈ d.installingOn r.pages, l.pend = none ∧ ∀ g ∈ l.pages, g ∈ r.pages)
        fun id _ _ _ d =>
          let d' := (d.activeOn r.pages).foldl
            (fun d e => d.updInst e.1 fun x => { x with pend := some .plsw }) d
          let d' := (d.installingOn r.pages).foldl (fun d l => { d with
            installs := d.installs.map fun k => if k.cfg == l.cfg then { k with pend := some .plsw } else k }) d'
          let s : PlaneSwitch :=
            { part := d.selPart id, acc := d'.coreAcc id .ctl .wr 1, pages := r.pages
              plane := o.imm.toNat % 4, done := ((d.core id).reg o.gb).v.toNat }
          ({ d' with switches := d'.switches ++ [s] }, 0)

/-- RINV and XINV drop the translation copies that their form covers, of the issuer's partition or of the one a system
core names, and XINV part puts the new stage-2 base in force (R358, R371, R372, R381). -/
def Obligations.Invalidations : Prop :=
  let part : OpY → CoreId → Dev → Nat := fun o id d =>
    if id.isSys then Word.bits ((d.core id).reg o.gb).v.toNat 15 12 else (d.core id).part
  let ctx : OpY → CoreId → Dev → Nat := fun o id d => ((d.core id).reg o.gb).v.toNat % 4096
  let drop : (XlCopy → Bool) → (Nat → Bool) → (Nat → Bool) →
      (List (Option (BitVec 512 × Nat)) → List (Option (BitVec 512 × Nat))) → Dev → Dev := fun f cs rs g d =>
    let gone := (d.xl.filter f).map (·.unit)
    { ({ d with xl := d.xl.filter fun c => !f c } : Dev).peerAdvance fun _ w => gone.contains w.unit with
      rcopy := d.rcopy.map fun e => if cs (e.1 % 4096) then (e.1, g e.2) else e
      rroot := d.rroot.filter fun e => !rs (e.1 % 4096) }
  let none' : Nat → Bool := fun _ => false
  let mine : OpY → CoreId → Dev → Nat → Bool := fun o id d c =>
    c == ctx o id d && (d.part (part o id d)).hasCtx c
  (∀ o, Commits (.rinvPages o) fun id _ _ d =>
      let p := ((d.core id).reg o.ga).v.toNat / 65536
      let q := p + o.imm.toNat
      drop (fun x => x.part == part o id d && x.ctx == ctx o id d
        && (decide (p ≤ x.page) && decide (x.page ≤ q) || x.deps.any fun e => match e.key with
          | .leaf n => decide (p ≤ n) && decide (n ≤ q)
          | .table va => decide (va / 65536 ≤ q) && decide (p < va / 65536 + 8192)
          | .root | .range _ | .s2 _ => false)) none' none' (fun es => es) d)
    ∧ (∀ o, Commits (.rinvRange o) fun id _ _ d =>
        let k := Word.bits ((d.core id).reg o.gb).v.toNat 21 16
        drop (fun x => x.part == part o id d && x.ctx == ctx o id d
          && (x.range == k || x.deps.any (·.key == .range k))) (mine o id d) none' (fun es => es.set k none) d)
    ∧ (∀ o, Commits (.rinvContext o) fun id _ _ d =>
        drop (fun x => x.part == part o id d && x.ctx == ctx o id d) (mine o id d) (mine o id d) (fun _ => []) d)
    ∧ (∀ o, Commits (.rinvPart o) fun id _ _ d =>
        let all := (d.part (d.selPart id)).hasCtx
        drop (fun x => x.part == d.selPart id) all all (fun _ => []) d)
    ∧ (∀ o, Commits (.xinvFrames o) fun id _ _ d =>
        let k := ((d.core id).reg o.gb).v.toNat % 16
        let f := ((d.core id).reg o.ga).v.toNat / 2 ^ 21
        let hit : Nat → Bool := fun u => decide (f ≤ u) && decide (u ≤ f + o.imm.toNat)
        drop (fun x => x.part == k && (x.used.any hit || x.deps.any fun e => match e.key with
            | .s2 u => hit u
            | .root | .range _ | .table _ | .leaf _ => false))
          (fun c => (d.part k).hasCtx c && (((d.ctx c).rtab :: (d.rroot.filter fun e => e.1 % 4096 == c).map (·.2)).any
            fun (r : Word) => hit (r.toNat / 2 ^ 21) || hit ((r.toNat + 4095) / 2 ^ 21))) none' (fun _ => []) d)
    ∧ ∀ o, Commits (.xinvPart o) fun id _ _ d =>
        let k := ((d.core id).reg o.gb).v.toNat % 16
        (drop (fun x => x.part == k) (d.part k).hasCtx none' (fun _ => []) d).updPart k
          fun p => { p with s2cur := p.s2base }

/-! ### Blocks, records and rounds -/

/-- A live thread at a boundary enters its next block: fetched and decoded whole, with the registers its SRDs name and
memory as they stand; an illegal header or an instruction that the core may not run raises its cause without effect. A
block whose effects all perform commits them and is left; one with a fault keeps none of them and raises the fault of
the lowest place in the order of R374 (R26, R97, R99, R134, R298, R300, R374). A block starts its next record on a
token that waits for it or a count of its own, at most four ahead, and commits its records in order; the end of a
mismatch is reported. A quiescent round commits what it staged, a voided one puts its configuration back to the rewind
point and holds it, and a boundary that nothing holds lets the next round run; an ownership token lets its bank be
read, and the reconfiguration token passes a drained tile (R25, R31, R38, R40, R42, R43, R116). -/
def Obligations.BlocksAndRecords : Prop :=
  (
    let enters : CoreId → Mem → Dev → Dev → List Byte → Prop := fun id m d d1 bs =>
      let c := d.core id
      c.frame = none ∧ d.powered = true ∧ d.takesS id = false ∧ (∀ k, d.takerH = some k → id ≠ .sys k)
        ∧ c.thread = .live ∧ c.sync.all d.syncDone = true ∧ d.shepherdHolds id = false ∧ c.next % 16 = 0
        ∧ (d.updCore id fun c => { c with sync := [] }).fetchBlock m id c.next = (d1, .ok bs)
    let run : CoreId → Frame → Mem → Dev → Dev × Frame × List BlkFault := fun id f m d =>
      Dev.commitRun m id f (d.storeFaults m id f) false d
    (∀ id d1 bs b, WritesIf (.controlBlockEntry id)
        (fun m d => enters id m d d1 bs ∧ rawBlock bs = some b ∧ hdrOk .control b = true
          ∧ firstCauseSlot id.isSys (d.core id).level b = none)
        fun m d =>
          let r := d1.entryReads id (b.build []).slots
          let e := r.1.peerSettle fun _ => false
          let f : Frame :=
            { addr := (d.core id).next, blk := b.build [], srs := r.2, mem0 := writeAll m e.wq
              fab0 := (e.instOf id).map fun x => x.2.fab
              peers0 := (e.peerAdvance fun _ w => w.unit == id.key).peers
              state0 := some ((List.range 16).map fun p => (p, e.heavyFree p), e.queues.map fun q => (q.1, q.2.owner)) }
          e.updCore id fun c => { c with frame := some f })
      ∧ (∀ id d1 bs b, WritesIf (.controlBlockEntry id)
          (fun m d => enters id m d d1 bs ∧ rawBlock bs = some b ∧ hdrOk .control b = false)
          fun _ d => d1.raise id { d1.coreRec id with cause := 0x01, addr := (d.core id).next, hdr := true }
            (d.core id).next)
      ∧ (∀ id d1 bs b k cause w, WritesIf (.controlBlockEntry id)
          (fun m d => enters id m d d1 bs ∧ rawBlock bs = some b ∧ hdrOk .control b = true
            ∧ firstCauseSlot id.isSys (d.core id).level b = some (k, cause, w))
          fun _ d => d1.faultAt id (d.core id).next cause (d.core id).next w.toNat k)
      ∧ (∀ id f, WritesIf (.controlBlockCommit id)
          (fun m d => (d.core id).frame = some f ∧ f.ready = [] ∧ (run id f m d).2.2 = []
            ∧ (run id f m d).1.tx = .ok)
          fun m d => { (run id f m d).1.finishBlock m id (run id f m d).2.1 with tx := .ok, focus := .none })
      ∧ ∀ id f x, WritesIf (.controlBlockCommit id)
          (fun m d => (d.core id).frame = some f ∧ f.ready = [] ∧ firstBlkFault (run id f m d).2.2 = some x)
          fun m d => ({ ({ d with focus := .none } : Dev).keepRecords (run id f m d).1 with tx := .ok } : Dev).faultAt id
            f.addr x.2.2.2.1 x.2.2.2.2.1 x.2.2.2.2.2 x.2.2.1)
  ∧ (
    let block : Nat → Nat → Nat → Inst → Tile → Ct → Blk → Dev → Prop := fun cfg tile blk x t c b d =>
      d.inst cfg = some x ∧ x.tile tile = some t ∧ t.kind = .ct c ∧ c.blks[blk]? = some b ∧ x.fires = true
    let next : Tile → Inst → Blk → Prop := fun t x b =>
      t.tokenFor b b.started = true
        ∨ (b.lcs ≠ [] ∧ t.selfStarts b.ports = true ∧ b.started < chainLength b.lcs
            ∧ x.admits (b.started - b.base) = true)
    (∀ cfg tile blk x t c b, StepsIf (.recordStart cfg tile blk)
        (fun _ d => block cfg tile blk x t c b d ∧ x.stopped tile 0 = false ∧ b.started - b.committed < 4
          ∧ next t x b)
        fun _ d => d.updInst cfg fun x =>
          x.setCt tile { c with blks := c.blks.set blk { b with started := b.started + 1 } })
      ∧ (∀ cfg tile blk x t c b, StepsIf (.recordCommit cfg tile blk)
          (fun _ d => block cfg tile blk x t c b d ∧ b.committed < b.started
            ∧ b.complete t blk b.committed = true)
          fun _ d => d.updInst cfg fun x =>
            x.setCt tile { c with blks := c.blks.set blk { b with committed := b.committed + 1 } })
      ∧ (∀ cfg tile blk slot x c s q, WritesIf (.lengthMismatch cfg tile blk slot)
          (fun _ d => d.inst cfg = some x ∧ x.ct tile = some c ∧ (c.blks[blk]?).bind (·.slots[slot]?) = some s
            ∧ s.disc = some q ∧ q.l = false ∧ q.r = false ∧ q.t = false ∧ max q.nl (max q.nr q.nt) ≤ q.nulls)
          fun _ d =>
            let d := d.updInst cfg fun x => x.setCt tile { c with
              blks := c.blks.modify blk fun b => b.updSlot slot fun s => { s with disc := none } }
            if (d.ctx x.ctx).repen.getLsbD 1 then
              d.post x.lead { d.instRec cfg x with
                cause := 0x11, round := q.round, record := q.record, tcol := tileCol tile, trow := tileRow tile
                blk := blk, slot := slot
                info := q.nl % 65536 + q.nr % 65536 * 2 ^ 16 + q.nt % 65536 * 2 ^ 32 + q.npois % 65536 * 2 ^ 48 }
            else d)
      ∧ (∀ cfg x, WritesIf (.roundBoundary cfg)
          (fun m d => d.inst cfg = some x ∧ x.phase = .running ∧ x.step3 = false ∧ x.paused = false ∧ x.snap = none
            ∧ x.faults = [] ∧ x.quiescent = true
            ∧ (Dev.performAll m cfg x (d.stagedOrder x).2 (d.stagedOrder x).1).2 = none
            ∧ (Dev.performAll m cfg x (d.stagedOrder x).2 (d.stagedOrder x).1).1.step3Awaits cfg = false)
          fun m d => (Dev.performAll m cfg x (d.stagedOrder x).2 (d.stagedOrder x).1).1.passBoundary m cfg x)
      ∧ (∀ cfg x, WritesIf (.roundBoundary cfg)
          (fun m d => d.inst cfg = some x ∧ x.phase = .running ∧ x.step3 = false ∧ x.paused = false ∧ x.snap = none
            ∧ x.faults = [] ∧ x.quiescent = true
            ∧ (Dev.performAll m cfg x (d.stagedOrder x).2 (d.stagedOrder x).1).2 = none
            ∧ (Dev.performAll m cfg x (d.stagedOrder x).2 (d.stagedOrder x).1).1.step3Awaits cfg = true)
          fun m d => (Dev.performAll m cfg x (d.stagedOrder x).2 (d.stagedOrder x).1).1.updInst cfg fun x =>
            { x with step3 := true, paused := true, staged := [] })
      ∧ (∀ cfg x, WritesIf (.roundBoundary cfg)
          (fun _ d => d.inst cfg = some x ∧ x.phase = .running ∧ x.step3 = true ∧ d.step3Awaits cfg = false)
          fun m d => d.passBoundary m cfg { x with step3 := false })
      ∧ (∀ cfg x d1, WritesIf (.roundResume cfg)
          (fun m d => d.inst cfg = some x
            ∧ ((x.phase = .boundary ∧ d1 = d)
              ∨ (x.phase = .stalled ∧ x.stallRes = true ∧ d.missesMet m x = (d1, true)))
            ∧ x.heldBy = none ∧ x.pend = none ∧ x.snap = none ∧ d.activePlane x.lead = x.plane
            ∧ d.refetching cfg = false ∧ d.reportAwaited cfg x = false)
          fun _ _ => (d1.updInst cfg fun x => { x with
            phase := if x.reconf.isSome then .ending else .running, paused := x.reconf.isSome, stallRes := false
            stallMiss := [] }).progress (.config cfg))
      ∧ (∀ cfg x r, WritesIf (.roundVoid cfg)
          (fun _ d => d.inst cfg = some x ∧ firstFaultOf x.faults = some r ∧ x.fires = true)
          fun _ d =>
            let d := (d.rewind cfg x).updInst cfg fun x => { x with phase := .held }
            d.holdInst cfg x { r with
              cls := 1, tid := d.tidOf x.part x.ctx, more := x.faults.length - 1 != 0
              count := x.faults.length - 1 })
      ∧ (∀ cfg mt bank x b, StepsIf (.bankOwnershipTokenArrival cfg mt bank)
          (fun _ d => d.inst cfg = some x ∧ (mt, bank) ∈ x.arriving ∧ x.bank mt bank = some b)
          fun _ d => d.updInst cfg fun x => { x.setBank mt bank { b with owned := true } with
            arriving := x.arriving.filter (· != (mt, bank)) })
      ∧ (∀ cfg tile x t ts, StepsIf (.reconfigTokenPass cfg tile)
          (fun _ d => d.inst cfg = some x ∧ x.phase = .ending ∧ x.reconf = some ts ∧ x.tile tile = some t ∧ x.retired = false
            ∧ tile ∉ ts ∧ x.heldBy = none
            ∧ (x.failed = none → t.drained = true ∧ t.fired = true ∧ d.enginesBusy cfg x = false)
            ∧ ∃ u ∈ x.fab.tiles, u.1 ∉ ts ++ [tile])
          fun _ d => d.setInst cfg { x with reconf := some (ts ++ [tile]) })
      ∧ ∀ cfg tile x t ts, WritesIf (.reconfigTokenPass cfg tile)
          (fun _ d => d.inst cfg = some x ∧ x.phase = .ending ∧ x.reconf = some ts ∧ x.tile tile = some t ∧ x.retired = false
            ∧ tile ∉ ts ∧ x.heldBy = none
            ∧ (x.failed = none → t.drained = true ∧ t.fired = true ∧ d.enginesBusy cfg x = false)
            ∧ ∀ u ∈ x.fab.tiles, u.1 ∈ ts ++ [tile])
          fun m d => (d.setInst cfg { x with reconf := some (ts ++ [tile]) }).retire m cfg
            { x with reconf := some (ts ++ [tile]) })

/-! ### Tokens and operators -/

/-- The head token of an output port enters the queue its route or delay line feeds when there is room, and one of a
foreign context is dropped and reported to H; a token of a fill port becomes the next row of its bank's fill. A stream
operator takes its input tokens and puts its results out (R23, R34, R131, R171, R232 to R240, R286, R349, R390). What
each operator does with a token: a control token passes to OUT0; all but SPLAY, ZIP and UNZIP discard a null token;
JOIN and MERGE put out the triples of R234; SPLAY copies, ZIP and UNZIP count their tokens, SCAN and REDUCE combine
lane by lane, COMPACT gathers the lanes its mask keeps, TRANSPOSE exchanges lanes and tokens, and QUANT and DEQUANT
scale rows (R233 to R240). -/
def Obligations.TokensAndOperators : Prop :=
  (
  let head : Nat → Nat → Nat → Inst → Tile → OutPort → OutTok → Dev → Prop := fun cfg tile port x t p o d =>
    d.inst cfg = some x ∧ x.fires = true ∧ x.tile tile = some t ∧ lookup port t.out = some p
      ∧ t.outHead port = .tok o ∧ o.tok.c = false
  let popped : Nat → Nat → Nat → Tile → Dev → Dev := fun cfg tile port t d =>
    d.updInst cfg fun x => x.setTile tile (t.popOut port)
  let operates : (Nat → Nat → Nat → Instr) → OpKind → Prop := fun i kind => ∀ cfg tile slot x t o,
    StepsIf (i cfg tile slot)
      (fun _ d => d.inst cfg = some x ∧ x.tile tile = some t ∧ lookup slot t.ops = some o ∧ o.kind = kind
        ∧ x.fires = true ∧ x.stopped tile (1 + slot) = false ∧ t.opRoom o.out0 = true ∧ t.opRoom o.out1 = true)
      fun _ d =>
        let r := opStep o (originWord false (tileCol tile) (tileRow tile) slot 8) (t.opHead o.in0) (t.opHead o.in1)
        let t := (t.opTake o.in0 r.take0).opTake o.in1 r.take1
        let t := (t.emitAll o.out0 r.out0).emitAll o.out1 r.out1
        d.updInst cfg fun x => x.setTile tile { t with ops := insert slot r.st t.ops }
  (∀ cfg tile port x t p o tile' port' n, StepsIf (.tokenArrival (.routed cfg tile port))
      (fun _ d => head cfg tile port x t p o d ∧ p.sink = .route tile' port' n
        ∧ x.catches tile' port' o.tok = none ∧ x.edgeTakes tile' port' = true)
      fun _ d => (popped cfg tile port t d).updInst cfg fun x => x.enter tile' port' o.tok false)
    ∧ (∀ cfg tile port x t p o port' n, StepsIf (.tokenArrival (.routed cfg tile port))
        (fun _ d => head cfg tile port x t p o d ∧ p.sink = .delay port' n ∧ x.catches tile port' o.tok = none
          ∧ x.edgeTakes tile port' = true)
        fun _ d => (popped cfg tile port t d).updInst cfg fun x => x.enter tile port' o.tok false)
    ∧ (∀ page link ctx, WritesIf (.tokenArrival (.stray page link ctx))
        (fun _ d => d.pageMark page ≠ some ctx)
        fun _ d => d.post page {
          cause := 0x0C, cls := 2, olev := 3, part := (d.ctxPart ctx).getD 0, ctx := ctx, cfgid := 0xFFFF
          info := page % 2 ^ 7 + link % 2 ^ 3 * 2 ^ 7 + ctx % 2 ^ 12 * 2 ^ 10 })
    ∧ (∀ cfg tile port x p k t ts b b', StepsIf (.fillPortToken cfg tile port)
        (fun _ d => d.inst cfg = some x ∧ (x.tile tile).bind (fun t => lookup port t.inp) = some p
          ∧ p.fills = some k ∧ p.q = t :: ts ∧ x.fires = true ∧ x.stopped tile (16 + port) = false
          ∧ x.bank tile k = some b ∧ (t.n = true → t.l = true) ∧ b.fillWith t = some (.ok b'))
        fun _ d =>
          let log : List LogEntry := if t.p && !t.n then
              [{ org := t.org, skind := 1
                 loc := (originWord false (tileCol tile) (tileRow tile) port 0).toNat / 128
                 cfg := cfg, round := x.fab.round, record := p.taken }]
            else []
          d.updInst cfg fun x => { (x.portTaken tile port).setBank tile k b' with logs := x.logs ++ log })
    ∧ operates .operatorJoin .join ∧ operates .operatorMerge .merge ∧ operates .operatorSplay .splay
    ∧ operates .operatorZip .zip ∧ operates .operatorUnzip .unzip ∧ operates .operatorScan .scan
    ∧ operates .operatorReduce .reduce ∧ operates .operatorCompact .compact ∧ operates .operatorQuant .quant
    ∧ operates .operatorDequant .dequant ∧ operates .operatorTranspose .transpose)
  ∧ (
    let at_ : OpState → OpKind → Option Tok → Option Tok → OpOut := fun o k => opStep { o with kind := k } 0
    let st : OpState → OpKind → OpState := fun o k => { o with kind := k }
    let phase : OpState → OpState := fun o =>
      { o with count := if o.count + 1 < o.par 0 + o.par 1 then o.count + 1 else 0 }
    (∀ o k t h, k ∉ [OpKind.join, .merge] → t.c = true → (k = .zip → o.count < o.par 0) →
        at_ o k (some t) h = { st := st o k, take0 := true, out0 := [t] })
      ∧ (∀ o k t h, k ∈ [OpKind.scan, .reduce, .quant, .dequant, .transpose] → t.c = false → t.n = true →
          at_ o k (some t) h = { st := st o k, take0 := true })
      ∧ (∀ o k t h, k ∈ [OpKind.join, .merge] → o.buf0 = [] → o.end0 = false → t.c = true ∨ t.n = true →
          at_ o k (some t) h = { st := st o k, take0 := true, out0 := if t.c then [t] else [] })
      ∧ (∀ o t h, t.c = false →
          let last := o.par 0 ≤ o.count + 1
          at_ o .splay (some t) h
            = { st := { st o .splay with count := if last then 0 else o.count + 1 }, take0 := decide last, out0 := [t]
                out1 := if o.out1.isSome then [t] else [] })
      ∧ (∀ o t h, t.c = false → o.count < o.par 0 →
          at_ o .zip (some t) h = { st := phase (st o .zip), take0 := true, out0 := [t] }
            ∧ at_ o .unzip (some t) h = { st := phase (st o .unzip), take0 := true, out0 := [t] })
      ∧ (∀ o t h, t.c = false → o.par 0 ≤ o.count →
          at_ o .zip h (some t) = { st := phase (st o .zip), take1 := true, out0 := [t] }
            ∧ at_ o .unzip (some t) h = { st := phase (st o .unzip), take0 := true, out1 := [t] })
      ∧ (∀ o k t h, k = .scan ∨ k = .reduce → t.c = false → t.n = false →
          ∃ r : Tok, r.l = t.l ∧ r.n = false ∧ at_ o k (some t) h
              = { st := { st o k with toks := if t.l then [] else [r] }, take0 := true
                  out0 := if k = .reduce ∧ t.l = false then [] else [r] }
            ∧ (o.toks = [] → r.data = t.data ∧ r.p = t.p ∧ r.org = t.org)
            ∧ ∀ a as ty, o.toks = a :: as → ty = Ty.ofCode (o.par 1) →
                r.p = (a.p || t.p) ∧ (r.p = true → r.org = if a.p then a.org else t.org)
                ∧ ∀ l, l < ty.lanes → ty.ffmt = none → o.par 0 = 0 →
                    intLane ty r.data l = ty.intVal (Word.wrap (intLane ty a.data l + intLane ty t.data l) ty.width))
      ∧ (∀ o t m, t.c = false → t.n = false → m.c = false → m.n = false →
          let ty := Ty.ofCode (o.par 0)
          let kept := ((List.range ty.lanes).filter fun l => bitLane ty m.data l != 0).map (bitLane ty t.data)
          let all := o.lanes ++ kept
          let r := at_ o .compact (some t) (some m)
          r.take0 = true ∧ r.take1 = true
            ∧ (t.l = false → all.length < ty.lanes → r.out0 = [] ∧ r.st.lanes = all)
            ∧ (t.l = false → ty.lanes ≤ all.length → r.st.lanes = all.drop ty.lanes
                ∧ r.out0.map (·.data) = [packLanes ty.laneWidth (all.take ty.lanes)] ∧ r.out0.map (·.l) = [false])
            ∧ (t.l = true → all.length ≤ ty.lanes → r.st.lanes = []
                ∧ r.out0.map (·.data) = [packLanes ty.laneWidth all] ∧ r.out0.map (·.l) = [true]))
      ∧ (∀ o t h w n, w = o.par 0 → n = 1024 / w → t.c = false → t.n = false → o.toks.length + 1 < n → t.l = false →
          at_ o .transpose (some t) h = { st := { st o .transpose with toks := o.toks ++ [t] }, take0 := true })
      ∧ (∀ o t h w n, w = o.par 0 → n = 1024 / w → w ∈ [8, 16, 32] → t.c = false → t.n = false →
          o.toks.length + 1 = n →
          let r := at_ o .transpose (some t) h
          r.take0 = true ∧ r.st.toks = [] ∧ r.out0.length = n
            ∧ ∀ i j, i < n → j < n → ∃ x y, r.out0[j]? = some x ∧ (o.toks ++ [t])[i]? = some y
                ∧ laneOf w x.data i = laneOf w y.data j ∧ (x.l = true ↔ t.l = true ∧ j + 1 = n))
      ∧ (∀ k (xs : List Fv), (∃ x ∈ xs, x = .nan ∨ x.isInf = true) → quantRow k xs = (0xFF, xs.map fun _ => 0))
      ∧ (∀ k (xs : List Fv), (∀ x ∈ xs, ∃ n m e, x = .fin n m e) →
          ∃ e : Nat, (quantRow k xs).1 = e ∧ e ≤ 254 ∧ ((∀ x ∈ xs, x.isZero = true) → e = 127)
            ∧ (quantRow k xs).2 = xs.map fun x => match x with
                | .fin n m d => (quantFmt k).roundFin .rne true 0 n m (d + 127 - e)
                | .nan | .inf _ => 0)
      ∧ (∀ (o : OpState) blk l, (dequantGroup o blk l).length = 128
          ∧ ∀ r x, (dequantGroup o blk l)[r]? = some x → (x.l = true ↔ l = true ∧ r = 127))
      ∧ (∀ o k x y xs ys h0 h1, o.buf0 = x :: xs → o.buf1 = y :: ys → o.acc0.length < 15 → o.acc1.length < 15 →
          let r (c : OpKind) := at_ o c h0 h1
          (k = .join ∨ k = .merge) → (r k).take0 = false ∧ (r k).take1 = false ∧ (r k).out0 = [] ∧ (r k).out1 = []
            ∧ (x.1 = y.1 → (r k).st.acc0 = o.acc0 ++ [x] ∧ (r k).st.acc1 = o.acc1 ++ [(x.1, y.2)]
                ∧ (r k).st.buf0 = xs ∧ (r k).st.buf1 = ys)
            ∧ (x.1 < y.1 → (r k).st.buf0 = xs ∧ (r k).st.buf1 = y :: ys
                ∧ (r .merge).st.acc0 = o.acc0 ++ [x] ∧ (r .merge).st.acc1 = o.acc1 ++ [(x.1, o.par 0)]
                ∧ (r .join).st.acc0 = o.acc0 ∧ (r .join).st.acc1 = o.acc1)
            ∧ (y.1 < x.1 → (r k).st.buf0 = x :: xs ∧ (r k).st.buf1 = ys
                ∧ (r .merge).st.acc0 = o.acc0 ++ [(y.1, o.par 0)] ∧ (r .merge).st.acc1 = o.acc1 ++ [y]
                ∧ (r .join).st.acc0 = o.acc0 ∧ (r .join).st.acc1 = o.acc1))
      ∧ ∀ o k h0 h1, (k = .join ∨ k = .merge) → o.buf0 = [] → o.buf1 = [] → o.end0 = true → o.end1 = true →
          (at_ o k h0 h1).st.end0 = false ∧ (at_ o k h0 h1).st.end1 = false
            ∧ (at_ o k h0 h1).out0.map (·.l) = [true] ∧ (at_ o k h0 h1).out1.map (·.l) = [true])

/-! ### Streams, copies and collectives -/

/-- A command that may start binds its port, begins its copy or joins its collective; an input window fetches its next
granule and delivers its tokens in order, as one record each; a fetch fault is raised when its element is next; an
output stream stages the elements of its tokens, and a gather takes its index tokens, a scatter and an update the pair
of an index token and its data (R36, R209, R212 to R218, R225 to R227, R375). A copy whose payload has all performed
fills its bank, ends with its command and writes its completion word; one that met a fault ends with its report. When
every rank of a group has called, the oldest call of each joins and each rank receives its result (R171, R213, R222,
R223, R227 to R229). -/
def Obligations.EnginesRun : Prop :=
  (
    let bound : Nat → Nat → Inst → Vp → VpBind → Dev → Prop := fun cfg vp x v b d =>
      d.inst cfg = some x ∧ x.vp vp = some v ∧ v.bind = some b
    let pair : Instr → BindKind → AccKind → Nat → Nat → (VpBind → Nat → List Byte → Staged) → Prop :=
      fun i kind acc cfg vp f => ∀ x v b w o ls d1, WritesIf i
        (fun m d => bound cfg vp x v b d ∧ b.kind = kind ∧ b.passed < patCount b.pat 0
          ∧ 128 * idxTokens b.pat ≤ b.part0.length ∧ x.idxHead b = some (w, .tok o) ∧ o.tok.n = false
          ∧ ls = ((List.range 32).filterMap fun l => (idxLane o.tok.data l).map fun i => (l, i))
          ∧ Dev.probeAll m (d.vpAcc cfg x v b acc) (ls.map fun e => (idxAddr b.pat e.2, idxVa b.pat e.2)) d
              = (d1, none))
        fun _ _ =>
          let s := patBytes b.pat
          let st := ls.map fun e => f b ((idxAddr b.pat e.2).getD 0) ((b.part0.drop (e.1 * s)).take s)
          d1.updInst cfg fun x => ((x.vpTake cfg w).setVp vp
            { v with bind := some { b with passed := b.passed + 1, part0 := [] }, elems := b.passed + 1 }).stage vp b st
    (∀ id k cmd b cfg vp x v, StepsIf (.scoreboardCommandStart id k)
        (fun _ d => (d.core id).board[k]? = some cmd ∧ d.mayStart (d.core id) k cmd = true ∧ cmd.kind = .bind b
          ∧ cmd.vp = some (cfg, vp) ∧ d.inst cfg = some x ∧ x.vp vp = some v)
        fun _ d => (d.startCmd id cmd.id).updInst cfg fun x => x.bindVp vp { b with id := cmd.id })
      ∧ (∀ id k cmd cp, WritesIf (.scoreboardCommandStart id k)
          (fun _ d => (d.core id).board[k]? = some cmd ∧ d.mayStart (d.core id) k cmd = true ∧ cmd.kind = .copy cp
            ∧ cmd.vp = none)
          fun _ d =>
            let d := d.startCmd id cmd.id
            { d with
              copies := insert d.nextCopy { cp with cmd := cmd.id } d.copies
              nextCopy := d.nextCopy + 1 }.progress (.engine d.nextCopy))
      ∧ (∀ id k cmd, StepsIf (.scoreboardCommandStart id k)
          (fun _ d => (d.core id).board[k]? = some cmd ∧ d.mayStart (d.core id) k cmd = true ∧ cmd.kind = .sbar)
          fun _ d => d.endCmd cmd.id)
      ∧ (∀ id k cmd g call, WritesIf (.scoreboardCommandStart id k)
          (fun _ d => (d.core id).board[k]? = some cmd ∧ d.mayStart (d.core id) k cmd = true
            ∧ cmd.kind = .coll g call)
          fun m d => d.startColl m id cmd.id g call)
      ∧ (∀ cfg vp x v b va k h0 h d1 bs p d2, WritesIf (.streamFetch cfg vp)
          (fun m d => bound cfg vp x v b d ∧ x.phase ≠ .ending ∧ b.pendFault = none ∧ b.roomy = true
            ∧ b.nextPiece = some (.read va k) ∧ k ≠ 0 ∧ b.kind ≠ .copyIn
            ∧ d.xlate m (d.vpAcc cfg x v b .rd) va = (d1, .ok h0)
            ∧ d1.loadPlain m (d.vpAcc cfg x v b .rd) va k = (d2, .ok (h, bs, p)))
          fun m _ =>
            let off := b.part0.length
            let d2 := if off % patBytes b.pat = 0 ∨ va % 64 = 0 then d2.countAccess m h k else d2
            let org := match p with
              | some c => [(off, originWord false (tileCol v.tile) (tileRow v.tile) v.port c)]
              | none => []
            let b' : VpBind := { b with
              part0 := b.part0 ++ bs, part0Org := b.part0Org ++ org
              part0Src := b.part0Src ++ (if h.peer.isNone then [(off, h.host / frameBytes)] else []) }
            d2.updInst cfg fun y => y.setVp vp { v with bind := some b'.close })
      ∧ (∀ cfg vp x v b t ts, StepsIf (.streamDeliver cfg vp)
          (fun _ d => bound cfg vp x v b d ∧ b.window = t :: ts ∧ x.admits v.adm = true
            ∧ x.portRoom v.tile v.port = true)
          fun _ d => d.updInst cfg fun x =>
            (x.enter v.tile v.port t (b.delivered.kind == .copyIn && b.delivered.passed ≥ patTotal b.delivered.pat)).setVp
              vp { v with bind := some b.delivered, adm := v.adm + 1, elems := b.delivered.passed })
      ∧ (∀ cfg vp x v b f va, StepsIf (.streamFetchFaultRaise cfg vp)
          (fun _ d => bound cfg vp x v b d ∧ b.kind ≠ .copyIn ∧ b.pendFault = some (f, va) ∧ b.window = []
            ∧ x.admits v.adm = true ∧ x.portRoom v.tile v.port = true
            ∧ ∀ r ∈ x.faults, ¬(r.pv = true ∧ r.port = v.port ∧ r.tcol = tileCol v.tile ∧ r.trow = tileRow v.tile))
          fun _ d => d.vpElemFault cfg x vp v (f % 256) va (f / 256))
      ∧ (∀ cfg vp x v b f va id cp, StepsIf (.streamFetchFaultRaise cfg vp)
          (fun _ d => bound cfg vp x v b d ∧ d.portCopy cfg vp b = some (id, cp) ∧ b.pendFault = some (f, va)
            ∧ b.window = [] ∧ x.admits v.adm = true ∧ x.portRoom v.tile v.port = true)
          fun _ d => d.portCopyStops cfg vp id v b (f % 256) va (f / 256))
      ∧ (∀ cfg vp x v b o es d1, WritesIf (.streamOutputStage cfg vp)
          (fun m d => bound cfg vp x v b d ∧ b.kind = .output ∧ x.vpHead v = .tok o ∧ o.tok.n = false
            ∧ b.passed < patTotal b.pat
            ∧ es = ((List.range (patTaken b.pat b.passed o.tok.l)).map fun k =>
                (patAddr b.pat (b.passed + k), patVa b.pat (b.passed + k)))
            ∧ Dev.probeAll m (d.vpAcc cfg x v b .wr) es d = (d1, none))
          fun _ _ =>
            let s := patBytes b.pat
            let st := es.mapIdx fun k e =>
              Staged.store vp b.who (e.1.getD 0) (((Word.toBytes 128 o.tok.data.toNat).drop (k * s)).take s)
            d1.updInst cfg fun x => ((x.vpTake cfg v).setVp vp { v with
              bind := some { b with passed := b.passed + es.length }, elems := b.passed + es.length }).stage vp b st)
      ∧ (∀ cfg vp x v b w o, StepsIf (.gatherIndexToken cfg vp)
          (fun _ d => bound cfg vp x v b d ∧ b.kind = .gather ∧ x.phase ≠ .ending
            ∧ b.idxs.length ≤ b.fetched - b.passed ∧ x.idxHead b = some (w, .tok o) ∧ o.tok.n = false
            ∧ b.passed + b.idxs.length < patCount b.pat 0)
          fun _ d => d.updInst cfg fun x => (x.vpTake cfg w).setVp vp
            { v with bind := some { b with idxs := b.idxs ++ [o.tok] } })
      ∧ (∀ cfg vp, pair (.scatterIndexToken cfg vp) .scatter .wr cfg vp fun b va bs => .store vp b.who va bs)
      ∧ ∀ cfg vp, pair (.updateIndexToken cfg vp) .update .upd cfg vp fun b va bs =>
          .update vp b.who va b.op b.ty (Word.ofBytes bs) (patOrder b.pat))
  ∧ (
    let done : Nat → Copy → Dev → Prop := fun id c d =>
      lookup id d.copies = some c ∧ c.fault = none ∧ d.copyDone c = true
    let filled : Copy → Dev → Dev := fun c d => match c.dst with
      | .bank cfg tile bank =>
        if c.refetch && !c.again then d
        else d.updInst cfg fun x => match x.bank tile bank with
          | some b =>
            { x.setBank tile bank (b.copied c (if c.again then c.made else x.fills)) with fills := x.fills + 1 }
          | none => x
      | .pattern _ | .vport _ _ | .scale _ _ _ _ _ => d
    let ended : Nat → Copy → Dev → Dev := fun id c d => match c.dst with
      | .vport _ _ => { filled c d with copies := remove id (filled c d).copies }
      | .pattern _ | .bank _ _ _ | .scale _ _ _ _ _ => (filled c d).endCopy id c
    (∀ id c, c.cw = none → StepsIf (.copyComplete id) (fun _ d => done id c d) fun _ d => ended id c d)
      ∧ (∀ id c a v d1, c.cw = some (a, v) → WritesIf (.copyComplete id)
          (fun m d => done id c d ∧ (ended id c d).completionWord m
            { (filled c d).copyAcc c .wr with path := .scopy } c.cfg a v = (d1, .ok true))
          fun _ _ => d1)
      ∧ (∀ id c a v d1, c.cw = some (a, v) → WritesIf (.copyComplete id)
          (fun m d => done id c d ∧ (ended id c d).completionWord m
            { (filled c d).copyAcc c .wr with path := .scopy } c.cfg a v = (d1, .ok false))
          fun _ d => d)
      ∧ (∀ id c cause addr info, WritesIf (.copyFault id)
          (fun _ d => lookup id d.copies = some c ∧ c.fault = some (cause, addr, info))
          fun _ d => (d.copyReport c cause addr info).endCopy id c)
      ∧ ∀ ctx grp g cs, WritesIf (.collectiveComplete ctx grp)
          (fun _ d => lookup grp (d.ctx ctx).groups = some g ∧ g.nextCalls = some cs)
          fun m d => cs.foldl (fun d c => d.finishCall m ctx grp cs c) (d.updGroup ctx grp fun g => g.joined cs))

/-! ### The tier engine, the dispatcher and the Shepherd -/

/-- The TE acts on the oldest action of a granule, ends its fills and drains, and lets the oldest report of a source
check its deadlines and then fire its entries (R258, R259, R264, R265). A decision reads dependences again, removes
heads that can never be placed and takes at most one placeable head, highest level first; a head that has waited long
is promoted; the oldest accepted launch is checked and installed, or fails with its report; a restore whose refetches
are complete runs, and an instance whose threads have halted ends (R329, R331 to R334, R337, R345). -/
def Obligations.TierEngineAndLaunches : Prop :=
  (
    let key : Nat → Nat → Nat := fun ctx gran => granKey ctx (gran * granBytes)
    let acts : Nat → Nat → Nat → TeAct → Mem → Dev → TeView → Dev → Prop := fun ctx gran part act m d v d1 =>
      d.ctxPart ctx = some part ∧ ((d.part part).gran (key ctx gran)).acts.head? = some act
        ∧ d.teView m part ctx (gran * granBytes) = (d1, v)
    let res : Nat → Nat → Nat → Dev → Residency := fun ctx gran part d => ((d.part part).gran (key ctx gran)).res
    let after : Nat → Nat → Nat → Mem → Dev → Dev := fun ctx gran part m d =>
      (d.updGran part (key ctx gran) Granule.taken).pruneFired m part ctx
    (∀ ctx gran part host d1 d2 e, WritesIf (.teFetchAction ctx gran)
        (fun m d => acts ctx gran part .fetch m d (.tiered host) d1 ∧ res ctx gran part d = .home
          ∧ d1.pickOf (d1.freeEntries part) = (d2, some e))
        fun m _ => after ctx gran part m (d2.updGran part (key ctx gran) fun g =>
          { g with res := .filling, dirty := false, entry := e }))
      ∧ (∀ ctx gran part host d1, WritesIf (.teFetchAction ctx gran)
          (fun m d => acts ctx gran part .fetch m d (.tiered host) d1 ∧ res ctx gran part d = .home
            ∧ d1.freeEntries part = [])
          fun m _ => after ctx gran part m
            ((d1.updGran part (key ctx gran) fun g =>
              { g with res := .pending, order := (d1.part part).teOrder }).updPart part fun p =>
                { p with teOrder := (d1.part part).teOrder + 1 }))
      ∧ (∀ ctx gran part host d1, WritesIf (.teFetchAction ctx gran)
          (fun m d => acts ctx gran part .fetch m d (.tiered host) d1 ∧ res ctx gran part d = .draining)
          fun m _ => after ctx gran part m (d1.updGran part (key ctx gran) fun g => { g with res := .resident }))
      ∧ (∀ ctx gran part host d1, WritesIf (.teEvictAction ctx gran)
          (fun m d => acts ctx gran part .evict m d (.tiered host) d1 ∧ res ctx gran part d = .resident
            ∧ ((d.part part).gran (key ctx gran)).pin = false)
          fun m _ => after ctx gran part m (d1.updGran part (key ctx gran) fun g => { g with res := .draining }))
      ∧ (∀ ctx gran part host d1, WritesIf (.teEvictAction ctx gran)
          (fun m d => acts ctx gran part .evict m d (.tiered host) d1
            ∧ ((d.part part).gran (key ctx gran)).pin = true)
          fun m _ => after ctx gran part m d1)
      ∧ (∀ ctx gran part act d1, act = .fetch ∨ act = .evict →
          WritesIf (if act = .fetch then .teFetchAction ctx gran else .teEvictAction ctx gran)
            (fun m d => acts ctx gran part act m d .plain d1) fun m _ => after ctx gran part m d1)
      ∧ (∀ ctx gran part, WritesIf (.teFillComplete ctx gran)
          (fun _ d => d.ctxPart ctx = some part ∧ res ctx gran part d = .filling)
          fun m d =>
            let r := d.moveGranule m part ctx (key ctx gran) true
            if r.2 = true then (r.1.updGran part (key ctx gran) fun g => { g with
              res := if g.evictNext && !g.pin then .draining else .resident
              evictNext := false }).pruneFired m part ctx
            else ((r.1.updGran part (key ctx gran) fun g => { g with
              res := .home, evictNext := false, drops := g.drops ++ [g.lastFetch] }).giveEntry part).pruneFired m part ctx)
      ∧ (∀ ctx gran part, WritesIf (.teDrainComplete ctx gran)
          (fun _ d => d.ctxPart ctx = some part ∧ res ctx gran part d = .draining)
          fun m d =>
            let g := (d.part part).gran (key ctx gran)
            let r := if g.dirty then d.moveGranule m part ctx (key ctx gran) false else (d, true)
            if r.2 = true then
              (r.1.updGran part (key ctx gran) fun g => { g with res := .home, dirty := false }).giveEntry part
            else r.1.updGran part (key ctx gran) fun g => { g with res := .resident, drops := g.drops ++ [g.lastEvict] })
      ∧ ∀ r rs, WritesIf .teMarkerReport (fun _ d => d.reports = r :: rs ∧ oldestReports d.reports = [0])
          fun m d =>
            let mks := (List.range 4096).filter r.markers.contains
            let d := mks.foldl (Dev.checkMarker m r) { d with reports := rs }
            (mks.foldl (Dev.fireMarker m r) d).pruneFired m r.part r.ctx)
  ∧ (
    (WritesIf .dispatchDecision (fun _ _ => True) fun m d =>
        let qs := d.queues.map (·.1)
        let d := qs.foldl (fun d q => d.examine m q 65) d
        let d := qs.foldl (fun d q =>
          if d.schedAge ≠ 0 ∧ d.ready q = true ∧ 1000 * d.schedAge.toNat ≤ (d.queue q).wait then
            d.updQueue q fun x => { x with promoted := true }
          else d) d
        let d := d.decide m (qs.filter d.ready) [15, 14, 13, 12, 11, 10, 9, 8, 7, 6, 5, 4, 3, 2, 1, 0] []
        { d with
          queues := d.queues.map fun e =>
            (e.1, if e.2.promoted then { e.2 with promoted := false, wait := 0 } else e.2) })
      ∧ (∀ m q r p ps k (d d1 : Dev) w, (d.queue q).met.contains k = false →
          d.depWord m (d.headPart q r) r.ctx p = (d1, .ok w) →
          d.rereadFrom m q r (p :: ps) k = (if p.met w then
              d1.updQueue q fun x => { x with met := x.met ++ [k] }
            else d1).rereadFrom m q r ps (k + 1))
      ∧ (∀ q r, WritesIf (.dependenceReread q) (fun _ d => (d.queue q).head = some r)
          fun m d => d.rereadFrom m q r r.deps 0)
      ∧ (∀ q, StepsIf (.queuePromotion q)
          (fun _ d => d.schedAge ≠ 0 ∧ d.ready q = true ∧ 1000 * d.schedAge.toNat ≤ (d.queue q).wait)
          fun _ d => d.updQueue q fun x => { x with promoted := true })
      ∧ (∀ l rest r d1 p tt saved, WritesIf .install
          (fun m d => d.installs = l :: rest ∧ parseLaunch l.record = some r
            ∧ d.installChecks m l r = (d1, .ok (p, tt, saved)))
          fun m _ => ({ d1 with installs := rest } : Dev).installed m l r p tt saved)
      ∧ (∀ l rest r d1 e, WritesIf .install
          (fun m d => d.installs = l :: rest ∧ parseLaunch l.record = some r ∧ d.installChecks m l r = (d1, .error e))
          fun m _ => ({ d1 with installs := rest } : Dev).failLaunch m l.part l.ctx l.page r.doneaddr
            { e with cfgid := l.cfg })
      ∧ (∀ cfg x, StepsIf (.restoreSourcesResume cfg)
          (fun _ d => d.inst cfg = some x ∧ x.phase = .restoring ∧ d.activePlane x.lead = x.plane
            ∧ ∀ e ∈ d.copies, e.2.refetch = true → e.2.dst.inst ≠ some cfg)
          fun _ d => (d.updInst cfg fun x => { x with
            phase := if x.reconf.isSome then .boundary else .running, paused := x.reconf.isSome }).progress
            (.config cfg))
      ∧ (∀ cfg x, StepsIf (.restoreSourcesResume cfg)
          (fun _ d => d.inst cfg = some x ∧ x.phase = .restoring ∧ d.activePlane x.lead ≠ x.plane
            ∧ x.fab.round = x.rew.round ∧ x.fab.tiles = x.rew.tiles
            ∧ ∀ e ∈ d.copies, e.2.refetch = true → e.2.dst.inst ≠ some cfg)
          fun _ d => (d.updInst cfg fun x => { x with phase := .boundary, paused := true }).progress (.config cfg))
      ∧ ∀ cfg x, WritesIf (.instanceEnd cfg)
          (fun _ d => d.inst cfg = some x ∧ x.retired = true
            ∧ ∀ p ∈ x.threads, (d.ccOf p x.plane).threadLive = false)
          fun m d => d.endInst m cfg)

/-- A quiescent configuration moves to the destination the Shepherd finds, one too late for a compaction is skipped, a
CUT image is written at a boundary, a marker stops the node it reaches and the MARKER image is written when every link
has one, the outgoing configurations of a switch at their boundaries give their pages to the incoming plane, and an
empty edge takes its new depth (R338, R339, R341 to R344, R347 to R349). -/
def Obligations.ShepherdActs : Prop :=
  (∀ cfg x org r c p, WritesIf (.shepherdMove cfg)
      (fun _ d => d.inst cfg = some x ∧ x.pend = some (.move org) ∧ x.quiet = true ∧ d.copiesInto cfg = false
        ∧ d.moveDest x org = some (r, c, p))
      fun _ d => (d.moveTo cfg x r c p).compactSkip cfg)
    ∧ (∀ cfg x c t, WritesIf (.compactTimeout cfg)
        (fun _ d => d.inst cfg = some x ∧ (d.compacts.find? fun c => c.cur.map (·.1) == some cfg) = some c
          ∧ c.cur = some (cfg, t) ∧ 1000 * (d.part x.part).ctmo.toNat ≤ d.time - t)
        fun _ d => d.compactSkip cfg)
    ∧ (∀ cfg x q, WritesIf (.snapshotCut cfg)
        (fun _ d => d.inst cfg = some x ∧ x.pend = some (.snap q) ∧ q.marker = false ∧ x.quiet = true
          ∧ d.copiesInto cfg = false ∧ d.threadsSettled x = true)
        fun m d => d.takeSnapshot m cfg x q)
    ∧ (∀ cfg node x ns t tl l, StepsIf (.snapshotMarkerArrival cfg node)
        (fun _ d => d.inst cfg = some x ∧ x.snap = some ns ∧ (t, tl) ∈ x.fab.tiles ∧ node ∈ tileNodes t tl
          ∧ node ∉ ns ∧ (node ∈ x.sourceNodes ∨ (l ∈ x.links ∧ l.2.2 = node ∧ l.1 ∈ ns ∧ l.2.1 = true)))
        fun _ d => d.updInst cfg fun x => { x with snap := some (ns ++ [node]) })
    ∧ (∀ cfg x q ns, WritesIf (.snapshotImageWrite cfg)
        (fun _ d => d.inst cfg = some x ∧ x.pend = some (.snap q) ∧ x.snap = some ns ∧ x.markersDone ns = true
          ∧ d.copiesInto cfg = false ∧ d.threadsSettled x = true)
        fun m d => d.takeSnapshot m cfg x q)
    ∧ (∀ part s, WritesIf (.planeSwitch part)
        (fun _ d => d.switches.find? (·.part == part) = some s
          ∧ (∀ e ∈ d.activeOn s.pages, e.2.pend = some .plsw → e.2.quiet = true)
          ∧ ∀ l ∈ d.installingOn s.pages, l.pend ≠ some .plsw)
        fun m d =>
          let on := (d.activeOn s.pages).filter fun e => e.2.pend == some .plsw
          let d := s.pages.foldl (Dev.switchPage s.plane) d
          let d := on.foldl (fun d e => d.updInst e.1 fun x => { x with pend := none }) d
          let d := { d with switches := d.switches.filter (· != s) }
          if s.done = 0 then d else d.tryWord m { acc := s.acc, cfg := 0xFFFF, addr := s.done, v := 1 })
    ∧ ∀ cfg tile port x t p n, StepsIf (.edgeDepthApply cfg tile port)
        (fun _ d => d.inst cfg = some x ∧ x.tile tile = some t ∧ lookup port t.inp = some p ∧ p.newDepth = some n
          ∧ p.q = []
          ∧ (((t.inp.filter fun q => q.1 != port && q.2.feeder == .route).map (·.2.depth)).foldl (· + ·) n) ≤ 128)
        fun _ d => d.updInst cfg fun x => x.setTile tile
          { t with inp := insert port { p with depth := n, newDepth := none } t.inp }

/-! ### Delivery of records, memory and meters -/

/-- A CC takes the first record of its queue at a boundary, and the lowest free system core that of the H queue; a
delegated record goes to the next entry of its context's ring and PRODUCED follows, and its ACK word releases the
agent that it holds; a timed WFI ends, and an agent without progress is reported once (R304, R308, R310, R312, R314,
R315, R317, R325). The clearing engine writes zeros over a line of a frame that is being cleared; a line read or
written for no agent passes the checks of its frame and its bad lines are recorded; a periodic usage record is made;
and the SEP serves the head of its queue and writes its status to the completion word, a FINISH whose confirmation and
share verify giving the slot its share, a BEGIN whose points lie on the curve storing the SEP's point and confirmation
(R389, R392, R393, R396, R400, R403). A BEGIN whose shared point is infinity answers status 6: that is the model's
reading (log entry 40). -/
def Obligations.RecordsAndMeters : Prop :=
  (
    (∀ id r, StepsIf (.trapEntry id) (fun _ d => d.takesS id = true ∧ firstRec (d.core id).queue = some r)
        fun _ d => (d.updCore id fun c => { c with queue := c.queue.filter (· != r) }).enterTrap id r (d.core id).next)
      ∧ (∀ k r, StepsIf .hQueueTake (fun _ d => d.takerH = some k ∧ firstRec d.hqueue = some r)
          fun _ d => ({ d with hqueue := d.hqueue.filter (· != r) } : Dev).enterTrap (.sys k) r (d.core (.sys k)).next)
      ∧ (∀ ctx r rest d1 bs p d2 d3 n, WritesIf (.eventRingWrite ctx)
          (fun m d =>
            let x := d.ctx ctx
            x.evq = r :: rest ∧ x.evBase ≠ 0 ∧ x.evSize ≠ 0
              ∧ d.load m (d.deviceAcc r.part ctx .rd 0) x.evBase 20 = (d1, .ok (bs, p))
              ∧ Word.ofBytes (bs.take 8) = n
              ∧ (n + 2 ^ 64 - Word.ofBytes ((bs.drop 8).take 8)) % 2 ^ 64 ≠ x.evSize
              ∧ d1.devStore m r.part ctx (x.evBase + 64 + 64 * (n % x.evSize)) (r.bytes true) = (d2, true)
              ∧ d2.devStore m r.part ctx x.evBase (Word.toBytes 8 (n + 1)) = (d3, true))
          fun _ _ => d3.updCtx ctx fun c => { c with
            evq := rest, evAck := if r.holds || r.cause == 0x0E then c.evAck ++ [(n, r)] else c.evAck })
      ∧ (∀ ctx entry r v, r.holds = true → v = 1 ∨ v = 2 → WritesIf (.eventRingAck ctx entry)
          (fun m d => lookup entry (d.ctx ctx).evAck = some r ∧ ∃ d1 bs p,
            d.load m (d.deviceAcc r.part ctx .rd 0) ((d.ctx ctx).evEntry entry + 56) 8 = (d1, .ok (bs, p))
              ∧ Word.ofBytes bs = v)
          fun m d =>
            ((d.load m (d.deviceAcc r.part ctx .rd 0) ((d.ctx ctx).evEntry entry + 56) 8).1.updCtx ctx fun c =>
              { c with evAck := remove entry c.evAck }).release r.seqNo r.cause (v == 2))
      ∧ (∀ id b, StepsIf (.wfiTimeout id) (fun _ d => (d.core id).thread = .wfi (some b) ∧ b ≤ d.time)
          fun _ d => d.updCore id fun c => { c with thread := .live })
      ∧ ∀ w t, WritesIf (.stallWatchdog w)
          (fun _ d => (d.watch.find? fun e => e.1 == w) = some (w, t, false) ∧ d.watched w = true
            ∧ d.wdogOf w ≤ (d.time - t) / 1000)
          fun _ d =>
            let d' := d.stallReport w ((d.time - t) / 1000)
            { d' with watch := d'.watch.map fun e => if e.1 == w then (w, t, true) else e })
  ∧ (
    let served : SepReq → Dev × Nat → Mem → Dev := fun q r m =>
      r.1.tryWord m { acc := r.1.sepAcc q .wr 1, cfg := q.cfg, addr := q.cw, v := BitVec.ofNat 64 r.2 }
    let head : SepKind → SepReq → List SepReq → Dev → Prop := fun kind q rest d => d.sepq = q :: rest ∧ q.kind = kind
    (∀ hfn line, WritesIf (.clearLine hfn line)
        (fun _ d => (d.tag hfn).state = 2 ∧ line < 32768 ∧ line ∉ (d.tag hfn).lines)
        fun _ d =>
          let a := hfn * frameBytes + 64 * line
          (((d.write (bytesAt a (List.replicate 64 0))).forgetOld a 64).markCleared a).cureLine a)
      ∧ (∀ q bad bs o d1, (∀ b ∈ bad, ∀ e, BadLine.out b ≠ .ecc e) → WritesIf (.memoryLineRead q)
          (fun m d => d.pkg.powered = true ∧ d.readLocal m q.tid false (q.addr / 64 * 64) 64 = (bad, bs, o, d1))
          fun _ _ => d1.postNoAgent q.tid (q.addr / 64 * 64) bad)
      ∧ (∀ q, WritesIf (.memoryLineWrite q) (fun _ d => d.pkg.powered = true)
          fun _ d =>
            let r := d.writeLocal q.tid false q.addr (q.data.take (64 - q.addr % 64))
            r.2.postNoAgent q.tid (q.addr / 64 * 64) r.1)
      ∧ (∀ k, WritesIf (.meterPeriodicRecord k)
          (fun _ d => (d.part k).state = .running ∧ (d.part k).ival ≠ 0 ∧ (d.part k).meterDue ≤ d.time)
          fun m d =>
            let d' := (d.makeRecord m k 0).1
            d'.updPart k fun p => { p with meterDue := d'.time + p.ival.toNat * 1000000 })
      ∧ (∀ q rest, WritesIf .kshrBeginServe (fun _ d => head .begin_ q rest d)
          fun m d => served q (serveBegin m q { d with sepq := rest }) m)
      ∧ (∀ q rest, WritesIf .kshrFinishServe (fun _ d => head .finish q rest d)
          fun m d => served q (serveFinish m q { d with sepq := rest }) m)
      ∧ (∀ q rest d1 b, WritesIf .kshrBeginServe
          (fun m d =>
            let slot := d.keySlot q.part q.slot
            let pa := BitVec.ofNat 512 (Word.ofBytesBe (sub b 0x60 64))
            let ra := BitVec.ofNat 512 (Word.ofBytesBe (sub b 0xA0 64))
            let n := Word.ofBytes (sub b 0x40 2)
            head .begin_ q rest d ∧ slot.assigned = true ∧ slot.share q.role = none ∧ (q.role = 1 → slot.two = true)
              ∧ ({ d with sepq := rest } : Dev).sepLoad m q 0 8 = (d1, some b) ∧ n ≠ 0 ∧ n ≤ 64
              ∧ sm2OnCurve pa = true ∧ sm2OnCurve ra = true)
          fun m _ =>
            let pa := BitVec.ofNat 512 (Word.ofBytesBe (sub b 0x60 64))
            let ra := BitVec.ofNat 512 (Word.ofBytesBe (sub b 0xA0 64))
            match d1.respond pa ra (sub b 0 (Word.ofBytes (sub b 0x40 2))) with
            | (d2, rb, some agreed) =>
              let w := d2.sepStore m q 0x100
                (beBytes rb ++ Word.toBytesBe 32 (Word.bits agreed.toNat 511 256) ++ sub b 0x160 32)
              if w.2 then
                served q (w.1.updSlot q.part q.slot fun s =>
                  if q.role = 0 then { s with begun0 := some agreed } else { s with begun1 := some agreed }, 1) m
              else served q (w.1, 8) m
            | (d2, _, none) => served q (d2, 6) m)
      ∧ (∀ q rest d1 b agreed, WritesIf .kshrFinishServe
          (fun m d =>
            let slot := d.keySlot q.part q.slot
            let share := xorBytes (sub b 0x180 16)
              (sm4Enc (BitVec.ofNat 128 (Word.bits agreed.toNat 767 640)) (List.replicate 16 0))
            head .finish q rest d ∧ slot.assigned = true ∧ slot.share q.role = none ∧ (q.role = 1 → slot.two = true)
              ∧ (if q.role = 0 then slot.begun0 else slot.begun1) = some agreed
              ∧ ({ d with sepq := rest } : Dev).sepLoad m q 0 8 = (d1, some b)
              ∧ sub b 0x160 32 = Word.toBytesBe 32 (Word.bits agreed.toNat 255 0)
              ∧ sub b 0x190 16 = (hmacSm3 (Word.toBytesBe 16 (Word.bits agreed.toNat 639 512))
                  (share ++ sub b 0xE0 32 ++ Word.toBytes 1 q.slot ++ Word.toBytes 1 q.role)).take 16
              ∧ ((slot.bind.all (· == 0)) = true ∨ ((sub b 0xE0 32).all (· == 0)) = true ∨ slot.bind = sub b 0xE0 32))
          fun m _ =>
            let share := BitVec.ofNat 128 (Word.ofBytesBe (xorBytes (sub b 0x180 16)
              (sm4Enc (BitVec.ofNat 128 (Word.bits agreed.toNat 767 640)) (List.replicate 16 0))))
            let bound : KeySlot → KeySlot := fun s =>
              if (sub b 0xE0 32).all (· == 0) then s else { s with bind := sub b 0xE0 32 }
            served q (d1.updSlot q.part q.slot fun s => bound (if q.role = 0
              then { s with begun0 := none, share0 := some share }
              else { s with begun1 := none, share1 := some share }), 1) m)
      ∧ (∀ q rest, WritesIf .mtrdRecordServe (fun _ d => head .record q rest d)
          fun m d =>
            let r := ({ d with sepq := rest } : Dev).makeRecord m q.part 1
            let s := r.1.sepStore m q 0 r.2
            served q (s.1, if s.2 then 1 else 8) m)
      ∧ ∀ q rest d1 b, WritesIf .mtrdQuoteServe
          (fun m d => head .quote q rest d ∧ ({ d with sepq := rest } : Dev).sepLoad m q 0 1 = (d1, some b))
          fun m _ =>
            let body := d1.reportBody q.part (b.take 32)
            let g := d1.sign body
            let s := g.1.sepStore m q 0 (body ++ g.2)
            served q (s.1, if s.2 then 1 else 8) m)

/-! ### Cold operation and management -/

/-- The band controller takes the transition that its sample calls for, TRIP before any other; the package boots into
the state of its band, the retreat refreshes, retrains and posts its event, a patrol pass and a governor decision do
what R411 and R416 to R418 say, and the loss of power leaves the flash alone (R407 to R413, R416 to R418). How many symbols a pass counts for the
lines it corrected is the model's reading (log entry 23). -/
def Obligations.ColdOperation : Prop :=
  let sampled : List (Option Nat) → Dev → Dev := fun rs d => d.sample (sensorsOf rs)
  let calm : List (Option Nat) → Dev → Prop := fun rs d => d.auditDue = false ∧ tripDue (sensorsOf rs) = false
  let hot : List (Option Nat) → Nat → Nat → Prop := fun rs v i => hottest (sensorsOf rs) = some (v, i)
  (∀ rs, WritesIf (.bandSample rs)
      (fun _ d => d.pkg ≠ .off ∧ d.pkg ≠ .trip ∧ d.auditDue = false ∧ tripDue (sensorsOf rs) = true)
      fun m d => (sampled rs d).trip m)
    ∧ (∀ rs v i, v < 64 * 100 → WritesIf (.bandSample rs)
        (fun _ d => calm rs d ∧ d.pkg = .cooling ∧ hot rs v i) fun _ d => (sampled rs d).enterPkg .soak)
    ∧ (∀ rs v i, 64 * 100 ≤ v → WritesIf (.bandSample rs)
        (fun _ d => calm rs d ∧ d.pkg = .soak ∧ hot rs v i) fun _ d => (sampled rs d).enterPkg .cooling)
    ∧ (∀ rs v i, v < 64 * 100 → WritesIf (.bandSample rs)
        (fun _ d => calm rs d ∧ d.pkg = .soak ∧ hot rs v i ∧ (sampled rs d).soaked = true)
        fun _ d => (sampled rs d).enterPkg .coldReady)
    ∧ (∀ rs v i, 64 * 100 ≤ v → WritesIf (.bandSample rs)
        (fun _ d => calm rs d ∧ (d.pkg = .coldReady ∨ d.pkg = .run) ∧ hot rs v i)
        fun _ d => (sampled rs d).enterRetreat)
    ∧ (∀ rs v i, 64 * 140 ≤ v → WritesIf (.bandSample rs)
        (fun _ d => calm rs d ∧ d.pkg = .retreat ∧ hot rs v i) fun m d => (sampled rs d).enterWarming m)
    ∧ (∀ rs v i, 64 * 250 ≤ v → WritesIf (.bandSample rs)
        (fun _ d => calm rs d ∧ d.pkg = .warming ∧ coldest (sensorsOf rs) = some (v, i))
        fun _ d => (sampled rs d).enterPkg .service)
    ∧ StepsIf .retreatRowRefreshComplete (fun _ d => d.pkg = .retreat ∧ d.retreat = .refreshing)
        (fun _ d => { d with retreat := .toB })
    ∧ (∀ grp, grp < 48 → StepsIf (.hbmGroupRetrain grp)
        (fun _ d => d.pkg = .retreat ∧ d.retreat = .toB ∧ ((d.sets.set grp 1).all (· == 1)) = false)
        fun _ d => { d with sets := d.sets.set grp 1 })
    ∧ (∀ grp, grp < 48 → WritesIf (.hbmGroupRetrain grp)
        (fun _ d => d.pkg = .retreat ∧ d.retreat = .toB ∧ ((d.sets.set grp 1).all (· == 1)) = true)
        fun _ d => { ({ d with sets := d.sets.set grp 1 } : Dev).thermalEvent 0 d.thermInfo with retreat := .settled })
    ∧ (∀ grp, grp < 48 → WritesIf (.hbmGroupRetrain grp)
        (fun _ d => d.pkg = .retreat ∧ d.retreat = .toC ∧ ((d.sets.set grp 2).all (· == 2)) = true)
        fun _ d =>
          let d := { d with sets := d.sets.set grp 2 }
          (d.enterPkg (if d.runningParts.isEmpty then .coldReady else .run)).thermalEvent 1 d.thermInfo)
    ∧ (∀ n, StepsIf (.patrolPassComplete n)
        (fun _ d => (d.pkg = .soak ∨ d.pkg = .coldReady ∨ d.pkg = .run) ∧ 3600 * 10 ^ 9 ≤ d.patrolNs)
        fun _ d =>
          let fixed := max d.fixes (min n (4 * d.fixes))
          ({ d with
          patrolNs := d.patrolNs - 3600 * 10 ^ 9, passes := d.passes + 1, corrected := fixed, fixes := 0
          passClean := d.passClean || !d.passBad, passBad := false
          refresh := d.refresh || decide (4096 < fixed), auditDue := d.auditDue || decide (4096 < fixed) }
            : Dev).patrol 0 (d.patrolNs - 3600 * 10 ^ 9))
    ∧ (∀ mw, WritesIf (.governorDecision mw) (fun _ d => d.pkg.powered = true)
        fun _ d => { (d.setClocks mw).setGrants with energy := d.energy + mw })
    ∧ (WritesIf .boot (fun _ d => d.pkg = .off) fun _ d => d.boot)
    ∧ WritesIf .powerLoss (fun _ _ => True) fun m d => (d.loseMemory m fun _ => true).bare

/-- An OPEN that names a key is answered with the SEP's point and confirmation when both points lie on the curve, a CONFIRM
opens the session, and a request of an open session with a higher COUNTER and a good MAC is answered and performs for
the holder of its interface's lock; locks are leased for 30 s, leases expire, and a silent session closes
(R400, R404 to R406, R408, R409, R413, R414). An OPEN whose shared point is infinity is dropped: that is the model's
reading (log entry 40). -/
def Obligations.ManagementCommands : Prop :=
  let admits : MgmtMsg → Nat → Session → Dev → Prop := fun q op s d =>
    d.pkg ≠ .off ∧ lookup q.session d.sessions = some s ∧ s.opened = true ∧ s.counter < q.counter
      ∧ q.counter < 2 ^ 64 ∧ macOk q op s = true
  let seen : MgmtMsg → Session → Dev → Dev := fun q s d => { d with
    sessions := insert q.session { s with counter := q.counter, lastMsg := d.time } d.sessions }
  let holds : MgmtMsg → Nat → Nat → Session → Nat → Dev → Prop := fun q op iface s t d =>
    admits q op s d ∧ q.iface = iface ∧ q.payload.length ≤ 1400 ∧ (d.bootOk = true ∨ iface = 0 ∨ iface = 3)
      ∧ d.holder iface = some (q.session, t)
  let leased : MgmtMsg → Nat → Session → Dev → Dev := fun q op s d =>
    let d := seen q s d
    ({ d with
      locks := d.locks.filter (·.1 != q.iface) ++ [(q.iface, q.session, d.time + 30 * 10 ^ 9)] } : Dev).mgmtReply q s
        op 0 (Word.toBytesBe 8 (d.time + 30 * 10 ^ 9))
  let lockable : MgmtMsg → Nat → Session → Dev → Prop := fun q op s d =>
    admits q op s d ∧ q.iface ≤ 3 ∧ q.payload = [] ∧ (d.bootOk = true ∨ q.iface = 0 ∨ q.iface = 3)
  (∀ q pa n, StepsIf (.mgmtOpen q)
      (fun _ d =>
        n = Word.ofBytes (sub q.payload 1 1) ∧ d.pkg ≠ .off ∧ q.session = 0 ∧ q.counter = 0 ∧ q.iface = 0xFF ∧ n ≠ 0
          ∧ n ≤ 64 ∧ q.payload.length = 66 + n ∧ d.flash.opKey (Word.ofBytes (sub q.payload 0 1)) = some pa)
      fun _ d =>
        let ra := BitVec.ofNat 512 (Word.ofBytesBe (sub q.payload (2 + n) 64))
        if sm2OnCurve pa && sm2OnCurve ra then match d.respond pa ra (sub q.payload 2 n) with
          | (d1, rb, some agreed) =>
            ({ d1 with
              sessions := insert d.nextSession ({ agreed := agreed, lastMsg := d.time } : Session) d.sessions
              nextSession := d.nextSession + 1 } : Dev).sendMgmt
              (mgmtBytes d.nextSession 0 0x8001 0xFF 0 (beBytes rb ++ Word.toBytesBe 32 (Word.bits agreed.toNat 511 256))
                ++ List.replicate 8 0)
          | (d1, _, none) => d1
        else d)
    ∧ (∀ q s, StepsIf (.mgmtConfirm q)
        (fun _ d => d.pkg ≠ .off ∧ lookup q.session d.sessions = some s ∧ s.opened = false ∧ q.counter = 1
          ∧ q.iface = 0xFF ∧ macOk q 2 s = true
          ∧ q.payload = Word.toBytesBe 32 (Word.bits s.agreed.toNat 255 0))
        fun _ d => ({ d with
          sessions := insert q.session { s with counter := 1, opened := true, lastMsg := d.time } d.sessions }
            : Dev).mgmtReply q s 2 0 [])
    ∧ (∀ q s, StepsIf (.mgmtClose q)
        (fun _ d => admits q 3 s d ∧ q.iface = 0xFF ∧ q.payload = [])
        fun _ d =>
          let d := (seen q s d).mgmtReply q s 3 0 []
          { d with
            locks := d.locks.filter (·.2.1 != q.session)
            sessions := remove q.session d.sessions })
    ∧ (∀ q s, StepsIf (.mgmtLock q)
        (fun _ d => lockable q 0x10 s d ∧ ∀ h, d.holder q.iface = some h → h.1 = q.session)
        fun _ d => leased q 0x10 s d)
    ∧ (∀ q s t, StepsIf (.mgmtRenew q)
        (fun _ d => lockable q 0x11 s d ∧ d.holder q.iface = some (q.session, t)) fun _ d => leased q 0x11 s d)
    ∧ (∀ q s t, StepsIf (.mgmtUnlock q)
        (fun _ d => lockable q 0x12 s d ∧ d.holder q.iface = some (q.session, t))
        fun _ d =>
          let d := seen q s d
          ({ d with locks := d.locks.filter (·.1 != q.iface) } : Dev).mgmtReply q s 0x12 0 [])
    ∧ (∀ q s t off total ws, StepsIf (.mgmtWrite q)
        (fun _ d => holds q 0x20 0 s t d ∧ off = Word.ofBytesBe (sub q.payload 0 4)
          ∧ total = Word.ofBytesBe (sub q.payload 4 4) ∧ 8 ≤ q.payload.length
          ∧ off + (q.payload.drop 8).length ≤ total
          ∧ d.flash.takeWrite off total (q.payload.drop 8) = ws ∧ ws.length ≠ total)
        fun _ d => ((seen q s d).updFlash fun f => { f.setInactive {} with writing := some (total, ws) }).mgmtReply q s
          0x20 0 [])
    ∧ (∀ q s t, StepsIf (.mgmtActivate q)
        (fun _ d => holds q 0x21 0 s t d ∧ q.payload = [] ∧ (d.flash.bankOf !d.flash.bank).ok = true)
        fun _ d => ((seen q s d).updFlash fun f => { f with bank := !f.bank, writing := none }).mgmtReply q s 0x21 0 [])
    ∧ (∀ q s t n, StepsIf (.mgmtSetkeys q)
        (fun _ d => holds q 0x22 0 s t d ∧ n = Word.ofBytes (sub q.payload 0 1) ∧ n ≤ 8
          ∧ q.payload.length = 1 + 64 * n)
        fun _ d => ((seen q s d).updFlash fun f => { f with
          opkeys := (List.range n).map fun k =>
            BitVec.ofNat 512 (Word.ofBytesBe (sub q.payload (1 + 64 * k) 64)) }).mgmtReply q s 0x22 0 [])
    ∧ (∀ q s t, StepsIf (.mgmtCool q)
        (fun _ d => holds q 0x30 1 s t d ∧ q.payload = []
          ∧ ((d.pkg = .service ∧ d.runningParts = []) ∨ d.pkg = .warming))
        fun _ d => ((seen q s d).enterPkg .cooling).mgmtReply q s 0x30 0 [])
    ∧ (∀ q s t, WritesIf (.mgmtWarm q)
        (fun _ d => holds q 0x31 1 s t d ∧ q.payload = []
          ∧ (d.pkg = .cooling ∨ d.pkg = .soak ∨ d.pkg = .coldReady))
        fun m d => ((seen q s d).enterWarming m).mgmtReply q s 0x31 0 [])
    ∧ (∀ q s t p, StepsIf (.mgmtExport q)
        (fun _ d => holds q 0x40 2 s t d ∧ q.payload.length = 2 ∧ p = Word.ofBytes (sub q.payload 0 1) ∧ p < 16)
        fun _ d =>
          let rs := ((d.part p).records.drop (Word.ofBytes (sub q.payload 1 1))).take 5
          (seen q s d).mgmtReply q s 0x40 0 (Word.toBytes 1 rs.length ++ rs.flatten))
    ∧ (∀ q s t p v, StepsIf (.mgmtSetival q)
        (fun _ d => holds q 0x41 2 s t d ∧ q.payload.length = 5 ∧ p = Word.ofBytes (sub q.payload 0 1) ∧ p < 16
          ∧ v = Word.ofBytesBe (sub q.payload 1 4))
        fun _ d => ((seen q s d).updPart p fun x => { x with
          ival := BitVec.ofNat 64 (if 1 ≤ v ∧ v ≤ 999 then 1000 else v) }).mgmtReply q s 0x41 0 [])
    ∧ (∀ q s t, WritesIf (.mgmtReset q)
        (fun _ d => holds q 0x50 3 s t d ∧ q.payload = [] ∧ d.pkg ≠ .trip)
        fun m d => ((seen q s d).mgmtReply q s 0x50 0 []).resetBoot m)
    ∧ (∀ q s t, WritesIf (.mgmtPowerOff q)
        (fun _ d => holds q 0x51 3 s t d ∧ q.payload = [])
        fun m d => ((((seen q s d).mgmtReply q s 0x51 0 []).loseMemory m fun _ => true).bare))
    ∧ (∀ iface, StepsIf (.lockLeaseExpiry iface) (fun _ _ => True) fun _ d => { d with
        locks := d.locks.filter fun e => !(e.1 == iface && decide (e.2.2 ≤ d.time)) })
    ∧ ∀ n s, StepsIf (.sessionTimeout n)
        (fun _ d => lookup n d.sessions = some s ∧ s.lastMsg + 300 * 10 ^ 9 ≤ d.time)
        fun _ d => { d with
          locks := d.locks.filter (·.2.1 != n)
          sessions := remove n d.sessions }

/-! ### Links -/

/-- A message that a peer link brings in its circuit's order is taken in: reads and writes pass the checks of their
frame and are answered, an update performs here, a collective call joins its group, a token enters its port, credits
return, and a reserved flit is counted; a link goes down when it is taken down or after eight failed resends, with a
report to H (R202, R220, R221, R227, R255, R365, R367, R389, R392). A tier-2 link's read data is checked against its
line's code, acknowledgements and credits are taken in and a reserved flit is counted; an inbound RDMA request that
its endpoint, key, range and translation admit performs and is answered, one they do not is refused with a
remote-access NAK and changes nothing else, and a request of another kind gets a NAK; flow control and congestion
frames act on their port and flow (R5, R256, R326, R392, R420 to R423). -/
def Obligations.LinksAndEthernet : Prop :=
  (
    let comes : PeerMsg → (Nat → Bool) → Dev → Dev → Prop := fun q kinds d d1 =>
      d.pkg.powered = true ∧ (d.link q.link).up = true ∧ q.link < 16 ∧ kinds q.kind = true
        ∧ (∀ n, lookup q.circ (d.link q.link).seqs = some n → n = q.seqNo) ∧ q.npay ≤ 32
        ∧ q.payload.length ≤ 64 * q.npay
        ∧ d1 = d.updLink q.link fun l => { l with seqs := insert q.circ ((q.seqNo + 1) % 2 ^ 16) l.seqs }
    (∀ q d1, WritesIf (.peerReadRequest q) (fun _ d => comes q (· == 0) d d1) fun m _ =>
        let r := d1.readLocal m q.tid true (q.addr / 64 * 64) 64
        (r.2.2.2.postNoAgent q.tid (q.addr / 64 * 64) r.1).peerAnswer q 1 r.2.1)
      ∧ (∀ q d1, WritesIf (.peerReadData q) (fun _ d => comes q (· == 1) d d1) fun _ _ =>
          (d1.peerAcked q true).getD (d1.setRemote q.srcpkg q.addr q.payload))
      ∧ (∀ q d1, WritesIf (.peerWrite q) (fun _ d => comes q (· == 2) d d1) fun _ _ =>
          let r := d1.writeLocal q.tid true q.addr q.payload
          ((r.2.meterTid q.tid 4 q.payload.length).postNoAgent q.tid (q.addr / 64 * 64) r.1).peerAnswer q 3 [])
      ∧ (∀ q d1, WritesIf (.peerWriteAck q) (fun _ d => comes q (· == 3) d d1) fun _ _ =>
          (d1.peerAcked q false).getD d1)
      ∧ (∀ q d1, WritesIf (.peerUpdate q) (fun _ d => comes q (· == 4) d d1) fun m _ =>
          let u := Config.peerUpdate q.payload
          let ty := Ty.ofCode u.2.1
          let n := ty.laneWidth / 8
          let a := q.addr / n * n
          let r := d1.readLocal m q.tid true a n
          let old := Word.ofBytes r.2.1
          let new := match u.2.2.2 with
            | none => updateOp u.1 ty old u.2.2.1
            | some c => if old = c then u.2.2.1 else old
          let w := r.2.2.2.writeLocal q.tid true a (Word.toBytes n new)
          ((w.2.meterTid q.tid 4 q.payload.length).postNoAgent q.tid (a / 64 * 64) r.1).peerAnswer q 1 r.2.1)
      ∧ (∀ q d1, WritesIf (.peerCollective q) (fun _ d => comes q (· == 5) d d1) fun _ _ =>
          let d2 := d1.meterTid q.tid 4 q.payload.length
          match Config.peerCall q.payload with
          | some c => d2.updGroup c.1 c.2.1 fun g => g.join c.2.2
          | none => d2)
      ∧ (∀ q d1 p, p = Config.circuitPort q.circ → WritesIf (.peerTokenData q)
          (fun _ d => comes q (· == 6) d d1 ∧ ∀ e ∈ d.insts, ∀ tile port,
            (((e.2.tile tile).bind fun t => lookup port t.inp).isSome = true → e.2.edgeTakes tile port = true)
              ∧ ∀ t, e.2.catches tile port t = none)
          fun _ _ => match d1.inst p.1, Config.circuitToken q.payload with
            | some x, some t =>
              if t.c then d1.controlToken p.1 p.2.1 p.2.2 x t
              else if x.edgeTakes p.2.1 p.2.2 then d1.updInst p.1 fun x => x.enter p.2.1 p.2.2 t false
              else d1
            | _, _ => d1)
      ∧ (∀ q d1, WritesIf (.peerCreditReturn q) (fun _ d => comes q (· == 7) d d1) fun _ _ =>
          d1.updLink q.link fun l => { l with
            circCredits := insert q.circ ((lookup q.circ l.circCredits).getD 0 + q.addr) l.circCredits })
      ∧ (∀ q d1, WritesIf (.peerReservedFlit q) (fun _ d => comes q (fun k => 8 ≤ k && k < 16) d d1) fun _ _ =>
          d1.updLink q.link fun l => { l with dropped := l.dropped + 1 })
      ∧ (∀ k, k < 16 → WritesIf (.linkDown k) (fun _ d => d.pkg.powered = true ∧ (d.link k).up = true) fun _ d =>
          ((d.peerLost k).updLink k fun l => { l with up := false }).post 0 {
            cause := 0x0A, cls := 2, toH := true, noag := true, cfgid := 0xFFFF, tid := tidH, info := 2 ^ 63 + k })
      ∧ (∀ k, k < 16 → StepsIf (.flitAcknowledgement k true)
          (fun _ d => d.pkg.powered = true ∧ (d.link k).up = true)
          fun _ d => d.updLink k fun l => { l with resends := 0 })
      ∧ (∀ k, k < 16 → StepsIf (.flitAcknowledgement k false)
          (fun _ d => d.pkg.powered = true ∧ (d.link k).up = true ∧ (d.link k).resends < 8)
          fun _ d => d.updLink k fun l => { l with resends := l.resends + 1 })
      ∧ ∀ k, k < 16 → WritesIf (.flitAcknowledgement k false)
          (fun _ d => d.pkg.powered = true ∧ (d.link k).up = true ∧ 8 ≤ (d.link k).resends)
          fun _ d => d.takeDown k)
  ∧ (
    let comes : T2Msg → (Nat → Bool) → Dev → Prop := fun q kinds d =>
      d.pkg.powered = true ∧ (d.t2link q.link).up = true ∧ q.link < 16 ∧ kinds q.kind = true
    (∀ q host c, WritesIf (.t2ReadData q)
        (fun m d => comes q (· == 1) d ∧ q.payload.length = 64 ∧ host = t2Host q.link (q.addr / 64 * 64)
          ∧ inTier2 host = true ∧ lineSymbols (rdBytes m d host 64) q.payload = some c)
        fun _ d => { d with conds := insert (host / 64) c d.conds })
      ∧ (∀ q, StepsIf (.t2WriteAck q) (fun _ d => comes q (· == 3) d)
          fun _ d => d.updT2link q.link fun l => { l with resends := 0 })
      ∧ (∀ q, StepsIf (.t2CreditReturn q) (fun _ d => comes q (· == 4) d)
          fun _ d =>
            let n := min 64 ((d.t2link q.link).credits + q.tag)
            let w := (d.t2link q.link).waiting
            { d.updT2link q.link fun l => { l with credits := n - min n w.length, waiting := w.drop (min n w.length) } with
              out := d.out ++ w.take (min n w.length) })
      ∧ (∀ q, StepsIf (.t2ReservedFlit q) (fun _ d => comes q (fun k => 5 ≤ k && k < 16) d)
          fun _ d => d.updT2link q.link fun l => { l with dropped := l.dropped + 1 })
      ∧ (∀ q d1 f va a n, WritesIf (.rdmaWriteInbound q)
          (fun m d => d.pkg.powered = true
            ∧ ((d.meter q.part 5 q.payload.length).notify m q).admitRdma m q true .wr q.addr q.payload.length
                = (d1, f, some (va, a, n)))
          fun m _ => (d1.storeSpan m a va q.payload).1.answer q f 0x20 [q.addr])
      ∧ (∀ q d1 f, WritesIf (.rdmaWriteInbound q)
          (fun m d => d.pkg.powered = true
            ∧ ((d.meter q.part 5 q.payload.length).notify m q).admitRdma m q true .wr q.addr q.payload.length
                = (d1, f, none))
          fun _ _ => d1.answer q f 0x21 [1])
      ∧ (∀ q d1 f va a n d2 bs p, WritesIf (.rdmaReadInbound q)
          (fun m d => d.pkg.powered = true
            ∧ (d.notify m q).admitRdma m q true .rd q.addr q.len = (d1, f, some (va, a, n))
            ∧ d1.loadSpan m a va q.len = (d2, .ok (bs, p)))
          fun _ _ => (d2.meter q.part 5 q.len).answer q f 0x22 (q.addr :: bs.map BitVec.toNat))
      ∧ (∀ q d1 f va a n d2, q.payload.length ≤ 256 → 320 ≤ n → WritesIf (.rdmaSendInbound q)
          (fun m d => d.pkg.powered = true
            ∧ ((d.meter q.part 5 q.payload.length).notify m q).admitRdma m q false .wr 0 8 = (d1, f, some (va, a, n))
            ∧ d1.putEntry m a va ((n - 64) / 256) q.payload = (d2, true))
          fun _ _ => d2.answer q f 0x20 [0])
      ∧ (∀ q d1 f r, 256 < q.payload.length → WritesIf (.rdmaSendInbound q)
          (fun m d => d.pkg.powered = true
            ∧ ((d.meter q.part 5 q.payload.length).notify m q).admitRdma m q false .wr 0 8 = (d1, f, r))
          fun _ _ => d1.answer q f 0x21 [2])
      ∧ (∀ q d1 e, WritesIf (.roceUnsupportedRequest q)
          (fun m d => d.pkg.powered = true ∧ Dev.inbound m q.part q.qp 256 0 (d.notify m q) = (d1, e))
          fun _ _ => d1.answer q (e.map (·.1)) 0x21 [2])
      ∧ (∀ q id c, WritesIf (.roceResponseInbound q)
          (fun m d => d.pkg.powered = true
            ∧ ((d.notify m q).copies.find? fun e => e.2.part == q.part && e.2.answered q != e.2) = some (id, c))
          fun m d => ({ d.notify m q with copies := insert id (c.answered q) (d.notify m q).copies } : Dev).meter
            q.part 5 q.payload.length)
      ∧ (∀ port prio, port < 2 → prio < 8 → StepsIf (.priorityFlowControlFrame port prio true)
          (fun _ d => d.pkg.powered = true) fun _ d => { d with
            paused := d.paused.filter (· != (port, prio)) ++ [(port, prio)] })
      ∧ (∀ port prio, port < 2 → prio < 8 → StepsIf (.priorityFlowControlFrame port prio false)
          (fun _ d => d.pkg.powered = true)
          fun _ d => ({ d with paused := d.paused.filter (· != (port, prio)) } : Dev).flushEth)
      ∧ (∀ flow, StepsIf (.congestionNotificationPacket flow) (fun _ d => d.pkg.powered = true) fun _ d => { d with
          slowed := d.slowed.filter (· != flow) ++ [flow] })
      ∧ (∀ (d : Dev) kind f body, (f.port, f.prio) ∈ d.paused ∨ f.num ∈ d.slowed →
          d.roce kind f body = { d with ethq := d.ethq ++ [{ kind := kind, link := f.qp, body := body, flow := some f }] })
      ∧ ∀ m (d : Dev) q d1 f r, q.ecn = true → Dev.inbound m q.part q.qp 256 0 d = (d1, some (f, r)) →
          d.notify m q = d1.roce 0x23 f [q.part])

/-! ### Whole-machine rules -/

/-- From every state whose memory is in its canonical form every instruction answers a next state, whose memory is in
its canonical form again and which keeps no write and no open transaction; so does every step but one that the agenda
gives a row that is no step of its own. -/
def Obligations.StepKeepsSound : Prop :=
  (∀ (i : Instr) (s : State), s.mem.wf = true → ∃ t, Machine.exec i s = .next t ∧ t.Sound)
    ∧ (∀ s t : State, s.Sound → step s = .next t → t.Sound)
    ∧ ∀ s : State, s.Sound → (∃ i rest, s.dev.agenda = .ev i :: rest ∧ withinStep i = true) ∨ ∃ t, step s = .next t ∧ t.Sound

/-- Right after reset the package is OFF, memory lists nothing, no instance exists, and these registers hold the values
that R301 and R385 give: every report enabled, a watchdog interval of a million microseconds, one frame to a tag write,
and zero in the others. That memory lists nothing, and with it what a byte reads as, is the model's choice (log
entry 1). -/
def Obligations.ResetState : Prop :=
  let d := State.reset.dev
  State.reset.Sound ∧ State.reset.mem = [] ∧ d.pkg = .off ∧ d.insts = [] ∧ d.hvec = 0 ∧ d.hlost = 0 ∧ d.hrval = 0
    ∧ (∀ k, (d.ctx k).repen = 0xF ∧ (d.ctx k).wdog = 1000000 ∧ (d.ctx k).deleg = 0 ∧ (d.ctx k).evBase = 0
        ∧ (d.ctx k).evSize = 0 ∧ (d.ctx k).plogBase = 0 ∧ (d.ctx k).plogSize = 0 ∧ (d.ctx k).plogHead = 0
        ∧ (d.ctx k).plogTail = 0 ∧ (d.ctx k).plogLost = 0 ∧ (d.ctx k).dbgCtl = 0 ∧ (d.ctx k).dbgRstop = 0)
    ∧ (∀ id, (d.core id).epc = 0 ∧ (d.core id).record = 0 ∧ (d.core id).save = [0, 0, 0, 0] ∧ (d.core id).lost = 0
        ∧ (d.core id).mtaddr = 0 ∧ (d.core id).ftsel = 0 ∧ (d.core id).ftcnt = 1
        ∧ (d.core id).level = if id.isSys then .h else .u)
    ∧ ∀ k, (d.part k).state = .none ∧ (d.part k).err = 0 ∧ (d.part k).pages0 = 0 ∧ (d.part k).pages1 = 0
        ∧ (d.part k).chmask = 0 ∧ (d.part k).t2max = 0 ∧ (d.part k).tcmax = 0 ∧ (d.part k).heavy = 0
        ∧ (d.part k).qmax = 0 ∧ (d.part k).eth = 0 ∧ (d.part k).tid = 0 ∧ (d.part k).ctxr = 0
        ∧ (d.part k).home = 0 ∧ (d.part k).supctx = 0 ∧ (d.part k).supentry = 0

/-- What a step executes: at the head of the agenda a core enters a block, fires the slot that is next, or commits;
a slot of an element block fires; a step of another agent happens; and a word that is placed as the next instruction
runs as the instruction that it decodes to. With nothing on the agenda a package without power boots, and system core
0 of one with power steps. -/
def Obligations.StepRunsDecoded : Prop :=
  let at_ : State → Dev → Focus → State := fun s d f => { s with dev := d.focused f }
  (∀ s id rest d, s.dev.agenda = .ctl id :: rest → d = { s.dev with agenda := rest } →
      ((d.core id).frame = none → step s = Machine.exec (.controlBlockEntry id) (at_ s d .none))
        ∧ (∀ f, (d.core id).frame = some f → f.choose = none →
            step s = Machine.exec (.controlBlockCommit id) (at_ s d .none))
        ∧ ∀ f k sl, (d.core id).frame = some f → f.choose = some k → f.blk.slots[k]? = some sl →
            step s = Machine.exec sl.ins (at_ s d (.fire id k)))
    ∧ (∀ s cfg tile blk slot rest d x c b sl, s.dev.agenda = .elem cfg tile blk slot :: rest →
        d = { s.dev with agenda := rest } → d.inst cfg = some x → x.ct tile = some c → c.blks[blk]? = some b →
        b.slots[slot]? = some sl → step s = Machine.exec sl.ins (at_ s d (.elem cfg tile blk slot)))
    ∧ (∀ s i rest, s.dev.agenda = .ev i :: rest → withinStep i = false →
        step s = Machine.exec i (at_ s { s.dev with agenda := rest } .none))
    ∧ (∀ s, s.dev.agenda = [] → s.dev.pkg = .off → step s = Machine.exec .boot (at_ s s.dev .none))
    ∧ (∀ s, s.dev.agenda = [] → s.dev.pkg ≠ .off → (s.dev.core (.sys 0)).frame = none →
        step s = Machine.exec (.controlBlockEntry (.sys 0)) (at_ s s.dev .none))
    ∧ ∀ s nbits w i, decodeTableWord nbits w = some i →
        step (s.withFetchWord nbits w) = Machine.exec i (at_ s (s.dev.withNext i w).takePick.2
          (if i.legalIn .control then .fire (.sys 0) 0 else .elem 1 0 0 0))

/-- Predication is whole-token: with PM 01 an instruction computes when bits 31:0 of its predicate's DATA are not all
zero, with PM 10 when they are, with PM 00 it has no predicate; an instruction that does not compute consumes the
heads of its slots and delivers a null token to each of its targets. A null operand stops it, except GATE, and so does
a null predicate (R28, R29). -/
def Obligations.Predication : Prop :=
  (∀ (sl : Slots) (pm : Pm) (gate : Bool) (s : Slot) (g : Gathered), gather sl pm gate s = some g →
    let nulls := (sl.l && (s.l.headD {}).n) || (sl.r && (s.r.headD {}).n) || (sl.t && (s.t.headD {}).n)
    let p := s.t.headD {}
    g.computes = ((match pm with
        | .none => true
        | .onTrue => !p.n && decide (p.data.toNat % 2 ^ 32 ≠ 0)
        | .onFalse => !p.n && decide (p.data.toNat % 2 ^ 32 = 0)) && (gate || !nulls)))
    ∧ (∀ (sl : Slots) (pm : Pm) (s : Slot),
        (s.taken sl pm).l = s.l.drop (if sl.l then 1 else 0) ∧ (s.taken sl pm).r = s.r.drop (if sl.r then 1 else 0)
          ∧ (s.taken sl pm).t = s.t.drop (if sl.t || pm != .none then 1 else 0)
          ∧ (s.taken sl pm).fired = s.fired + 1 ∧ (s.taken sl pm).ins = s.ins)
    ∧ (∀ (ctl : Bool) (pp : Ppol) (w : Nat → BitVec 24) (g : Gathered) (r : Res), g.computes = false →
        ∃ t, settle ctl pp w g r = some t ∧ t.n = true ∧ t.p = false ∧ t.data = 0)
    ∧ (∀ (b : Blk) (k : Fin 128) (s : Slot) (x : Tok), b.slots[k.val]? = some s →
        (b.deliver (.left k) x).slots[k.val]? = some { s with l := s.l ++ [x] }
          ∧ (b.deliver (.right k) x).slots[k.val]? = some { s with r := s.r ++ [x] }
          ∧ (b.deliver (.pred k) x).slots[k.val]? = some { s with t := s.t ++ [x] })
    ∧ (∀ i e g r (d : Dev) f x, e.ctl = true → (d.core e.core).frame = some f → g.computes = false →
        settle true e.hdr.ppol e.origin g r = some x →
        ∃ f', ((d.deliver i e g r).core e.core).frame = some f' ∧ f'.blk
          = ((f.blk.updSlot e.slot fun s => s.taken (i.row .control).slots i.head.pm).deliver i.head.t0 x).deliver
              i.head.t1 x)
    ∧ ∀ i e g r (d : Dev) y c b x, e.ctl = false → d.inst e.cfg = some y → y.ct e.tile = some c →
        c.blks[e.blk]? = some b → g.computes = false → settle false e.hdr.ppol e.origin g r = some x →
        ∃ (y' : Inst) (c' : Ct) (F : Slot → Slot), (d.deliver i e g r).inst e.cfg = some y' ∧ y'.ct e.tile = some c'
          ∧ (∀ s, let u := s.taken (i.row .element).slots i.head.pm
              (F s).l = u.l ∧ (F s).r = u.r ∧ (F s).t = u.t ∧ (F s).fired = u.fired)
          ∧ c'.blks[e.blk]? = some (((b.updSlot e.slot F).deliver i.head.t0 x).deliver i.head.t1 x)

/-- Poison travels with the data: a result of poisoned operands carries P and the origin of the first of them in the
order left, right, predicate; with none, that of the first cause it generates; and DATA is what the instruction
computed either way (R66). -/
def Obligations.PoisonTravels : Prop :=
  (∀ (sl : Slots) (pm : Pm) (gate : Bool) (s : Slot) (g : Gathered), gather sl pm gate s = some g →
    let l := s.l.headD {}
    let r := s.r.headD {}
    let t := s.t.headD {}
    g.org = if sl.l = true ∧ l.p = true then some l.org else if sl.r = true ∧ r.p = true then some r.org
      else if (sl.t = true ∨ pm ≠ .none) ∧ t.p = true then some t.org else none)
    ∧ ∀ (ctl : Bool) (pp : Ppol) (w : Nat → BitVec 24) (g : Gathered) (o : AluOut),
        g.computes = true → g.mixed = false →
        ∃ t, settle ctl pp w g (.alu o) = some t ∧ t.data = o.data ctl ∧ t.n = false
          ∧ (∀ x, g.org = some x → t.p = true ∧ t.org = x)
          ∧ (g.org = none → ∀ c, lanesCause pp o.lanes = some c → t.p = true ∧ t.org = w c)
          ∧ (g.org = none → lanesCause pp o.lanes = none → t.p = false)

/-- Every form named here completes: in every state, with every operand, in which it can fire and compute (and, for
the matrix instructions, its fills are ready and its numbers are not set aside), it answers a next state in which its
operands are consumed and a token that is not null goes to its targets, MOUT's rows to the port or the bank it names
(R28, R76 to R78, R150 to R169, R178, R184 to R190). An operator with room, whose input holds a plain token it may take,
takes it (R233 to R240). A round is voided, a configuration moves, is saved and ends, a partition stops, and the
package boots and loses power, under the conditions their rules give (R43, R337 to R342, R386, R408, R413). -/
def Obligations.FormsComplete : Prop :=
  (
    let any : Site → Gathered → Dev → Prop := fun _ _ _ => True
    (∀ o i, i ∈ [Instr.fadd o, .fsub o, .fmul o, .ffma o, .fmin o, .fmax o, .famax o, .fabs o, .fneg o, .fcpys o, .fcmp o,
        .fclass o, .fcvt o, .frnd o, .frcp o, .frsq o, .fsqrt o, .fexp2 o, .flog2 o, .fsint o, .fcost o, .ftanh o,
        .fscale o, .fdot2 o, .fdot4 o, .lperm o, .lred o, .lscan o, .lvote o, .lmsk o, .lcmpr o, .lexpd o, .lpack o,
        .lunpk o] → Completes i any)
      ∧ (∀ o i, i ∈ [Instr.lswp o, .lbcst o, .lsld o] → Completes i any)
      ∧ (∀ o i, i ∈ [Instr.mzero o, .mswap o] → Completes i any)
      ∧ (∀ o, o.ks = 0 → Completes (.macci o) any)
      ∧ (∀ o i, i ∈ [Instr.macci o, .mscls o] → Completes i fun e _ d => ∃ x bd b, d.inst e.cfg = some x
          ∧ x.fillAt e.tile o.ba.val e.record = .ready bd b ∧ b.sealed = false ∧ b.bad = [])
      ∧ (∀ o i, i ∈ [Instr.mma o, .mmasp o] → Completes i fun e _ d => ∃ x c da a db b, d.inst e.cfg = some x
          ∧ x.ct e.tile = some c ∧ x.granted ≠ 0 ∧ x.fillAt e.tile o.ba.val e.record = .ready da a
          ∧ x.fillAt e.tile o.bb.val e.record = .ready db b)
      ∧ (∀ o, Completes (.mbind o) fun e g d => ∃ x bd b, d.inst e.cfg = some x
          ∧ x.bound e.tile (o.imm.toNat % 16) = some (bd, b) ∧ b.passed = false ∧ b.owned = true
          ∧ lookup (holdKey e.tile (o.imm.toNat % 16)) b.holds = none ∧ b.readFull = true
          ∧ (if o.imm.toNat / 16 % 256 = 0 then laneOf 32 g.a.data 0 % 256 else o.imm.toNat / 16 % 256) ≠ 0)
      ∧ ∀ (o : OpG) s e g x c, s.Sound → s.dev.firing (.mout o) = some (e, g) → g.computes = true →
          s.dev.inst e.cfg = some x → x.ct e.tile = some c → (c.me.bank (o.fn.toNat % 4)).lowest = none →
          ((∃ p, o.hd.t0 = .out p)
            ∨ ∃ bd b, ElemBank (s.dev.draw e o.rm (128 * 192)).2 e (o.fn.toNat / 4) true x bd b ∧ b.fillFull = false) →
          ((moutElems o (c.me.bank (o.fn.toNat % 4)) (s.dev.draw e o.rm (128 * 192)).1).all fun r =>
            (laneCause e.hdr.ppol { code := 0, invalid := r.invalid }).isNone) = true →
          ∃ (t : State) (d : Dev), Machine.exec (.mout o) s = .next t ∧ t = s.settled (d.deliver (.mout o) e g .none))
  ∧ (
    let takes : (Nat → Nat → Nat → Instr) → OpKind → (Tile → OpState → Tok → Prop) → Prop := fun i kind ok =>
      ∀ s cfg tile slot x t o port q h rest, s.Sound → s.dev.inst cfg = some x → x.tile tile = some t →
        lookup slot t.ops = some o → o.kind = kind → x.fires = true → x.stopped tile (1 + slot) = false →
        t.opRoom o.out0 = true → t.opRoom o.out1 = true → o.in0 = some port → lookup port t.inp = some q →
        q.q = h :: rest → h.c = false → o.in1 ≠ some port → ok t o h →
        ∃ u y v, Machine.exec (i cfg tile slot) s = .next u ∧ u.mem = s.mem ∧ u.dev.inst cfg = some y
          ∧ y.tile tile = some v ∧ (lookup port v.inp).map (·.q) = some rest
    let always : Tile → OpState → Tok → Prop := fun _ _ _ => True
    let pairs : Tile → OpState → Tok → Prop := fun _ o _ => o.buf0 = [] ∧ o.end0 = false
    takes .operatorJoin .join pairs ∧ takes .operatorMerge .merge pairs
      ∧ takes .operatorSplay .splay (fun _ o _ => o.par 0 ≤ o.count + 1)
      ∧ takes .operatorZip .zip (fun _ o _ => o.count < o.par 0)
      ∧ takes .operatorUnzip .unzip always ∧ takes .operatorScan .scan always ∧ takes .operatorReduce .reduce always
      ∧ takes .operatorCompact .compact (fun t o _ => ∃ m, t.opHead o.in1 = some m ∧ m.c = false ∧ m.n = false)
      ∧ takes .operatorQuant .quant always ∧ takes .operatorDequant .dequant always
      ∧ takes .operatorTranspose .transpose always)
  ∧ (
    (∀ s, s.Sound → s.dev.pkg = .off → ∃ t, Machine.exec .boot s = .next t ∧ t.dev.pkg ≠ .off
        ∧ t.dev.bootOk = (s.dev.gradeOk && (s.dev.flash.bankOf s.dev.flash.bank).ok)
        ∧ t.dev.self = s.dev.flash.domIdx
        ∧ (s.dev.gradeOk = true → t.dev.flash.boots = (s.dev.flash.boots + 1) % 2 ^ 32))
      ∧ (∀ s, s.Sound → ∃ t, Machine.exec .powerLoss s = .next t ∧ t.dev.pkg = .off ∧ t.dev.insts = []
          ∧ t.dev.sessions = [] ∧ t.dev.flash = s.dev.flash ∧ t.mem = [])
      ∧ (∀ s cfg x, s.Sound → s.dev.inst cfg = some x → x.retired = true →
          (∀ p ∈ x.threads, (s.dev.ccOf p x.plane).threadLive = false) →
          ∃ t, Machine.exec (.instanceEnd cfg) s = .next t ∧ t = s.settled ((s.dev.removeInst cfg).writeDone s.mem
            x.part x.ctx cfg x.doneAddr (match x.failed with
              | some c => failVal c
              | none => x.doneVal)))
      ∧ (∀ s k, s.Sound → (s.dev.part k).state = .running →
          ∃ t, Machine.exec (.partCtlStop k) s = .next t ∧ t = s.settled (s.dev.stopPartition s.mem k 0x16))
      ∧ (∀ s cfg x r, s.Sound → s.dev.inst cfg = some x → firstFaultOf x.faults = some r → x.fires = true →
          ∃ t d y, Machine.exec (.roundVoid cfg) s = .next t ∧ d = s.dev.rewind cfg x ∧ d.inst cfg = some y
            ∧ t = s.settled ((d.setInst cfg { y with phase := .held }).holdInst cfg x { r with
                cls := 1, tid := d.tidOf x.part x.ctx, more := x.faults.length - 1 != 0
                count := x.faults.length - 1 }))
      ∧ (∀ s cfg x org r c p, s.Sound → s.dev.inst cfg = some x → x.pend = some (.move org) → x.quiet = true →
          s.dev.copiesInto cfg = false → s.dev.moveDest x org = some (r, c, p) →
          ∃ t, Machine.exec (.shepherdMove cfg) s = .next t ∧ t = s.settled ((s.dev.moveTo cfg x r c p).compactSkip cfg))
      ∧ (∀ s cfg x q, s.Sound → s.dev.inst cfg = some x → x.pend = some (.snap q) → q.marker = false →
          x.quiet = true → s.dev.copiesInto cfg = false → s.dev.threadsSettled x = true →
          ∃ t, Machine.exec (.snapshotCut cfg) s = .next t ∧ t = s.settled (s.dev.takeSnapshot s.mem cfg x q))
      ∧ ∀ s cfg x q ns, s.Sound → s.dev.inst cfg = some x → x.pend = some (.snap q) → x.snap = some ns →
          x.markersDone ns = true → s.dev.copiesInto cfg = false → s.dev.threadsSettled x = true →
          ∃ t, Machine.exec (.snapshotImageWrite cfg) s = .next t ∧ t = s.settled (s.dev.takeSnapshot s.mem cfg x q))

/-- A firing delivers within its own block and no further: in a control block it changes nothing but the block of its
core, whose registers, level and queues stand; in an element block nothing but its configuration, of which only the
tile it stands in changes, and the watchdog's record of progress. -/
def Obligations.FiringFrame : Prop :=
  ∀ (i : Instr) (e : Site) (g : Gathered) (r : Res) (d : Dev),
    let d' := d.deliver i e g r
    d'.wq = d.wq ∧ d'.ctxs = d.ctxs ∧ d'.parts = d.parts ∧ d'.tags = d.tags ∧ d'.xl = d.xl ∧ d'.copies = d.copies
      ∧ d'.hqueue = d.hqueue ∧ d'.queues = d.queues ∧ d'.peers = d.peers ∧ d'.pkg = d.pkg ∧ d'.flash = d.flash
      ∧ (e.ctl = true → d'.insts = d.insts ∧ (∀ id, id ≠ e.core → d'.core id = d.core id)
          ∧ let c := d.core e.core
            let c' := d'.core e.core
            c'.g = c.g ∧ c'.ap = c.ap ∧ c'.level = c.level ∧ c'.st = c.st ∧ c'.epc = c.epc ∧ c'.record = c.record
              ∧ c'.save = c.save ∧ c'.queue = c.queue ∧ c'.board = c.board ∧ c'.next = c.next
              ∧ c'.thread = c.thread ∧ ∀ k : Fin 128, k.val ≠ e.slot →
                  (∀ t ∈ [i.head.t0, i.head.t1], t ≠ .left k ∧ t ≠ .right k ∧ t ≠ .pred k) →
                  (c'.frame.bind fun f => f.blk.slots[k.val]?) = c.frame.bind fun f => f.blk.slots[k.val]?)
      ∧ (e.ctl = false → d'.cores = d.cores ∧ (∀ k, k ≠ e.cfg → d'.inst k = d.inst k)
          ∧ ∀ x tile, d.inst e.cfg = some x → tile ≠ e.tile → ∃ y, d'.inst e.cfg = some y ∧ y.ctx = x.ctx
              ∧ y.part = x.part ∧ y.phase = x.phase ∧ ((x.ct tile).isSome → y.ct tile = x.ct tile))

/-! ### Memory and translation -/

/-- Writing bytes leaves every other byte alone, the last write of an address stands, the canonical form is kept, and
two memories in their canonical form that read alike are the same. -/
def Obligations.MemoryWrites : Prop :=
  (∀ (m : Mem) (ws : List (Nat × Byte)) (a : Nat), (∀ w ∈ ws, w.1 ≠ a) → readByte (writeAll m ws) a = readByte m a)
    ∧ (∀ (m : Mem) (ws vs : List (Nat × Byte)) (a : Nat) (v : Byte), m.wf = true → (∀ w ∈ vs, w.1 ≠ a) →
        readByte (writeAll m (ws ++ (a, v) :: vs)) a = v)
    ∧ (∀ (m : Mem) (ws : List (Nat × Byte)), m.wf = true → (writeAll m ws).wf = true)
    ∧ (∀ m m' : Mem, m.wf = true → m'.wf = true → (∀ a, readByte m a = readByte m' a) → m = m')
    ∧ ∀ (m : Mem) (a : Nat) (bs : List Byte), m.wf = true →
        readBytes (writeAll m (bytesAt a bs)) a bs.length = bs

/-- A write to this package's memory goes to the lines that its bytes touch, and to no line that fails the tag check
for its TID; inside one line that passes it and that nothing overlays, exactly its bytes are written, and a store
through a writable, uncounted leaf of a local frame puts them at the host address of the translation, the line of the
granule's current copy being the one that is checked (R258, R364, R389, R392). -/
def Obligations.StoreFrame : Prop :=
  (∀ (d : Dev) tid peer host (bs : List Byte), ∃ ws, (d.writeLocal tid peer host bs).2.wq = d.wq ++ ws
      ∧ ∀ w ∈ ws, w.1 / 64 * 64 ∈ linesOf host bs.length ∧ d.tagPass tid peer (w.1 / 64 * 64) = true)
    ∧ (∀ (d : Dev) tid peer host (bs : List Byte), 0 < bs.length → host % 64 + bs.length ≤ 64 →
        d.tagPass tid peer (host / 64 * 64) = true → d.t2Down (host / 64 * 64) = false →
        (d.lineOut tid peer (host / 64 * 64)).zeros = false → (d.lineOut tid peer (host / 64 * 64)).poison = none →
        d.writeLocal tid peer host bs = ([], (d.writeLocal tid peer host bs).2)
          ∧ (d.writeLocal tid peer host bs).2.wq = d.wq ++ bytesAt host bs)
    ∧ ∀ m (d : Dev) a va (bs : List Byte) d1 h c e line, d.xlate m a va = (d1, .ok h) → h.copy = some c →
        c.leaf.getLsbD 10 = true → c.leaf.getLsbD 8 = false → h.window = none → h.peer = none → h.typ ≠ 1 →
        0 < bs.length → h.host % 64 + bs.length ≤ 64 → e = d1.markDirty h → line = e.copyLine h (h.host / 64 * 64) →
        e.tagPass h.tid false line = true → e.t2Down line = false → (e.lineOut h.tid false line).zeros = false →
        (e.lineOut h.tid false line).poison = none →
        (d.store m a va bs).2 = none ∧ (d.store m a va bs).1.wq = d1.wq ++ bytesAt h.host bs

/-- A read of this package's memory for a TID learns nothing of a frame whose tag check that TID fails: two memories
that agree on the frames it passes give it the same bytes, the same poison and the same records (R389, R392). -/
def Obligations.TenantIsolation : Prop :=
  ∀ (m m' : Mem) (d : Dev) tid peer host n,
    (∀ a, d.tagPass tid peer (a / 64 * 64) = true → readByte m a = readByte m' a) →
    d.readLocal m tid peer host n = d.readLocal m' tid peer host n

/-- An access that its leaf admits has the permission that its kind needs, the type that its path may reach, an
update permit on a remote page and, on a page of type ENCRYPTED, a key slot that is READY (R361 to R363, R365). -/
def Obligations.LeafPermissions : Prop :=
  ∀ (d : Dev) (a : Acc) (leaf : Nat), d.leafFault a leaf = none →
    Word.bit leaf 0 = true ∧ Word.bits leaf 63 56 = 0
      ∧ (a.kind = .rd ∨ a.kind = .upd → Word.bit leaf 1 = true)
      ∧ (a.kind = .wr ∨ a.kind = .upd → Word.bit leaf 2 = true)
      ∧ (a.kind = .fetch → Word.bit leaf 3 = true)
      ∧ (a.kind = .upd → Word.bits leaf 15 12 = 2 → Word.bit leaf 7 = true)
      ∧ (a.path = .key → Word.bits leaf 6 4 = 2) ∧ (Word.bits leaf 6 4 = 2 → a.path = .key ∨ a.path = .ldg)
      ∧ (Word.bits leaf 6 4 = 3 → a.path = .ctl ∨ a.path = .ldg)
      ∧ (a.path = .fetch → Word.bits leaf 6 4 < 2 ∧ Word.bits leaf 15 12 < 2)
      ∧ (Word.bits leaf 15 12 = 15 → a.path = .scopy)
      ∧ (Word.bits leaf 15 12 ≠ 15 → Word.bits leaf 15 12 ≠ 2 → Word.bits leaf 51 44 = 0)
      ∧ (Word.bits leaf 6 4 = 1 → (((d.part a.part).slots.getD (Word.bits leaf 55 52) {}).pageKey).isSome = true)

end Statements
end

