-- ==== Sys2Proof/Laws/Codec.lean ====
section
/-! SUPPORT. The laws of the forms of data: each reads back what it writes, whatever follows. -/

namespace Sys2Proof.Laws
open Sys2Proof.Machine

@[simp] theorem length_toBytes (k x : Nat) : (Word.toBytes k x).length = k := by
  induction k generalizing x with
  | zero => rfl
  | succ k ih => simp [Word.toBytes, ih]

theorem ofBytes_toBytes (k x : Nat) : Word.ofBytes (Word.toBytes k x) = x % 256 ^ k := by
  induction k generalizing x with
  | zero => simp [Word.toBytes, Word.ofBytes, Nat.mod_one]
  | succ k ih =>
    simp only [Word.toBytes, Word.ofBytes, ih, BitVec.toNat_ofNat]
    rw [show 256 ^ (k + 1) = 256 * 256 ^ k from Nat.pow_succ', Nat.mod_mul]

theorem cNum_sound (k : Nat) : (cNum k).Sound (· < 256 ^ k) := by
  intro x bs h
  simp [cNum, ofBytes_toBytes, Nat.mod_eq_of_lt h]

theorem pair_sound {α β : Type} {a : Codec α} {b : Codec β} {p : α → Prop} {q : β → Prop}
    (ha : a.Sound p) (hb : b.Sound q) : (a.pair b).Sound fun x => p x.1 ∧ q x.2 := by
  intro x bs h
  simp only [Codec.pair, List.append_assoc]
  rw [ha _ _ h.1]
  dsimp only
  rw [hb _ _ h.2]

theorem via_sound {α β : Type} {c : Codec α} {p : α → Prop} {q : β → Prop} {f : β → α} {g : α → Option β}
    (hc : c.Sound p) (hf : ∀ x, q x → p (f x) ∧ g (f x) = some x) : (c.via f g).Sound q := by
  intro x bs h
  simp only [Codec.via]
  rw [hc _ _ (hf x h).1]
  simp [(hf x h).2]

theorem map_sound {α β : Type} {c : Codec α} {p : α → Prop} {q : β → Prop} {f : β → α} {g : α → β}
    (hc : c.Sound p) (hf : ∀ x, q x → p (f x) ∧ g (f x) = x) : (c.map f g).Sound q :=
  via_sound hc fun x h => ⟨(hf x h).1, congrArg some (hf x h).2⟩

theorem getMany_sound {α : Type} {c : Codec α} {p : α → Prop} (hc : c.Sound p) (xs : List α) (bs : List Byte)
    (h : ∀ x ∈ xs, p x) : getMany c xs.length (xs.flatMap c.put ++ bs) = some (xs, bs) := by
  induction xs with
  | nil => rfl
  | cons x xs ih =>
    simp only [List.length_cons, List.flatMap_cons, List.append_assoc, getMany]
    rw [hc x _ (h x (by simp))]
    dsimp only
    rw [ih fun y hy => h y (by simp [hy])]

theorem cList_sound {α : Type} {c : Codec α} {p : α → Prop} (hc : c.Sound p) :
    (cList c).Sound fun xs => xs.length < 2 ^ 32 ∧ ∀ x ∈ xs, p x := by
  intro xs bs h
  simp only [cList, List.append_assoc]
  have := cNum_sound 4 xs.length (xs.flatMap c.put ++ bs) (by simpa using h.1)
  simp only [show (cNum 4).put xs.length = Word.toBytes 4 xs.length from rfl] at this
  rw [this]
  exact getMany_sound hc xs bs h.2

theorem cBool_sound : cBool.Sound fun _ => True :=
  via_sound (cNum_sound 1) fun x _ => by cases x <;> decide

theorem cOpt_sound {α : Type} {c : Codec α} {p : α → Prop} (hc : c.Sound p) :
    (cOpt c).Sound fun x => ∀ y, x = some y → p y := by
  intro x bs h
  cases x with
  | none =>
    simp only [cOpt, show cBool.get ([0] ++ bs) = some (false, bs) from cBool_sound false bs trivial]
  | some x =>
    have := cBool_sound true (c.put x ++ bs) trivial
    simp only [show cBool.put true = [1] from rfl, List.singleton_append] at this
    simp only [cOpt, List.cons_append, this]
    rw [hc x bs (h x rfl)]

theorem cBits_sound (w : Nat) (h : w % 8 = 0) : (cBits w).Sound fun _ => True :=
  map_sound (cNum_sound _) fun x _ => ⟨by
    have := x.isLt
    rwa [show (256 : Nat) = 2 ^ 8 from rfl, ← Nat.pow_mul, Nat.mul_div_cancel' (Nat.dvd_of_mod_eq_zero h)],
    by simp⟩

theorem tokBits (p l n s c : Bool) (k : Fin 8) :
    let w := p.toNat + 2 * l.toNat + 4 * n.toNat + 8 * s.toNat + 16 * c.toNat + k.val % 8 * 32
    w < 256 ∧ w.testBit 0 = p ∧ w.testBit 1 = l ∧ w.testBit 2 = n ∧ w.testBit 3 = s ∧ w.testBit 4 = c
      ∧ w / 32 % 8 = k.val := by
  revert p l n s c k
  decide

theorem cTok_sound : cTok.Sound fun t => t.ck < 8 := by
  refine map_sound (pair_sound (cBits_sound 1024 rfl) (pair_sound (cNum_sound 1) (cBits_sound 24 rfl))) ?_
  rintro ⟨x, p, l, n, s, c, ck, o⟩ h
  obtain ⟨hw, h0, h1, h2, h3, h4, h5⟩ := tokBits p l n s c ⟨ck, h⟩
  refine ⟨⟨trivial, by simpa using hw, trivial⟩, ?_⟩
  dsimp only at h0 h1 h2 h3 h4 h5 ⊢
  rw [h0, h1, h2, h3, h4, h5]

end Sys2Proof.Laws
end

