-- ==== Sys2Proof/Laws/State.lean ====
section
/-! SUPPORT. The small laws of the state: keyed tables, and one lemma per field per update. -/

namespace Sys2Proof.Laws
open Sys2Proof.Machine

/-! ### Keyed tables -/

@[simp] theorem lookup_nil {α : Type} (k : Nat) : lookup k ([] : List (Nat × α)) = none := rfl

/-- The entry of a key that was set. -/
@[simp] theorem lookup_insert_same {α : Type} (k : Nat) (v : α) (t : List (Nat × α)) :
    lookup k (Machine.insert k v t) = some v := by
  induction t with
  | nil => simp [Machine.insert, lookup]
  | cons e rest ih =>
    simp only [Machine.insert]
    split
    · simp [lookup]
    · split
      · simp [lookup]
      · simp [lookup, *]

/-- Setting the entry of a key leaves every other key alone. -/
theorem lookup_insert_ne {α : Type} {j k : Nat} (v : α) (t : List (Nat × α)) (h : j ≠ k) :
    lookup j (Machine.insert k v t) = lookup j t := by
  induction t with
  | nil => simp [Machine.insert, lookup, Ne.symm h]
  | cons e rest ih =>
    simp only [Machine.insert]
    split
    · simp [lookup, Ne.symm h]
    · split
      · rename_i _ hk
        simp [lookup, Ne.symm h, hk]
      · simp only [lookup, ih]

theorem lookup_insert {α : Type} (j k : Nat) (v : α) (t : List (Nat × α)) :
    lookup j (Machine.insert k v t) = if j = k then some v else lookup j t := by
  by_cases h : j = k
  · simp [h]
  · simp [h, lookup_insert_ne v t h]

theorem coreKey_inj {a b : CoreId} (h : a.key = b.key) : a = b := by
  cases a with
  | cc p => cases b with
    | cc q => simp only [CoreId.key] at h; exact congrArg _ (Fin.ext (by omega))
    | sys q => simp only [CoreId.key] at h; have := p.isLt; omega
  | sys p => cases b with
    | cc q => simp only [CoreId.key] at h; have := q.isLt; omega
    | sys q => simp only [CoreId.key] at h; exact congrArg _ (Fin.ext (by omega))

/-! ### A core replaced -/

@[simp] theorem setCore_ctxs (d : Dev) (id : CoreId) (c : Core) :
    (d.setCore id c).ctxs = d.ctxs := rfl
@[simp] theorem setCore_parts (d : Dev) (id : CoreId) (c : Core) :
    (d.setCore id c).parts = d.parts := rfl
@[simp] theorem setCore_insts (d : Dev) (id : CoreId) (c : Core) :
    (d.setCore id c).insts = d.insts := rfl

@[simp] theorem setCore_copies (d : Dev) (id : CoreId) (c : Core) :
    (d.setCore id c).copies = d.copies := rfl
@[simp] theorem setCore_nextCopy (d : Dev) (id : CoreId) (c : Core) :
    (d.setCore id c).nextCopy = d.nextCopy := rfl
@[simp] theorem setCore_reports (d : Dev) (id : CoreId) (c : Core) :
    (d.setCore id c).reports = d.reports := rfl
@[simp] theorem setCore_queues (d : Dev) (id : CoreId) (c : Core) :
    (d.setCore id c).queues = d.queues := rfl
@[simp] theorem setCore_ptr (d : Dev) (id : CoreId) (c : Core) :
    (d.setCore id c).ptr = d.ptr := rfl
@[simp] theorem setCore_schedAge (d : Dev) (id : CoreId) (c : Core) :
    (d.setCore id c).schedAge = d.schedAge := rfl
@[simp] theorem setCore_graphPages (d : Dev) (id : CoreId) (c : Core) :
    (d.setCore id c).graphPages = d.graphPages := rfl
@[simp] theorem setCore_installs (d : Dev) (id : CoreId) (c : Core) :
    (d.setCore id c).installs = d.installs := rfl
@[simp] theorem setCore_seen (d : Dev) (id : CoreId) (c : Core) :
    (d.setCore id c).seen = d.seen := rfl
@[simp] theorem setCore_compacts (d : Dev) (id : CoreId) (c : Core) :
    (d.setCore id c).compacts = d.compacts := rfl
@[simp] theorem setCore_planeCores (d : Dev) (id : CoreId) (c : Core) :
    (d.setCore id c).planeCores = d.planeCores := rfl
@[simp] theorem setCore_plown (d : Dev) (id : CoreId) (c : Core) :
    (d.setCore id c).plown = d.plown := rfl
@[simp] theorem setCore_plmap (d : Dev) (id : CoreId) (c : Core) :
    (d.setCore id c).plmap = d.plmap := rfl
@[simp] theorem setCore_active (d : Dev) (id : CoreId) (c : Core) :
    (d.setCore id c).active = d.active := rfl
@[simp] theorem setCore_switches (d : Dev) (id : CoreId) (c : Core) :
    (d.setCore id c).switches = d.switches := rfl
@[simp] theorem setCore_sepq (d : Dev) (id : CoreId) (c : Core) :
    (d.setCore id c).sepq = d.sepq := rfl
@[simp] theorem setCore_tags (d : Dev) (id : CoreId) (c : Core) :
    (d.setCore id c).tags = d.tags := rfl
@[simp] theorem setCore_conds (d : Dev) (id : CoreId) (c : Core) :
    (d.setCore id c).conds = d.conds := rfl
@[simp] theorem setCore_xl (d : Dev) (id : CoreId) (c : Core) :
    (d.setCore id c).xl = d.xl := rfl
@[simp] theorem setCore_rcopy (d : Dev) (id : CoreId) (c : Core) :
    (d.setCore id c).rcopy = d.rcopy := rfl
@[simp] theorem setCore_self (d : Dev) (id : CoreId) (c : Core) :
    (d.setCore id c).self = d.self := rfl
@[simp] theorem setCore_peers (d : Dev) (id : CoreId) (c : Core) :
    (d.setCore id c).peers = d.peers := rfl
@[simp] theorem setCore_pkg (d : Dev) (id : CoreId) (c : Core) :
    (d.setCore id c).pkg = d.pkg := rfl
@[simp] theorem setCore_bootOk (d : Dev) (id : CoreId) (c : Core) :
    (d.setCore id c).bootOk = d.bootOk := rfl
@[simp] theorem setCore_stateSince (d : Dev) (id : CoreId) (c : Core) :
    (d.setCore id c).stateSince = d.stateSince := rfl
@[simp] theorem setCore_sensors (d : Dev) (id : CoreId) (c : Core) :
    (d.setCore id c).sensors = d.sensors := rfl
@[simp] theorem setCore_therm (d : Dev) (id : CoreId) (c : Core) :
    (d.setCore id c).therm = d.therm := rfl
@[simp] theorem setCore_rate (d : Dev) (id : CoreId) (c : Core) :
    (d.setCore id c).rate = d.rate := rfl
@[simp] theorem setCore_passes (d : Dev) (id : CoreId) (c : Core) :
    (d.setCore id c).passes = d.passes := rfl
@[simp] theorem setCore_corrected (d : Dev) (id : CoreId) (c : Core) :
    (d.setCore id c).corrected = d.corrected := rfl
@[simp] theorem setCore_patrolNs (d : Dev) (id : CoreId) (c : Core) :
    (d.setCore id c).patrolNs = d.patrolNs := rfl
@[simp] theorem setCore_passBad (d : Dev) (id : CoreId) (c : Core) :
    (d.setCore id c).passBad = d.passBad := rfl
@[simp] theorem setCore_passClean (d : Dev) (id : CoreId) (c : Core) :
    (d.setCore id c).passClean = d.passClean := rfl
@[simp] theorem setCore_auditDue (d : Dev) (id : CoreId) (c : Core) :
    (d.setCore id c).auditDue = d.auditDue := rfl
@[simp] theorem setCore_refresh (d : Dev) (id : CoreId) (c : Core) :
    (d.setCore id c).refresh = d.refresh := rfl
@[simp] theorem setCore_sets (d : Dev) (id : CoreId) (c : Core) :
    (d.setCore id c).sets = d.sets := rfl
@[simp] theorem setCore_retreat (d : Dev) (id : CoreId) (c : Core) :
    (d.setCore id c).retreat = d.retreat := rfl
@[simp] theorem setCore_thermInfo (d : Dev) (id : CoreId) (c : Core) :
    (d.setCore id c).thermInfo = d.thermInfo := rfl
@[simp] theorem setCore_coolFrom (d : Dev) (id : CoreId) (c : Core) :
    (d.setCore id c).coolFrom = d.coolFrom := rfl
@[simp] theorem setCore_pwrCap (d : Dev) (id : CoreId) (c : Core) :
    (d.setCore id c).pwrCap = d.pwrCap := rfl
@[simp] theorem setCore_energy (d : Dev) (id : CoreId) (c : Core) :
    (d.setCore id c).energy = d.energy := rfl
@[simp] theorem setCore_clk (d : Dev) (id : CoreId) (c : Core) :
    (d.setCore id c).clk = d.clk := rfl
@[simp] theorem setCore_lowered (d : Dev) (id : CoreId) (c : Core) :
    (d.setCore id c).lowered = d.lowered := rfl
@[simp] theorem setCore_time (d : Dev) (id : CoreId) (c : Core) :
    (d.setCore id c).time = d.time := rfl
@[simp] theorem setCore_hvec (d : Dev) (id : CoreId) (c : Core) :
    (d.setCore id c).hvec = d.hvec := rfl
@[simp] theorem setCore_hlost (d : Dev) (id : CoreId) (c : Core) :
    (d.setCore id c).hlost = d.hlost := rfl
@[simp] theorem setCore_hrval (d : Dev) (id : CoreId) (c : Core) :
    (d.setCore id c).hrval = d.hrval := rfl
@[simp] theorem setCore_hqueue (d : Dev) (id : CoreId) (c : Core) :
    (d.setCore id c).hqueue = d.hqueue := rfl
@[simp] theorem setCore_heldRecs (d : Dev) (id : CoreId) (c : Core) :
    (d.setCore id c).heldRecs = d.heldRecs := rfl
@[simp] theorem setCore_seqNo (d : Dev) (id : CoreId) (c : Core) :
    (d.setCore id c).seqNo = d.seqNo := rfl
@[simp] theorem setCore_flash (d : Dev) (id : CoreId) (c : Core) :
    (d.setCore id c).flash = d.flash := rfl
@[simp] theorem setCore_fwRun (d : Dev) (id : CoreId) (c : Core) :
    (d.setCore id c).fwRun = d.fwRun := rfl
@[simp] theorem setCore_sessions (d : Dev) (id : CoreId) (c : Core) :
    (d.setCore id c).sessions = d.sessions := rfl
@[simp] theorem setCore_nextSession (d : Dev) (id : CoreId) (c : Core) :
    (d.setCore id c).nextSession = d.nextSession := rfl
@[simp] theorem setCore_locks (d : Dev) (id : CoreId) (c : Core) :
    (d.setCore id c).locks = d.locks := rfl
@[simp] theorem setCore_links (d : Dev) (id : CoreId) (c : Core) :
    (d.setCore id c).links = d.links := rfl
@[simp] theorem setCore_t2links (d : Dev) (id : CoreId) (c : Core) :
    (d.setCore id c).t2links = d.t2links := rfl
@[simp] theorem setCore_paused (d : Dev) (id : CoreId) (c : Core) :
    (d.setCore id c).paused = d.paused := rfl
@[simp] theorem setCore_slowed (d : Dev) (id : CoreId) (c : Core) :
    (d.setCore id c).slowed = d.slowed := rfl
@[simp] theorem setCore_watch (d : Dev) (id : CoreId) (c : Core) :
    (d.setCore id c).watch = d.watch := rfl
@[simp] theorem setCore_out (d : Dev) (id : CoreId) (c : Core) :
    (d.setCore id c).out = d.out := rfl
@[simp] theorem setCore_agenda (d : Dev) (id : CoreId) (c : Core) :
    (d.setCore id c).agenda = d.agenda := rfl
@[simp] theorem setCore_focus (d : Dev) (id : CoreId) (c : Core) :
    (d.setCore id c).focus = d.focus := rfl
@[simp] theorem setCore_tx (d : Dev) (id : CoreId) (c : Core) :
    (d.setCore id c).tx = d.tx := rfl
@[simp] theorem setCore_free (d : Dev) (id : CoreId) (c : Core) :
    (d.setCore id c).free = d.free := rfl
@[simp] theorem setCore_stale (d : Dev) (id : CoreId) (c : Core) :
    (d.setCore id c).stale = d.stale := rfl
@[simp] theorem setCore_unfenced (d : Dev) (id : CoreId) (c : Core) :
    (d.setCore id c).unfenced = d.unfenced := rfl
@[simp] theorem setCore_wq (d : Dev) (id : CoreId) (c : Core) :
    (d.setCore id c).wq = d.wq := rfl
@[simp] theorem setCore_nextCmd (d : Dev) (id : CoreId) (c : Core) :
    (d.setCore id c).nextCmd = d.nextCmd := rfl
@[simp] theorem setCore_t2Fitted (d : Dev) (id : CoreId) (c : Core) :
    (d.setCore id c).t2Fitted = d.t2Fitted := rfl
@[simp] theorem setCore_rroot (d : Dev) (id : CoreId) (c : Core) :
    (d.setCore id c).rroot = d.rroot := rfl
@[simp] theorem setCore_peerq (d : Dev) (id : CoreId) (c : Core) :
    (d.setCore id c).peerq = d.peerq := rfl
@[simp] theorem setCore_retained (d : Dev) (id : CoreId) (c : Core) :
    (d.setCore id c).retained = d.retained := rfl
@[simp] theorem setCore_lateWords (d : Dev) (id : CoreId) (c : Core) :
    (d.setCore id c).lateWords = d.lateWords := rfl
@[simp] theorem setCore_fixes (d : Dev) (id : CoreId) (c : Core) :
    (d.setCore id c).fixes = d.fixes := rfl
@[simp] theorem setCore_sep (d : Dev) (id : CoreId) (c : Core) :
    (d.setCore id c).sep = d.sep := rfl
@[simp] theorem setCore_ethq (d : Dev) (id : CoreId) (c : Core) :
    (d.setCore id c).ethq = d.ethq := rfl

/-! ### A core changed -/

@[simp] theorem updCore_ctxs (d : Dev) (id : CoreId) (f : Core → Core) :
    (d.updCore id f).ctxs = d.ctxs := rfl
@[simp] theorem updCore_parts (d : Dev) (id : CoreId) (f : Core → Core) :
    (d.updCore id f).parts = d.parts := rfl
@[simp] theorem updCore_insts (d : Dev) (id : CoreId) (f : Core → Core) :
    (d.updCore id f).insts = d.insts := rfl

@[simp] theorem updCore_copies (d : Dev) (id : CoreId) (f : Core → Core) :
    (d.updCore id f).copies = d.copies := rfl
@[simp] theorem updCore_nextCopy (d : Dev) (id : CoreId) (f : Core → Core) :
    (d.updCore id f).nextCopy = d.nextCopy := rfl
@[simp] theorem updCore_reports (d : Dev) (id : CoreId) (f : Core → Core) :
    (d.updCore id f).reports = d.reports := rfl
@[simp] theorem updCore_queues (d : Dev) (id : CoreId) (f : Core → Core) :
    (d.updCore id f).queues = d.queues := rfl
@[simp] theorem updCore_ptr (d : Dev) (id : CoreId) (f : Core → Core) :
    (d.updCore id f).ptr = d.ptr := rfl
@[simp] theorem updCore_schedAge (d : Dev) (id : CoreId) (f : Core → Core) :
    (d.updCore id f).schedAge = d.schedAge := rfl
@[simp] theorem updCore_graphPages (d : Dev) (id : CoreId) (f : Core → Core) :
    (d.updCore id f).graphPages = d.graphPages := rfl
@[simp] theorem updCore_installs (d : Dev) (id : CoreId) (f : Core → Core) :
    (d.updCore id f).installs = d.installs := rfl
@[simp] theorem updCore_seen (d : Dev) (id : CoreId) (f : Core → Core) :
    (d.updCore id f).seen = d.seen := rfl
@[simp] theorem updCore_compacts (d : Dev) (id : CoreId) (f : Core → Core) :
    (d.updCore id f).compacts = d.compacts := rfl
@[simp] theorem updCore_planeCores (d : Dev) (id : CoreId) (f : Core → Core) :
    (d.updCore id f).planeCores = d.planeCores := rfl
@[simp] theorem updCore_plown (d : Dev) (id : CoreId) (f : Core → Core) :
    (d.updCore id f).plown = d.plown := rfl
@[simp] theorem updCore_plmap (d : Dev) (id : CoreId) (f : Core → Core) :
    (d.updCore id f).plmap = d.plmap := rfl
@[simp] theorem updCore_active (d : Dev) (id : CoreId) (f : Core → Core) :
    (d.updCore id f).active = d.active := rfl
@[simp] theorem updCore_switches (d : Dev) (id : CoreId) (f : Core → Core) :
    (d.updCore id f).switches = d.switches := rfl
@[simp] theorem updCore_sepq (d : Dev) (id : CoreId) (f : Core → Core) :
    (d.updCore id f).sepq = d.sepq := rfl
@[simp] theorem updCore_tags (d : Dev) (id : CoreId) (f : Core → Core) :
    (d.updCore id f).tags = d.tags := rfl
@[simp] theorem updCore_conds (d : Dev) (id : CoreId) (f : Core → Core) :
    (d.updCore id f).conds = d.conds := rfl
@[simp] theorem updCore_xl (d : Dev) (id : CoreId) (f : Core → Core) :
    (d.updCore id f).xl = d.xl := rfl
@[simp] theorem updCore_rcopy (d : Dev) (id : CoreId) (f : Core → Core) :
    (d.updCore id f).rcopy = d.rcopy := rfl
@[simp] theorem updCore_self (d : Dev) (id : CoreId) (f : Core → Core) :
    (d.updCore id f).self = d.self := rfl
@[simp] theorem updCore_peers (d : Dev) (id : CoreId) (f : Core → Core) :
    (d.updCore id f).peers = d.peers := rfl
@[simp] theorem updCore_pkg (d : Dev) (id : CoreId) (f : Core → Core) :
    (d.updCore id f).pkg = d.pkg := rfl
@[simp] theorem updCore_bootOk (d : Dev) (id : CoreId) (f : Core → Core) :
    (d.updCore id f).bootOk = d.bootOk := rfl
@[simp] theorem updCore_stateSince (d : Dev) (id : CoreId) (f : Core → Core) :
    (d.updCore id f).stateSince = d.stateSince := rfl
@[simp] theorem updCore_sensors (d : Dev) (id : CoreId) (f : Core → Core) :
    (d.updCore id f).sensors = d.sensors := rfl
@[simp] theorem updCore_therm (d : Dev) (id : CoreId) (f : Core → Core) :
    (d.updCore id f).therm = d.therm := rfl
@[simp] theorem updCore_rate (d : Dev) (id : CoreId) (f : Core → Core) :
    (d.updCore id f).rate = d.rate := rfl
@[simp] theorem updCore_passes (d : Dev) (id : CoreId) (f : Core → Core) :
    (d.updCore id f).passes = d.passes := rfl
@[simp] theorem updCore_corrected (d : Dev) (id : CoreId) (f : Core → Core) :
    (d.updCore id f).corrected = d.corrected := rfl
@[simp] theorem updCore_patrolNs (d : Dev) (id : CoreId) (f : Core → Core) :
    (d.updCore id f).patrolNs = d.patrolNs := rfl
@[simp] theorem updCore_passBad (d : Dev) (id : CoreId) (f : Core → Core) :
    (d.updCore id f).passBad = d.passBad := rfl
@[simp] theorem updCore_passClean (d : Dev) (id : CoreId) (f : Core → Core) :
    (d.updCore id f).passClean = d.passClean := rfl
@[simp] theorem updCore_auditDue (d : Dev) (id : CoreId) (f : Core → Core) :
    (d.updCore id f).auditDue = d.auditDue := rfl
@[simp] theorem updCore_refresh (d : Dev) (id : CoreId) (f : Core → Core) :
    (d.updCore id f).refresh = d.refresh := rfl
@[simp] theorem updCore_sets (d : Dev) (id : CoreId) (f : Core → Core) :
    (d.updCore id f).sets = d.sets := rfl
@[simp] theorem updCore_retreat (d : Dev) (id : CoreId) (f : Core → Core) :
    (d.updCore id f).retreat = d.retreat := rfl
@[simp] theorem updCore_thermInfo (d : Dev) (id : CoreId) (f : Core → Core) :
    (d.updCore id f).thermInfo = d.thermInfo := rfl
@[simp] theorem updCore_coolFrom (d : Dev) (id : CoreId) (f : Core → Core) :
    (d.updCore id f).coolFrom = d.coolFrom := rfl
@[simp] theorem updCore_pwrCap (d : Dev) (id : CoreId) (f : Core → Core) :
    (d.updCore id f).pwrCap = d.pwrCap := rfl
@[simp] theorem updCore_energy (d : Dev) (id : CoreId) (f : Core → Core) :
    (d.updCore id f).energy = d.energy := rfl
@[simp] theorem updCore_clk (d : Dev) (id : CoreId) (f : Core → Core) :
    (d.updCore id f).clk = d.clk := rfl
@[simp] theorem updCore_lowered (d : Dev) (id : CoreId) (f : Core → Core) :
    (d.updCore id f).lowered = d.lowered := rfl
@[simp] theorem updCore_time (d : Dev) (id : CoreId) (f : Core → Core) :
    (d.updCore id f).time = d.time := rfl
@[simp] theorem updCore_hvec (d : Dev) (id : CoreId) (f : Core → Core) :
    (d.updCore id f).hvec = d.hvec := rfl
@[simp] theorem updCore_hlost (d : Dev) (id : CoreId) (f : Core → Core) :
    (d.updCore id f).hlost = d.hlost := rfl
@[simp] theorem updCore_hrval (d : Dev) (id : CoreId) (f : Core → Core) :
    (d.updCore id f).hrval = d.hrval := rfl
@[simp] theorem updCore_hqueue (d : Dev) (id : CoreId) (f : Core → Core) :
    (d.updCore id f).hqueue = d.hqueue := rfl
@[simp] theorem updCore_heldRecs (d : Dev) (id : CoreId) (f : Core → Core) :
    (d.updCore id f).heldRecs = d.heldRecs := rfl
@[simp] theorem updCore_seqNo (d : Dev) (id : CoreId) (f : Core → Core) :
    (d.updCore id f).seqNo = d.seqNo := rfl
@[simp] theorem updCore_flash (d : Dev) (id : CoreId) (f : Core → Core) :
    (d.updCore id f).flash = d.flash := rfl
@[simp] theorem updCore_fwRun (d : Dev) (id : CoreId) (f : Core → Core) :
    (d.updCore id f).fwRun = d.fwRun := rfl
@[simp] theorem updCore_sessions (d : Dev) (id : CoreId) (f : Core → Core) :
    (d.updCore id f).sessions = d.sessions := rfl
@[simp] theorem updCore_nextSession (d : Dev) (id : CoreId) (f : Core → Core) :
    (d.updCore id f).nextSession = d.nextSession := rfl
@[simp] theorem updCore_locks (d : Dev) (id : CoreId) (f : Core → Core) :
    (d.updCore id f).locks = d.locks := rfl
@[simp] theorem updCore_links (d : Dev) (id : CoreId) (f : Core → Core) :
    (d.updCore id f).links = d.links := rfl
@[simp] theorem updCore_t2links (d : Dev) (id : CoreId) (f : Core → Core) :
    (d.updCore id f).t2links = d.t2links := rfl
@[simp] theorem updCore_paused (d : Dev) (id : CoreId) (f : Core → Core) :
    (d.updCore id f).paused = d.paused := rfl
@[simp] theorem updCore_slowed (d : Dev) (id : CoreId) (f : Core → Core) :
    (d.updCore id f).slowed = d.slowed := rfl
@[simp] theorem updCore_watch (d : Dev) (id : CoreId) (f : Core → Core) :
    (d.updCore id f).watch = d.watch := rfl
@[simp] theorem updCore_out (d : Dev) (id : CoreId) (f : Core → Core) :
    (d.updCore id f).out = d.out := rfl
@[simp] theorem updCore_agenda (d : Dev) (id : CoreId) (f : Core → Core) :
    (d.updCore id f).agenda = d.agenda := rfl
@[simp] theorem updCore_focus (d : Dev) (id : CoreId) (f : Core → Core) :
    (d.updCore id f).focus = d.focus := rfl
@[simp] theorem updCore_tx (d : Dev) (id : CoreId) (f : Core → Core) :
    (d.updCore id f).tx = d.tx := rfl
@[simp] theorem updCore_free (d : Dev) (id : CoreId) (f : Core → Core) :
    (d.updCore id f).free = d.free := rfl
@[simp] theorem updCore_stale (d : Dev) (id : CoreId) (f : Core → Core) :
    (d.updCore id f).stale = d.stale := rfl
@[simp] theorem updCore_unfenced (d : Dev) (id : CoreId) (f : Core → Core) :
    (d.updCore id f).unfenced = d.unfenced := rfl
@[simp] theorem updCore_wq (d : Dev) (id : CoreId) (f : Core → Core) :
    (d.updCore id f).wq = d.wq := rfl
@[simp] theorem updCore_nextCmd (d : Dev) (id : CoreId) (f : Core → Core) :
    (d.updCore id f).nextCmd = d.nextCmd := rfl
@[simp] theorem updCore_t2Fitted (d : Dev) (id : CoreId) (f : Core → Core) :
    (d.updCore id f).t2Fitted = d.t2Fitted := rfl
@[simp] theorem updCore_rroot (d : Dev) (id : CoreId) (f : Core → Core) :
    (d.updCore id f).rroot = d.rroot := rfl
@[simp] theorem updCore_peerq (d : Dev) (id : CoreId) (f : Core → Core) :
    (d.updCore id f).peerq = d.peerq := rfl
@[simp] theorem updCore_retained (d : Dev) (id : CoreId) (f : Core → Core) :
    (d.updCore id f).retained = d.retained := rfl
@[simp] theorem updCore_lateWords (d : Dev) (id : CoreId) (f : Core → Core) :
    (d.updCore id f).lateWords = d.lateWords := rfl
@[simp] theorem updCore_fixes (d : Dev) (id : CoreId) (f : Core → Core) :
    (d.updCore id f).fixes = d.fixes := rfl
@[simp] theorem updCore_sep (d : Dev) (id : CoreId) (f : Core → Core) :
    (d.updCore id f).sep = d.sep := rfl
@[simp] theorem updCore_ethq (d : Dev) (id : CoreId) (f : Core → Core) :
    (d.updCore id f).ethq = d.ethq := rfl

/-! ### An instance replaced -/

@[simp] theorem setInst_cores (d : Dev) (k : Nat) (x : Inst) :
    (d.setInst k x).cores = d.cores := rfl
@[simp] theorem setInst_ctxs (d : Dev) (k : Nat) (x : Inst) :
    (d.setInst k x).ctxs = d.ctxs := rfl
@[simp] theorem setInst_parts (d : Dev) (k : Nat) (x : Inst) :
    (d.setInst k x).parts = d.parts := rfl

@[simp] theorem setInst_copies (d : Dev) (k : Nat) (x : Inst) :
    (d.setInst k x).copies = d.copies := rfl
@[simp] theorem setInst_nextCopy (d : Dev) (k : Nat) (x : Inst) :
    (d.setInst k x).nextCopy = d.nextCopy := rfl
@[simp] theorem setInst_reports (d : Dev) (k : Nat) (x : Inst) :
    (d.setInst k x).reports = d.reports := rfl
@[simp] theorem setInst_queues (d : Dev) (k : Nat) (x : Inst) :
    (d.setInst k x).queues = d.queues := rfl
@[simp] theorem setInst_ptr (d : Dev) (k : Nat) (x : Inst) :
    (d.setInst k x).ptr = d.ptr := rfl
@[simp] theorem setInst_schedAge (d : Dev) (k : Nat) (x : Inst) :
    (d.setInst k x).schedAge = d.schedAge := rfl
@[simp] theorem setInst_graphPages (d : Dev) (k : Nat) (x : Inst) :
    (d.setInst k x).graphPages = d.graphPages := rfl
@[simp] theorem setInst_installs (d : Dev) (k : Nat) (x : Inst) :
    (d.setInst k x).installs = d.installs := rfl
@[simp] theorem setInst_seen (d : Dev) (k : Nat) (x : Inst) :
    (d.setInst k x).seen = d.seen := rfl
@[simp] theorem setInst_compacts (d : Dev) (k : Nat) (x : Inst) :
    (d.setInst k x).compacts = d.compacts := rfl
@[simp] theorem setInst_planeCores (d : Dev) (k : Nat) (x : Inst) :
    (d.setInst k x).planeCores = d.planeCores := rfl
@[simp] theorem setInst_plown (d : Dev) (k : Nat) (x : Inst) :
    (d.setInst k x).plown = d.plown := rfl
@[simp] theorem setInst_plmap (d : Dev) (k : Nat) (x : Inst) :
    (d.setInst k x).plmap = d.plmap := rfl
@[simp] theorem setInst_active (d : Dev) (k : Nat) (x : Inst) :
    (d.setInst k x).active = d.active := rfl
@[simp] theorem setInst_switches (d : Dev) (k : Nat) (x : Inst) :
    (d.setInst k x).switches = d.switches := rfl
@[simp] theorem setInst_sepq (d : Dev) (k : Nat) (x : Inst) :
    (d.setInst k x).sepq = d.sepq := rfl
@[simp] theorem setInst_tags (d : Dev) (k : Nat) (x : Inst) :
    (d.setInst k x).tags = d.tags := rfl
@[simp] theorem setInst_conds (d : Dev) (k : Nat) (x : Inst) :
    (d.setInst k x).conds = d.conds := rfl
@[simp] theorem setInst_xl (d : Dev) (k : Nat) (x : Inst) :
    (d.setInst k x).xl = d.xl := rfl
@[simp] theorem setInst_rcopy (d : Dev) (k : Nat) (x : Inst) :
    (d.setInst k x).rcopy = d.rcopy := rfl
@[simp] theorem setInst_self (d : Dev) (k : Nat) (x : Inst) :
    (d.setInst k x).self = d.self := rfl
@[simp] theorem setInst_peers (d : Dev) (k : Nat) (x : Inst) :
    (d.setInst k x).peers = d.peers := rfl
@[simp] theorem setInst_pkg (d : Dev) (k : Nat) (x : Inst) :
    (d.setInst k x).pkg = d.pkg := rfl
@[simp] theorem setInst_bootOk (d : Dev) (k : Nat) (x : Inst) :
    (d.setInst k x).bootOk = d.bootOk := rfl
@[simp] theorem setInst_stateSince (d : Dev) (k : Nat) (x : Inst) :
    (d.setInst k x).stateSince = d.stateSince := rfl
@[simp] theorem setInst_sensors (d : Dev) (k : Nat) (x : Inst) :
    (d.setInst k x).sensors = d.sensors := rfl
@[simp] theorem setInst_therm (d : Dev) (k : Nat) (x : Inst) :
    (d.setInst k x).therm = d.therm := rfl
@[simp] theorem setInst_rate (d : Dev) (k : Nat) (x : Inst) :
    (d.setInst k x).rate = d.rate := rfl
@[simp] theorem setInst_passes (d : Dev) (k : Nat) (x : Inst) :
    (d.setInst k x).passes = d.passes := rfl
@[simp] theorem setInst_corrected (d : Dev) (k : Nat) (x : Inst) :
    (d.setInst k x).corrected = d.corrected := rfl
@[simp] theorem setInst_patrolNs (d : Dev) (k : Nat) (x : Inst) :
    (d.setInst k x).patrolNs = d.patrolNs := rfl
@[simp] theorem setInst_passBad (d : Dev) (k : Nat) (x : Inst) :
    (d.setInst k x).passBad = d.passBad := rfl
@[simp] theorem setInst_passClean (d : Dev) (k : Nat) (x : Inst) :
    (d.setInst k x).passClean = d.passClean := rfl
@[simp] theorem setInst_auditDue (d : Dev) (k : Nat) (x : Inst) :
    (d.setInst k x).auditDue = d.auditDue := rfl
@[simp] theorem setInst_refresh (d : Dev) (k : Nat) (x : Inst) :
    (d.setInst k x).refresh = d.refresh := rfl
@[simp] theorem setInst_sets (d : Dev) (k : Nat) (x : Inst) :
    (d.setInst k x).sets = d.sets := rfl
@[simp] theorem setInst_retreat (d : Dev) (k : Nat) (x : Inst) :
    (d.setInst k x).retreat = d.retreat := rfl
@[simp] theorem setInst_thermInfo (d : Dev) (k : Nat) (x : Inst) :
    (d.setInst k x).thermInfo = d.thermInfo := rfl
@[simp] theorem setInst_coolFrom (d : Dev) (k : Nat) (x : Inst) :
    (d.setInst k x).coolFrom = d.coolFrom := rfl
@[simp] theorem setInst_pwrCap (d : Dev) (k : Nat) (x : Inst) :
    (d.setInst k x).pwrCap = d.pwrCap := rfl
@[simp] theorem setInst_energy (d : Dev) (k : Nat) (x : Inst) :
    (d.setInst k x).energy = d.energy := rfl
@[simp] theorem setInst_clk (d : Dev) (k : Nat) (x : Inst) :
    (d.setInst k x).clk = d.clk := rfl
@[simp] theorem setInst_lowered (d : Dev) (k : Nat) (x : Inst) :
    (d.setInst k x).lowered = d.lowered := rfl
@[simp] theorem setInst_time (d : Dev) (k : Nat) (x : Inst) :
    (d.setInst k x).time = d.time := rfl
@[simp] theorem setInst_hvec (d : Dev) (k : Nat) (x : Inst) :
    (d.setInst k x).hvec = d.hvec := rfl
@[simp] theorem setInst_hlost (d : Dev) (k : Nat) (x : Inst) :
    (d.setInst k x).hlost = d.hlost := rfl
@[simp] theorem setInst_hrval (d : Dev) (k : Nat) (x : Inst) :
    (d.setInst k x).hrval = d.hrval := rfl
@[simp] theorem setInst_hqueue (d : Dev) (k : Nat) (x : Inst) :
    (d.setInst k x).hqueue = d.hqueue := rfl
@[simp] theorem setInst_heldRecs (d : Dev) (k : Nat) (x : Inst) :
    (d.setInst k x).heldRecs = d.heldRecs := rfl
@[simp] theorem setInst_seqNo (d : Dev) (k : Nat) (x : Inst) :
    (d.setInst k x).seqNo = d.seqNo := rfl
@[simp] theorem setInst_flash (d : Dev) (k : Nat) (x : Inst) :
    (d.setInst k x).flash = d.flash := rfl
@[simp] theorem setInst_fwRun (d : Dev) (k : Nat) (x : Inst) :
    (d.setInst k x).fwRun = d.fwRun := rfl
@[simp] theorem setInst_sessions (d : Dev) (k : Nat) (x : Inst) :
    (d.setInst k x).sessions = d.sessions := rfl
@[simp] theorem setInst_nextSession (d : Dev) (k : Nat) (x : Inst) :
    (d.setInst k x).nextSession = d.nextSession := rfl
@[simp] theorem setInst_locks (d : Dev) (k : Nat) (x : Inst) :
    (d.setInst k x).locks = d.locks := rfl
@[simp] theorem setInst_links (d : Dev) (k : Nat) (x : Inst) :
    (d.setInst k x).links = d.links := rfl
@[simp] theorem setInst_t2links (d : Dev) (k : Nat) (x : Inst) :
    (d.setInst k x).t2links = d.t2links := rfl
@[simp] theorem setInst_paused (d : Dev) (k : Nat) (x : Inst) :
    (d.setInst k x).paused = d.paused := rfl
@[simp] theorem setInst_slowed (d : Dev) (k : Nat) (x : Inst) :
    (d.setInst k x).slowed = d.slowed := rfl
@[simp] theorem setInst_watch (d : Dev) (k : Nat) (x : Inst) :
    (d.setInst k x).watch = d.watch := rfl
@[simp] theorem setInst_out (d : Dev) (k : Nat) (x : Inst) :
    (d.setInst k x).out = d.out := rfl
@[simp] theorem setInst_agenda (d : Dev) (k : Nat) (x : Inst) :
    (d.setInst k x).agenda = d.agenda := rfl
@[simp] theorem setInst_focus (d : Dev) (k : Nat) (x : Inst) :
    (d.setInst k x).focus = d.focus := rfl
@[simp] theorem setInst_tx (d : Dev) (k : Nat) (x : Inst) :
    (d.setInst k x).tx = d.tx := rfl
@[simp] theorem setInst_free (d : Dev) (k : Nat) (x : Inst) :
    (d.setInst k x).free = d.free := rfl
@[simp] theorem setInst_stale (d : Dev) (k : Nat) (x : Inst) :
    (d.setInst k x).stale = d.stale := rfl
@[simp] theorem setInst_unfenced (d : Dev) (k : Nat) (x : Inst) :
    (d.setInst k x).unfenced = d.unfenced := rfl
@[simp] theorem setInst_wq (d : Dev) (k : Nat) (x : Inst) :
    (d.setInst k x).wq = d.wq := rfl
@[simp] theorem setInst_nextCmd (d : Dev) (k : Nat) (x : Inst) :
    (d.setInst k x).nextCmd = d.nextCmd := rfl
@[simp] theorem setInst_t2Fitted (d : Dev) (k : Nat) (x : Inst) :
    (d.setInst k x).t2Fitted = d.t2Fitted := rfl
@[simp] theorem setInst_rroot (d : Dev) (k : Nat) (x : Inst) :
    (d.setInst k x).rroot = d.rroot := rfl
@[simp] theorem setInst_peerq (d : Dev) (k : Nat) (x : Inst) :
    (d.setInst k x).peerq = d.peerq := rfl
@[simp] theorem setInst_retained (d : Dev) (k : Nat) (x : Inst) :
    (d.setInst k x).retained = d.retained := rfl
@[simp] theorem setInst_lateWords (d : Dev) (k : Nat) (x : Inst) :
    (d.setInst k x).lateWords = d.lateWords := rfl
@[simp] theorem setInst_fixes (d : Dev) (k : Nat) (x : Inst) :
    (d.setInst k x).fixes = d.fixes := rfl
@[simp] theorem setInst_sep (d : Dev) (k : Nat) (x : Inst) :
    (d.setInst k x).sep = d.sep := rfl
@[simp] theorem setInst_ethq (d : Dev) (k : Nat) (x : Inst) :
    (d.setInst k x).ethq = d.ethq := rfl

/-! ### An instance changed -/

@[simp] theorem updInst_cores (d : Dev) (k : Nat) (f : Inst → Inst) :
    (d.updInst k f).cores = d.cores := by
  unfold Dev.updInst; split <;> rfl
@[simp] theorem updInst_ctxs (d : Dev) (k : Nat) (f : Inst → Inst) :
    (d.updInst k f).ctxs = d.ctxs := by
  unfold Dev.updInst; split <;> rfl
@[simp] theorem updInst_parts (d : Dev) (k : Nat) (f : Inst → Inst) :
    (d.updInst k f).parts = d.parts := by
  unfold Dev.updInst; split <;> rfl

@[simp] theorem updInst_copies (d : Dev) (k : Nat) (f : Inst → Inst) :
    (d.updInst k f).copies = d.copies := by
  unfold Dev.updInst; split <;> rfl
@[simp] theorem updInst_nextCopy (d : Dev) (k : Nat) (f : Inst → Inst) :
    (d.updInst k f).nextCopy = d.nextCopy := by
  unfold Dev.updInst; split <;> rfl
@[simp] theorem updInst_reports (d : Dev) (k : Nat) (f : Inst → Inst) :
    (d.updInst k f).reports = d.reports := by
  unfold Dev.updInst; split <;> rfl
@[simp] theorem updInst_queues (d : Dev) (k : Nat) (f : Inst → Inst) :
    (d.updInst k f).queues = d.queues := by
  unfold Dev.updInst; split <;> rfl
@[simp] theorem updInst_ptr (d : Dev) (k : Nat) (f : Inst → Inst) :
    (d.updInst k f).ptr = d.ptr := by
  unfold Dev.updInst; split <;> rfl
@[simp] theorem updInst_schedAge (d : Dev) (k : Nat) (f : Inst → Inst) :
    (d.updInst k f).schedAge = d.schedAge := by
  unfold Dev.updInst; split <;> rfl
@[simp] theorem updInst_graphPages (d : Dev) (k : Nat) (f : Inst → Inst) :
    (d.updInst k f).graphPages = d.graphPages := by
  unfold Dev.updInst; split <;> rfl
@[simp] theorem updInst_installs (d : Dev) (k : Nat) (f : Inst → Inst) :
    (d.updInst k f).installs = d.installs := by
  unfold Dev.updInst; split <;> rfl
@[simp] theorem updInst_seen (d : Dev) (k : Nat) (f : Inst → Inst) :
    (d.updInst k f).seen = d.seen := by
  unfold Dev.updInst; split <;> rfl
@[simp] theorem updInst_compacts (d : Dev) (k : Nat) (f : Inst → Inst) :
    (d.updInst k f).compacts = d.compacts := by
  unfold Dev.updInst; split <;> rfl
@[simp] theorem updInst_planeCores (d : Dev) (k : Nat) (f : Inst → Inst) :
    (d.updInst k f).planeCores = d.planeCores := by
  unfold Dev.updInst; split <;> rfl
@[simp] theorem updInst_plown (d : Dev) (k : Nat) (f : Inst → Inst) :
    (d.updInst k f).plown = d.plown := by
  unfold Dev.updInst; split <;> rfl
@[simp] theorem updInst_plmap (d : Dev) (k : Nat) (f : Inst → Inst) :
    (d.updInst k f).plmap = d.plmap := by
  unfold Dev.updInst; split <;> rfl
@[simp] theorem updInst_active (d : Dev) (k : Nat) (f : Inst → Inst) :
    (d.updInst k f).active = d.active := by
  unfold Dev.updInst; split <;> rfl
@[simp] theorem updInst_switches (d : Dev) (k : Nat) (f : Inst → Inst) :
    (d.updInst k f).switches = d.switches := by
  unfold Dev.updInst; split <;> rfl
@[simp] theorem updInst_sepq (d : Dev) (k : Nat) (f : Inst → Inst) :
    (d.updInst k f).sepq = d.sepq := by
  unfold Dev.updInst; split <;> rfl
@[simp] theorem updInst_tags (d : Dev) (k : Nat) (f : Inst → Inst) :
    (d.updInst k f).tags = d.tags := by
  unfold Dev.updInst; split <;> rfl
@[simp] theorem updInst_conds (d : Dev) (k : Nat) (f : Inst → Inst) :
    (d.updInst k f).conds = d.conds := by
  unfold Dev.updInst; split <;> rfl
@[simp] theorem updInst_xl (d : Dev) (k : Nat) (f : Inst → Inst) :
    (d.updInst k f).xl = d.xl := by
  unfold Dev.updInst; split <;> rfl
@[simp] theorem updInst_rcopy (d : Dev) (k : Nat) (f : Inst → Inst) :
    (d.updInst k f).rcopy = d.rcopy := by
  unfold Dev.updInst; split <;> rfl
@[simp] theorem updInst_self (d : Dev) (k : Nat) (f : Inst → Inst) :
    (d.updInst k f).self = d.self := by
  unfold Dev.updInst; split <;> rfl
@[simp] theorem updInst_peers (d : Dev) (k : Nat) (f : Inst → Inst) :
    (d.updInst k f).peers = d.peers := by
  unfold Dev.updInst; split <;> rfl
@[simp] theorem updInst_pkg (d : Dev) (k : Nat) (f : Inst → Inst) :
    (d.updInst k f).pkg = d.pkg := by
  unfold Dev.updInst; split <;> rfl
@[simp] theorem updInst_bootOk (d : Dev) (k : Nat) (f : Inst → Inst) :
    (d.updInst k f).bootOk = d.bootOk := by
  unfold Dev.updInst; split <;> rfl
@[simp] theorem updInst_stateSince (d : Dev) (k : Nat) (f : Inst → Inst) :
    (d.updInst k f).stateSince = d.stateSince := by
  unfold Dev.updInst; split <;> rfl
@[simp] theorem updInst_sensors (d : Dev) (k : Nat) (f : Inst → Inst) :
    (d.updInst k f).sensors = d.sensors := by
  unfold Dev.updInst; split <;> rfl
@[simp] theorem updInst_therm (d : Dev) (k : Nat) (f : Inst → Inst) :
    (d.updInst k f).therm = d.therm := by
  unfold Dev.updInst; split <;> rfl
@[simp] theorem updInst_rate (d : Dev) (k : Nat) (f : Inst → Inst) :
    (d.updInst k f).rate = d.rate := by
  unfold Dev.updInst; split <;> rfl
@[simp] theorem updInst_passes (d : Dev) (k : Nat) (f : Inst → Inst) :
    (d.updInst k f).passes = d.passes := by
  unfold Dev.updInst; split <;> rfl
@[simp] theorem updInst_corrected (d : Dev) (k : Nat) (f : Inst → Inst) :
    (d.updInst k f).corrected = d.corrected := by
  unfold Dev.updInst; split <;> rfl
@[simp] theorem updInst_patrolNs (d : Dev) (k : Nat) (f : Inst → Inst) :
    (d.updInst k f).patrolNs = d.patrolNs := by
  unfold Dev.updInst; split <;> rfl
@[simp] theorem updInst_passBad (d : Dev) (k : Nat) (f : Inst → Inst) :
    (d.updInst k f).passBad = d.passBad := by
  unfold Dev.updInst; split <;> rfl
@[simp] theorem updInst_passClean (d : Dev) (k : Nat) (f : Inst → Inst) :
    (d.updInst k f).passClean = d.passClean := by
  unfold Dev.updInst; split <;> rfl
@[simp] theorem updInst_auditDue (d : Dev) (k : Nat) (f : Inst → Inst) :
    (d.updInst k f).auditDue = d.auditDue := by
  unfold Dev.updInst; split <;> rfl
@[simp] theorem updInst_refresh (d : Dev) (k : Nat) (f : Inst → Inst) :
    (d.updInst k f).refresh = d.refresh := by
  unfold Dev.updInst; split <;> rfl
@[simp] theorem updInst_sets (d : Dev) (k : Nat) (f : Inst → Inst) :
    (d.updInst k f).sets = d.sets := by
  unfold Dev.updInst; split <;> rfl
@[simp] theorem updInst_retreat (d : Dev) (k : Nat) (f : Inst → Inst) :
    (d.updInst k f).retreat = d.retreat := by
  unfold Dev.updInst; split <;> rfl
@[simp] theorem updInst_thermInfo (d : Dev) (k : Nat) (f : Inst → Inst) :
    (d.updInst k f).thermInfo = d.thermInfo := by
  unfold Dev.updInst; split <;> rfl
@[simp] theorem updInst_coolFrom (d : Dev) (k : Nat) (f : Inst → Inst) :
    (d.updInst k f).coolFrom = d.coolFrom := by
  unfold Dev.updInst; split <;> rfl
@[simp] theorem updInst_pwrCap (d : Dev) (k : Nat) (f : Inst → Inst) :
    (d.updInst k f).pwrCap = d.pwrCap := by
  unfold Dev.updInst; split <;> rfl
@[simp] theorem updInst_energy (d : Dev) (k : Nat) (f : Inst → Inst) :
    (d.updInst k f).energy = d.energy := by
  unfold Dev.updInst; split <;> rfl
@[simp] theorem updInst_clk (d : Dev) (k : Nat) (f : Inst → Inst) :
    (d.updInst k f).clk = d.clk := by
  unfold Dev.updInst; split <;> rfl
@[simp] theorem updInst_lowered (d : Dev) (k : Nat) (f : Inst → Inst) :
    (d.updInst k f).lowered = d.lowered := by
  unfold Dev.updInst; split <;> rfl
@[simp] theorem updInst_time (d : Dev) (k : Nat) (f : Inst → Inst) :
    (d.updInst k f).time = d.time := by
  unfold Dev.updInst; split <;> rfl
@[simp] theorem updInst_hvec (d : Dev) (k : Nat) (f : Inst → Inst) :
    (d.updInst k f).hvec = d.hvec := by
  unfold Dev.updInst; split <;> rfl
@[simp] theorem updInst_hlost (d : Dev) (k : Nat) (f : Inst → Inst) :
    (d.updInst k f).hlost = d.hlost := by
  unfold Dev.updInst; split <;> rfl
@[simp] theorem updInst_hrval (d : Dev) (k : Nat) (f : Inst → Inst) :
    (d.updInst k f).hrval = d.hrval := by
  unfold Dev.updInst; split <;> rfl
@[simp] theorem updInst_hqueue (d : Dev) (k : Nat) (f : Inst → Inst) :
    (d.updInst k f).hqueue = d.hqueue := by
  unfold Dev.updInst; split <;> rfl
@[simp] theorem updInst_heldRecs (d : Dev) (k : Nat) (f : Inst → Inst) :
    (d.updInst k f).heldRecs = d.heldRecs := by
  unfold Dev.updInst; split <;> rfl
@[simp] theorem updInst_seqNo (d : Dev) (k : Nat) (f : Inst → Inst) :
    (d.updInst k f).seqNo = d.seqNo := by
  unfold Dev.updInst; split <;> rfl
@[simp] theorem updInst_flash (d : Dev) (k : Nat) (f : Inst → Inst) :
    (d.updInst k f).flash = d.flash := by
  unfold Dev.updInst; split <;> rfl
@[simp] theorem updInst_fwRun (d : Dev) (k : Nat) (f : Inst → Inst) :
    (d.updInst k f).fwRun = d.fwRun := by
  unfold Dev.updInst; split <;> rfl
@[simp] theorem updInst_sessions (d : Dev) (k : Nat) (f : Inst → Inst) :
    (d.updInst k f).sessions = d.sessions := by
  unfold Dev.updInst; split <;> rfl
@[simp] theorem updInst_nextSession (d : Dev) (k : Nat) (f : Inst → Inst) :
    (d.updInst k f).nextSession = d.nextSession := by
  unfold Dev.updInst; split <;> rfl
@[simp] theorem updInst_locks (d : Dev) (k : Nat) (f : Inst → Inst) :
    (d.updInst k f).locks = d.locks := by
  unfold Dev.updInst; split <;> rfl
@[simp] theorem updInst_links (d : Dev) (k : Nat) (f : Inst → Inst) :
    (d.updInst k f).links = d.links := by
  unfold Dev.updInst; split <;> rfl
@[simp] theorem updInst_t2links (d : Dev) (k : Nat) (f : Inst → Inst) :
    (d.updInst k f).t2links = d.t2links := by
  unfold Dev.updInst; split <;> rfl
@[simp] theorem updInst_paused (d : Dev) (k : Nat) (f : Inst → Inst) :
    (d.updInst k f).paused = d.paused := by
  unfold Dev.updInst; split <;> rfl
@[simp] theorem updInst_slowed (d : Dev) (k : Nat) (f : Inst → Inst) :
    (d.updInst k f).slowed = d.slowed := by
  unfold Dev.updInst; split <;> rfl
@[simp] theorem updInst_watch (d : Dev) (k : Nat) (f : Inst → Inst) :
    (d.updInst k f).watch = d.watch := by
  unfold Dev.updInst; split <;> rfl
@[simp] theorem updInst_out (d : Dev) (k : Nat) (f : Inst → Inst) :
    (d.updInst k f).out = d.out := by
  unfold Dev.updInst; split <;> rfl
@[simp] theorem updInst_agenda (d : Dev) (k : Nat) (f : Inst → Inst) :
    (d.updInst k f).agenda = d.agenda := by
  unfold Dev.updInst; split <;> rfl
@[simp] theorem updInst_focus (d : Dev) (k : Nat) (f : Inst → Inst) :
    (d.updInst k f).focus = d.focus := by
  unfold Dev.updInst; split <;> rfl
@[simp] theorem updInst_tx (d : Dev) (k : Nat) (f : Inst → Inst) :
    (d.updInst k f).tx = d.tx := by
  unfold Dev.updInst; split <;> rfl
@[simp] theorem updInst_free (d : Dev) (k : Nat) (f : Inst → Inst) :
    (d.updInst k f).free = d.free := by
  unfold Dev.updInst; split <;> rfl
@[simp] theorem updInst_stale (d : Dev) (k : Nat) (f : Inst → Inst) :
    (d.updInst k f).stale = d.stale := by
  unfold Dev.updInst; split <;> rfl
@[simp] theorem updInst_unfenced (d : Dev) (k : Nat) (f : Inst → Inst) :
    (d.updInst k f).unfenced = d.unfenced := by
  unfold Dev.updInst; split <;> rfl
@[simp] theorem updInst_wq (d : Dev) (k : Nat) (f : Inst → Inst) :
    (d.updInst k f).wq = d.wq := by
  unfold Dev.updInst; split <;> rfl
@[simp] theorem updInst_nextCmd (d : Dev) (k : Nat) (f : Inst → Inst) :
    (d.updInst k f).nextCmd = d.nextCmd := by
  unfold Dev.updInst; split <;> rfl
@[simp] theorem updInst_t2Fitted (d : Dev) (k : Nat) (f : Inst → Inst) :
    (d.updInst k f).t2Fitted = d.t2Fitted := by
  unfold Dev.updInst; split <;> rfl
@[simp] theorem updInst_rroot (d : Dev) (k : Nat) (f : Inst → Inst) :
    (d.updInst k f).rroot = d.rroot := by
  unfold Dev.updInst; split <;> rfl
@[simp] theorem updInst_peerq (d : Dev) (k : Nat) (f : Inst → Inst) :
    (d.updInst k f).peerq = d.peerq := by
  unfold Dev.updInst; split <;> rfl
@[simp] theorem updInst_retained (d : Dev) (k : Nat) (f : Inst → Inst) :
    (d.updInst k f).retained = d.retained := by
  unfold Dev.updInst; split <;> rfl
@[simp] theorem updInst_lateWords (d : Dev) (k : Nat) (f : Inst → Inst) :
    (d.updInst k f).lateWords = d.lateWords := by
  unfold Dev.updInst; split <;> rfl
@[simp] theorem updInst_fixes (d : Dev) (k : Nat) (f : Inst → Inst) :
    (d.updInst k f).fixes = d.fixes := by
  unfold Dev.updInst; split <;> rfl
@[simp] theorem updInst_sep (d : Dev) (k : Nat) (f : Inst → Inst) :
    (d.updInst k f).sep = d.sep := by
  unfold Dev.updInst; split <;> rfl
@[simp] theorem updInst_ethq (d : Dev) (k : Nat) (f : Inst → Inst) :
    (d.updInst k f).ethq = d.ethq := by
  unfold Dev.updInst; split <;> rfl

/-! ### A context changed -/

@[simp] theorem updCtx_cores (d : Dev) (k : Nat) (f : Context → Context) :
    (d.updCtx k f).cores = d.cores := rfl
@[simp] theorem updCtx_parts (d : Dev) (k : Nat) (f : Context → Context) :
    (d.updCtx k f).parts = d.parts := rfl
@[simp] theorem updCtx_insts (d : Dev) (k : Nat) (f : Context → Context) :
    (d.updCtx k f).insts = d.insts := rfl

@[simp] theorem updCtx_copies (d : Dev) (k : Nat) (f : Context → Context) :
    (d.updCtx k f).copies = d.copies := rfl
@[simp] theorem updCtx_nextCopy (d : Dev) (k : Nat) (f : Context → Context) :
    (d.updCtx k f).nextCopy = d.nextCopy := rfl
@[simp] theorem updCtx_reports (d : Dev) (k : Nat) (f : Context → Context) :
    (d.updCtx k f).reports = d.reports := rfl
@[simp] theorem updCtx_queues (d : Dev) (k : Nat) (f : Context → Context) :
    (d.updCtx k f).queues = d.queues := rfl
@[simp] theorem updCtx_ptr (d : Dev) (k : Nat) (f : Context → Context) :
    (d.updCtx k f).ptr = d.ptr := rfl
@[simp] theorem updCtx_schedAge (d : Dev) (k : Nat) (f : Context → Context) :
    (d.updCtx k f).schedAge = d.schedAge := rfl
@[simp] theorem updCtx_graphPages (d : Dev) (k : Nat) (f : Context → Context) :
    (d.updCtx k f).graphPages = d.graphPages := rfl
@[simp] theorem updCtx_installs (d : Dev) (k : Nat) (f : Context → Context) :
    (d.updCtx k f).installs = d.installs := rfl
@[simp] theorem updCtx_seen (d : Dev) (k : Nat) (f : Context → Context) :
    (d.updCtx k f).seen = d.seen := rfl
@[simp] theorem updCtx_compacts (d : Dev) (k : Nat) (f : Context → Context) :
    (d.updCtx k f).compacts = d.compacts := rfl
@[simp] theorem updCtx_planeCores (d : Dev) (k : Nat) (f : Context → Context) :
    (d.updCtx k f).planeCores = d.planeCores := rfl
@[simp] theorem updCtx_plown (d : Dev) (k : Nat) (f : Context → Context) :
    (d.updCtx k f).plown = d.plown := rfl
@[simp] theorem updCtx_plmap (d : Dev) (k : Nat) (f : Context → Context) :
    (d.updCtx k f).plmap = d.plmap := rfl
@[simp] theorem updCtx_active (d : Dev) (k : Nat) (f : Context → Context) :
    (d.updCtx k f).active = d.active := rfl
@[simp] theorem updCtx_switches (d : Dev) (k : Nat) (f : Context → Context) :
    (d.updCtx k f).switches = d.switches := rfl
@[simp] theorem updCtx_sepq (d : Dev) (k : Nat) (f : Context → Context) :
    (d.updCtx k f).sepq = d.sepq := rfl
@[simp] theorem updCtx_tags (d : Dev) (k : Nat) (f : Context → Context) :
    (d.updCtx k f).tags = d.tags := rfl
@[simp] theorem updCtx_conds (d : Dev) (k : Nat) (f : Context → Context) :
    (d.updCtx k f).conds = d.conds := rfl
@[simp] theorem updCtx_xl (d : Dev) (k : Nat) (f : Context → Context) :
    (d.updCtx k f).xl = d.xl := rfl
@[simp] theorem updCtx_rcopy (d : Dev) (k : Nat) (f : Context → Context) :
    (d.updCtx k f).rcopy = d.rcopy := rfl
@[simp] theorem updCtx_self (d : Dev) (k : Nat) (f : Context → Context) :
    (d.updCtx k f).self = d.self := rfl
@[simp] theorem updCtx_peers (d : Dev) (k : Nat) (f : Context → Context) :
    (d.updCtx k f).peers = d.peers := rfl
@[simp] theorem updCtx_pkg (d : Dev) (k : Nat) (f : Context → Context) :
    (d.updCtx k f).pkg = d.pkg := rfl
@[simp] theorem updCtx_bootOk (d : Dev) (k : Nat) (f : Context → Context) :
    (d.updCtx k f).bootOk = d.bootOk := rfl
@[simp] theorem updCtx_stateSince (d : Dev) (k : Nat) (f : Context → Context) :
    (d.updCtx k f).stateSince = d.stateSince := rfl
@[simp] theorem updCtx_sensors (d : Dev) (k : Nat) (f : Context → Context) :
    (d.updCtx k f).sensors = d.sensors := rfl
@[simp] theorem updCtx_therm (d : Dev) (k : Nat) (f : Context → Context) :
    (d.updCtx k f).therm = d.therm := rfl
@[simp] theorem updCtx_rate (d : Dev) (k : Nat) (f : Context → Context) :
    (d.updCtx k f).rate = d.rate := rfl
@[simp] theorem updCtx_passes (d : Dev) (k : Nat) (f : Context → Context) :
    (d.updCtx k f).passes = d.passes := rfl
@[simp] theorem updCtx_corrected (d : Dev) (k : Nat) (f : Context → Context) :
    (d.updCtx k f).corrected = d.corrected := rfl
@[simp] theorem updCtx_patrolNs (d : Dev) (k : Nat) (f : Context → Context) :
    (d.updCtx k f).patrolNs = d.patrolNs := rfl
@[simp] theorem updCtx_passBad (d : Dev) (k : Nat) (f : Context → Context) :
    (d.updCtx k f).passBad = d.passBad := rfl
@[simp] theorem updCtx_passClean (d : Dev) (k : Nat) (f : Context → Context) :
    (d.updCtx k f).passClean = d.passClean := rfl
@[simp] theorem updCtx_auditDue (d : Dev) (k : Nat) (f : Context → Context) :
    (d.updCtx k f).auditDue = d.auditDue := rfl
@[simp] theorem updCtx_refresh (d : Dev) (k : Nat) (f : Context → Context) :
    (d.updCtx k f).refresh = d.refresh := rfl
@[simp] theorem updCtx_sets (d : Dev) (k : Nat) (f : Context → Context) :
    (d.updCtx k f).sets = d.sets := rfl
@[simp] theorem updCtx_retreat (d : Dev) (k : Nat) (f : Context → Context) :
    (d.updCtx k f).retreat = d.retreat := rfl
@[simp] theorem updCtx_thermInfo (d : Dev) (k : Nat) (f : Context → Context) :
    (d.updCtx k f).thermInfo = d.thermInfo := rfl
@[simp] theorem updCtx_coolFrom (d : Dev) (k : Nat) (f : Context → Context) :
    (d.updCtx k f).coolFrom = d.coolFrom := rfl
@[simp] theorem updCtx_pwrCap (d : Dev) (k : Nat) (f : Context → Context) :
    (d.updCtx k f).pwrCap = d.pwrCap := rfl
@[simp] theorem updCtx_energy (d : Dev) (k : Nat) (f : Context → Context) :
    (d.updCtx k f).energy = d.energy := rfl
@[simp] theorem updCtx_clk (d : Dev) (k : Nat) (f : Context → Context) :
    (d.updCtx k f).clk = d.clk := rfl
@[simp] theorem updCtx_lowered (d : Dev) (k : Nat) (f : Context → Context) :
    (d.updCtx k f).lowered = d.lowered := rfl
@[simp] theorem updCtx_time (d : Dev) (k : Nat) (f : Context → Context) :
    (d.updCtx k f).time = d.time := rfl
@[simp] theorem updCtx_hvec (d : Dev) (k : Nat) (f : Context → Context) :
    (d.updCtx k f).hvec = d.hvec := rfl
@[simp] theorem updCtx_hlost (d : Dev) (k : Nat) (f : Context → Context) :
    (d.updCtx k f).hlost = d.hlost := rfl
@[simp] theorem updCtx_hrval (d : Dev) (k : Nat) (f : Context → Context) :
    (d.updCtx k f).hrval = d.hrval := rfl
@[simp] theorem updCtx_hqueue (d : Dev) (k : Nat) (f : Context → Context) :
    (d.updCtx k f).hqueue = d.hqueue := rfl
@[simp] theorem updCtx_heldRecs (d : Dev) (k : Nat) (f : Context → Context) :
    (d.updCtx k f).heldRecs = d.heldRecs := rfl
@[simp] theorem updCtx_seqNo (d : Dev) (k : Nat) (f : Context → Context) :
    (d.updCtx k f).seqNo = d.seqNo := rfl
@[simp] theorem updCtx_flash (d : Dev) (k : Nat) (f : Context → Context) :
    (d.updCtx k f).flash = d.flash := rfl
@[simp] theorem updCtx_fwRun (d : Dev) (k : Nat) (f : Context → Context) :
    (d.updCtx k f).fwRun = d.fwRun := rfl
@[simp] theorem updCtx_sessions (d : Dev) (k : Nat) (f : Context → Context) :
    (d.updCtx k f).sessions = d.sessions := rfl
@[simp] theorem updCtx_nextSession (d : Dev) (k : Nat) (f : Context → Context) :
    (d.updCtx k f).nextSession = d.nextSession := rfl
@[simp] theorem updCtx_locks (d : Dev) (k : Nat) (f : Context → Context) :
    (d.updCtx k f).locks = d.locks := rfl
@[simp] theorem updCtx_links (d : Dev) (k : Nat) (f : Context → Context) :
    (d.updCtx k f).links = d.links := rfl
@[simp] theorem updCtx_t2links (d : Dev) (k : Nat) (f : Context → Context) :
    (d.updCtx k f).t2links = d.t2links := rfl
@[simp] theorem updCtx_paused (d : Dev) (k : Nat) (f : Context → Context) :
    (d.updCtx k f).paused = d.paused := rfl
@[simp] theorem updCtx_slowed (d : Dev) (k : Nat) (f : Context → Context) :
    (d.updCtx k f).slowed = d.slowed := rfl
@[simp] theorem updCtx_watch (d : Dev) (k : Nat) (f : Context → Context) :
    (d.updCtx k f).watch = d.watch := rfl
@[simp] theorem updCtx_out (d : Dev) (k : Nat) (f : Context → Context) :
    (d.updCtx k f).out = d.out := rfl
@[simp] theorem updCtx_agenda (d : Dev) (k : Nat) (f : Context → Context) :
    (d.updCtx k f).agenda = d.agenda := rfl
@[simp] theorem updCtx_focus (d : Dev) (k : Nat) (f : Context → Context) :
    (d.updCtx k f).focus = d.focus := rfl
@[simp] theorem updCtx_tx (d : Dev) (k : Nat) (f : Context → Context) :
    (d.updCtx k f).tx = d.tx := rfl
@[simp] theorem updCtx_free (d : Dev) (k : Nat) (f : Context → Context) :
    (d.updCtx k f).free = d.free := rfl
@[simp] theorem updCtx_stale (d : Dev) (k : Nat) (f : Context → Context) :
    (d.updCtx k f).stale = d.stale := rfl
@[simp] theorem updCtx_unfenced (d : Dev) (k : Nat) (f : Context → Context) :
    (d.updCtx k f).unfenced = d.unfenced := rfl
@[simp] theorem updCtx_wq (d : Dev) (k : Nat) (f : Context → Context) :
    (d.updCtx k f).wq = d.wq := rfl
@[simp] theorem updCtx_nextCmd (d : Dev) (k : Nat) (f : Context → Context) :
    (d.updCtx k f).nextCmd = d.nextCmd := rfl
@[simp] theorem updCtx_t2Fitted (d : Dev) (k : Nat) (f : Context → Context) :
    (d.updCtx k f).t2Fitted = d.t2Fitted := rfl
@[simp] theorem updCtx_rroot (d : Dev) (k : Nat) (f : Context → Context) :
    (d.updCtx k f).rroot = d.rroot := rfl
@[simp] theorem updCtx_peerq (d : Dev) (k : Nat) (f : Context → Context) :
    (d.updCtx k f).peerq = d.peerq := rfl
@[simp] theorem updCtx_retained (d : Dev) (k : Nat) (f : Context → Context) :
    (d.updCtx k f).retained = d.retained := rfl
@[simp] theorem updCtx_lateWords (d : Dev) (k : Nat) (f : Context → Context) :
    (d.updCtx k f).lateWords = d.lateWords := rfl
@[simp] theorem updCtx_fixes (d : Dev) (k : Nat) (f : Context → Context) :
    (d.updCtx k f).fixes = d.fixes := rfl
@[simp] theorem updCtx_sep (d : Dev) (k : Nat) (f : Context → Context) :
    (d.updCtx k f).sep = d.sep := rfl
@[simp] theorem updCtx_ethq (d : Dev) (k : Nat) (f : Context → Context) :
    (d.updCtx k f).ethq = d.ethq := rfl

/-! ### A partition changed -/

@[simp] theorem updPart_cores (d : Dev) (k : Nat) (f : Partition → Partition) :
    (d.updPart k f).cores = d.cores := rfl
@[simp] theorem updPart_ctxs (d : Dev) (k : Nat) (f : Partition → Partition) :
    (d.updPart k f).ctxs = d.ctxs := rfl
@[simp] theorem updPart_insts (d : Dev) (k : Nat) (f : Partition → Partition) :
    (d.updPart k f).insts = d.insts := rfl

@[simp] theorem updPart_copies (d : Dev) (k : Nat) (f : Partition → Partition) :
    (d.updPart k f).copies = d.copies := rfl
@[simp] theorem updPart_nextCopy (d : Dev) (k : Nat) (f : Partition → Partition) :
    (d.updPart k f).nextCopy = d.nextCopy := rfl
@[simp] theorem updPart_reports (d : Dev) (k : Nat) (f : Partition → Partition) :
    (d.updPart k f).reports = d.reports := rfl
@[simp] theorem updPart_queues (d : Dev) (k : Nat) (f : Partition → Partition) :
    (d.updPart k f).queues = d.queues := rfl
@[simp] theorem updPart_ptr (d : Dev) (k : Nat) (f : Partition → Partition) :
    (d.updPart k f).ptr = d.ptr := rfl
@[simp] theorem updPart_schedAge (d : Dev) (k : Nat) (f : Partition → Partition) :
    (d.updPart k f).schedAge = d.schedAge := rfl
@[simp] theorem updPart_graphPages (d : Dev) (k : Nat) (f : Partition → Partition) :
    (d.updPart k f).graphPages = d.graphPages := rfl
@[simp] theorem updPart_installs (d : Dev) (k : Nat) (f : Partition → Partition) :
    (d.updPart k f).installs = d.installs := rfl
@[simp] theorem updPart_seen (d : Dev) (k : Nat) (f : Partition → Partition) :
    (d.updPart k f).seen = d.seen := rfl
@[simp] theorem updPart_compacts (d : Dev) (k : Nat) (f : Partition → Partition) :
    (d.updPart k f).compacts = d.compacts := rfl
@[simp] theorem updPart_planeCores (d : Dev) (k : Nat) (f : Partition → Partition) :
    (d.updPart k f).planeCores = d.planeCores := rfl
@[simp] theorem updPart_plown (d : Dev) (k : Nat) (f : Partition → Partition) :
    (d.updPart k f).plown = d.plown := rfl
@[simp] theorem updPart_plmap (d : Dev) (k : Nat) (f : Partition → Partition) :
    (d.updPart k f).plmap = d.plmap := rfl
@[simp] theorem updPart_active (d : Dev) (k : Nat) (f : Partition → Partition) :
    (d.updPart k f).active = d.active := rfl
@[simp] theorem updPart_switches (d : Dev) (k : Nat) (f : Partition → Partition) :
    (d.updPart k f).switches = d.switches := rfl
@[simp] theorem updPart_sepq (d : Dev) (k : Nat) (f : Partition → Partition) :
    (d.updPart k f).sepq = d.sepq := rfl
@[simp] theorem updPart_tags (d : Dev) (k : Nat) (f : Partition → Partition) :
    (d.updPart k f).tags = d.tags := rfl
@[simp] theorem updPart_conds (d : Dev) (k : Nat) (f : Partition → Partition) :
    (d.updPart k f).conds = d.conds := rfl
@[simp] theorem updPart_xl (d : Dev) (k : Nat) (f : Partition → Partition) :
    (d.updPart k f).xl = d.xl := rfl
@[simp] theorem updPart_rcopy (d : Dev) (k : Nat) (f : Partition → Partition) :
    (d.updPart k f).rcopy = d.rcopy := rfl
@[simp] theorem updPart_self (d : Dev) (k : Nat) (f : Partition → Partition) :
    (d.updPart k f).self = d.self := rfl
@[simp] theorem updPart_peers (d : Dev) (k : Nat) (f : Partition → Partition) :
    (d.updPart k f).peers = d.peers := rfl
@[simp] theorem updPart_pkg (d : Dev) (k : Nat) (f : Partition → Partition) :
    (d.updPart k f).pkg = d.pkg := rfl
@[simp] theorem updPart_bootOk (d : Dev) (k : Nat) (f : Partition → Partition) :
    (d.updPart k f).bootOk = d.bootOk := rfl
@[simp] theorem updPart_stateSince (d : Dev) (k : Nat) (f : Partition → Partition) :
    (d.updPart k f).stateSince = d.stateSince := rfl
@[simp] theorem updPart_sensors (d : Dev) (k : Nat) (f : Partition → Partition) :
    (d.updPart k f).sensors = d.sensors := rfl
@[simp] theorem updPart_therm (d : Dev) (k : Nat) (f : Partition → Partition) :
    (d.updPart k f).therm = d.therm := rfl
@[simp] theorem updPart_rate (d : Dev) (k : Nat) (f : Partition → Partition) :
    (d.updPart k f).rate = d.rate := rfl
@[simp] theorem updPart_passes (d : Dev) (k : Nat) (f : Partition → Partition) :
    (d.updPart k f).passes = d.passes := rfl
@[simp] theorem updPart_corrected (d : Dev) (k : Nat) (f : Partition → Partition) :
    (d.updPart k f).corrected = d.corrected := rfl
@[simp] theorem updPart_patrolNs (d : Dev) (k : Nat) (f : Partition → Partition) :
    (d.updPart k f).patrolNs = d.patrolNs := rfl
@[simp] theorem updPart_passBad (d : Dev) (k : Nat) (f : Partition → Partition) :
    (d.updPart k f).passBad = d.passBad := rfl
@[simp] theorem updPart_passClean (d : Dev) (k : Nat) (f : Partition → Partition) :
    (d.updPart k f).passClean = d.passClean := rfl
@[simp] theorem updPart_auditDue (d : Dev) (k : Nat) (f : Partition → Partition) :
    (d.updPart k f).auditDue = d.auditDue := rfl
@[simp] theorem updPart_refresh (d : Dev) (k : Nat) (f : Partition → Partition) :
    (d.updPart k f).refresh = d.refresh := rfl
@[simp] theorem updPart_sets (d : Dev) (k : Nat) (f : Partition → Partition) :
    (d.updPart k f).sets = d.sets := rfl
@[simp] theorem updPart_retreat (d : Dev) (k : Nat) (f : Partition → Partition) :
    (d.updPart k f).retreat = d.retreat := rfl
@[simp] theorem updPart_thermInfo (d : Dev) (k : Nat) (f : Partition → Partition) :
    (d.updPart k f).thermInfo = d.thermInfo := rfl
@[simp] theorem updPart_coolFrom (d : Dev) (k : Nat) (f : Partition → Partition) :
    (d.updPart k f).coolFrom = d.coolFrom := rfl
@[simp] theorem updPart_pwrCap (d : Dev) (k : Nat) (f : Partition → Partition) :
    (d.updPart k f).pwrCap = d.pwrCap := rfl
@[simp] theorem updPart_energy (d : Dev) (k : Nat) (f : Partition → Partition) :
    (d.updPart k f).energy = d.energy := rfl
@[simp] theorem updPart_clk (d : Dev) (k : Nat) (f : Partition → Partition) :
    (d.updPart k f).clk = d.clk := rfl
@[simp] theorem updPart_lowered (d : Dev) (k : Nat) (f : Partition → Partition) :
    (d.updPart k f).lowered = d.lowered := rfl
@[simp] theorem updPart_time (d : Dev) (k : Nat) (f : Partition → Partition) :
    (d.updPart k f).time = d.time := rfl
@[simp] theorem updPart_hvec (d : Dev) (k : Nat) (f : Partition → Partition) :
    (d.updPart k f).hvec = d.hvec := rfl
@[simp] theorem updPart_hlost (d : Dev) (k : Nat) (f : Partition → Partition) :
    (d.updPart k f).hlost = d.hlost := rfl
@[simp] theorem updPart_hrval (d : Dev) (k : Nat) (f : Partition → Partition) :
    (d.updPart k f).hrval = d.hrval := rfl
@[simp] theorem updPart_hqueue (d : Dev) (k : Nat) (f : Partition → Partition) :
    (d.updPart k f).hqueue = d.hqueue := rfl
@[simp] theorem updPart_heldRecs (d : Dev) (k : Nat) (f : Partition → Partition) :
    (d.updPart k f).heldRecs = d.heldRecs := rfl
@[simp] theorem updPart_seqNo (d : Dev) (k : Nat) (f : Partition → Partition) :
    (d.updPart k f).seqNo = d.seqNo := rfl
@[simp] theorem updPart_flash (d : Dev) (k : Nat) (f : Partition → Partition) :
    (d.updPart k f).flash = d.flash := rfl
@[simp] theorem updPart_fwRun (d : Dev) (k : Nat) (f : Partition → Partition) :
    (d.updPart k f).fwRun = d.fwRun := rfl
@[simp] theorem updPart_sessions (d : Dev) (k : Nat) (f : Partition → Partition) :
    (d.updPart k f).sessions = d.sessions := rfl
@[simp] theorem updPart_nextSession (d : Dev) (k : Nat) (f : Partition → Partition) :
    (d.updPart k f).nextSession = d.nextSession := rfl
@[simp] theorem updPart_locks (d : Dev) (k : Nat) (f : Partition → Partition) :
    (d.updPart k f).locks = d.locks := rfl
@[simp] theorem updPart_links (d : Dev) (k : Nat) (f : Partition → Partition) :
    (d.updPart k f).links = d.links := rfl
@[simp] theorem updPart_t2links (d : Dev) (k : Nat) (f : Partition → Partition) :
    (d.updPart k f).t2links = d.t2links := rfl
@[simp] theorem updPart_paused (d : Dev) (k : Nat) (f : Partition → Partition) :
    (d.updPart k f).paused = d.paused := rfl
@[simp] theorem updPart_slowed (d : Dev) (k : Nat) (f : Partition → Partition) :
    (d.updPart k f).slowed = d.slowed := rfl
@[simp] theorem updPart_watch (d : Dev) (k : Nat) (f : Partition → Partition) :
    (d.updPart k f).watch = d.watch := rfl
@[simp] theorem updPart_out (d : Dev) (k : Nat) (f : Partition → Partition) :
    (d.updPart k f).out = d.out := rfl
@[simp] theorem updPart_agenda (d : Dev) (k : Nat) (f : Partition → Partition) :
    (d.updPart k f).agenda = d.agenda := rfl
@[simp] theorem updPart_focus (d : Dev) (k : Nat) (f : Partition → Partition) :
    (d.updPart k f).focus = d.focus := rfl
@[simp] theorem updPart_tx (d : Dev) (k : Nat) (f : Partition → Partition) :
    (d.updPart k f).tx = d.tx := rfl
@[simp] theorem updPart_free (d : Dev) (k : Nat) (f : Partition → Partition) :
    (d.updPart k f).free = d.free := rfl
@[simp] theorem updPart_stale (d : Dev) (k : Nat) (f : Partition → Partition) :
    (d.updPart k f).stale = d.stale := rfl
@[simp] theorem updPart_unfenced (d : Dev) (k : Nat) (f : Partition → Partition) :
    (d.updPart k f).unfenced = d.unfenced := rfl
@[simp] theorem updPart_wq (d : Dev) (k : Nat) (f : Partition → Partition) :
    (d.updPart k f).wq = d.wq := rfl
@[simp] theorem updPart_nextCmd (d : Dev) (k : Nat) (f : Partition → Partition) :
    (d.updPart k f).nextCmd = d.nextCmd := rfl
@[simp] theorem updPart_t2Fitted (d : Dev) (k : Nat) (f : Partition → Partition) :
    (d.updPart k f).t2Fitted = d.t2Fitted := rfl
@[simp] theorem updPart_rroot (d : Dev) (k : Nat) (f : Partition → Partition) :
    (d.updPart k f).rroot = d.rroot := rfl
@[simp] theorem updPart_peerq (d : Dev) (k : Nat) (f : Partition → Partition) :
    (d.updPart k f).peerq = d.peerq := rfl
@[simp] theorem updPart_retained (d : Dev) (k : Nat) (f : Partition → Partition) :
    (d.updPart k f).retained = d.retained := rfl
@[simp] theorem updPart_lateWords (d : Dev) (k : Nat) (f : Partition → Partition) :
    (d.updPart k f).lateWords = d.lateWords := rfl
@[simp] theorem updPart_fixes (d : Dev) (k : Nat) (f : Partition → Partition) :
    (d.updPart k f).fixes = d.fixes := rfl
@[simp] theorem updPart_sep (d : Dev) (k : Nat) (f : Partition → Partition) :
    (d.updPart k f).sep = d.sep := rfl
@[simp] theorem updPart_ethq (d : Dev) (k : Nat) (f : Partition → Partition) :
    (d.updPart k f).ethq = d.ethq := rfl

/-! ### Progress noted -/

@[simp] theorem progress_cores (d : Dev) (w : Watched) :
    (d.progress w).cores = d.cores := rfl
@[simp] theorem progress_ctxs (d : Dev) (w : Watched) :
    (d.progress w).ctxs = d.ctxs := rfl
@[simp] theorem progress_parts (d : Dev) (w : Watched) :
    (d.progress w).parts = d.parts := rfl
@[simp] theorem progress_insts (d : Dev) (w : Watched) :
    (d.progress w).insts = d.insts := rfl

@[simp] theorem progress_copies (d : Dev) (w : Watched) :
    (d.progress w).copies = d.copies := rfl
@[simp] theorem progress_nextCopy (d : Dev) (w : Watched) :
    (d.progress w).nextCopy = d.nextCopy := rfl
@[simp] theorem progress_reports (d : Dev) (w : Watched) :
    (d.progress w).reports = d.reports := rfl
@[simp] theorem progress_queues (d : Dev) (w : Watched) :
    (d.progress w).queues = d.queues := rfl
@[simp] theorem progress_ptr (d : Dev) (w : Watched) :
    (d.progress w).ptr = d.ptr := rfl
@[simp] theorem progress_schedAge (d : Dev) (w : Watched) :
    (d.progress w).schedAge = d.schedAge := rfl
@[simp] theorem progress_graphPages (d : Dev) (w : Watched) :
    (d.progress w).graphPages = d.graphPages := rfl
@[simp] theorem progress_installs (d : Dev) (w : Watched) :
    (d.progress w).installs = d.installs := rfl
@[simp] theorem progress_seen (d : Dev) (w : Watched) :
    (d.progress w).seen = d.seen := rfl
@[simp] theorem progress_compacts (d : Dev) (w : Watched) :
    (d.progress w).compacts = d.compacts := rfl
@[simp] theorem progress_planeCores (d : Dev) (w : Watched) :
    (d.progress w).planeCores = d.planeCores := rfl
@[simp] theorem progress_plown (d : Dev) (w : Watched) :
    (d.progress w).plown = d.plown := rfl
@[simp] theorem progress_plmap (d : Dev) (w : Watched) :
    (d.progress w).plmap = d.plmap := rfl
@[simp] theorem progress_active (d : Dev) (w : Watched) :
    (d.progress w).active = d.active := rfl
@[simp] theorem progress_switches (d : Dev) (w : Watched) :
    (d.progress w).switches = d.switches := rfl
@[simp] theorem progress_sepq (d : Dev) (w : Watched) :
    (d.progress w).sepq = d.sepq := rfl
@[simp] theorem progress_tags (d : Dev) (w : Watched) :
    (d.progress w).tags = d.tags := rfl
@[simp] theorem progress_conds (d : Dev) (w : Watched) :
    (d.progress w).conds = d.conds := rfl
@[simp] theorem progress_xl (d : Dev) (w : Watched) :
    (d.progress w).xl = d.xl := rfl
@[simp] theorem progress_rcopy (d : Dev) (w : Watched) :
    (d.progress w).rcopy = d.rcopy := rfl
@[simp] theorem progress_self (d : Dev) (w : Watched) :
    (d.progress w).self = d.self := rfl
@[simp] theorem progress_peers (d : Dev) (w : Watched) :
    (d.progress w).peers = d.peers := rfl
@[simp] theorem progress_pkg (d : Dev) (w : Watched) :
    (d.progress w).pkg = d.pkg := rfl
@[simp] theorem progress_bootOk (d : Dev) (w : Watched) :
    (d.progress w).bootOk = d.bootOk := rfl
@[simp] theorem progress_stateSince (d : Dev) (w : Watched) :
    (d.progress w).stateSince = d.stateSince := rfl
@[simp] theorem progress_sensors (d : Dev) (w : Watched) :
    (d.progress w).sensors = d.sensors := rfl
@[simp] theorem progress_therm (d : Dev) (w : Watched) :
    (d.progress w).therm = d.therm := rfl
@[simp] theorem progress_rate (d : Dev) (w : Watched) :
    (d.progress w).rate = d.rate := rfl
@[simp] theorem progress_passes (d : Dev) (w : Watched) :
    (d.progress w).passes = d.passes := rfl
@[simp] theorem progress_corrected (d : Dev) (w : Watched) :
    (d.progress w).corrected = d.corrected := rfl
@[simp] theorem progress_patrolNs (d : Dev) (w : Watched) :
    (d.progress w).patrolNs = d.patrolNs := rfl
@[simp] theorem progress_passBad (d : Dev) (w : Watched) :
    (d.progress w).passBad = d.passBad := rfl
@[simp] theorem progress_passClean (d : Dev) (w : Watched) :
    (d.progress w).passClean = d.passClean := rfl
@[simp] theorem progress_auditDue (d : Dev) (w : Watched) :
    (d.progress w).auditDue = d.auditDue := rfl
@[simp] theorem progress_refresh (d : Dev) (w : Watched) :
    (d.progress w).refresh = d.refresh := rfl
@[simp] theorem progress_sets (d : Dev) (w : Watched) :
    (d.progress w).sets = d.sets := rfl
@[simp] theorem progress_retreat (d : Dev) (w : Watched) :
    (d.progress w).retreat = d.retreat := rfl
@[simp] theorem progress_thermInfo (d : Dev) (w : Watched) :
    (d.progress w).thermInfo = d.thermInfo := rfl
@[simp] theorem progress_coolFrom (d : Dev) (w : Watched) :
    (d.progress w).coolFrom = d.coolFrom := rfl
@[simp] theorem progress_pwrCap (d : Dev) (w : Watched) :
    (d.progress w).pwrCap = d.pwrCap := rfl
@[simp] theorem progress_energy (d : Dev) (w : Watched) :
    (d.progress w).energy = d.energy := rfl
@[simp] theorem progress_clk (d : Dev) (w : Watched) :
    (d.progress w).clk = d.clk := rfl
@[simp] theorem progress_lowered (d : Dev) (w : Watched) :
    (d.progress w).lowered = d.lowered := rfl
@[simp] theorem progress_time (d : Dev) (w : Watched) :
    (d.progress w).time = d.time := rfl
@[simp] theorem progress_hvec (d : Dev) (w : Watched) :
    (d.progress w).hvec = d.hvec := rfl
@[simp] theorem progress_hlost (d : Dev) (w : Watched) :
    (d.progress w).hlost = d.hlost := rfl
@[simp] theorem progress_hrval (d : Dev) (w : Watched) :
    (d.progress w).hrval = d.hrval := rfl
@[simp] theorem progress_hqueue (d : Dev) (w : Watched) :
    (d.progress w).hqueue = d.hqueue := rfl
@[simp] theorem progress_heldRecs (d : Dev) (w : Watched) :
    (d.progress w).heldRecs = d.heldRecs := rfl
@[simp] theorem progress_seqNo (d : Dev) (w : Watched) :
    (d.progress w).seqNo = d.seqNo := rfl
@[simp] theorem progress_flash (d : Dev) (w : Watched) :
    (d.progress w).flash = d.flash := rfl
@[simp] theorem progress_fwRun (d : Dev) (w : Watched) :
    (d.progress w).fwRun = d.fwRun := rfl
@[simp] theorem progress_sessions (d : Dev) (w : Watched) :
    (d.progress w).sessions = d.sessions := rfl
@[simp] theorem progress_nextSession (d : Dev) (w : Watched) :
    (d.progress w).nextSession = d.nextSession := rfl
@[simp] theorem progress_locks (d : Dev) (w : Watched) :
    (d.progress w).locks = d.locks := rfl
@[simp] theorem progress_links (d : Dev) (w : Watched) :
    (d.progress w).links = d.links := rfl
@[simp] theorem progress_t2links (d : Dev) (w : Watched) :
    (d.progress w).t2links = d.t2links := rfl
@[simp] theorem progress_paused (d : Dev) (w : Watched) :
    (d.progress w).paused = d.paused := rfl
@[simp] theorem progress_slowed (d : Dev) (w : Watched) :
    (d.progress w).slowed = d.slowed := rfl
@[simp] theorem progress_out (d : Dev) (w : Watched) :
    (d.progress w).out = d.out := rfl
@[simp] theorem progress_agenda (d : Dev) (w : Watched) :
    (d.progress w).agenda = d.agenda := rfl
@[simp] theorem progress_focus (d : Dev) (w : Watched) :
    (d.progress w).focus = d.focus := rfl
@[simp] theorem progress_tx (d : Dev) (w : Watched) :
    (d.progress w).tx = d.tx := rfl
@[simp] theorem progress_free (d : Dev) (w : Watched) :
    (d.progress w).free = d.free := rfl
@[simp] theorem progress_stale (d : Dev) (w : Watched) :
    (d.progress w).stale = d.stale := rfl
@[simp] theorem progress_unfenced (d : Dev) (w : Watched) :
    (d.progress w).unfenced = d.unfenced := rfl
@[simp] theorem progress_wq (d : Dev) (w : Watched) :
    (d.progress w).wq = d.wq := rfl
@[simp] theorem progress_nextCmd (d : Dev) (w : Watched) :
    (d.progress w).nextCmd = d.nextCmd := rfl
@[simp] theorem progress_t2Fitted (d : Dev) (w : Watched) :
    (d.progress w).t2Fitted = d.t2Fitted := rfl
@[simp] theorem progress_rroot (d : Dev) (w : Watched) :
    (d.progress w).rroot = d.rroot := rfl
@[simp] theorem progress_peerq (d : Dev) (w : Watched) :
    (d.progress w).peerq = d.peerq := rfl
@[simp] theorem progress_retained (d : Dev) (w : Watched) :
    (d.progress w).retained = d.retained := rfl
@[simp] theorem progress_lateWords (d : Dev) (w : Watched) :
    (d.progress w).lateWords = d.lateWords := rfl
@[simp] theorem progress_fixes (d : Dev) (w : Watched) :
    (d.progress w).fixes = d.fixes := rfl
@[simp] theorem progress_sep (d : Dev) (w : Watched) :
    (d.progress w).sep = d.sep := rfl
@[simp] theorem progress_ethq (d : Dev) (w : Watched) :
    (d.progress w).ethq = d.ethq := rfl

/-! ### What was set is read back -/

@[simp] theorem core_setCore_same (d : Dev) (id : CoreId) (c : Core) : (d.setCore id c).core id = c := by
  simp [Dev.setCore, Dev.core]

theorem core_setCore_ne (d : Dev) {a b : CoreId} (c : Core) (h : b ≠ a) :
    (d.setCore a c).core b = d.core b := by
  simp only [Dev.setCore, Dev.core]
  rw [lookup_insert_ne _ _ fun e => h (coreKey_inj e)]

@[simp] theorem core_updCore_same (d : Dev) (id : CoreId) (f : Core → Core) :
    (d.updCore id f).core id = f (d.core id) := core_setCore_same d id _

theorem core_updCore_ne (d : Dev) {a b : CoreId} (f : Core → Core) (h : b ≠ a) :
    (d.updCore a f).core b = d.core b := core_setCore_ne d _ h

@[simp] theorem inst_setInst_same (d : Dev) (k : Nat) (x : Inst) : (d.setInst k x).inst k = some x := by
  simp [Dev.setInst, Dev.inst]

theorem inst_setInst_ne (d : Dev) {j k : Nat} (x : Inst) (h : j ≠ k) :
    (d.setInst k x).inst j = d.inst j := lookup_insert_ne x d.insts h

theorem inst_updInst_same (d : Dev) (k : Nat) (f : Inst → Inst) :
    (d.updInst k f).inst k = (d.inst k).map f := by
  unfold Dev.updInst
  cases h : d.inst k <;> simp [h]

theorem inst_updInst_ne (d : Dev) {j k : Nat} (f : Inst → Inst) (h : j ≠ k) :
    (d.updInst k f).inst j = d.inst j := by
  unfold Dev.updInst
  split
  · exact inst_setInst_ne d _ h
  · rfl

@[simp] theorem inst_progress (d : Dev) (w : Watched) (k : Nat) : (d.progress w).inst k = d.inst k := rfl
@[simp] theorem core_progress (d : Dev) (w : Watched) (id : CoreId) : (d.progress w).core id = d.core id := rfl

@[simp] theorem ctx_updCtx_same (d : Dev) (k : Nat) (f : Context → Context) :
    (d.updCtx k f).ctx k = f (d.ctx k) := by
  simp [Dev.updCtx, Dev.ctx]

theorem ctx_updCtx_ne (d : Dev) {j k : Nat} (f : Context → Context) (h : j ≠ k) :
    (d.updCtx k f).ctx j = d.ctx j := by
  simp [Dev.updCtx, Dev.ctx, lookup_insert_ne _ _ h]

@[simp] theorem part_updPart_same (d : Dev) (k : Nat) (f : Partition → Partition) :
    (d.updPart k f).part k = f (d.part k) := by
  simp [Dev.updPart, Dev.part]

theorem part_updPart_ne (d : Dev) {j k : Nat} (f : Partition → Partition) (h : j ≠ k) :
    (d.updPart k f).part j = d.part j := by
  simp [Dev.updPart, Dev.part, lookup_insert_ne _ _ h]

end Sys2Proof.Laws
end

