-- ==== Sys2Proof/Laws/Firing.lean ====
section
/-! SUPPORT. What the shared operations of a firing and of a commit answer. -/

namespace Sys2Proof.Laws
open Sys2Proof Sys2Proof.Machine

/-- A step whose change makes no write and leaves no transaction open answers the changed device. -/
theorem act_eq {s : State} {f : Mem → Dev → Dev} (h : s.Sound) (hw : (f s.mem s.dev).wq = [])
    (ht : (f s.mem s.dev).tx = .ok) : act s f = .next (s.withDev (f s.mem s.dev)) := by
  obtain ⟨-, h1, h2⟩ := h
  have e : ({ s.dev with wq := [], tx := .ok } : Dev) = s.dev := by
    cases s with | mk m d => cases d; simp_all
  simp only [act, e, State.withDev]
  cases hd : f s.mem s.dev
  simp_all [writeAll, Dev.keepOld]

/-- A slot of a control block fires in its mode. -/
theorem ctlReady_ctl {i : Instr} {d : Dev} {id : CoreId} {slot : Nat} {e : Site} {g : Gathered}
    (h : d.ctlReady i id slot = some (e, g)) : e.ctl = true := by
  unfold Dev.ctlReady at h
  split at h <;> try cases h
  split at h <;> try cases h
  split at h <;> try cases h
  obtain ⟨_, _, h⟩ := Option.map_eq_some_iff.mp h
  cases h
  rfl

/-- A slot of an element block fires in its mode. -/
theorem elemReady_ctl {i : Instr} {d : Dev} {cfg tile blk slot : Nat} {e : Site} {g : Gathered}
    (h : d.elemReady i cfg tile blk slot = some (e, g)) : e.ctl = false := by
  unfold Dev.elemReady at h
  dsimp only at h
  repeat' split at h
  all_goals first
    | (simp only [Option.some.injEq, Prod.mk.injEq] at h; exact h.1 ▸ rfl)
    | cases h

/-- Where a slot can fire and its effect ends with a result, the firing delivers it; one that does not compute
delivers null. -/
theorem fire_done {i : Instr} {d : Dev} {e : Site} {g : Gathered} {f : Site → Gathered → Dev → Dev × Res}
    {eff : Site → Gathered → Dev → Fired} (h : d.firing i = some (e, g))
    (he : eff e g d = .done (f e g d).1 (f e g d).2) :
    d.fire i false eff
      = if g.computes then (f e g d).1.deliver i e g (f e g d).2 else d.deliver i e g .none := by
  unfold Dev.firing at h
  unfold Dev.fire
  split at h
  · cases h
  · cases h
  · cases h
  · have hctl := ctlReady_ctl h
    by_cases hc : g.computes <;> simp [Dev.fireCtl, h, hc, he, Dev.deliver, hctl]
  · have hctl := elemReady_ctl h
    by_cases hc : g.computes <;> simp [Dev.fireElem, h, hc, he, Dev.deliver, hctl]

@[simp] theorem updFrame_wq (d : Dev) (id : CoreId) (f : Frame → Frame) : (d.updFrame id f).wq = d.wq := rfl
@[simp] theorem updFrame_tx (d : Dev) (id : CoreId) (f : Frame → Frame) : (d.updFrame id f).tx = d.tx := rfl
@[simp] theorem updFrame_insts (d : Dev) (id : CoreId) (f : Frame → Frame) :
    (d.updFrame id f).insts = d.insts := rfl

/-- A delivery leaves the writes of the step alone. -/
@[simp] theorem deliver_wq (d : Dev) (i : Instr) (e : Site) (g : Gathered) (r : Res) :
    (d.deliver i e g r).wq = d.wq := by
  unfold Dev.deliver Dev.deliverCtl Dev.deliverElem
  split <;> simp

/-- A delivery leaves the transaction of the step alone. -/
@[simp] theorem deliver_tx (d : Dev) (i : Instr) (e : Site) (g : Gathered) (r : Res) :
    (d.deliver i e g r).tx = d.tx := by
  unfold Dev.deliver Dev.deliverCtl Dev.deliverElem
  split <;> simp

/-- At its block's commit a slot performs the effect of its instruction there. -/
theorem fireCommit_committing {d : Dev} {id : CoreId} {f : Frame} {c : Capture} (h : d.committing id f c)
    (i : Instr) (always : Bool) (pre : Site → Gathered → Dev → Option (Nat × Nat × Nat))
    (eff : Site → Gathered → Dev → Fired) (com : CoreId → Frame → Capture → Dev → Dev) :
    d.fireCommit i always pre eff com = com id f c d := by
  obtain ⟨slot, h1, h2, h3, h4⟩ := h
  simp [Dev.fireCommit, h1, h2, h3, h4]

theorem commits_committing {d : Dev} {id : CoreId} {f : Frame} {c : Capture} (h : d.committing id f c)
    (i : Instr) (com : CoreId → Frame → Capture → Dev → Dev) : d.commits i com = com id f c d :=
  fireCommit_committing h i _ _ _ com

/-- An instruction performed by `fire` fires with the effect that ends with a result. -/
theorem firesWith_of_fire {i : Instr} {eff : Mem → Site → Gathered → Dev → Fired}
    {f : Site → Gathered → Dev → Dev × Res}
    (hx : ∀ s, Machine.exec i s = act s fun m d => d.fire i false (eff m))
    (he : ∀ m e g d, eff m e g d = .done (f e g d).1 (f e g d).2)
    (hw : ∀ e g d, (f e g d).1.wq = d.wq) (ht : ∀ e g d, (f e g d).1.tx = d.tx) : FiresWith i f := by
  intro s e g hs h
  have key := fire_done (f := f) h (he s.mem e g s.dev)
  have hq := hs.2.1
  have hq' := hs.2.2
  rw [hx]
  by_cases hc : g.computes
  · simp only [hc, if_true] at key ⊢
    rw [act_eq hs (by rw [key]; simp [hw, hq]) (by rw [key]; simp [ht, hq']), key]
  · simp only [hc] at key ⊢
    rw [act_eq hs (by rw [key]; simp [hq]) (by rw [key]; simp [hq']), key]

/-- An instruction whose only effect is its result delivers it. -/
theorem delivers_of_fire {i : Instr} {eff : Mem → Site → Gathered → Dev → Fired} {r : Site → Gathered → Res}
    (hx : ∀ s, Machine.exec i s = act s fun m d => d.fire i false (eff m))
    (he : ∀ m e g d, eff m e g d = .done d (r e g)) : Delivers i r :=
  firesWith_of_fire hx he (fun _ _ _ => rfl) (fun _ _ _ => rfl)

/-- An instruction whose only effect is its result delivers it. -/
theorem delivers_of_res {i : Instr} {f r : Site → Gathered → Res}
    (hx : ∀ s, Machine.exec i s = act s fun _ d => d.fireRes i f) (hr : ∀ e g, f e g = r e g) : Delivers i r :=
  delivers_of_fire (eff := fun _ e g d => .done d (f e g)) hx (fun _ e g _ => by rw [hr])

/-- An instruction computed lane by lane delivers its lanes. -/
theorem delivers_of_alu {i : Instr} {f : Bool → Gathered → AluOut} {r : Site → Gathered → Res}
    (hx : ∀ s, Machine.exec i s = act s fun _ d => d.alu i f) (hr : ∀ e g, .alu (f e.ctl g) = r e g) :
    Delivers i r :=
  delivers_of_res (f := fun e g => .alu (f e.ctl g)) hx hr

/-- An instruction computed lane by lane with draws delivers its lanes. -/
theorem draws_of_fpAlu {i : Instr} {rm : Rm} {n : Nat} {f : Bool → List Nat → Gathered → AluOut}
    {r : Site → List Nat → Gathered → Res}
    (hx : ∀ s, Machine.exec i s = act s fun _ d => d.fpAlu i rm n f)
    (hr : ∀ e us g, .alu (f e.ctl us g) = r e us g) : Draws i rm n r := by
  unfold Draws
  refine firesWith_of_fire (eff := fun _ e g d => .done (d.draw e rm n).2 (.alu (f e.ctl (d.draw e rm n).1 g)))
    hx ?_ ?_ ?_
  · intro m e g d
    simp [hr]
  all_goals
    intro e g d
    simp only [Dev.draw]
    split <;> try rfl
    split <;> simp

/-- A sound state's device has no write and no transaction left over. -/
theorem sound_clean {s : State} (hs : s.Sound) : ({ s.dev with wq := [], tx := .ok } : Dev) = s.dev := by
  obtain ⟨-, h1, h2⟩ := hs
  cases s with | mk m d => cases d; simp_all

/-- An instruction performed by `fire` whose effect ends with a result under a condition. -/
theorem firesIf_of_fire {i : Instr} {always : Bool} {eff : Mem → Site → Gathered → Dev → Fired}
    {ok : Site → Gathered → Mem → Dev → Prop} {f : Site → Gathered → Mem → Dev → Dev × Res}
    (hx : ∀ s, Machine.exec i s = act s fun m d => d.fire i always (eff m))
    (he : ∀ m e g d, ok e g m d → g.computes = true → eff m e g d = .done (f e g m d).1 (f e g m d).2) : FiresIf i ok f := by
  intro s e g hs h hc ho
  have key : s.dev.fire i always (eff s.mem)
      = (f e g s.mem s.dev).1.deliver i e g (f e g s.mem s.dev).2 := by
    unfold Dev.firing at h
    unfold Dev.fire
    split at h
    · cases h
    · cases h
    · cases h
    · simp [Dev.fireCtl, h, hc, he _ _ _ _ ho hc, Dev.deliver, ctlReady_ctl h]
    · simp [Dev.fireElem, h, hc, he _ _ _ _ ho hc, Dev.deliver, elemReady_ctl h]
  rw [hx, act, sound_clean hs, key]
  rfl

/-- An instruction performed by `fireCommit` fires in an element block as its effect there says. -/
theorem firesIf_of_fireCommit {i : Instr} {always : Bool} {pre : Mem → Site → Gathered → Dev → Option (Nat × Nat × Nat)}
    {eff : Mem → Site → Gathered → Dev → Fired} {com : Mem → CoreId → Frame → Capture → Dev → Dev}
    {ok : Site → Gathered → Mem → Dev → Prop} {f : Site → Gathered → Mem → Dev → Dev × Res}
    (hx : ∀ s, Machine.exec i s = act s fun m d => d.fireCommit i always (pre m) (eff m) (com m))
    (hk : ∀ e g m d, ok e g m d → e.ctl = false)
    (he : ∀ m e g d, ok e g m d → g.computes = true → eff m e g d = .done (f e g m d).1 (f e g m d).2) : FiresIf i ok f := by
  intro s e g hs h hc ho
  have key : s.dev.fireCommit i always (pre s.mem) (eff s.mem) (com s.mem)
      = (f e g s.mem s.dev).1.deliver i e g (f e g s.mem s.dev).2 := by
    have hk' := hk _ _ _ _ ho
    unfold Dev.firing at h
    unfold Dev.fireCommit
    cases hf : s.dev.focus <;> rw [hf] at h
    · cases h
    · rw [ctlReady_ctl h] at hk'
      cases hk'
    · cases h
    · dsimp only at h ⊢
      simp [Dev.fireElem, h, hc, he _ _ _ _ ho hc, Dev.deliver, elemReady_ctl h]
    · cases h
  rw [hx, act, sound_clean hs, key]
  rfl

/-- An instruction performed by `fireCommit` that passes its entry checks is captured. -/
theorem capturesIf_of_fireCommit {i : Instr} {always : Bool}
    {pre : Mem → Site → Gathered → Dev → Option (Nat × Nat × Nat)}
    {eff : Mem → Site → Gathered → Dev → Fired} {com : Mem → CoreId → Frame → Capture → Dev → Dev}
    {ok : Site → Gathered → Dev → Prop}
    (hx : ∀ s, Machine.exec i s = act s fun m d => d.fireCommit i always (pre m) (eff m) (com m))
    (hp : ∀ m e g d, ok e g d → pre m e g d = none) : CapturesIf i ok := by
  intro s e g hs h hk hc ho
  have key : s.dev.fireCommit i always (pre s.mem) (eff s.mem) (com s.mem) = s.dev.captureCtl i e g := by
    unfold Dev.firing at h
    unfold Dev.fireCommit
    cases hf : s.dev.focus <;> rw [hf] at h
    · cases h
    · dsimp only at h ⊢
      simp [Dev.fireCtl, h, hc, hp _ _ _ _ ho]
    · cases h
    · rw [elemReady_ctl h] at hk
      cases hk
    · cases h
  rw [hx, act_eq hs (by rw [key]; simp [Dev.captureCtl, hs.2.1]) (by rw [key]; simp [Dev.captureCtl, hs.2.2]), key]

/-- At its block's commit an instruction performed by `fireCommit` has the effect it has there. -/
theorem commitsIf_of_fireCommit {i : Instr} {always : Bool}
    {pre : Mem → Site → Gathered → Dev → Option (Nat × Nat × Nat)}
    {eff : Mem → Site → Gathered → Dev → Fired} {com com' : Mem → CoreId → Frame → Capture → Dev → Dev}
    {ok : CoreId → Frame → Capture → Mem → Dev → Prop}
    (hx : ∀ s, Machine.exec i s = act s fun m d => d.fireCommit i always (pre m) (eff m) (com m))
    (hc : ∀ m id f c d, ok id f c m d → com m id f c d = com' m id f c d) :
    CommitsIf i ok fun id f c m d => com' m id f c d := by
  intro s id f c hs h ho
  rw [hx, act, sound_clean hs, fireCommit_committing h, hc _ _ _ _ _ ho]
  rfl

/-- An instruction performed by `late` delivers at commit the word of its effect. -/
theorem lateIf_of_late {i : Instr} {pre : Mem → Site → Dev → Option (Nat × Nat × Nat)}
    {com : Mem → CoreId → Frame → Capture → Dev → Dev × Word}
    {ok : CoreId → Frame → Capture → Mem → Dev → Prop}
    {com' : CoreId → Frame → Capture → Mem → Dev → Dev × Word}
    (hx : ∀ s, Machine.exec i s = act s fun m d => d.late i (pre m) (com m))
    (hc : ∀ m id f c d, ok id f c m d → com m id f c d = com' id f c m d) : LateIf i ok com' := by
  intro s id f c hs h ho
  rw [hx, act, sound_clean hs, Dev.late, fireCommit_committing h, hc _ _ _ _ _ ho]
  rfl

/-- An instruction performed by `recLate` delivers at commit the word of its effect on the record it read. -/
theorem lateIf_of_recLate {i : Instr} {ga : Fin 32} {k : Mem → Site → List Byte → Dev → Fired}
    {com : Mem → CoreId → List Byte → Dev → Dev × Word} {bs : List Byte}
    {ok : CoreId → Frame → Capture → Mem → Dev → Prop}
    {com' : CoreId → Frame → Capture → Mem → Dev → Dev × Word}
    (hx : ∀ s, Machine.exec i s = act s fun m d => d.recLate i ga m (k m) (com m))
    (hb : ∀ m id f c d, ok id f c m d → lookup c.slot f.recs = some bs)
    (hc : ∀ m id f c d, ok id f c m d → com m id bs d = com' id f c m d) : LateIf i ok com' := by
  intro s id f c hs h ho
  obtain ⟨slot, h1, h2, h3, h4⟩ := h
  have h5 : c.slot = slot := by
    unfold Frame.cap at h3
    simpa using List.find?_some h3
  subst h5
  have key : s.dev.recLate i ga s.mem (k s.mem) (com s.mem)
      = (com' id f c s.mem s.dev).1.deliverLate id c.slot (com' id f c s.mem s.dev).2 := by
    unfold Dev.recLate
    simp [h1, h2, h3, h4, hb _ _ _ _ _ ho, hc _ _ _ _ _ ho]
  rw [hx, act, sound_clean hs, key]
  rfl

/-- A step performed by `act` that makes no write. -/
theorem stepsIf_of_act {i : Instr} {body : Mem → Dev → Dev} {ok : Mem → Dev → Prop} {f : Mem → Dev → Dev}
    (hx : ∀ s, Machine.exec i s = act s body) (h : ∀ m d, ok m d → body m d = f m d)
    (hw : ∀ m d, ok m d → (f m d).wq = d.wq) (ht : ∀ m d, ok m d → (f m d).tx = d.tx) : StepsIf i ok f := by
  intro s hs ho
  rw [hx, act_eq hs, h _ _ ho]
  · rw [h _ _ ho, hw _ _ ho, hs.2.1]
  · rw [h _ _ ho, ht _ _ ho, hs.2.2]

/-- A step performed by `act`. -/
theorem writesIf_of_act {i : Instr} {body : Mem → Dev → Dev} {ok : Mem → Dev → Prop} {f : Mem → Dev → Dev}
    (hx : ∀ s, Machine.exec i s = act s body) (h : ∀ m d, ok m d → body m d = f m d) : WritesIf i ok f := by
  intro s hs ho
  rw [hx, act, sound_clean hs, h _ _ ho]
  rfl

end Sys2Proof.Laws
end

