-- ==== Sys2Proof/Laws/Memory.lean ====
section
/-! SUPPORT. The laws of byte memories: a write is read back, leaves every other address alone, and
keeps the canonical form. -/

namespace Sys2Proof.Laws
open Sys2Proof.Machine

@[simp] theorem readByte_nil (a : Nat) : readByte [] a = unlisted := rfl

theorem memWfFrom_le {m : Mem} {lo lo' : Nat} (h : memWfFrom lo m = true) (hl : lo' ≤ lo) :
    memWfFrom lo' m = true := by
  cases m with
  | nil => rfl
  | cons c cs =>
    simp only [memWfFrom, Bool.and_eq_true, decide_eq_true_eq] at h ⊢
    exact ⟨⟨by omega, h.1.2⟩, h.2⟩

theorem readByte_below {m : Mem} {lo a : Nat} (h : memWfFrom lo m = true) (ha : a < lo) :
    readByte m a = unlisted := by
  induction m generalizing lo with
  | nil => rfl
  | cons c cs ih =>
    simp only [memWfFrom, Bool.and_eq_true, decide_eq_true_eq] at h
    simp only [readByte]
    rw [if_neg (by omega)]
    exact ih h.2 (by omega)

/-- A byte written is the byte read. -/
theorem readByte_writeByte_same {m : Mem} {lo : Nat} (h : memWfFrom lo m = true) (a : Nat)
    (v : Byte) : readByte (writeByte m a v) a = v := by
  induction m generalizing lo with
  | nil =>
    by_cases hv : v = unlisted
    · simp [writeByte, hv]
    · simp [writeByte, hv, readByte]
  | cons c cs ih =>
    simp only [memWfFrom, Bool.and_eq_true, decide_eq_true_eq] at h
    by_cases h1 : a < c.1
    · by_cases hv : v = unlisted
      · simp only [writeByte, h1, hv, if_true, readByte]
        rw [if_neg (by omega), readByte_below h.2 (by omega)]
      · simp [writeByte, h1, hv, readByte]
    · by_cases h2 : c.1 = a
      · by_cases hv : v = unlisted
        · rw [show writeByte (c :: cs) a v = cs by simp [writeByte, h2, hv], hv]
          exact readByte_below h.2 (Nat.lt_succ_of_le (Nat.le_of_eq h2.symm))
        · rw [show writeByte (c :: cs) a v = (a, v) :: cs by simp [writeByte, h2, hv]]
          simp [readByte]
      · simp only [writeByte, h1, h2, if_false, readByte]
        exact ih h.2

/-- A write leaves every other address alone. -/
theorem readByte_writeByte_ne (m : Mem) {a b : Nat} (v : Byte) (hab : b ≠ a) :
    readByte (writeByte m a v) b = readByte m b := by
  induction m with
  | nil =>
    by_cases hv : v = unlisted
    · simp [writeByte, hv]
    · simp [writeByte, hv, readByte, Ne.symm hab]
  | cons c cs ih =>
    by_cases h1 : a < c.1
    · by_cases hv : v = unlisted <;> simp [writeByte, h1, hv, readByte, Ne.symm hab]
    · by_cases h2 : c.1 = a
      · by_cases hv : v = unlisted <;> simp [writeByte, h2, hv, readByte, Ne.symm hab]
      · simp only [writeByte, h1, h2, if_false, readByte, ih]

/-- A write keeps the canonical form above a bound. -/
theorem memWfFrom_writeByte {m : Mem} {lo : Nat} (h : memWfFrom lo m = true) {a : Nat} (v : Byte)
    (ha : lo ≤ a) : memWfFrom lo (writeByte m a v) = true := by
  induction m generalizing lo with
  | nil =>
    by_cases hv : v = unlisted
    · simp [writeByte, hv, memWfFrom]
    · simp [writeByte, hv, memWfFrom, ha]
  | cons c cs ih =>
    have h0 := h
    simp only [memWfFrom, Bool.and_eq_true, decide_eq_true_eq] at h
    by_cases h1 : a < c.1
    · by_cases hv : v = unlisted
      · simpa [writeByte, h1, hv] using h0
      · simp only [writeByte, h1, hv, if_true, if_false, memWfFrom, Bool.and_eq_true,
          decide_eq_true_eq]
        exact ⟨⟨ha, by simpa using hv⟩, ⟨⟨by omega, h.1.2⟩, h.2⟩⟩
    · by_cases h2 : c.1 = a
      · by_cases hv : v = unlisted
        · rw [show writeByte (c :: cs) a v = cs by simp [writeByte, h2, hv]]
          exact memWfFrom_le h.2 (by omega)
        · rw [show writeByte (c :: cs) a v = (a, v) :: cs by simp [writeByte, h2, hv]]
          simp only [memWfFrom, Bool.and_eq_true, decide_eq_true_eq]
          exact ⟨⟨ha, by simpa using hv⟩, by simpa [h2] using h.2⟩
      · simp only [writeByte, h1, h2, if_false, memWfFrom, Bool.and_eq_true, decide_eq_true_eq]
        exact ⟨h.1, ih h.2 (by omega)⟩

/-- Every memory operation keeps the canonical form. -/
theorem wf_writeByte {m : Mem} (h : m.wf = true) (a : Nat) (v : Byte) :
    (writeByte m a v).wf = true := memWfFrom_writeByte h v (Nat.zero_le a)

/-- Writing bytes in order keeps the canonical form. -/
theorem wf_writeAll {m : Mem} (h : m.wf = true) (ws : List (Nat × Byte)) :
    (writeAll m ws).wf = true := by
  induction ws generalizing m with
  | nil => exact h
  | cons w ws ih => exact ih (wf_writeByte h w.1 w.2)

/-- Writing bytes in order leaves every address outside them alone. -/
theorem readByte_writeAll_of_not_mem (m : Mem) (ws : List (Nat × Byte)) {b : Nat}
    (hb : ∀ w ∈ ws, w.1 ≠ b) : readByte (writeAll m ws) b = readByte m b := by
  induction ws generalizing m with
  | nil => rfl
  | cons w ws ih =>
    have h1 : w.1 ≠ b := hb w (by simp)
    have h2 : ∀ x ∈ ws, x.1 ≠ b := fun x hx => hb x (by simp [hx])
    show readByte (writeAll (writeByte m w.1 w.2) ws) b = _
    rw [ih _ h2, readByte_writeByte_ne m w.2 (Ne.symm h1)]

@[simp] theorem writeAll_nil (m : Mem) : writeAll m [] = m := rfl

end Sys2Proof.Laws
end

