-- ==== Sys2Proof/Laws/Peers.lean ====
section
/-! SUPPORT. What a message that performs at its peer can change: the peers' memories and the messages on their way
(R244). -/

namespace Sys2Proof.Laws
open Sys2Proof.Machine

theorem peerApply_eq (d : Dev) (w : PeerWrite) : ∃ p, d.peerApply w = { d with peers := p } := by
  unfold Dev.peerApply; split <;> exact ⟨_, rfl⟩

/-- Everything that messages performing at their peers can change. -/
theorem peerAdvance_eq (d : Dev) (go : Nat → PeerWrite → Bool) :
    ∃ p q, d.peerAdvance go = { d with peers := p, peerq := q } := by
  unfold Dev.peerAdvance
  suffices h : ∀ (l : List PeerWrite) (acc : Dev × List PeerWrite), (∃ p, acc.1 = { d with peers := p }) →
      ∃ p, (l.foldl (fun (acc : Dev × List PeerWrite) w =>
        if !w.done && go acc.2.length w && acc.2.all (fun e => e.done || !e.sameCircuit w) then
          (acc.1.peerApply w, acc.2 ++ [{ w with done := true }])
        else (acc.1, acc.2 ++ [w])) acc).1 = { d with peers := p } by
    obtain ⟨p, hp⟩ := h d.peerq (d, []) ⟨d.peers, rfl⟩
    exact ⟨p, _, by dsimp only; rw [hp]⟩
  intro l
  induction l with
  | nil => exact fun acc h => h
  | cons w l ih =>
    intro acc ⟨p, hp⟩
    refine ih _ ?_
    dsimp only
    split
    · obtain ⟨p', h'⟩ := peerApply_eq acc.1 w
      exact ⟨p', by rw [h']; simp only [hp]⟩
    · exact ⟨p, hp⟩

@[simp] theorem peerAdvance_tx (d : Dev) (go : Nat → PeerWrite → Bool) : (d.peerAdvance go).tx = d.tx := by
  obtain ⟨p, q, h⟩ := peerAdvance_eq d go; rw [h]
@[simp] theorem peerAdvance_wq (d : Dev) (go : Nat → PeerWrite → Bool) : (d.peerAdvance go).wq = d.wq := by
  obtain ⟨p, q, h⟩ := peerAdvance_eq d go; rw [h]
@[simp] theorem peerAdvance_xl (d : Dev) (go : Nat → PeerWrite → Bool) : (d.peerAdvance go).xl = d.xl := by
  obtain ⟨p, q, h⟩ := peerAdvance_eq d go; rw [h]
@[simp] theorem peerAdvance_cores (d : Dev) (go : Nat → PeerWrite → Bool) : (d.peerAdvance go).cores = d.cores := by
  obtain ⟨p, q, h⟩ := peerAdvance_eq d go; rw [h]
@[simp] theorem peerAdvance_insts (d : Dev) (go : Nat → PeerWrite → Bool) : (d.peerAdvance go).insts = d.insts := by
  obtain ⟨p, q, h⟩ := peerAdvance_eq d go; rw [h]
@[simp] theorem peerAdvance_parts (d : Dev) (go : Nat → PeerWrite → Bool) : (d.peerAdvance go).parts = d.parts := by
  obtain ⟨p, q, h⟩ := peerAdvance_eq d go; rw [h]
@[simp] theorem peerAdvance_ctxs (d : Dev) (go : Nat → PeerWrite → Bool) : (d.peerAdvance go).ctxs = d.ctxs := by
  obtain ⟨p, q, h⟩ := peerAdvance_eq d go; rw [h]
@[simp] theorem peerAdvance_rcopy (d : Dev) (go : Nat → PeerWrite → Bool) : (d.peerAdvance go).rcopy = d.rcopy := by
  obtain ⟨p, q, h⟩ := peerAdvance_eq d go; rw [h]
@[simp] theorem peerAdvance_rroot (d : Dev) (go : Nat → PeerWrite → Bool) : (d.peerAdvance go).rroot = d.rroot := by
  obtain ⟨p, q, h⟩ := peerAdvance_eq d go; rw [h]

end Sys2Proof.Laws
end

