-- ==== Sys2Proof/Laws/PerInstr.lean ====
section
/-! SUPPORT. One lemma per instruction: its opcode is a byte, the opcode has its format, and the opcode and
fields of a well-formed instruction name it again (R95). -/

set_option Elab.async false

namespace Sys2Proof.Laws.Encoding
open Sys2Proof

/-- The opcode and fields of a well-formed instruction are a byte and the format of that opcode, and name the
instruction; a row that no word encodes has neither. -/
def Statement (i : Instr) : Prop :=
  ∀ op p, i.parts = some (op, p) → i.wellFormed = true →
    op < 256 ∧ formatOf op = some p.format ∧ ofParts op p = some i

/-- A row without a word. -/
theorem of_none {i : Instr} (h : i.parts = none) : Statement i := by
  intro op p hp
  rw [h] at hp
  cases hp

/-- A row whose opcode and format name it whatever its fields. -/
theorem of_some {i : Instr} {op : Nat} {p : WordOp} (h : i.parts = some (op, p)) (h1 : op < 256)
    (h2 : formatOf op = some p.format) (h3 : i.wellFormed = true → ofParts op p = some i) : Statement i := by
  intro op' p' hp hw
  rw [h] at hp
  cases hp
  exact ⟨h1, h2, h3 hw⟩

/-- A field condition that both modes demand holds of a well-formed instruction. -/
theorem fields_of_wf {i : Instr} {P : Prop} (h : ∀ m, i.fieldsOk m = true → P) (hw : i.wellFormed = true) : P := by
  have key : ∀ m, i.legalIn m = true → P := by
    intro m hm
    unfold Instr.legalIn at hm
    split at hm
    · exact h m (by simp only [Bool.and_eq_true] at hm; exact hm.2)
    · cases hm
  simp only [Instr.wellFormed, Bool.or_eq_true] at hw
  exact hw.elim (key _) (key _)

theorem nop (o : OpG) : Statement (.nop o) := of_some rfl (Nat.le_of_ble_eq_true rfl) rfl fun _ => rfl
theorem rdp (o : OpI) : Statement (.rdp o) := of_some rfl (Nat.le_of_ble_eq_true rfl) rfl fun _ => rfl
theorem movi (o : OpI) : Statement (.movi o) := of_some rfl (Nat.le_of_ble_eq_true rfl) rfl fun _ => rfl
theorem movh (o : OpI) : Statement (.movh o) := of_some rfl (Nat.le_of_ble_eq_true rfl) rfl fun _ => rfl
theorem fan (o : OpG) : Statement (.fan o) := of_some rfl (Nat.le_of_ble_eq_true rfl) rfl fun _ => rfl
theorem null (o : OpG) : Statement (.null o) := of_some rfl (Nat.le_of_ble_eq_true rfl) rfl fun _ => rfl
theorem drop (o : OpG) : Statement (.drop o) := of_some rfl (Nat.le_of_ble_eq_true rfl) rfl fun _ => rfl
theorem gate (o : OpG) : Statement (.gate o) := of_some rfl (Nat.le_of_ble_eq_true rfl) rfl fun _ => rfl
theorem sel (o : OpG) : Statement (.sel o) := of_some rfl (Nat.le_of_ble_eq_true rfl) rfl fun _ => rfl
theorem lcnt (o : OpI) : Statement (.lcnt o) := of_some rfl (Nat.le_of_ble_eq_true rfl) rfl fun _ => rfl
theorem lidx (o : OpI) : Statement (.lidx o) := of_some rfl (Nat.le_of_ble_eq_true rfl) rfl fun _ => rfl
theorem pois (o : OpI) : Statement (.pois o) := of_some rfl (Nat.le_of_ble_eq_true rfl) rfl fun _ => rfl
theorem poisc (o : OpG) : Statement (.poisc o) := of_some rfl (Nat.le_of_ble_eq_true rfl) rfl fun _ => rfl
theorem mark (o : OpI) : Statement (.mark o) := of_some rfl (Nat.le_of_ble_eq_true rfl) rfl fun _ => rfl
theorem route (o : OpC) : Statement (.route o) := of_some rfl (Nat.le_of_ble_eq_true rfl) rfl fun _ => rfl
theorem bro (o : OpC) : Statement (.bro o) := of_some rfl (Nat.le_of_ble_eq_true rfl) rfl fun _ => rfl
theorem brx (o : OpC) : Statement (.brx o) := of_some rfl (Nat.le_of_ble_eq_true rfl) rfl fun _ => rfl
theorem callb (o : OpC) : Statement (.callb o) := of_some rfl (Nat.le_of_ble_eq_true rfl) rfl fun _ => rfl
theorem retb (o : OpC) : Statement (.retb o) := of_some rfl (Nat.le_of_ble_eq_true rfl) rfl fun _ => rfl
theorem halt (o : OpC) : Statement (.halt o) := of_some rfl (Nat.le_of_ble_eq_true rfl) rfl fun _ => rfl
theorem rdg (o : OpC) : Statement (.rdg o) := of_some rfl (Nat.le_of_ble_eq_true rfl) rfl fun _ => rfl
theorem wrg (o : OpC) : Statement (.wrg o) := of_some rfl (Nat.le_of_ble_eq_true rfl) rfl fun _ => rfl
theorem add (o : OpG) : Statement (.add o) := of_some rfl (Nat.le_of_ble_eq_true rfl) rfl fun _ => rfl
theorem addi (o : OpI) : Statement (.addi o) := of_some rfl (Nat.le_of_ble_eq_true rfl) rfl fun _ => rfl
theorem sub (o : OpG) : Statement (.sub o) := of_some rfl (Nat.le_of_ble_eq_true rfl) rfl fun _ => rfl
theorem adds (o : OpG) : Statement (.adds o) := of_some rfl (Nat.le_of_ble_eq_true rfl) rfl fun _ => rfl
theorem subs (o : OpG) : Statement (.subs o) := of_some rfl (Nat.le_of_ble_eq_true rfl) rfl fun _ => rfl
theorem neg (o : OpG) : Statement (.neg o) := of_some rfl (Nat.le_of_ble_eq_true rfl) rfl fun _ => rfl
theorem abs (o : OpG) : Statement (.abs o) := of_some rfl (Nat.le_of_ble_eq_true rfl) rfl fun _ => rfl
theorem mul (o : OpG) : Statement (.mul o) := of_some rfl (Nat.le_of_ble_eq_true rfl) rfl fun _ => rfl
theorem mulh (o : OpG) : Statement (.mulh o) := of_some rfl (Nat.le_of_ble_eq_true rfl) rfl fun _ => rfl
theorem mulhw (o : OpG) : Statement (.mulhw o) := of_some rfl (Nat.le_of_ble_eq_true rfl) rfl fun _ => rfl
theorem madd (o : OpG) : Statement (.madd o) := of_some rfl (Nat.le_of_ble_eq_true rfl) rfl fun _ => rfl
theorem div (o : OpG) : Statement (.div o) := of_some rfl (Nat.le_of_ble_eq_true rfl) rfl fun _ => rfl
theorem divw (o : OpG) : Statement (.divw o) := of_some rfl (Nat.le_of_ble_eq_true rfl) rfl fun _ => rfl
theorem rem (o : OpG) : Statement (.rem o) := of_some rfl (Nat.le_of_ble_eq_true rfl) rfl fun _ => rfl
theorem remw (o : OpG) : Statement (.remw o) := of_some rfl (Nat.le_of_ble_eq_true rfl) rfl fun _ => rfl
theorem lea (o : OpG) : Statement (.lea o) := of_some rfl (Nat.le_of_ble_eq_true rfl) rfl fun _ => rfl
theorem min (o : OpG) : Statement (.min o) := of_some rfl (Nat.le_of_ble_eq_true rfl) rfl fun _ => rfl
theorem max (o : OpG) : Statement (.max o) := of_some rfl (Nat.le_of_ble_eq_true rfl) rfl fun _ => rfl
theorem minw (o : OpG) : Statement (.minw o) := of_some rfl (Nat.le_of_ble_eq_true rfl) rfl fun _ => rfl
theorem maxw (o : OpG) : Statement (.maxw o) := of_some rfl (Nat.le_of_ble_eq_true rfl) rfl fun _ => rfl
theorem and (o : OpG) : Statement (.and o) := of_some rfl (Nat.le_of_ble_eq_true rfl) rfl fun _ => rfl
theorem or (o : OpG) : Statement (.or o) := of_some rfl (Nat.le_of_ble_eq_true rfl) rfl fun _ => rfl
theorem xor (o : OpG) : Statement (.xor o) := of_some rfl (Nat.le_of_ble_eq_true rfl) rfl fun _ => rfl
theorem andn (o : OpG) : Statement (.andn o) := of_some rfl (Nat.le_of_ble_eq_true rfl) rfl fun _ => rfl
theorem shl (o : OpG) : Statement (.shl o) := of_some rfl (Nat.le_of_ble_eq_true rfl) rfl fun _ => rfl
theorem shr (o : OpG) : Statement (.shr o) := of_some rfl (Nat.le_of_ble_eq_true rfl) rfl fun _ => rfl
theorem sra (o : OpG) : Statement (.sra o) := of_some rfl (Nat.le_of_ble_eq_true rfl) rfl fun _ => rfl
theorem rotl (o : OpG) : Statement (.rotl o) := of_some rfl (Nat.le_of_ble_eq_true rfl) rfl fun _ => rfl
theorem clz (o : OpG) : Statement (.clz o) := of_some rfl (Nat.le_of_ble_eq_true rfl) rfl fun _ => rfl
theorem popc (o : OpG) : Statement (.popc o) := of_some rfl (Nat.le_of_ble_eq_true rfl) rfl fun _ => rfl
theorem brev (o : OpG) : Statement (.brev o) := of_some rfl (Nat.le_of_ble_eq_true rfl) rfl fun _ => rfl
theorem cmp (o : OpG) : Statement (.cmp o) := of_some rfl (Nat.le_of_ble_eq_true rfl) rfl fun _ => rfl
theorem cmpi (o : OpI) : Statement (.cmpi o) := of_some rfl (Nat.le_of_ble_eq_true rfl) rfl fun _ => rfl
theorem bfx (o : OpI) : Statement (.bfx o) := of_some rfl (Nat.le_of_ble_eq_true rfl) rfl fun _ => rfl
theorem bfi (o : OpI) : Statement (.bfi o) := of_some rfl (Nat.le_of_ble_eq_true rfl) rfl fun _ => rfl
theorem fadd (o : OpG) : Statement (.fadd o) := of_some rfl (Nat.le_of_ble_eq_true rfl) rfl fun _ => rfl
theorem fsub (o : OpG) : Statement (.fsub o) := of_some rfl (Nat.le_of_ble_eq_true rfl) rfl fun _ => rfl
theorem fmul (o : OpG) : Statement (.fmul o) := of_some rfl (Nat.le_of_ble_eq_true rfl) rfl fun _ => rfl
theorem ffma (o : OpG) : Statement (.ffma o) := of_some rfl (Nat.le_of_ble_eq_true rfl) rfl fun _ => rfl
theorem fmin (o : OpG) : Statement (.fmin o) := of_some rfl (Nat.le_of_ble_eq_true rfl) rfl fun _ => rfl
theorem fmax (o : OpG) : Statement (.fmax o) := of_some rfl (Nat.le_of_ble_eq_true rfl) rfl fun _ => rfl
theorem famax (o : OpG) : Statement (.famax o) := of_some rfl (Nat.le_of_ble_eq_true rfl) rfl fun _ => rfl
theorem fabs (o : OpG) : Statement (.fabs o) := of_some rfl (Nat.le_of_ble_eq_true rfl) rfl fun _ => rfl
theorem fneg (o : OpG) : Statement (.fneg o) := of_some rfl (Nat.le_of_ble_eq_true rfl) rfl fun _ => rfl
theorem fcpys (o : OpG) : Statement (.fcpys o) := of_some rfl (Nat.le_of_ble_eq_true rfl) rfl fun _ => rfl
theorem fcmp (o : OpG) : Statement (.fcmp o) := of_some rfl (Nat.le_of_ble_eq_true rfl) rfl fun _ => rfl
theorem fclass (o : OpG) : Statement (.fclass o) := of_some rfl (Nat.le_of_ble_eq_true rfl) rfl fun _ => rfl
theorem fcvt (o : OpG) : Statement (.fcvt o) := of_some rfl (Nat.le_of_ble_eq_true rfl) rfl fun _ => rfl
theorem frnd (o : OpG) : Statement (.frnd o) := of_some rfl (Nat.le_of_ble_eq_true rfl) rfl fun _ => rfl
theorem frcp (o : OpG) : Statement (.frcp o) := of_some rfl (Nat.le_of_ble_eq_true rfl) rfl fun _ => rfl
theorem frsq (o : OpG) : Statement (.frsq o) := of_some rfl (Nat.le_of_ble_eq_true rfl) rfl fun _ => rfl
theorem fsqrt (o : OpG) : Statement (.fsqrt o) := of_some rfl (Nat.le_of_ble_eq_true rfl) rfl fun _ => rfl
theorem fexp2 (o : OpG) : Statement (.fexp2 o) := of_some rfl (Nat.le_of_ble_eq_true rfl) rfl fun _ => rfl
theorem flog2 (o : OpG) : Statement (.flog2 o) := of_some rfl (Nat.le_of_ble_eq_true rfl) rfl fun _ => rfl
theorem fsint (o : OpG) : Statement (.fsint o) := of_some rfl (Nat.le_of_ble_eq_true rfl) rfl fun _ => rfl
theorem fcost (o : OpG) : Statement (.fcost o) := of_some rfl (Nat.le_of_ble_eq_true rfl) rfl fun _ => rfl
theorem ftanh (o : OpG) : Statement (.ftanh o) := of_some rfl (Nat.le_of_ble_eq_true rfl) rfl fun _ => rfl
theorem fscale (o : OpG) : Statement (.fscale o) := of_some rfl (Nat.le_of_ble_eq_true rfl) rfl fun _ => rfl
theorem fdot2 (o : OpG) : Statement (.fdot2 o) := of_some rfl (Nat.le_of_ble_eq_true rfl) rfl fun _ => rfl
theorem fdot4 (o : OpG) : Statement (.fdot4 o) := of_some rfl (Nat.le_of_ble_eq_true rfl) rfl fun _ => rfl
theorem lswp (o : OpI) : Statement (.lswp o) := of_some rfl (Nat.le_of_ble_eq_true rfl) rfl fun _ => rfl
theorem lperm (o : OpG) : Statement (.lperm o) := of_some rfl (Nat.le_of_ble_eq_true rfl) rfl fun _ => rfl
theorem lbcst (o : OpI) : Statement (.lbcst o) := of_some rfl (Nat.le_of_ble_eq_true rfl) rfl fun _ => rfl
theorem lsld (o : OpI) : Statement (.lsld o) := of_some rfl (Nat.le_of_ble_eq_true rfl) rfl fun _ => rfl
theorem lred (o : OpG) : Statement (.lred o) := of_some rfl (Nat.le_of_ble_eq_true rfl) rfl fun _ => rfl
theorem lscan (o : OpG) : Statement (.lscan o) := of_some rfl (Nat.le_of_ble_eq_true rfl) rfl fun _ => rfl
theorem lvote (o : OpG) : Statement (.lvote o) := of_some rfl (Nat.le_of_ble_eq_true rfl) rfl fun _ => rfl
theorem lmsk (o : OpG) : Statement (.lmsk o) := of_some rfl (Nat.le_of_ble_eq_true rfl) rfl fun _ => rfl
theorem lcmpr (o : OpG) : Statement (.lcmpr o) := of_some rfl (Nat.le_of_ble_eq_true rfl) rfl fun _ => rfl
theorem lexpd (o : OpG) : Statement (.lexpd o) := of_some rfl (Nat.le_of_ble_eq_true rfl) rfl fun _ => rfl
theorem lpack (o : OpG) : Statement (.lpack o) := of_some rfl (Nat.le_of_ble_eq_true rfl) rfl fun _ => rfl
theorem lunpk (o : OpG) : Statement (.lunpk o) := of_some rfl (Nat.le_of_ble_eq_true rfl) rfl fun _ => rfl
theorem mbind (o : OpI) : Statement (.mbind o) := of_some rfl (Nat.le_of_ble_eq_true rfl) rfl fun _ => rfl
theorem mma (o : OpX) : Statement (.mma o) := of_some rfl (Nat.le_of_ble_eq_true rfl) rfl fun _ => rfl
theorem mmasp (o : OpX) : Statement (.mmasp o) := of_some rfl (Nat.le_of_ble_eq_true rfl) rfl fun _ => rfl
theorem mzero (o : OpX) : Statement (.mzero o) := of_some rfl (Nat.le_of_ble_eq_true rfl) rfl fun _ => rfl
theorem macci (o : OpX) : Statement (.macci o) := of_some rfl (Nat.le_of_ble_eq_true rfl) rfl fun _ => rfl
theorem mout (o : OpG) : Statement (.mout o) := of_some rfl (Nat.le_of_ble_eq_true rfl) rfl fun _ => rfl
theorem mswap (o : OpX) : Statement (.mswap o) := of_some rfl (Nat.le_of_ble_eq_true rfl) rfl fun _ => rfl
theorem mscls (o : OpX) : Statement (.mscls o) := of_some rfl (Nat.le_of_ble_eq_true rfl) rfl fun _ => rfl
theorem lds (o : OpM) : Statement (.lds o) := of_some rfl (Nat.le_of_ble_eq_true rfl) rfl fun _ => rfl
theorem sts (o : OpM) : Statement (.sts o) := of_some rfl (Nat.le_of_ble_eq_true rfl) rfl fun _ => rfl
theorem ldb (o : OpM) : Statement (.ldb o) := of_some rfl (Nat.le_of_ble_eq_true rfl) rfl fun _ => rfl
theorem stb (o : OpM) : Statement (.stb o) := of_some rfl (Nat.le_of_ble_eq_true rfl) rfl fun _ => rfl
theorem ldv (o : OpM) : Statement (.ldv o) := of_some rfl (Nat.le_of_ble_eq_true rfl) rfl fun _ => rfl
theorem stv (o : OpM) : Statement (.stv o) := of_some rfl (Nat.le_of_ble_eq_true rfl) rfl fun _ => rfl
theorem vrecl (o : OpM) : Statement (.vrecl o) := of_some rfl (Nat.le_of_ble_eq_true rfl) rfl fun _ => rfl
theorem wfa (o : OpM) : Statement (.wfa o) := of_some rfl (Nat.le_of_ble_eq_true rfl) rfl fun _ => rfl
theorem uwait (o : OpM) : Statement (.uwait o) := of_some rfl (Nat.le_of_ble_eq_true rfl) rfl fun _ => rfl
theorem ldg (o : OpM) : Statement (.ldg o) := of_some rfl (Nat.le_of_ble_eq_true rfl) rfl fun _ => rfl
theorem stg (o : OpM) : Statement (.stg o) := of_some rfl (Nat.le_of_ble_eq_true rfl) rfl fun _ => rfl
theorem upd (o : OpM) : Statement (.upd o) := of_some rfl (Nat.le_of_ble_eq_true rfl) rfl fun _ => rfl
theorem updf (o : OpM) : Statement (.updf o) := of_some rfl (Nat.le_of_ble_eq_true rfl) rfl fun _ => rfl
theorem ucas (o : OpM) : Statement (.ucas o) := of_some rfl (Nat.le_of_ble_eq_true rfl) rfl fun _ => rfl
theorem fence (o : OpI) : Statement (.fence o) := of_some rfl (Nat.le_of_ble_eq_true rfl) rfl fun _ => rfl
theorem bara (o : OpM) : Statement (.bara o) := of_some rfl (Nat.le_of_ble_eq_true rfl) rfl fun _ => rfl
theorem barw (o : OpM) : Statement (.barw o) := of_some rfl (Nat.le_of_ble_eq_true rfl) rfl fun _ => rfl
theorem apset (o : OpS) : Statement (.apset o) := of_some rfl (Nat.le_of_ble_eq_true rfl) rfl fun _ => rfl
theorem apcpy (o : OpS) : Statement (.apcpy o) := of_some rfl (Nat.le_of_ble_eq_true rfl) rfl fun _ => rfl
theorem apld (o : OpS) : Statement (.apld o) := of_some rfl (Nat.le_of_ble_eq_true rfl) rfl fun _ => rfl
theorem apclr (o : OpS) : Statement (.apclr o) := of_some rfl (Nat.le_of_ble_eq_true rfl) rfl fun _ => rfl
theorem sbind (o : OpS) : Statement (.sbind o) := of_some rfl (Nat.le_of_ble_eq_true rfl) rfl fun _ => rfl
theorem sbindw (o : OpS) : Statement (.sbindw o) := of_some rfl (Nat.le_of_ble_eq_true rfl) rfl fun _ => rfl
theorem sgath (o : OpS) : Statement (.sgath o) := of_some rfl (Nat.le_of_ble_eq_true rfl) rfl fun _ => rfl
theorem sscat (o : OpS) : Statement (.sscat o) := of_some rfl (Nat.le_of_ble_eq_true rfl) rfl fun _ => rfl
theorem supd (o : OpS) : Statement (.supd o) := of_some rfl (Nat.le_of_ble_eq_true rfl) rfl fun _ => rfl
theorem scopy (o : OpS) : Statement (.scopy o) := of_some rfl (Nat.le_of_ble_eq_true rfl) rfl fun _ => rfl
theorem sscl (o : OpS) : Statement (.sscl o) := of_some rfl (Nat.le_of_ble_eq_true rfl) rfl fun _ => rfl
theorem swait (o : OpS) : Statement (.swait o) := of_some rfl (Nat.le_of_ble_eq_true rfl) rfl fun _ => rfl
theorem sstat (o : OpS) : Statement (.sstat o) := of_some rfl (Nat.le_of_ble_eq_true rfl) rfl fun _ => rfl
theorem skill (o : OpS) : Statement (.skill o) := of_some rfl (Nat.le_of_ble_eq_true rfl) rfl fun _ => rfl
theorem sbar (o : OpS) : Statement (.sbar o) := of_some rfl (Nat.le_of_ble_eq_true rfl) rfl fun _ => rfl
theorem cred (o : OpS) : Statement (.cred o) := of_some rfl (Nat.le_of_ble_eq_true rfl) rfl fun _ => rfl
theorem cbcst (o : OpS) : Statement (.cbcst o) := of_some rfl (Nat.le_of_ble_eq_true rfl) rfl fun _ => rfl
theorem cagth (o : OpS) : Statement (.cagth o) := of_some rfl (Nat.le_of_ble_eq_true rfl) rfl fun _ => rfl
theorem cfgnx (o : OpS) : Statement (.cfgnx o) := of_some rfl (Nat.le_of_ble_eq_true rfl) rfl fun _ => rfl
theorem btok (o : OpI) : Statement (.btok o) := of_some rfl (Nat.le_of_ble_eq_true rfl) rfl fun _ => rfl
theorem ttld (o : OpS) : Statement (.ttld o) := of_some rfl (Nat.le_of_ble_eq_true rfl) rfl fun hw => by
  have h : o.sub = 0 := fields_of_wf (fun m h => by simp [Instr.fieldsOk] at h; tauto) hw
  simp [ofParts, ofS, h]
theorem ttldClear (o : OpS) : Statement (.ttldClear o) := of_some rfl (Nat.le_of_ble_eq_true rfl) rfl fun hw => by
  have h : o.sub = 1 := fields_of_wf (fun m h => by simp [Instr.fieldsOk] at h; tauto) hw
  simp [ofParts, ofS, h]
theorem tfetch (o : OpS) : Statement (.tfetch o) := of_some rfl (Nat.le_of_ble_eq_true rfl) rfl fun _ => rfl
theorem tevict (o : OpS) : Statement (.tevict o) := of_some rfl (Nat.le_of_ble_eq_true rfl) rfl fun _ => rfl
theorem tpin (o : OpS) : Statement (.tpin o) := of_some rfl (Nat.le_of_ble_eq_true rfl) rfl fun hw => by
  have h : o.sub = 0 := fields_of_wf (fun m h => by simp [Instr.fieldsOk] at h; tauto) hw
  simp [ofParts, ofS, h]
theorem tpinUnpin (o : OpS) : Statement (.tpinUnpin o) := of_some rfl (Nat.le_of_ble_eq_true rfl) rfl fun hw => by
  have h : o.sub = 1 := fields_of_wf (fun m h => by simp [Instr.fieldsOk] at h; tauto) hw
  simp [ofParts, ofS, h]
theorem tresStatus (o : OpS) : Statement (.tresStatus o) := of_some rfl (Nat.le_of_ble_eq_true rfl) rfl fun hw => by
  have h : o.sub = 0 := fields_of_wf (fun m h => by simp [Instr.fieldsOk] at h; tauto) hw
  simp [ofParts, ofS, h]
theorem tresResume (o : OpS) : Statement (.tresResume o) := of_some rfl (Nat.le_of_ble_eq_true rfl) rfl fun hw => by
  have h : o.sub = 1 := fields_of_wf (fun m h => by simp [Instr.fieldsOk] at h; tauto) hw
  simp [ofParts, ofS, h]
theorem tresResident (o : OpS) : Statement (.tresResident o) := of_some rfl (Nat.le_of_ble_eq_true rfl) rfl fun hw => by
  have h : o.sub = 2 := fields_of_wf (fun m h => by simp [Instr.fieldsOk] at h; tauto) hw
  simp [ofParts, ofS, h]
theorem scopyk (o : OpS) : Statement (.scopyk o) := of_some rfl (Nat.le_of_ble_eq_true rfl) rfl fun _ => rfl
theorem kopen (o : OpS) : Statement (.kopen o) := of_some rfl (Nat.le_of_ble_eq_true rfl) rfl fun _ => rfl
theorem kclose (o : OpS) : Statement (.kclose o) := of_some rfl (Nat.le_of_ble_eq_true rfl) rfl fun _ => rfl
theorem trap (o : OpY) : Statement (.trap o) := of_some rfl (Nat.le_of_ble_eq_true rfl) rfl fun _ => rfl
theorem brk (o : OpY) : Statement (.brk o) := of_some rfl (Nat.le_of_ble_eq_true rfl) rfl fun _ => rfl
theorem rte (o : OpY) : Statement (.rte o) := of_some rfl (Nat.le_of_ble_eq_true rfl) rfl fun _ => rfl
theorem srd (o : OpY) : Statement (.srd o) := of_some rfl (Nat.le_of_ble_eq_true rfl) rfl fun hw => by
  have h : o.imm.toNat ≠ 0xB03 := fields_of_wf (fun m h => by simp [Instr.fieldsOk] at h; exact h.2) hw
  simp [ofParts, ofY, h]
theorem swr (o : OpY) : Statement (.swr o) := of_some rfl (Nat.le_of_ble_eq_true rfl) rfl fun _ => rfl
theorem hcall (o : OpY) : Statement (.hcall o) := of_some rfl (Nat.le_of_ble_eq_true rfl) rfl fun _ => rfl
theorem wfi (o : OpY) : Statement (.wfi o) := of_some rfl (Nat.le_of_ble_eq_true rfl) rfl fun _ => rfl
theorem qpost (o : OpY) : Statement (.qpost o) := of_some rfl (Nat.le_of_ble_eq_true rfl) rfl fun _ => rfl
theorem qctlStatus (o : OpY) : Statement (.qctlStatus o) := of_some rfl (Nat.le_of_ble_eq_true rfl) rfl fun hw => by
  have h : o.sub = 0 := fields_of_wf (fun m h => by simp [Instr.fieldsOk] at h; tauto) hw
  simp [ofParts, ofY, h]
theorem qctlPrio (o : OpY) : Statement (.qctlPrio o) := of_some rfl (Nat.le_of_ble_eq_true rfl) rfl fun hw => by
  have h : o.sub = 1 := fields_of_wf (fun m h => by simp [Instr.fieldsOk] at h; tauto) hw
  simp [ofParts, ofY, h]
theorem qctlEnable (o : OpY) : Statement (.qctlEnable o) := of_some rfl (Nat.le_of_ble_eq_true rfl) rfl fun hw => by
  have h : o.sub = 2 := fields_of_wf (fun m h => by simp [Instr.fieldsOk] at h; tauto) hw
  simp [ofParts, ofY, h]
theorem qctlDisable (o : OpY) : Statement (.qctlDisable o) := of_some rfl (Nat.le_of_ble_eq_true rfl) rfl fun hw => by
  have h : o.sub = 3 := fields_of_wf (fun m h => by simp [Instr.fieldsOk] at h; tauto) hw
  simp [ofParts, ofY, h]
theorem qctlFlush (o : OpY) : Statement (.qctlFlush o) := of_some rfl (Nat.le_of_ble_eq_true rfl) rfl fun hw => by
  have h : o.sub = 4 := fields_of_wf (fun m h => by simp [Instr.fieldsOk] at h; tauto) hw
  simp [ofParts, ofY, h]
theorem qctlAssign (o : OpY) : Statement (.qctlAssign o) := of_some rfl (Nat.le_of_ble_eq_true rfl) rfl fun hw => by
  have h : o.sub = 5 := fields_of_wf (fun m h => by simp [Instr.fieldsOk] at h; tauto) hw
  simp [ofParts, ofY, h]
theorem placeLaunch (o : OpY) : Statement (.placeLaunch o) := of_some rfl (Nat.le_of_ble_eq_true rfl) rfl fun hw => by
  have h : o.sub = 0 := fields_of_wf (fun m h => by simp [Instr.fieldsOk] at h; tauto) hw
  simp [ofParts, ofY, h]
theorem placeMove (o : OpY) : Statement (.placeMove o) := of_some rfl (Nat.le_of_ble_eq_true rfl) rfl fun hw => by
  have h : o.sub = 1 := fields_of_wf (fun m h => by simp [Instr.fieldsOk] at h; tauto) hw
  simp [ofParts, ofY, h]
theorem placeCompact (o : OpY) : Statement (.placeCompact o) := of_some rfl (Nat.le_of_ble_eq_true rfl) rfl fun hw => by
  have h : o.sub = 2 := fields_of_wf (fun m h => by simp [Instr.fieldsOk] at h; tauto) hw
  simp [ofParts, ofY, h]
theorem placeDiscard (o : OpY) : Statement (.placeDiscard o) := of_some rfl (Nat.le_of_ble_eq_true rfl) rfl fun hw => by
  have h : o.sub = 3 := fields_of_wf (fun m h => by simp [Instr.fieldsOk] at h; tauto) hw
  simp [ofParts, ofY, h]
theorem psnapCut (o : OpY) : Statement (.psnapCut o) := of_some rfl (Nat.le_of_ble_eq_true rfl) rfl fun hw => by
  have h : o.sub = 0 ∨ o.sub = 2 := fields_of_wf (fun m h => by simp [Instr.fieldsOk] at h; tauto) hw
  rcases h with h | h <;> simp [ofParts, ofY, h]
theorem psnapMarker (o : OpY) : Statement (.psnapMarker o) := of_some rfl (Nat.le_of_ble_eq_true rfl) rfl fun hw => by
  have h : o.sub = 1 ∨ o.sub = 3 := fields_of_wf (fun m h => by simp [Instr.fieldsOk] at h; tauto) hw
  rcases h with h | h <;> simp [ofParts, ofY, h]
theorem prest (o : OpY) : Statement (.prest o) := of_some rfl (Nat.le_of_ble_eq_true rfl) rfl fun _ => rfl
theorem plsw (o : OpY) : Statement (.plsw o) := of_some rfl (Nat.le_of_ble_eq_true rfl) rfl fun _ => rfl
theorem rinvPages (o : OpY) : Statement (.rinvPages o) := of_some rfl (Nat.le_of_ble_eq_true rfl) rfl fun hw => by
  have h : o.sub = 0 := fields_of_wf (fun m h => by simp [Instr.fieldsOk] at h; tauto) hw
  simp [ofParts, ofY, h]
theorem rinvRange (o : OpY) : Statement (.rinvRange o) := of_some rfl (Nat.le_of_ble_eq_true rfl) rfl fun hw => by
  have h : o.sub = 1 := fields_of_wf (fun m h => by simp [Instr.fieldsOk] at h; tauto) hw
  simp [ofParts, ofY, h]
theorem rinvContext (o : OpY) : Statement (.rinvContext o) := of_some rfl (Nat.le_of_ble_eq_true rfl) rfl fun hw => by
  have h : o.sub = 2 := fields_of_wf (fun m h => by simp [Instr.fieldsOk] at h; tauto) hw
  simp [ofParts, ofY, h]
theorem rinvPart (o : OpY) : Statement (.rinvPart o) := of_some rfl (Nat.le_of_ble_eq_true rfl) rfl fun hw => by
  have h : o.sub = 3 := fields_of_wf (fun m h => by simp [Instr.fieldsOk] at h; tauto) hw
  simp [ofParts, ofY, h]
theorem xinvFrames (o : OpY) : Statement (.xinvFrames o) := of_some rfl (Nat.le_of_ble_eq_true rfl) rfl fun hw => by
  have h : o.sub = 0 := fields_of_wf (fun m h => by simp [Instr.fieldsOk] at h; tauto) hw
  simp [ofParts, ofY, h]
theorem xinvPart (o : OpY) : Statement (.xinvPart o) := of_some rfl (Nat.le_of_ble_eq_true rfl) rfl fun hw => by
  have h : o.sub = 1 := fields_of_wf (fun m h => by simp [Instr.fieldsOk] at h; tauto) hw
  simp [ofParts, ofY, h]
theorem kshrAssign (o : OpY) : Statement (.kshrAssign o) := of_some rfl (Nat.le_of_ble_eq_true rfl) rfl fun hw => by
  have h : o.sub = 0 := fields_of_wf (fun m h => by simp [Instr.fieldsOk] at h; tauto) hw
  simp [ofParts, ofY, h]
theorem kshrBegin (o : OpY) : Statement (.kshrBegin o) := of_some rfl (Nat.le_of_ble_eq_true rfl) rfl fun hw => by
  have h : o.sub = 1 := fields_of_wf (fun m h => by simp [Instr.fieldsOk] at h; tauto) hw
  simp [ofParts, ofY, h]
theorem kshrFinish (o : OpY) : Statement (.kshrFinish o) := of_some rfl (Nat.le_of_ble_eq_true rfl) rfl fun hw => by
  have h : o.sub = 2 := fields_of_wf (fun m h => by simp [Instr.fieldsOk] at h; tauto) hw
  simp [ofParts, ofY, h]
theorem kshrErase (o : OpY) : Statement (.kshrErase o) := of_some rfl (Nat.le_of_ble_eq_true rfl) rfl fun hw => by
  have h : o.sub = 3 := fields_of_wf (fun m h => by simp [Instr.fieldsOk] at h; tauto) hw
  simp [ofParts, ofY, h]
theorem mtrdRead (o : OpY) : Statement (.mtrdRead o) := of_some rfl (Nat.le_of_ble_eq_true rfl) rfl fun hw => by
  have h : o.sub = 0 := fields_of_wf (fun m h => by simp [Instr.fieldsOk] at h; tauto) hw
  simp [ofParts, ofY, h]
theorem mtrdRecord (o : OpY) : Statement (.mtrdRecord o) := of_some rfl (Nat.le_of_ble_eq_true rfl) rfl fun hw => by
  have h : o.sub = 1 := fields_of_wf (fun m h => by simp [Instr.fieldsOk] at h; tauto) hw
  simp [ofParts, ofY, h]
theorem mtrdQuote (o : OpY) : Statement (.mtrdQuote o) := of_some rfl (Nat.le_of_ble_eq_true rfl) rfl fun hw => by
  have h : o.sub = 2 := fields_of_wf (fun m h => by simp [Instr.fieldsOk] at h; tauto) hw
  simp [ofParts, ofY, h]
theorem dbgMtdata (o : OpY) : Statement (.dbgMtdata o) := of_some rfl (Nat.le_of_ble_eq_true rfl) rfl fun hw => by
  have h : o.imm.toNat = 0xB03 := fields_of_wf (fun m h => by simp [Instr.fieldsOk] at h; exact h.2) hw
  simp [ofParts, ofY, h]
theorem trapHAck (x0 : CoreId) (x1 : Word) : Statement (.trapHAck x0 x1) := of_none rfl
theorem privWake (x0 : CoreId) (x1 : Word) : Statement (.privWake x0 x1) := of_none rfl
theorem shepPaddock (x0 : CoreId) (x1 : Word) : Statement (.shepPaddock x0 x1) := of_none rfl
theorem shepPlown (x0 : CoreId) (x1 : Word) : Statement (.shepPlown x0 x1) := of_none rfl
theorem shepPlmap (x0 : CoreId) (x1 : Word) : Statement (.shepPlmap x0 x1) := of_none rfl
theorem schedCgtab (x0 : CoreId) (x1 : Word) : Statement (.schedCgtab x0 x1) := of_none rfl
theorem xlS2base (x0 : CoreId) (x1 : Word) : Statement (.xlS2base x0 x1) := of_none rfl
theorem partCtlOpen (x0 : Nat) : Statement (.partCtlOpen x0) := of_none rfl
theorem partCtlStart (x0 : Nat) : Statement (.partCtlStart x0) := of_none rfl
theorem partCtlStop (x0 : Nat) : Statement (.partCtlStop x0) := of_none rfl
theorem partFtag (x0 : CoreId) (x1 : Word) : Statement (.partFtag x0 x1) := of_none rfl
theorem controlBlockEntry (x0 : CoreId) : Statement (.controlBlockEntry x0) := of_none rfl
theorem controlBlockCommit (x0 : CoreId) : Statement (.controlBlockCommit x0) := of_none rfl
theorem recordStart (x0 x1 x2 : Nat) : Statement (.recordStart x0 x1 x2) := of_none rfl
theorem recordCommit (x0 x1 x2 : Nat) : Statement (.recordCommit x0 x1 x2) := of_none rfl
theorem roundBoundary (x0 : Nat) : Statement (.roundBoundary x0) := of_none rfl
theorem roundResume (x0 : Nat) : Statement (.roundResume x0) := of_none rfl
theorem roundVoid (x0 : Nat) : Statement (.roundVoid x0) := of_none rfl
theorem tokenArrival (x0 : Arrival) : Statement (.tokenArrival x0) := of_none rfl
theorem bankOwnershipTokenArrival (x0 x1 x2 : Nat) : Statement (.bankOwnershipTokenArrival x0 x1 x2) := of_none rfl
theorem fillPortToken (x0 x1 x2 : Nat) : Statement (.fillPortToken x0 x1 x2) := of_none rfl
theorem reconfigTokenPass (x0 x1 : Nat) : Statement (.reconfigTokenPass x0 x1) := of_none rfl
theorem lengthMismatch (x0 x1 x2 x3 : Nat) : Statement (.lengthMismatch x0 x1 x2 x3) := of_none rfl
theorem stallWatchdog (x0 : Watched) : Statement (.stallWatchdog x0) := of_none rfl
theorem operatorJoin (x0 x1 x2 : Nat) : Statement (.operatorJoin x0 x1 x2) := of_none rfl
theorem operatorMerge (x0 x1 x2 : Nat) : Statement (.operatorMerge x0 x1 x2) := of_none rfl
theorem operatorSplay (x0 x1 x2 : Nat) : Statement (.operatorSplay x0 x1 x2) := of_none rfl
theorem operatorZip (x0 x1 x2 : Nat) : Statement (.operatorZip x0 x1 x2) := of_none rfl
theorem operatorUnzip (x0 x1 x2 : Nat) : Statement (.operatorUnzip x0 x1 x2) := of_none rfl
theorem operatorScan (x0 x1 x2 : Nat) : Statement (.operatorScan x0 x1 x2) := of_none rfl
theorem operatorReduce (x0 x1 x2 : Nat) : Statement (.operatorReduce x0 x1 x2) := of_none rfl
theorem operatorCompact (x0 x1 x2 : Nat) : Statement (.operatorCompact x0 x1 x2) := of_none rfl
theorem operatorQuant (x0 x1 x2 : Nat) : Statement (.operatorQuant x0 x1 x2) := of_none rfl
theorem operatorDequant (x0 x1 x2 : Nat) : Statement (.operatorDequant x0 x1 x2) := of_none rfl
theorem operatorTranspose (x0 x1 x2 : Nat) : Statement (.operatorTranspose x0 x1 x2) := of_none rfl
theorem scoreboardCommandStart (x0 : CoreId) (x1 : Nat) : Statement (.scoreboardCommandStart x0 x1) := of_none rfl
theorem streamFetch (x0 x1 : Nat) : Statement (.streamFetch x0 x1) := of_none rfl
theorem streamDeliver (x0 x1 : Nat) : Statement (.streamDeliver x0 x1) := of_none rfl
theorem streamFetchFaultRaise (x0 x1 : Nat) : Statement (.streamFetchFaultRaise x0 x1) := of_none rfl
theorem streamOutputStage (x0 x1 : Nat) : Statement (.streamOutputStage x0 x1) := of_none rfl
theorem gatherIndexToken (x0 x1 : Nat) : Statement (.gatherIndexToken x0 x1) := of_none rfl
theorem scatterIndexToken (x0 x1 : Nat) : Statement (.scatterIndexToken x0 x1) := of_none rfl
theorem updateIndexToken (x0 x1 : Nat) : Statement (.updateIndexToken x0 x1) := of_none rfl
theorem copyComplete (x0 : Nat) : Statement (.copyComplete x0) := of_none rfl
theorem copyFault (x0 : Nat) : Statement (.copyFault x0) := of_none rfl
theorem collectiveComplete (x0 x1 : Nat) : Statement (.collectiveComplete x0 x1) := of_none rfl
theorem teMarkerReport : Statement (.teMarkerReport) := of_none rfl
theorem teFetchAction (x0 x1 : Nat) : Statement (.teFetchAction x0 x1) := of_none rfl
theorem teEvictAction (x0 x1 : Nat) : Statement (.teEvictAction x0 x1) := of_none rfl
theorem teFillComplete (x0 x1 : Nat) : Statement (.teFillComplete x0 x1) := of_none rfl
theorem teDrainComplete (x0 x1 : Nat) : Statement (.teDrainComplete x0 x1) := of_none rfl
theorem dispatchDecision : Statement (.dispatchDecision) := of_none rfl
theorem dependenceReread (x0 : Nat) : Statement (.dependenceReread x0) := of_none rfl
theorem queuePromotion (x0 : Nat) : Statement (.queuePromotion x0) := of_none rfl
theorem install : Statement (.install) := of_none rfl
theorem restoreSourcesResume (x0 : Nat) : Statement (.restoreSourcesResume x0) := of_none rfl
theorem instanceEnd (x0 : Nat) : Statement (.instanceEnd x0) := of_none rfl
theorem shepherdMove (x0 : Nat) : Statement (.shepherdMove x0) := of_none rfl
theorem compactTimeout (x0 : Nat) : Statement (.compactTimeout x0) := of_none rfl
theorem snapshotCut (x0 : Nat) : Statement (.snapshotCut x0) := of_none rfl
theorem snapshotMarkerArrival (x0 x1 : Nat) : Statement (.snapshotMarkerArrival x0 x1) := of_none rfl
theorem snapshotImageWrite (x0 : Nat) : Statement (.snapshotImageWrite x0) := of_none rfl
theorem planeSwitch (x0 : Nat) : Statement (.planeSwitch x0) := of_none rfl
theorem edgeDepthApply (x0 x1 x2 : Nat) : Statement (.edgeDepthApply x0 x1 x2) := of_none rfl
theorem trapEntry (x0 : CoreId) : Statement (.trapEntry x0) := of_none rfl
theorem hQueueTake : Statement (.hQueueTake) := of_none rfl
theorem eventRingWrite (x0 : Nat) : Statement (.eventRingWrite x0) := of_none rfl
theorem eventRingAck (x0 x1 : Nat) : Statement (.eventRingAck x0 x1) := of_none rfl
theorem wfiTimeout (x0 : CoreId) : Statement (.wfiTimeout x0) := of_none rfl
theorem clearLine (x0 x1 : Nat) : Statement (.clearLine x0 x1) := of_none rfl
theorem memoryLineRead (x0 : LineReq) : Statement (.memoryLineRead x0) := of_none rfl
theorem memoryLineWrite (x0 : LineReq) : Statement (.memoryLineWrite x0) := of_none rfl
theorem bandSample (x0 : List (Option Nat)) : Statement (.bandSample x0) := of_none rfl
theorem hbmGroupRetrain (x0 : Nat) : Statement (.hbmGroupRetrain x0) := of_none rfl
theorem patrolPassComplete (n) : Statement (.patrolPassComplete n) := of_none rfl
theorem governorDecision (x0 : Nat) : Statement (.governorDecision x0) := of_none rfl
theorem meterPeriodicRecord (x0 : Nat) : Statement (.meterPeriodicRecord x0) := of_none rfl
theorem kshrBeginServe : Statement (.kshrBeginServe) := of_none rfl
theorem kshrFinishServe : Statement (.kshrFinishServe) := of_none rfl
theorem mtrdRecordServe : Statement (.mtrdRecordServe) := of_none rfl
theorem mtrdQuoteServe : Statement (.mtrdQuoteServe) := of_none rfl
theorem boot : Statement (.boot) := of_none rfl
theorem powerLoss : Statement (.powerLoss) := of_none rfl
theorem mgmtOpen (x0 : MgmtMsg) : Statement (.mgmtOpen x0) := of_none rfl
theorem mgmtConfirm (x0 : MgmtMsg) : Statement (.mgmtConfirm x0) := of_none rfl
theorem mgmtClose (x0 : MgmtMsg) : Statement (.mgmtClose x0) := of_none rfl
theorem mgmtLock (x0 : MgmtMsg) : Statement (.mgmtLock x0) := of_none rfl
theorem mgmtRenew (x0 : MgmtMsg) : Statement (.mgmtRenew x0) := of_none rfl
theorem mgmtUnlock (x0 : MgmtMsg) : Statement (.mgmtUnlock x0) := of_none rfl
theorem mgmtWrite (x0 : MgmtMsg) : Statement (.mgmtWrite x0) := of_none rfl
theorem mgmtActivate (x0 : MgmtMsg) : Statement (.mgmtActivate x0) := of_none rfl
theorem mgmtSetkeys (x0 : MgmtMsg) : Statement (.mgmtSetkeys x0) := of_none rfl
theorem mgmtCool (x0 : MgmtMsg) : Statement (.mgmtCool x0) := of_none rfl
theorem mgmtWarm (x0 : MgmtMsg) : Statement (.mgmtWarm x0) := of_none rfl
theorem mgmtExport (x0 : MgmtMsg) : Statement (.mgmtExport x0) := of_none rfl
theorem mgmtSetival (x0 : MgmtMsg) : Statement (.mgmtSetival x0) := of_none rfl
theorem mgmtReset (x0 : MgmtMsg) : Statement (.mgmtReset x0) := of_none rfl
theorem mgmtPowerOff (x0 : MgmtMsg) : Statement (.mgmtPowerOff x0) := of_none rfl
theorem lockLeaseExpiry (x0 : Nat) : Statement (.lockLeaseExpiry x0) := of_none rfl
theorem sessionTimeout (x0 : Nat) : Statement (.sessionTimeout x0) := of_none rfl
theorem peerReadRequest (x0 : PeerMsg) : Statement (.peerReadRequest x0) := of_none rfl
theorem peerReadData (x0 : PeerMsg) : Statement (.peerReadData x0) := of_none rfl
theorem peerWrite (x0 : PeerMsg) : Statement (.peerWrite x0) := of_none rfl
theorem peerWriteAck (x0 : PeerMsg) : Statement (.peerWriteAck x0) := of_none rfl
theorem peerUpdate (x0 : PeerMsg) : Statement (.peerUpdate x0) := of_none rfl
theorem peerCollective (x0 : PeerMsg) : Statement (.peerCollective x0) := of_none rfl
theorem peerTokenData (x0 : PeerMsg) : Statement (.peerTokenData x0) := of_none rfl
theorem peerCreditReturn (x0 : PeerMsg) : Statement (.peerCreditReturn x0) := of_none rfl
theorem peerReservedFlit (x0 : PeerMsg) : Statement (.peerReservedFlit x0) := of_none rfl
theorem linkDown (x0 : Nat) : Statement (.linkDown x0) := of_none rfl
theorem t2ReadData (x0 : T2Msg) : Statement (.t2ReadData x0) := of_none rfl
theorem t2WriteAck (x0 : T2Msg) : Statement (.t2WriteAck x0) := of_none rfl
theorem t2CreditReturn (x0 : T2Msg) : Statement (.t2CreditReturn x0) := of_none rfl
theorem t2ReservedFlit (x0 : T2Msg) : Statement (.t2ReservedFlit x0) := of_none rfl
theorem rdmaWriteInbound (x0 : RdmaMsg) : Statement (.rdmaWriteInbound x0) := of_none rfl
theorem rdmaReadInbound (x0 : RdmaMsg) : Statement (.rdmaReadInbound x0) := of_none rfl
theorem rdmaSendInbound (x0 : RdmaMsg) : Statement (.rdmaSendInbound x0) := of_none rfl
theorem roceUnsupportedRequest (x0 : RdmaMsg) : Statement (.roceUnsupportedRequest x0) := of_none rfl
theorem retreatRowRefreshComplete : Statement (.retreatRowRefreshComplete) := of_none rfl
theorem roceResponseInbound (x0 : RdmaMsg) : Statement (.roceResponseInbound x0) := of_none rfl
theorem priorityFlowControlFrame (x0 x1 : Nat) (x2 : Bool) : Statement (.priorityFlowControlFrame x0 x1 x2) := of_none rfl
theorem congestionNotificationPacket (x0 : Nat) : Statement (.congestionNotificationPacket x0) := of_none rfl
theorem flitAcknowledgement (x0 : Nat) (x1 : Bool) : Statement (.flitAcknowledgement x0 x1) := of_none rfl

end Sys2Proof.Laws.Encoding
end

