-- ==== Sys2Proof/Tests/Slice0.lean ====
section
/-! SUPPORT. Tests: ill-formed terms, words of the manual's examples, results worked out by hand from the rules, and
for the hypotheses of each statement a state and operands that meet them. -/

set_option Elab.async false

namespace Sys2Proof.Tests

open Sys2Proof Sys2Proof.Machine

/-! ### Fields to start from -/

def hd0 : Head := { pm := .none, t0 := .none, t1 := .none }
def toOut : Head := { pm := .none, t0 := .out 0, t1 := .none }
def og (t : Ty) : OpG := { hd := toOut, ty := t, rm := .rne, sat := false, lrl := false, lrr := false, fn := 0 }
def oi (t : Ty) (imm : BitVec 16) : OpI := { hd := toOut, ty := t, imm := imm, fn := 0, lrl := false, lrr := false }
def om (t : Ty) : OpM :=
  { hd := hd0, ty := t, lsid := 0, mode := .scalar, off := 0, auxh := 0, auxl := 0 }
def ox : OpX :=
  { hd := hd0, afmt := .i8, bfmt := .i8, acc := .set, ks := 0, scm := 0, bank := 0, ba := 0, bb := 1
    tra := false, trb := false }
def oc : OpC := { hd := hd0, ga := 0, gb := 0, exg := 0, off := 0 }
def os : OpS := { hd := hd0, vp := 0, ap := 0, ga := 0, gb := 0, sub := 0, aux := 0 }
def oy : OpY := { hd := hd0, sub := 0, ga := 0, gb := 0, imm := 0 }

/-! ### Ill-formed terms, one for each check -/

theorem test_illformed_fields :
    ([.nop (og .fp32), .nop { og .i32 with hd := toOut }, .drop (og .i32), .fan { og .i32 with rm := .rtz }
      , .rdp (oi .i32 16), .rdp { oi .i32 0 with hd := { toOut with pm := .onTrue } }, .movh (oi .i16 1)
      , .lcnt (oi .w32 4), .pois (oi .w32 0), .mark (oi .i32 0x1000), .add { og .i32 with rm := .rtz }
      , .add (og .fp32), .adds { og .i32 with sat := true }, .mulh (og .w32), .lea { og .i32 with fn := 8 }
      , .min (og .w32), .minw (og .i32), .sra (og .w32), .cmp { og .i32 with fn := 6 }
      , .addi { oi .i32 0 with fn := 2 }, .bfx (oi .i32 0x1000), .bfx (oi .i8 0x200), .fadd (og .i32)
      , .fmin { og .fp32 with rm := .rtz }, .fcvt { og .i32 with fn := 0 }, .frcp (og .i32)
      , .fdot2 (og .fp32), .lswp (oi .i32 0x8000), .lbcst (oi .i32 32), .lred { og .fp32 with fn := 8 }
      , .lvote { og .w32 with fn := 4 }, .lpack (og .fp32)] : List Instr).all (fun i => !i.wellFormed) = true := by
  decide +kernel

theorem test_illformed_memory_and_commands :
    ([.mbind (oi .i32 0x1000), .mma { ox with bfmt := .fp16 }, .mma { ox with scm := 1 }, .mzero { ox with tra := true }
      , .mout { og .fp32 with hd := { hd0 with t0 := .left 0 } }, .lds { om .i32 with mode := .lane, ty := .i16 }
      , .sts { om .i32 with auxh := 1 }, .ldb { om .i32 with auxh := 2 }, .stb (om .w32), .ldg { om .i32 with mode := .lane }
      , .upd { om .i32 with auxl := 10 }, .ucas { om .i32 with auxl := 1 }, .fence { oi .i32 0x0005 with hd := hd0 }
      , .bara (om .i32), .apset { os with sub := 8 }, .scopy { os with sub := 8 }, .scopy { os with sub := 4, gb := 1 }
      , .route { oc with ga := 1 }, .bro { oc with exg := 1 }, .halt { oc with off := 1 }, .rdg { oc with gb := 1 }
      , .trap { oy with sub := 1 }, .rte { oy with imm := 1 }, .qpost { oy with sub := 1 }, .boot
      , .trapHAck (.sys 0) 0] : List Instr).all (fun i => !i.wellFormed) = true := by decide +kernel

/-! ### Decoding: words of the manual's examples -/

/-- R135, the loop of two blocks. -/
theorem test_decode_R135 :
    decode 0x1610200080000000#64
        = .ok (.rdg { hd := { pm := .none, t0 := .left 1, t1 := .none }, ga := 1, gb := 0, exg := 0, off := 0 })
      ∧ decode 0x2110483EFFFF0000#64
        = .ok (.addi { hd := { pm := .none, t0 := .left 2, t1 := .left 3 }, ty := .i64, imm := 0xFFFF, fn := 0
                       lrl := false, lrr := false })
      ∧ decode 0x0520A86000000000#64
        = .ok (.fan { og .i32 with hd := { pm := .none, t0 := .right 5, t1 := .left 6 } })
      ∧ decode 0x4031000E00000400#64
        = .ok (.cmpi { hd := { pm := .none, t0 := .pred 8, t1 := .none }, ty := .i64, imm := 0, fn := 1
                       lrl := false, lrr := false })
      ∧ decode 0x1500000000000000#64 = .ok (.halt oc) := by decide +kernel

/-- R162, R190 and R218: a lane instruction, MBIND of a matrix block, and pattern and port commands. -/
theorem test_decode_families :
    (decode 0x5B20800600000000#64).toOption.isSome = true
      ∧ decode 0x7810800000100000#64
        = .ok (.mbind { hd := { pm := .none, t0 := .left 4, t1 := .none }, ty := .i32, imm := 0x10, fn := 0
                        lrl := false, lrr := false })
      ∧ decode 0xA100000004000000#64 = .ok (.apcpy { os with ap := 1 })
      ∧ decode 0xAB00000040000000#64 = .ok (.swait { os with vp := 1 }) := by decide +kernel

/-- R403: KSHR ASSIGN and BEGIN. -/
theorem test_decode_system :
    decode 0xE800000004000003#64 = .ok (.kshrAssign { oy with ga := 2, imm := 3 })
      ∧ decode 0xE800000048500003#64 = .ok (.kshrBegin { oy with sub := 1, ga := 4, gb := 5, imm := 3 }) := by
  decide +kernel

/-- Reserved words are refused: OP 0x00, PM 11, a target of kind 00 and index 1, RM 6, ADD of an FP type, a
non-zero reserved bit (R83, R85, R97). -/
theorem test_decode_refuses :
    ([0x0000000000000000, 0x01C0000000000000, 0x0500200000000000, 0x20000000C0000000, 0x2000000600000000
      , 0x0100000000000001] : List (BitVec 64)).all
      (fun w => (decode w).toOption.isNone) = true := by decide +kernel

/-! ### States to fire an instruction in -/

def tok (n : Nat) : Tok := { data := BitVec.ofNat 1024 n }

def hdr (m : BlkMode) : BlkHdr :=
  { nins := 1, mode := m, stmask := 0, portmask := 0, pgrp := 0, lcen := 0, marker := 0, markf := false
    roundb := false, ppol := .plain, heavy := 0 }

def blk (m : BlkMode) (i : Instr) (l r t : Tok) : Blk :=
  { hdr := hdr m, slots := [{ ins := i, l := [l], r := [r], t := [t] }], started := 1 }

/-- A bank that holds a complete fill and bytes 1 at 0. -/
def bank0 : Bank := { full := [0], bytes := [(0, 1)] }

/-- An instance of one page: tile 0 runs the block with bindings 0 and 1 to banks 0 and 1 of tile 1. -/
def inst0 (b : Blk) (b0 b1 : Bank) : Inst :=
  { ctx := 0, part := 0, row0 := 0, col0 := 0, w := 1, h := 1, granted := 1
    fab := { tiles := [
      (0, { kind := .ct { blks := [b], binds := [some { tile := 1, bank := 0 }, some { tile := 1, bank := 1 }] }
            inp := [(0, { feeder := .route, q := [tok 7] })]
            out := [(0, { sink := .unused })] }),
      (1, { kind := .mt { banks := [b0, b1], bc := [5] } })] } }

/-- The instruction stands in the element block of instance 1. -/
def eltB (b0 b1 : Bank) (i : Instr) (l r t : Tok) : State :=
  { State.reset with dev := {
      pkg := .run, insts := [(1, inst0 (blk .element i l r t) b0 b1)], focus := .elem 1 0 0 0 } }
def elt (i : Instr) (l r t : Tok) : State := eltB bank0 bank0 i l r t

/-- The instruction stands in the control block of a core, over a device. -/
def ctlOn (d : Dev) (id : CoreId) (i : Instr) (l r t : Tok) : State :=
  { State.reset with dev := { d with pkg := .run, focus := .fire id 0 }.updCore id fun c =>
      { c with thread := .live, frame := some { addr := 0, blk := blk .control i l r t } } }
def ctl (i : Instr) (l r t : Tok) : State := ctlOn {} (.sys 0) i l r t

/-- As `ctlOn`, with its operands captured at the commit of its block. -/
def comOn (d : Dev) (id : CoreId) (i : Instr) (a b c : Tok) : State :=
  { State.reset with dev := { d with pkg := .run, focus := .commit id 0 }.updCore id fun k =>
      { k with
        thread := .live
        frame := some { addr := 0, blk := blk .control i a b c
                        caps := [{ slot := 0, a := a, b := b, c := c, computes := true }] } } }
def com (i : Instr) (a b c : Tok) : State := comOn {} (.sys 0) i a b c

def sound (s : State) : Bool := s.mem.wf && s.dev.wq.isEmpty && s.dev.tx == .ok

/-- The instruction can fire and computes, and a condition on its operands and the state holds. -/
def meets (s : State) (i : Instr) (ok : Site → Gathered → Mem → Dev → Bool) : Bool :=
  sound s && match s.dev.firing i with
    | some (e, g) => g.computes && ok e g s.mem s.dev
    | none => false

/-- The focus stands at the commit of a slot that has captured its operands, and a condition holds. -/
def commits (s : State) (ok : CoreId → Capture → Mem → Dev → Bool) : Bool :=
  sound s && match s.dev.focus with
    | .commit id slot => match (s.dev.core id).frame with
      | some f => match f.cap slot with
        | some c => !c.done && ok id c s.mem s.dev
        | none => false
      | none => false
    | _ => false

/-- A condition on the state of a step holds. -/
def steps (s : State) (ok : Mem → Dev → Bool) : Bool := sound s && ok s.mem s.dev

/-- DATA that the instruction delivers to output port 0. -/
def delivered (i : Instr) (l r t : Tok) : Option Tok :=
  match Machine.exec i (elt i l r t) with
  | .next s => (((s.dev.inst 1).bind fun x => x.tile 0).bind fun t => lookup 0 t.out).bind fun p => p.q.head?.map (·.tok)
  | _ => none

/-- The 64-bit value that the instruction delivers to output port 0 of the element it fires in. -/
def lane0 (w : Nat) (i : Instr) (l r t : Tok) : Option Nat := (delivered i l r t).map fun x => laneOf w x.data 0

/-! ### Hypotheses that are met: instructions that fire -/

theorem witness_dataflow :
    ([.nop { og .i32 with hd := hd0 }, .rdp (oi .i32 0), .movi (oi .i32 5), .movh (oi .w32 5), .fan (og .i32)
      , .null (og .i32), .drop { og .i32 with hd := hd0 }, .gate (og .i32), .sel (og .w32), .pois (oi .w32 2)
      , .poisc (og .i32), .mark (oi .i32 1), .route oc, .lcnt (oi .w32 0), .lidx (oi .w32 0)] : List Instr).all
      (fun i => meets (elt i (tok 1) (tok 2) (tok 3)) i fun e _ _ d =>
        (d.inst e.cfg).bind (·.tile e.tile) |>.bind (fun t => lookup 0 t.inp) |>.any fun p => !p.q.isEmpty) = true := by
  decide +kernel

theorem witness_integer :
    ([.add (og .i32), .addi (oi .i32 1), .sub (og .w32), .adds (og .i32), .subs (og .i32), .neg (og .i32), .abs (og .i32)
      , .mul (og .i32), .mulh (og .i32), .mulhw (og .w32), .madd (og .i32), .div (og .i32), .divw (og .w32)
      , .rem (og .i32), .remw (og .w32), .lea (og .w32), .min (og .i32), .max (og .i32), .minw (og .w32)
      , .maxw (og .w32), .and (og .w32), .or (og .w32), .xor (og .w32), .andn (og .w32), .shl (og .w32)
      , .shr (og .w32), .sra (og .i32), .rotl (og .w32), .clz (og .w32), .popc (og .w32), .brev (og .w32)
      , .cmp (og .i32), .cmpi (oi .i32 0), .bfx (oi .i32 0), .bfi (oi .i32 0)] : List Instr).all
      (fun i => i.wellFormed && meets (elt i (tok 1) (tok 0) (tok 3)) i fun _ _ _ _ => true) = true := by
  decide +kernel

theorem witness_float_and_lane :
    ([.fadd (og .fp32), .fsub (og .fp32), .fmul (og .fp32), .ffma (og .fp32), .fmin (og .fp32), .fmax (og .fp32)
      , .famax (og .fp32), .fabs (og .fp32), .fneg (og .fp32), .fcpys (og .fp32), .fcmp (og .fp32), .fclass (og .fp32)
      , .fcvt { og .fp32 with fn := 0 }, .frnd (og .fp32), .frcp (og .fp32), .frsq (og .fp32), .fsqrt (og .fp32)
      , .fexp2 (og .fp32), .flog2 (og .fp32), .fsint (og .fp32), .fcost (og .fp32), .ftanh (og .fp32)
      , .fscale (og .fp32), .fdot2 (og .bf16), .fdot4 (og .e4m3), .lswp (oi .fp32 0), .lperm (og .fp32)
      , .lbcst (oi .fp32 0), .lsld (oi .fp32 0), .lred (og .w32), .lscan (og .w32), .lvote (og .w32), .lmsk (og .w32)
      , .lcmpr (og .w32), .lexpd (og .w32), .lpack (og .e2m1), .lunpk (og .e2m1)] : List Instr).all
      (fun i => i.wellFormed && meets (elt i (tok 1) (tok 0) (tok 3)) i fun _ _ _ _ => true) = true := by
  decide +kernel

/-- An instruction that draws can fire when its tile's generator stands. -/
theorem witness_draws :
    meets (elt (.fadd { og .fp32 with rm := .rsto }) (tok 1) (tok 2) (tok 3)) (.fadd { og .fp32 with rm := .rsto })
      (fun e _ _ d => ((d.inst e.cfg).bind (·.ct e.tile)).isSome) = true := by decide +kernel

/-- One that does not compute consumes its operands as well. -/
theorem witness_not_computing :
    (match (elt (.add { og .i32 with hd := { toOut with pm := .onTrue } }) (tok 1) (tok 2) (tok 0)).dev.firing
        (.add { og .i32 with hd := { toOut with pm := .onTrue } }) with
      | some (_, g) => !g.computes
      | none => false) = true := by decide +kernel

/-- NaN, both infinities, both zeros, −1, 4, 10 and 0.75 in FP32, the numbers that R78's table names. -/
theorem witness_float_cases :
    ([0x7FC00000, 0x7F800000, 0xFF800000, 0x00000000, 0x80000000, 0xBF800000, 0x40800000, 0x41200000, 0x3F400000] :
        List Nat).map Ty.fp32.fmt.decode
      = [.nan, .inf false, .inf true, .fin false 0 (-149), .fin true 0 (-149), .fin true (2 ^ 23) (-23)
        , .fin false (2 ^ 23) (-21), .fin false (10 * 2 ^ 20) (-20), .fin false (3 * 2 ^ 22) (-24)]
      ∧ Ty.fp32.ffmt = some .fp32 ∧ Nat.log2 (2 ^ 23) + (-21 : Int) = 2 * 1
      ∧ 10 * 2 ^ (-(-20) : Int).toNat ≤ 10 * 2 ^ 20 * 2 ^ (-20 : Int).toNat := by decide +kernel

/-- Whole numbers on both sides of FEXP2's range, within it, and a number of quarter turns. -/
theorem witness_float_whole :
    (Ty.fp32.fmt.decode 0x43000000).isWhole 128 ∧ (Ty.fp32.fmt.decode 0x40A00000).isWhole 5
      ∧ (Ty.fp32.fmt.decode 0xC3160000).isWhole (-150) ∧ Ty.fp32.fmt.decode 0xBFA00000 = .fin true (5 * 2 ^ 21) (-23)
      ∧ (Fv.fin true (5 * 2 ^ 21) (-21)).isWhole (-5) :=
  ⟨⟨false, 2 ^ 23, -16, by decide +kernel⟩, ⟨false, 5 * 2 ^ 21, -21, by decide +kernel⟩
    , ⟨true, 75 * 2 ^ 17, -16, by decide +kernel⟩, by decide +kernel, ⟨true, 5 * 2 ^ 21, -21, by decide +kernel⟩⟩

/-- Lanes of an integer, an FP and a packed type, and a NaN lane. -/
theorem witness_lanes :
    0 < Ty.i32.lanes ∧ Ty.i32.ffmt = none ∧ Ty.fp32.ffmt = some .fp32 ∧ FFmt.fp32.isNan (bitLane .fp32 0x7FC00000 0) = true
      ∧ ([Ty.e3m2, .e2m1, .i8].all fun t => t.laneWidth == 8 && t.lanes == 128) = true
      ∧ bitLane .i32 5 0 ≠ 0 := by decide +kernel

/-! ### Hypotheses that are met: matrix and scratchpad instructions -/

/-- Banks as MBIND and the element accesses need them: in a mode, and with a hold on its complete fill. -/
def bankM (m : BankMode) : Bank := { bank0 with mode := m }
def held0 : Bank := { bank0 with holds := [(holdKey 0 0, 1, 0), (holdKey 0 1, 1, 0)] }

def elemBank (d : Dev) (e : Site) (k : Nat) (wr : Bool) (ok : Inst → Bank → Bool) : Bool :=
  !e.ctl && match d.inst e.cfg with
    | some x => match x.bound e.tile k with
      | some (_, b) => b.owned && !b.passed && !b.sealed && !(wr && b.cls == .input) && b.bad.isEmpty && ok x b
      | none => false
    | none => false

def armed (x : Inst) (tile k r : Nat) : Bool := match x.fillAt tile k r with
  | .ready _ b => !b.sealed && b.bad.isEmpty
  | _ => false

theorem witness_mbind :
    meets (elt (.mbind (oi .i32 0x10)) (tok 1) (tok 0) (tok 0)) (.mbind (oi .i32 0x10)) (fun e _ _ d =>
        elemBank d e 0 false fun _ b => (lookup (holdKey e.tile 0) b.holds).isNone && b.readFull) = true
      ∧ meets (elt (.mbind (oi .i32 0)) (tok 0) (tok 0) (tok 0)) (.mbind (oi .i32 0)) (fun _ g _ _ =>
        laneOf 32 g.a.data 0 % 256 == 0) = true := by decide +kernel

theorem witness_matrix :
    ([.mma ox, .mmasp ox, .mzero { ox with }, .mswap ox, .macci { ox with ks := 1 }, .mscls ox] : List Instr).all
      (fun i => meets (eltB held0 held0 i (tok 1) (tok 0) (tok 0)) i fun e _ _ d => match d.inst e.cfg with
        | some x => x.granted != 0 && (x.ct e.tile).isSome && armed x e.tile 0 e.record && armed x e.tile 1 e.record
        | none => false) = true := by decide +kernel

theorem witness_element_elements :
    ([.lds { om .i32 with auxl := 0 }, .sts { om .i32 with auxl := 0 }, .upd (om .i32), .updf (om .i32), .ucas (om .i32)
      , .wfa (om .i32), .uwait (om .i32)] : List Instr).all
      (fun i => meets (elt i (tok 0) (tok 1) (tok 0)) i fun e g _ d => elemBank d e 0 true fun _ b =>
        !(eltOutside (om .i32) (eltIdx (om .i32) g.a.data 1)).2
          && (b.loadElems 4 (eltIdx (om .i32) g.a.data 1)).headD 0 == laneOf 32 (tok 1).data 0) = true := by decide +kernel

theorem witness_element_ldb :
    ([(bankM .fifo), (bankM .line), held0].map fun b => { b with head := 1 }).all (fun b =>
      meets (eltB b b (.ldb (om .i32)) (tok 0) (tok 0) (tok 0)) (.ldb (om .i32)) fun e g _ d =>
        elemBank d e 0 false fun x b => (b.mode != .tile || b.armedFor (holdKey e.tile 0) e.record)
          && !(x.skipped e.tile 0 e.record) && (rowIndex (om .i32) g.a.data).isSome
          && match b.rowAt true 0 with
            | .at_ _ => true
            | _ => false) = true := by decide +kernel

theorem witness_element_stb :
    ([bankM .fifo, bankM .line, { bankM .tile with full := [] }] : List Bank).all (fun b =>
      meets (eltB b b (.stb (om .i32)) (tok 0) (tok 0) (tok 0)) (.stb (om .i32)) fun e g _ d =>
        elemBank d e 0 true fun _ b => (rowIndex (om .i32) g.a.data).isSome
          && if b.mode == .tile then !b.fillFull else (b.push g.b.data g.b.s).isSome) = true := by decide +kernel

/-- Version 0 of word 0 stands live; STV writes another. -/
theorem witness_element_versions :
    ([.ldv (om .i32), .stv (om .i32), .vrecl (om .i32)] : List Instr).all
      (fun i => meets (eltB { bankM .version with words := [(0, { live := [(0, 5)] })] } bank0 i (tok 0) (tok 0) (tok 1)) i
        fun e g _ d => elemBank d e 0 true fun _ b => rowIndex (om .i32) g.a.data == some 0
          && (b.vword 0).ldv (laneOf 32 (tok 0).data 0) == .ok 5
          && (b.vword 0).stv (laneOf 32 (tok 1).data 0) 1 == .ok { live := [(0, 5), (1, 1)] }) = true := by decide +kernel

theorem witness_element_sync :
    ([.fence { oi .i32 0x300 with hd := hd0 }, .bara (om .i32), .barw (om .i32), .btok { oi .i32 0 with hd := hd0 }
      , .cfgnx os] : List Instr).all
      (fun i => meets (elt i (tok 0) (tok 5) (tok 0)) i fun e g _ d => elemBank d e 0 false fun x b =>
        !b.passed && match x.ct e.tile, x.mt 1 with
          | some c, some mt => (c.blks.any fun b => b.fenceMet true true e.record)
            && barrierMet (mt.counter 0) (BitVec.ofNat 32 (laneOf 32 g.b.data 0))
          | _, _ => false) = true := by decide +kernel

/-! ### Hypotheses that are met: control blocks -/

/-- A pattern of one dimension of 32 elements of 4 bytes (R206). -/
def pat0 (base : Nat) : BitVec 512 :=
  BitVec.ofNat 512 (base + 2 * 2 ^ 64 + 2 ^ 67 + 2 ^ 96 + 32 * 2 ^ 128 + 2 ^ 160)

/-- The copies of page 0 that each unit holds: a dirty page of type NORMAL that admits reads and writes. -/
def xl0 : List XlCopy := [0, 200, 300, 600].map fun u =>
  { unit := u, part := 0, ctx := 0, page := 0, range := 0, leaf := 0x407, leafAt := 0, direct := true, acbase := 0
    vbase := 0, s2 := 3, used := [] }

/-- A partition of one page and one context runs, with instance 1 over a block and two banks. -/
def devOf (b0 b1 : Bank) : Dev :=
  { pkg := .run, tags := [(0, { state := 1 }), (1, { state := 1, hyp := true })], xl := xl0
    parts := [(0, { state := .running, s2cur := 0x200000, ctxr := 0x1000, tid := 0x400, pages0 := 1, ival := 1000 })]
    insts := [(1, { inst0 (blk .element (.nop { og .i32 with hd := hd0 }) (tok 0) (tok 0) (tok 0)) b0 b1 with
      fab := { (inst0 (blk .element (.nop { og .i32 with hd := hd0 }) (tok 0) (tok 0) (tok 0)) b0 b1).fab with
        vps := [(0, { tile := 0, port := 0, dirOut := false, winmax := 16 })
          , (1, { tile := 0, port := 0, dirOut := true, winmax := 16 })] } })] }
def dev0 : Dev := devOf bank0 bank0
def cc0 : CoreId := .cc 0

/-- Core 0 of `dev0` with registers 1 to 3 and two patterns set. -/
def devG (a b c : Nat) : Dev := dev0.updCore cc0 fun k => { k with
  g := [{}, { v := BitVec.ofNat 64 a }, { v := BitVec.ofNat 64 b }, { v := BitVec.ofNat 64 c }]
    ++ List.replicate 28 {}
  ap := [pat0 0, pat0 0x1000] ++ List.replicate 14 0 }

/-- A control access reaches a bank with no fault. -/
def reaches (d : Dev) (id : CoreId) (a align n lim : Nat) (ms : List BankMode) (ok : Bank → Bool) : Bool :=
  match d.ctlBank id a align n lim ms with
  | .ok _ _ _ _ b => b.bad.isEmpty && ok b
  | _ => false

def mta : Nat := mtAddr 1 0 0
def ver0 : Bank := { bankM .version with words := [(0, { live := [(0, 5)] })] }

theorem witness_control_elements :
    ([.lds (om .i32), .wfa (om .i32), .uwait (om .i32)] : List Instr).all
      (fun i => meets (ctlOn dev0 cc0 i (tok mta) (tok 1) (tok 0)) i fun e g _ d =>
        e.ctl && reaches d e.core (effAddr g.a 0 4) 4 4 bankBytes [.tile] fun b => b.elem 0 4 == 1) = true := by
  decide +kernel

theorem witness_control_ldb :
    ([(bankM .fifo), (bankM .line), held0].map fun b => { b with head := 1 }).all (fun b =>
      meets (ctlOn (devOf b b) cc0 (.ldb (om .i32)) (tok mta) (tok 0) (tok 0)) (.ldb (om .i32)) fun e g _ d =>
        let bank : Dev → CtlBank := fun d => d.ctlBank e.core (effAddr g.a 0 1) 1 0 (2 ^ 19) [.tile, .fifo, .line]
        e.ctl && reaches d e.core (effAddr g.a 0 1) 1 0 (2 ^ 19) [.tile, .fifo, .line] fun b =>
          match ((bank (d.viewOf e.core (om .i32))).seen b).rowSeen ((bank (d.underOwn [] e.core (om .i32))).seen b) 0 with
            | (_, .at_ _) => true
            | _ => false) = true := by decide +kernel

theorem witness_control_ldv_barw :
    meets (ctlOn (devOf ver0 ver0) cc0 (.ldv (om .i32)) (tok mta) (tok 0) (tok 0)) (.ldv (om .i32)) (fun e g _ d =>
        e.ctl && match (d.core e.core).frame with
          | some f => reaches (d.afterStores f.mem0 e.core f 0) e.core (effAddr g.a 0 1) 1 1 versionWords [.version]
              fun b => (b.vword 0).ldv (ctlBits g.b 32) == .ok 5
          | none => false) = true
      ∧ meets (ctlOn dev0 cc0 (.barw (om .i32)) (tok mta) (tok 5) (tok 0)) (.barw (om .i32)) (fun e g _ d =>
        e.ctl && match d.mtOf e.core (ctlBits g.a 64) with
          | some (_, _, _, mt) => barrierMet (mt.counter 0) (BitVec.ofNat 32 (ctlBits g.b 32))
          | none => false) = true := by decide +kernel

/-- Main memory: LDG, WFA and UWAIT through the copy of page 0. -/
theorem witness_control_memory :
    ([.ldg (om .i32), .wfa (om .i32), .uwait (om .i32)] : List Instr).all
      (fun i => meets (ctlOn dev0 cc0 i (tok 64) (tok 0) (tok 0)) i fun e g m d =>
        e.ctl && effAddr g.a 0 4 % 4 == 0
          && match (d.load m (d.coreAcc e.core (if i == .ldg (om .i32) then .ldg else .ctl) .rd 0) (effAddr g.a 0 4) 4).2 with
            | .ok (bs, _) => Word.ofBytes bs == 0
            | .error _ => false) = true := by decide +kernel

theorem witness_commit_elements :
    ([.sts (om .i32), .upd (om .i32), .updf (om .i32), .ucas (om .i32)] : List Instr).all
      (fun i => commits (comOn dev0 cc0 i (tok mta) (tok 1) (tok 0)) fun id c _ d =>
        reaches d id (effAddr c.a 0 4) 4 4 bankBytes [.tile] fun _ => true) = true := by decide +kernel

theorem witness_commit_rows :
    ([bankM .fifo, bankM .line, { bankM .tile with full := [] }] : List Bank).all (fun b =>
      commits (comOn (devOf b b) cc0 (.stb (om .i32)) (tok mta) (tok 1) (tok 0)) fun id c _ d =>
        reaches d id (effAddr c.a 0 1) 1 0 (2 ^ 19) [.tile, .fifo, .line] fun b =>
          if b.mode == .tile then !b.fillFull && decide (0 < b.rowLimit)
          else (b.push (BitVec.ofNat 1024 (ctlBits c.b 64)) false).isSome) = true := by decide +kernel

theorem witness_commit_versions :
    ([.stv (om .i32), .vrecl (om .i32)] : List Instr).all
      (fun i => commits (comOn (devOf ver0 ver0) cc0 i (tok mta) (tok 1) (tok 1)) fun id c _ d =>
        reaches d id (effAddr c.a 0 1) 1 1 versionWords [.version] fun b =>
          (b.vword 0).stv (ctlBits c.c 32) (BitVec.ofNat 64 (ctlBits c.b 32)) == .ok { live := [(0, 5), (1, 1)] }) = true
      ∧ commits (comOn dev0 cc0 (.bara (om .i32)) (tok mta) (tok 0) (tok 0)) (fun id c _ d =>
        (d.mtOf id (ctlBits c.a 64)).isSome) = true
      ∧ ([0x402, 0x404, 0x704] : List (BitVec 16)).all (fun i =>
        commits (comOn dev0 cc0 (.fence (oi .i32 i)) (tok 0) (tok 0) (tok 0)) fun id _ _ d =>
          (d.core id).board.isEmpty && d.peerq.isEmpty) = true := by decide +kernel

theorem witness_commit_memory :
    ([.stg (om .i32), .upd (om .i32), .updf (om .i32), .ucas (om .i32)] : List Instr).all
      (fun i => commits (comOn dev0 cc0 i (tok 64) (tok 1) (tok 0)) fun id c m d =>
        effAddr c.a 0 4 % 4 == 0
          && (d.store m (d.coreAcc id .ctl .wr 1) (effAddr c.a 0 4) [1, 0, 0, 0]).2.isNone
          && (d.update m (d.coreAcc id .ctl .upd 2) (effAddr c.a 0 4) 4 (updateOp 0 .i32 · 1)).2.isOk) = true := by
  decide +kernel

/-- Instructions that keep their operands for the commit, whatever they name. -/
theorem witness_captures :
    ([.bro oc, .brx oc, .callb oc, .retb oc, .halt oc, .wrg oc, .sts (om .i32), .stb (om .i32), .stv (om .i32)
      , .vrecl (om .i32), .stg (om .i32), .upd (om .i32), .updf (om .i32), .ucas (om .i32), .bara (om .i32), .apset os
      , .apcpy os, .apclr os, .sscl os, .sbar os, .cred os, .cbcst os, .cagth os, .ttldClear os, .tfetch os, .tevict os
      , .tpin os, .tpinUnpin os, .tresStatus os, .tresResume os, .tresResident os, .scopyk os, .kclose os, .trap oy
      , .hcall oy, .rte oy, .wfi oy, .placeMove oy, .placeCompact oy, .placeDiscard oy, .plsw oy, .rinvPart oy
      , .xinvPart oy, .kshrAssign oy, .kshrErase oy, .fence (oi .i32 2), .btok (oi .i32 0), .swr oy, .sbind os
      , .sbindw { os with vp := 1 }, .sgath { os with aux := 1 }, .sscat { os with vp := 1, aux := 1 }, .supd { os with vp := 1, aux := 1 }
      , .scopy { os with sub := 2 }, .swait os, .sstat os, .skill os, .cfgnx os, .qctlStatus oy, .qctlPrio oy
      , .qctlEnable oy, .qctlDisable oy, .qctlFlush oy, .psnapCut oy, .psnapMarker oy, .rinvPages oy, .rinvRange oy
      , .rinvContext oy, .kshrBegin oy, .kshrFinish oy, .mtrdRecord oy, .mtrdQuote oy] : List Instr).all
      (fun i => meets (ctlOn dev0 cc0 i (tok 0) (tok 0) (tok 0)) i fun e _ _ d =>
        e.ctl && (d.instOf e.core).isSome && (d.vpFault e.core 0 (some false)).isNone
          && (d.vpFault e.core 1 (some true)).isNone && !d.selFault e.core 0 && (d.part 0).hasCtx 0) = true := by
  decide +kernel

theorem witness_captures_at_h :
    ([.qctlAssign oy, .xinvFrames oy] : List Instr).all
      (fun i => meets (ctl i (tok 0) (tok 0) (tok 0)) i fun e _ _ d => e.ctl && d.atH e.core) = true := by decide +kernel

theorem witness_exits :
    meets (ctl (.rdg oc) (tok 0) (tok 0) (tok 0)) (.rdg oc) (fun e _ _ _ => e.ctl) = true
      ∧ ([.bro oc, .brx oc, .callb oc, .retb oc, .halt oc, .wrg oc, .apset os, .apcpy os, .apclr os, .apld os, .wfi oy
      , .ttldClear os, .kclose os, .rinvPages oy, .rinvRange oy, .rinvContext oy, .rinvPart oy, .xinvFrames oy
      , .xinvPart oy, .trap oy, .hcall oy] : List Instr).all
      (fun i => commits (com i (tok 0) (tok 0) (tok 0)) fun _ _ _ _ => true) = true := by decide +kernel

/-! ### Hypotheses that are met: streams, collectives, tiers and keys -/

/-- A write of a register by slot 3, a link by slot 2 and a second write by slot 1 (R135). -/
theorem witness_register_order :
    let gw : List (Nat × Bool × Fin 32 × GReg) :=
      [(3, false, 5, { v := 3 }), (2, true, 5, { v := 2 }), (1, false, 6, { v := 1 }), (4, false, 6, { v := 4 })]
    (gw.Pairwise fun x y => (x.1, x.2.1) ≠ (y.1, y.2.1)) ∧ (∀ w ∈ gw, w.1 < 128)
      ∧ (gw.filter fun w => w.2.1 && w.2.2.1 == 5).length ≤ 1 ∧ (({} : Core).g.length = 32)
      ∧ (({} : Core).writeRegs gw).reg 5 = { v := 2 } ∧ (({} : Core).writeRegs gw).reg 6 = { v := 4 } := by decide +kernel

/-- A pattern of one row of 128 bytes, keyed by handle 0 (R206, R276), and a layout record of one row. -/
def patK : BitVec 512 := BitVec.ofNat 512 (7 * 2 ^ 64 + 2 ^ 67 + 2 ^ 77 + 2 ^ 96 + 2 ^ 128 + 2 ^ 160)
def lay0 (etype : Nat) : BitVec 512 := BitVec.ofNat 512 (etype * 2 ^ 64 + 2 ^ 96 + 128 * 2 ^ 128 + 128 * 2 ^ 160)

/-- The range entry of 2 MiB at 0 that the TE holds (R356, R358). -/
def range0 : BitVec 512 := BitVec.ofNat 512 (2 ^ 21 * 2 ^ 64 + 2 ^ 128)

/-- Context 0 with a key handle, a range and a group that has kept a result for the element of `inst0`. -/
def ctx0 (etype : Nat) : Context :=
  { rtab := 0x1000, handles := some { layout := lay0 etype, slot := 0, gen := 0 } :: List.replicate 15 none
    groups := [(0, { reread := false, ranks := some (true, [(0, 1, 0, 0)])
                     kept := [{ cfg := 1, tile := 0, place := 0, record := 0, round := 0, toks := [{}] }] })
      , (1, { reread := false, ranks := some (false, [(0, 1, 0, 0)]) })] }

/-- Core 0 with its registers and patterns over context 0. -/
def devC (etype a b : Nat) : Dev :=
  { devG a b 0 with ctxs := [(0, ctx0 etype)], rcopy := [(500 * 4096, [some (range0, 0)])] }

theorem witness_patterns :
    meets (ctlOn (devC 0 64 0) cc0 (.apld { os with ga := 1 }) (tok 0) (tok 0) (tok 0)) (.apld { os with ga := 1 })
        (fun e _ m d => e.ctl && ((d.core e.core).reg 1).v == 64
          && (d.load m (d.coreAcc e.core .ldg .rd 0) 64 64).2.isOk
          && ((d.atEntry e.core).load (d.entryMem e.core m) (d.coreAcc e.core .ldg .rd 0) 64 64).2.isOk) = true
      ∧ commits (comOn dev0 cc0 (.sbar os) (tok 0) (tok 0) (tok 0)) (fun id _ _ d =>
          (d.core id).board.length < boardSize) = true := by decide +kernel

theorem witness_bindings :
    ([.sbind os, .sbindw { os with vp := 1 }, .sgath { os with aux := 1 }, .sscat { os with vp := 1, aux := 1 }
      , .supd { os with vp := 1, aux := 1 }] : List Instr).all
      (fun i => commits (comOn (devC 0 0 0) cc0 i (tok 0) (tok 0) (tok 0)) fun id _ _ d =>
        let p := (d.core id).pat 0
        !patIllegal p false && (patFault p false).isNone && patNdim p == 1 && patEsz p == 2
          && match d.instOf id with
            | some (_, x) => [0, 1].all fun v => (x.liveVp v).any fun v => !overWindow v p
            | none => false) = true := by decide +kernel

theorem witness_copies :
    ([.scopy os, .scopy { os with sub := 1, ga := 1 }, .scopy { os with sub := 2 }] : List Instr).all
      (fun i => commits (comOn (devC 0 mta 0) cc0 i (tok 0) (tok 0) (tok 0)) fun id _ _ d =>
        let p := (d.core id).pat 0
        patCauses p false == [] && patTotal p * patBytes p == patTotal p * patBytes p
          && (d.cwCauses id ((d.core id).cwPair false 0)) == []
          && (d.bankCauses id mta p [.tile, .scale] fun _ => true) == ([], some (.bank 1 1 0))) = true := by
  decide +kernel

/-- SSCL with and without a key, and SCOPYK. -/
theorem witness_keyed :
    commits (comOn ((devC 0x10 mta 0).updCore cc0 fun c => { c with ap := patK :: c.ap.drop 1 }) cc0
        (.sscl { os with sub := 1, ga := 1 }) (tok 0) (tok 0) (tok 0)) (fun id _ _ d =>
          let p := (d.core id).pat 0
          patCauses p true == [] && patKeyed p && (d.keyCauses 0 0 0 p true).1 == []) = true
      ∧ commits (comOn (devOf (bankM .scale) bank0) cc0 (.sscl { os with ga := 1 }) (tok 0) (tok 0) (tok 0))
        (fun id _ _ d => (d.bankCauses id mta (pat0 0) [.scale] fun _ => true).1 == []) = true
      ∧ commits (comOn ({ (devOf { bank0 with cls := .input } bank0) with ctxs := [(0, ctx0 0)] }.updCore cc0 fun c =>
          { c with ap := patK :: c.ap.drop 1 }) cc0 (.scopyk { os with ga := 1 }) (tok 0) (tok 0) (tok 0))
        (fun id _ _ d => let p := (d.core id).pat 0
          patCauses p true == [] && (d.keyCauses 0 0 0 p false).1 == []
            && (d.bankCauses id mta p [.tile] fun b => b.cls == .input).1 == []) = true := by decide +kernel

/-- Port 0 with an input binding that has passed 3 elements. -/
def bound0 (kind : BindKind) : Vp := { tile := 0, port := 0, dirOut := false, winmax := 16, bind := some {
  kind := kind, pat := pat0 0, ctx := 0, part := 0, passed := 3, fetched := 3 } }

theorem witness_ports :
    ([.swait os, .sstat os, .skill os, .cfgnx os, .tresStatus os, .tresResume os, .tresResident os] : List Instr).all
      (fun i => commits (comOn dev0 cc0 i (tok 0) (tok 0) (tok 0)) fun id _ _ d => match d.instOf id with
        | some (k, x) => (x.vp 0).isSome && (d.core id).board.all fun c => !c.names k 0
        | none => false) = true
      ∧ (((((inst0 (blk .element (.fan (og .i32)) (tok 0) (tok 0) (tok 0)) bank0 bank0).setVp 0 (bound0 .input)).killVp
          0).vp 0).map fun u => (u.bind.isNone, u.ended, u.killed, u.elems)) = some (true, true, true, 3) := by decide +kernel

theorem witness_collectives :
    ([.cred os, .cbcst os, .cagth { os with hd := toOut }] : List Instr).all
      (fun i => meets { elt i (tok 0) (tok 0) (tok 0) with
          dev := { (elt i (tok 0) (tok 0) (tok 0)).dev with ctxs := [(0, ctx0 0)] } } i fun e _ m d =>
        !e.ctl && match d.inst e.cfg with
          | some x => (d.group m x.part x.ctx 0).2.rankOf (d.group m x.part x.ctx 0).1.self e.cfg (tileCol e.tile)
              (tileRow e.tile) true == some 0
            && (d.group m x.part x.ctx 0).2.kept.any fun k =>
              k.cfg == e.cfg && k.tile == e.tile && k.place == 128 * e.blk + e.slot && k.record == e.record
          | none => false) = true := by decide +kernel

theorem witness_collective_commands :
    ([.cred { os with vp := 1 }, .cbcst { os with vp := 1 }, .cagth { os with vp := 1 }] : List Instr).all
      (fun i => commits (comOn (devC 0 0 0) cc0 i (tok 0) (tok 0) (tok 0)) fun id _ m d =>
        let p := d.group m (d.issuer id).2.1 (d.issuer id).1 1
        patCauses ((d.core id).pat 0) false == [] && d.cwCauses id ((d.core id).cwPair true 0) == []
          && p.1.core id == d.core id && p.1.tx == .ok && p.2.rankOf p.1.self 1 0 0 false == some 0) = true := by
  decide +kernel

theorem witness_btok_commit :
    commits (comOn dev0 cc0 (.btok (oi .i32 0)) (tok mta) (tok 0) (tok 0)) (fun id c _ d =>
      match d.mtOf id (c.a.data.toNat % 2 ^ 64) with
      | some (_, _, _, mt) => (mt.banks.headD {}).owned && !(mt.banks.headD {}).passed
      | none => false) = true := by decide +kernel

theorem witness_tiers :
    ([.tfetch { os with ga := 1, gb := 2 }, .tevict { os with ga := 1, gb := 2 }, .tpin { os with ga := 1, gb := 2 }
      , .tpinUnpin { os with ga := 1, gb := 2 }] : List Instr).all
      (fun i => commits (comOn (devC 0 0 (2 ^ 21)) cc0 i (tok 0) (tok 0) (tok 0)) fun id _ m d =>
        ((d.core id).reg 1).v == 0 && ((d.core id).reg 2).v.toNat == granBytes
          && (d.spanInRange m (d.issuer id).2.1 (d.issuer id).1 0 granBytes).2) = true := by decide +kernel

/-- A timetable of one entry at 0, a layout record at 64, range table and stage-2 entry. -/
def memT : Mem := writeAll [] (leAt 0 32 (0x42545456 + 2 ^ 32 + 2 ^ 48) ++ leAt 32 32 (2 ^ 24 + 2 ^ 21 * 2 ^ 128)
  ++ leAt 64 64 (lay0 0).toNat ++ leAt 0x1000 64 range0.toNat ++ leAt 0x200000 8 3)

/-- The instruction in a block entered with memory as it is. -/
def ctlMem (d : Dev) (m : Mem) (i : Instr) : State :=
  let s := ctlOn d cc0 i (tok 0) (tok 0) (tok 0)
  { mem := m, dev := s.dev.updFrame cc0 fun f => { f with mem0 := m } }

theorem witness_ttld_kopen :
    meets (ctlMem (devC 0 0 0) memT (.ttld { os with ga := 1 }))
        (.ttld { os with ga := 1 }) (fun e _ m d =>
          let r := Dev.ttRead m e.core (d.coreAcc e.core .ctl .rd 0) 1 0 d
          match r.2 with
          | .ok [h] => ttHeaderOk h && match Dev.ttRead m e.core (d.coreAcc e.core .ctl .rd 0) 1 32 r.1 with
            | (d2, .ok es) => (d2.timetable m 0 0 h es).2.isSome
            | _ => false
          | _ => false) = true
      ∧ meets (ctlMem (devC 0 64 0) memT (.kopen { os with ga := 1 }))
        (.kopen { os with ga := 1 }) (fun e _ m d => match (d.entryLoad m e.core (d.coreAcc e.core .ctl .rd 0) 64 64).2 with
          | .ok (bs, _) => layoutOk (BitVec.ofNat 512 (Word.ofBytes bs))
          | .error _ => false) = true := by decide +kernel

/-- At its commit KOPEN finds slot 0 assigned to the context and ready, and TTLD its timetable. -/
theorem witness_ttld_kopen_commit :
    commits (comOn (dev0.updPart 0 fun p => { p with slots := [{ assigned := true, share0 := some 1 }] }) cc0 (.kopen os)
        (tok 0) { data := BitVec.ofNat 1024 (lay0 0).toNat } (tok 0)) (fun id c _ d =>
          let s := d.keySlot (d.issuer id).2.1 (laySlot (BitVec.ofNat 512 c.b.data.toNat))
          s.assigned && s.ctx == (d.issuer id).1 && s.admits ((d.instOf id).map fun x => x.2.idhash) && s.ready) = true
      ∧ commits { comOn dev0 cc0 (.ttld os) (tok 0) (tok 0) (tok 0) with
          dev := (comOn dev0 cc0 (.ttld os) (tok 0) (tok 0) (tok 0)).dev.updFrame cc0 fun f =>
            { f with tts := [(0, { stall := false, entries := [] })] } } (fun id c _ d => match (d.core id).frame with
          | some f => (lookup c.slot f.tts).isSome
          | none => false) = true := by decide +kernel

/-! ### Hypotheses that are met: system instructions, exceptions and requests -/

def rec0 : TrapRec := { cause := 0x03, cls := 1, seqNo := 7 }

theorem witness_rte :
    commits (com (.rte oy) (tok 0) (tok 0) (tok 0)) (fun id _ _ d => (d.core id).entry.isNone) = true
      ∧ commits (comOn (dev0.updCore cc0 fun c => { c with entry := some rec0, st := { c.st with hold := true } }) cc0
        (.rte oy) (tok 0) (tok 0) (tok 0)) (fun id _ _ d =>
          (d.core id).entry == some rec0 && (d.core id).st.hold && (d.core id).thread == .live) = true := by
  decide +kernel

/-- BRK at H inhibited, and skipped, and trapping. -/
theorem witness_brk :
    ([fun (c : Core) => { c with st := { c.st with inh := true } }, fun c => { c with skipArmed := true }, id] :
      List (Core → Core)).map (fun f => meets (ctlOn (({} : Dev).updCore (.sys 0) f) (.sys 0) (.brk oy) (tok 0) (tok 0)
        (tok 0)) (.brk oy) fun e _ _ d => e.ctl && ((d.core e.core).st.inh || (d.core e.core).skipArmed))
      = [true, true, false] := by decide +kernel

/-- Entry on a CC and on a system core, the four ways of RaiseChooses, and a return. -/
theorem witness_raise :
    let hset := fun (i : Bool) => dev0.updCore cc0 fun c => { c with level := .s, st := { c.st with inh := i } }
    (handlerH { rec0 with toH := true }, handlerH rec0, (hset false).delegated rec0, ((hset true).core cc0).st.inh
      , ((hset false).core cc0).st.inh
      , (dev0.updCtx 0 fun c => { c with deleg := 0xF, evBase := 64, evSize := 4 }).delegated { rec0 with cause := cVGONE })
      = (true, false, false, true, false, true) := by decide +kernel

/-- A block of one word: its header and the word (R79, R80). -/
def rawOf (w : Nat) : RawBlk := { hdr := 0xB7 + 2 ^ 15, words := [BitVec.ofNat 64 w] }

/-- HALT is legal on a CC at U, WFI needs S, and a reserved word is illegal. -/
theorem witness_causes :
    slotCause false .u (rawOf 0x1500000000000000) 0 0x1500000000000000 = none
      ∧ slotCause false .u (rawOf 0xE800000004000003) 0 0xE800000004000003 = some 0x02
      ∧ slotCause false .s (rawOf 0xFF00000000000000) 0 0xFF00000000000000 = some 0x01
      ∧ blockBreach .element { hdr := 0xB7, words := [0x0100000000000000] } = none := by decide +kernel

theorem witness_system_registers :
    ([.srd oy, .mtrdRead oy, .dbgMtdata oy] : List Instr).all
      (fun i => meets (ctlOn (dev0.updCore cc0 fun c => { c with mtaddr := BitVec.ofNat 64 mta }) cc0 i (tok 0) (tok 0)
        (tok 0)) i fun e _ _ d => e.ctl && !d.selFault e.core 0 && match (d.core e.core).frame with
          | some f => reaches (d.entryView e.core f 0) e.core mta 1 8 bankBytes [.tile, .fifo, .line, .scale]
              fun _ => true
          | none => false) = true
      ∧ ([0x010, 0x102] : List (BitVec 20)).all (fun n =>
        commits (comOn dev0 cc0 (.swr { oy with imm := n }) (tok 5) (tok 0) (tok 0)) fun id _ _ d =>
          (d.core id).save.length == 4 && (d.core id).frame.isSome) = true := by decide +kernel

/-- The state of a device between steps. -/
def stepOf (d : Dev) : State := { State.reset with dev := d }

/-- Partition 0 as START takes it, and as it refuses it. -/
def partC (ctxr : Word) : Dev := { pkg := .run, parts := [(0, {
  state := .config, ctxr := ctxr, tid := 0x400, pages0 := 1, qmax := 1024, chmask := 1 })] }

/-- A grade record in which page 0 alone is enabled (R413). -/
def record1 : List Byte := factoryRecord.take 8 ++ 1 :: (List.replicate 15 0 ++ factoryRecord.drop 24)

theorem witness_acting_registers :
    steps (stepOf { dev0 with heldRecs := [rec0] }) (fun _ d => (d.heldRecs.find? (·.seqNo == 7)).isSome) = true
      ∧ steps (stepOf (({} : Dev).updCore (.sys 1) fun c => { c with thread := .wfi none }))
        (fun _ d => (d.core (coreOfKey 129)).thread == .wfi none) = true
      ∧ steps (stepOf {}) (fun _ d => d.ctxPages (d.selCtx cc0) == []
        && [0, 1, 2, 3].all fun k => !d.occupied (d.core cc0).pgsel k) = true
      ∧ ([0, 0x1000] : List Nat).all (fun v => steps (stepOf { dev0 with flash := { record := record1 } }) fun _ d => (rectOf v).inGrid
        && ((rectOf v).pages.all fun g => d.pageFor (d.selPart cc0) g || !d.enabledPage g)
        && (d.ctxPages (d.selCtx cc0)).all (rectOf v).pages.contains) = true := by decide +kernel

theorem witness_partitions :
    steps (stepOf {}) (fun _ d => (d.part 0).state == .none) = true
      ∧ steps (stepOf (partC 0)) (fun _ d => (d.part 0).state == .config && d.startErr 0 != 0) = true
      ∧ steps (stepOf dev0) (fun _ d => (d.part 0).state == .running) = true
      ∧ steps (stepOf { partC 0x1000 with tags := [(5, { state := 1, owner := 0 })] }) (fun _ d =>
        (d.tag 5).accepts 0x10 && d.ftagQuota [5] 0x10 && (d.tag 5).accepts 0x30 == false) = true := by decide +kernel

/-- START answers 0 when the partition's words meet its checks. -/
theorem witness_start : (partC 0x1000).startErr 0 = 0 := by decide +kernel

/-- A launch that the Shepherd has accepted for page 0. -/
def launched0 : Launch :=
  { record := Word.toBytes 256 (1 + 0x1000 * 2 ^ 64), part := 0, ctx := 0, cfg := 1, row0 := 0, col0 := 0, w := 1, h := 1
    plane := 0, heavy := 0, page := 0 }

/-- A launch record of context 0 with no dependence (R327). -/
def launch0 (kind : Nat) : List Byte := Word.toBytes 256 kind

/-- The instruction at the commit of a block that read a record as it was entered. -/
def comRec (d : Dev) (id : CoreId) (i : Instr) (bs : List Byte) : State :=
  let s := comOn d id i (tok 0) (tok 0) (tok 0)
  { s with dev := s.dev.updFrame id fun f => { f with recs := [(0, bs)] } }

theorem witness_queues :
    commits (comRec { dev0 with queues := [(0, { enabled := true })] } cc0 (.qpost oy) (launch0 1)) (fun id c _ d =>
        (match (d.core id).frame with
          | some f => lookup c.slot f.recs == some (launch0 1)
          | none => false)
        && ((parseLaunch (launch0 1)).map fun r => (d.part 0).hasCtx r.ctx && r.deps.isEmpty) == some true
        && (d.queue 0).owner == d.selPart id && (d.queue 0).enabled && (d.queue 0).entries.isEmpty) = true
      ∧ ([.qctlStatus oy, .qctlPrio oy, .qctlEnable oy, .qctlDisable oy, .qctlFlush oy, .qctlAssign oy, .kshrErase oy
        , .kshrBegin oy, .kshrFinish oy, .mtrdRecord oy, .mtrdQuote oy, .kshrAssign oy] : List Instr).all
        (fun i => commits (comOn dev0 cc0 i (tok 0) (tok 0) (tok 0)) fun id _ _ d =>
          ((d.core id).reg 0).v == 0 && !(d.queue 0).enabled && (d.queue 0).entries.isEmpty && d.sepq.isEmpty
            && (d.part (d.issuer id).2.1).hasCtx 0 && !(d.keySlot (d.issuer id).2.1 0).assigned) = true := by
  decide +kernel

theorem witness_placement :
    ([(Instr.placeLaunch oy, 1), (.prest oy, 2)] : List (Instr × Nat)).all
      (fun e => commits (comRec dev0 cc0 e.1 (launch0 e.2)) fun id c _ d => match parseLaunch (launch0 e.2) with
        | some r => r.kind == e.2 && d.ctxPart r.ctx == some (d.selPart id) && c.slot == 0
        | none => false) = true
      ∧ ([.psnapCut { oy with ga := 1 }, .psnapMarker { oy with ga := 1 }] : List Instr).all
        (fun i => commits (comOn (devG 1 0 0) cc0 i (tok 0) (tok 0) (tok 0)) fun id _ _ d => match d.inst 1 with
          | some x => x.part == d.selPart id && x.movable && x.pend.isNone
          | none => false) = true := by decide +kernel

/-- A move over two pages of the partition, a discard of a snapshotted instance, a compaction and a switch. -/
theorem witness_shepherd_requests :
    commits (comOn (((devG 1 0 0).updPart 0 fun p => { p with pages0 := 3 }).updCtx 0 fun c => { c with paddock := 0x11000 }) cc0
        (.placeMove { oy with ga := 1, imm := 0x80000 }) (tok 0) (tok 0) (tok 0)) (fun _ _ _ d => match d.inst 1 with
          | some x => x.movable && x.pend.isNone && (d.moveDest x (orgOf 0x80000)).isSome
          | none => false) = true
      ∧ commits (comOn ((devG 1 0 0).updInst 1 fun x => { x with phase := .snapshotted }) cc0
        (.placeDiscard { oy with ga := 1 }) (tok 0) (tok 0) (tok 0)) (fun _ _ _ d =>
          ((d.inst 1).map (·.phase)) == some .snapshotted) = true
      ∧ commits (comOn (devG 0 0 0) cc0 (.placeCompact { oy with ga := 1 }) (tok 0) (tok 0) (tok 0)) (fun id _ _ d =>
          d.ctxPart 0 == some (d.selPart id)) = true
      ∧ commits (comOn { devG 0x10000 0 0 with installs := [launched0] } cc0 (.plsw { oy with ga := 1 }) (tok 0) (tok 0)
          (tok 0)) (fun id _ _ d => match plswRect 0x10000 with
          | some r => (r.pages.all fun g => d.planeOwner g 0 == some (d.selPart id))
            && ((d.activeOn r.pages).all fun e => e.2.pend.isNone && e.2.pages.all r.pages.contains)
            && (d.installingOn r.pages).any fun l => l.pend.isNone && l.pages.all r.pages.contains
          | none => false) = true := by decide +kernel

/-! ### Hypotheses that are met: blocks, rounds, tokens and engines -/

/-- Instance 1 of `dev0` changed, or its tile 0. -/
def devX (f : Inst → Inst) : Dev := dev0.updInst 1 f
def devT (f : Tile → Tile) : Dev := devX fun x => match x.tile 0 with
  | some t => x.setTile 0 (f t)
  | none => x
def onX (s : State) (ok : Inst → Mem → Dev → Bool) : Bool := steps s fun m d => match d.inst 1 with
  | some x => ok x m d
  | none => false
def onT (s : State) (ok : Inst → Tile → Ct → Blk → Bool) : Bool := onX s fun x _ _ => match x.tile 0, x.ct 0 with
  | some t, some c => match c.blks[0]? with
    | some b => ok x t c b
    | none => false
  | _, _ => false

/-- System core 0 at a block of one word that stands at host address 0. -/
def entry0 (w : Nat) : State :=
  { mem := writeAll [] (leAt 0 16 (0xB7 + 2 ^ 15) ++ leAt 16 8 w)
    dev := { dev0 with tags := [(0, { state := 1, hyp := true })] }.updCore (.sys 0) fun c =>
      { c with thread := .live, next := 0x400000000000 } }

theorem witness_block_entry :
    ([0x1500000000000000, 0xFF00000000000000] : List Nat).map (fun w => steps (entry0 w) fun m d =>
        let id : CoreId := .sys 0
        let c := d.core id
        c.frame.isNone && !d.takesS id && d.takerH.isNone && c.thread == .live && !d.shepherdHolds id
          && c.next % 16 == 0 && match ((d.updCore id fun c => { c with sync := [] }).fetchBlock m id c.next).2 with
            | .ok bs => match rawBlock bs with
              | some b => hdrOk .control b && (firstCauseSlot true c.level b).isNone == (w == 0x1500000000000000)
              | none => false
            | .error _ => false) = [true, true] := by decide +kernel

/-- A header of the element mode is none of a control block. -/
theorem witness_block_header : hdrOk .control { hdr := 0xB7, words := [0x1500000000000000] } = false := by decide +kernel

/-- A block of HALT commits, and one of STG to an address that no page maps faults. -/
theorem witness_block_commit :
    ([(Instr.halt oc, 0, true), (.stg (om .i32), 2 ^ 20, false)] : List (Instr × Nat × Bool)).all
      (fun e => steps (stepOf ((comOn dev0 cc0 e.1 (tok e.2.1) (tok 0) (tok 0)).dev.updFrame cc0 fun f =>
        { f with blk := f.blk.updSlot 0 fun s => { ins := s.ins, fired := 1 } })) fun m d => match (d.core cc0).frame with
        | some f =>
          let r := Dev.commitRun m cc0 f (d.storeFaults m cc0 f) false d
          f.ready == [] && if e.2.2 then r.2.2.isEmpty && r.1.tx == .ok else (firstBlkFault r.2.2).isSome
        | none => false) = true := by decide +kernel

def rdp0 : Blk := { (blk .element (.rdp (oi .i32 0)) (tok 0) (tok 0) (tok 0)) with started := 0 }
def disc0 : Disc := { l := false, r := false, t := false, round := 0, record := 0 }
def fan0 : Blk := { hdr := hdr .element, slots := [{ ins := .fan (og .i32), disc := some disc0 }], started := 1 }

/-- A record starts on a token at the port that RDP reads; the record of a block that writes nothing commits. -/
theorem witness_records :
    onT (stepOf { dev0 with insts := [(1, inst0 rdp0 bank0 bank0)] }) (fun x t _ b =>
          x.fires && !x.stopped 0 0 && b.started - b.committed < 4 && t.tokenFor b b.started) = true
      ∧ onT (stepOf dev0) (fun x t _ b =>
          x.fires && b.committed < b.started && b.complete t 0 b.committed) = true
      ∧ onT (stepOf (devT fun t => { t with kind := .ct { blks := [fan0] } })) (fun _ _ _ b =>
          ((b.slots[0]?).bind (·.disc)).any fun q => !q.l && !q.r && !q.t && max q.nl (max q.nr q.nt) ≤ q.nulls) = true := by
  decide +kernel

/-- Instance 1 with nothing left in its tiles, and no source left. -/
def idle0 (f : Inst → Inst) : Dev := devX fun x => f { x with fab := { tiles := [(1, { kind := .mt {} })] } }

/-- A write of round 1's configuration that its peer has still to acknowledge (R244). -/
def write0 : PeerWrite := { unit := 200, job := 1, peer := 1, addr := 0, bytes := [7], done := true }

theorem witness_rounds :
    ([false, true] : List Bool).all (fun w => onX (stepOf { idle0 id with peerq := if w then [write0] else [] }) fun x m d =>
        let r := Dev.performAll m 1 x (d.stagedOrder x).2 (d.stagedOrder x).1
        x.phase == .running && !x.step3 && !x.paused && x.snap.isNone && x.faults.isEmpty && x.quiescent && r.2.isNone
          && r.1.step3Awaits 1 == w) = true
      ∧ onX (stepOf (devX fun x => { x with step3 := true })) (fun x _ d =>
        x.phase == .running && x.step3 && !d.step3Awaits 1) = true
      ∧ ([.boundary, .stalled] : List InstPhase).all (fun p => onX (stepOf (devX fun x => { x with phase := p, stallRes := true }))
        fun x m d => x.heldBy.isNone && x.pend.isNone && x.snap.isNone && d.activePlane x.lead == x.plane
          && !d.refetching 1 && !d.reportAwaited 1 x && (d.missesMet m x).2) = true
      ∧ onX (stepOf (devX fun x => { x with faults := [rec0] })) (fun x _ _ =>
        (firstFaultOf x.faults).isSome && x.fires) = true
      ∧ onX (stepOf (devX fun x => { x with arriving := [(1, 0)] })) (fun x _ _ =>
        x.arriving.contains (1, 0) && (x.bank 1 0).isSome) = true
      ∧ onX (stepOf (devX fun x => { x with phase := .ending, reconf := some [], failed := some 0x16 })) (fun x _ _ =>
        x.phase == .ending && (x.tile 0).isSome && !x.retired && x.heldBy.isNone && x.failed.isSome
          && x.fab.tiles.any fun u => !([0] : List Nat).contains u.1) = true
      ∧ onX (stepOf (devX fun x => { x with phase := .ending, reconf := some [1], failed := some 0x16 })) (fun x _ _ =>
        x.phase == .ending && x.fab.tiles.all fun u => ([1, 0] : List Nat).contains u.1) = true := by decide +kernel

def fill0 : Tile :=
  { kind := .mt { banks := [{}] }, inp := [(0, { feeder := .route, fills := some 0, q := [tok 3] })] }

theorem witness_tokens :
    ([Sink.route 0 0 4, .delay 0 4] : List Sink).all (fun k => onT (stepOf (devT fun t => { t with
        out := [(0, { sink := k, q := [{ blk := 0, record := 0, tok := tok 3 }] })] })) fun x t _ _ =>
          x.fires && x.edgeTakes 0 0 && match t.outHead 0 with
            | .tok o => !o.tok.c && (x.catches 0 0 o.tok).isNone
            | _ => false) = true
      ∧ steps (stepOf dev0) (fun _ d => d.pageMark 0 != some 5) = true
      ∧ onX (stepOf (devX fun x => x.setTile 1 fill0)) (fun x _ _ =>
          x.fires && !x.stopped 1 16 && ((x.bank 1 0).bind fun b => b.fillWith (tok 3)).any (·.isOk)) = true := by
  decide +kernel

theorem witness_operators :
    ([.join, .merge, .splay, .zip, .unzip, .scan, .reduce, .compact, .quant, .dequant, .transpose] : List OpKind).all
      (fun k => onT (stepOf (devT fun t => { t with
        inp := t.inp ++ [(1, { feeder := .route, q := [tok 1] })]
        ops := [(0, { kind := k, in0 := some 0, in1 := some 1, out0 := some 0, out1 := none, opp := [1] })] })) fun x t _ _ =>
          x.fires && !x.stopped 0 1 && ((lookup 0 t.inp).bind fun p => p.q.head?).any (!·.c)
            && (t.opHead (some 1)).any (fun m => !m.c && !m.n) && (lookup 0 t.ops).any fun o => o.kind == k
              && t.opRoom o.out0 && t.opRoom o.out1 && o.buf0.isEmpty && !o.end0 && o.par 0 == o.count + 1) = true := by
  decide +kernel

def op0 (k : OpKind) (p0 p1 : Nat) : OpState :=
  { kind := k, in0 := some 0, in1 := some 1, out0 := some 0, out1 := some 1, opp := [p0, p1] }

/-- What some operators do, worked out by hand: ZIP's second phase, SCAN's sum in I32, COMPACT's last token, JOIN's
equal coordinates, TRANSPOSE's last token of 32 lanes, and QUANT's scale of zeros and of an infinity (R234 to R240). -/
theorem witness_operator_tables :
    (opStep { op0 .zip 2 1 with count := 2 } 0 none (some (tok 9))).out0 = [tok 9]
      ∧ ((opStep { op0 .scan 0 Ty.i32.code with toks := [tok 3] } 0 (some (tok 4)) none).out0.map fun t => laneOf 32 t.data 0)
        = [7]
      ∧ (opStep (op0 .compact (Ty.i32.code) 0) 0 (some { tok 5 with l := true }) (some (tok 1))).out0
        = [{ tok 5 with l := true }]
      ∧ (opStep { op0 .join 0 0 with buf0 := [(3, 10)], buf1 := [(3, 20)] } 0 none none).st.acc0 = [(3, 10)]
      ∧ (opStep { op0 .transpose 32 0 with toks := (List.range 31).map tok } 0 (some { tok 31 with l := true }) none).out0.length
        = 32
      ∧ quantRow 0 [.fin false 0 0] = (127, [0]) ∧ quantRow 0 [.inf false, .fin false 1 0] = (255, [0, 0])
      ∧ (opStep { op0 .merge 0 0 with end0 := true, end1 := true } 0 none none).out1.map (·.l) = [true] := by decide +kernel

def pb0 (k : BindKind) : VpBind := { kind := k, pat := pat0 0, ctx := 0, part := 0 }
def cp0 (dst : CopyDst) : Copy := { core := cc0, ctx := 0, part := 0, src := pat0 0, dst := dst }
def call0 : CollCall := { rank := 0, mnem := 0, op := 0, ty := .i32, bytes := 0, root := 0 }

/-- A command that may start stands at the head of the scoreboard. -/
theorem witness_commands :
    ([.bind (pb0 .input), .copy (cp0 (.pattern (pat0 0))), .sbar, .coll 1 call0] : List CmdKind).all
      (fun k => onX (stepOf (dev0.updCore cc0 fun c => { c with board := [{ id := 0, kind := k, vp := match k with
        | .bind _ => some (1, 0)
        | _ => none }] })) fun x _ d => (x.vp 0).isSome && match (d.core cc0).board[0]? with
          | some cmd => cmd.kind == k && d.mayStart (d.core cc0) 0 cmd
          | none => false) = true := by decide +kernel

/-- Instance 1 whose port `n` is bound, with an index token at the output port that port 1 takes. -/
def bindX (n : Nat) (b : VpBind) : Dev := (devT fun t => { t with
  out := [(0, { sink := .vport 1, q := [{ blk := 0, record := 0, tok := tok 3 }] })] }).updInst 1 fun x =>
    match x.vp n with
    | some v => x.setVp n { v with bind := some b }
    | none => x
def onVp (n : Nat) (d : Dev) (ok : Inst → Vp → VpBind → Mem → Dev → Bool) : Bool := onX (stepOf d) fun x m d =>
  match x.vp n with
  | some v => match v.bind with
    | some b => ok x v b m d
    | none => false
  | none => false

theorem witness_streams :
    onVp 0 (bindX 0 (pb0 .input)) (fun x v b m d => x.phase != .ending && b.pendFault.isNone && b.roomy
        && match b.nextPiece with
          | some (.read va k) => k != 0 && match d.xlate m (d.vpAcc 1 x v b .rd) va with
            | (d1, .ok _) => (d1.loadPlain m (d.vpAcc 1 x v b .rd) va k).2.isOk
            | _ => false
          | _ => false) = true
      ∧ onVp 0 (bindX 0 { pb0 .input with window := [tok 1] }) (fun x v b _ _ => !b.window.isEmpty && x.admits v.adm
        && x.portRoom v.tile v.port) = true
      ∧ ([.input, .copyIn] : List BindKind).all (fun k => onVp 0
        { bindX 0 { pb0 k with pendFault := some (3, 64) } with copies := [(3, cp0 (.vport 1 0))] } fun x v b _ d =>
          b.window.isEmpty && x.admits v.adm && x.portRoom v.tile v.port && x.faults.isEmpty
            && (d.portCopy 1 0 b).isSome == (k == .copyIn)) = true
      ∧ onVp 1 (bindX 1 (pb0 .output)) (fun x v b m d => b.passed < patTotal b.pat && match x.vpHead v with
        | .tok o => !o.tok.n && (Dev.probeAll m (d.vpAcc 1 x v b .wr) ((List.range (patTaken b.pat 0 o.tok.l)).map fun k =>
            (patAddr b.pat k, patVa b.pat k)) d).2.isNone
        | _ => false) = true
      ∧ onVp 0 (bindX 0 { pb0 .gather with idxVp := 1 }) (fun x _ b _ _ => x.phase != .ending && decide (b.idxs.length ≤ b.fetched - b.passed)
        && b.passed + b.idxs.length < patCount b.pat 0 && match x.idxHead b with
          | some (_, .tok o) => !o.tok.n
          | _ => false) = true := by decide +kernel

/-- A scatter and an update with their data taken and an index token at the head (R225, R226). -/
theorem witness_pairs :
    ([(BindKind.scatter, AccKind.wr), (.update, .upd)] : List (BindKind × AccKind)).all
      (fun k => onVp 0 (bindX 0 { pb0 k.1 with idxVp := 1, part0 := List.replicate 128 0 }) fun x v b m d =>
        b.passed < patCount b.pat 0 && 128 * idxTokens b.pat ≤ b.part0.length && match x.idxHead b with
          | some (_, .tok o) => !o.tok.n && (Dev.probeAll m (d.vpAcc 1 x v b k.2)
              (((List.range 32).filterMap fun l => idxLane o.tok.data l).map fun i => (idxAddr b.pat i, idxVa b.pat i))
              d).2.isNone
          | _ => false) = true := by decide +kernel

def grp0 : Group := { reread := false, calls := [call0], ranks := some (false, [(0, 1, 0, 0)]) }

/-- Copies that are done, into a bank and with a completion word at 64, and one with a fault. -/
theorem witness_copies_end :
    ([(none, true), (some (64, 1), true), (some (mtAddr 1 1 0, 1), false)] : List (Option (Nat × Word) × Bool)).all (fun w =>
        steps (stepOf { devOf bank0 { bank0 with owned := false } with copies := [(0, { cp0 (.pattern (pat0 64)) with
          cfg := 1, cw := w.1, got := [0, 1, 2, 3].map fun g => (g, []), moved := [2, 3, 4, 5] })] }) fun m d =>
          match lookup 0 d.copies with
          | some c => c.fault.isNone && d.copyDone c && match c.cw with
            | some (a, v) => (match ((d.endCopy 0 c).completionWord m { d.copyAcc c .wr with path := .scopy } c.cfg a v).2 with
              | .ok b => b == w.2
              | .error _ => false)
            | none => w.2
          | none => false) = true
      ∧ steps (stepOf { dev0 with copies := [(0, { cp0 (.bank 1 1 0) with
          got := [0, 1, 2, 3].map fun g => (g, []), moved := [0, 1, 2, 3] })] }) (fun _ d =>
            (lookup 0 d.copies).any fun c => c.fault.isNone && d.copyDone c) = true
      ∧ steps (stepOf { dev0 with copies := [(0, { cp0 (.bank 1 1 0) with fault := some (3, 0, 0) })] })
        (fun _ d => (lookup 0 d.copies).any (·.fault.isSome)) = true
      ∧ steps (stepOf { dev0 with ctxs := [(0, { (ctx0 0) with groups := [(1, grp0)] })] })
        (fun _ d => (lookup 1 (d.ctx 0).groups).any (·.nextCalls.isSome)) = true := by decide +kernel

/-! ### Hypotheses that are met: the tier engine, launches and the Shepherd -/

/-- Context 0 with a tiered range of one granule, the granule in a state, and one entry of tier cache. -/
def devTE (g : Granule) : Dev := { dev0 with
  tags := (4, { state := 1, tc := true }) :: dev0.tags
  ctxs := [(0, { rtab := 0x1000, tt := some { stall := false, entries := [] } })]
  rcopy := [(500 * 4096, [some (BitVec.ofNat 512 (range0.toNat + 0x1807 * 2 ^ 192), 0)])]
  t2Fitted := 2 ^ 30 }.updGran 0 0 fun _ => g

/-- The state of `devTE` with the stage-2 entry of its granule's home in tier 2. -/
def stepTE (g : Granule) : State := { mem := writeAll [] (leAt 0x200000 8 (0x40000000000 + 3)), dev := devTE g }

theorem witness_tier_engine :
    ([{ acts := [.fetch] }, { acts := [.fetch], res := .draining }, { acts := [.evict], res := .resident }
      , { acts := [.evict], pin := true }] : List Granule).all (fun g => steps (stepTE g) fun m d =>
        d.ctxPart 0 == some 0 && ((d.part 0).gran (granKey 0 0)).acts.length == 1
          && (match (d.teView m 0 0 0).2 with
            | .tiered _ => true
            | _ => false)
          && (d.freeEntries 0).length == 1) = true
      ∧ ([{ res := .filling }, { res := .draining, dirty := true }] : List Granule).all (fun g =>
        steps (stepTE g) fun _ d => d.ctxPart 0 == some 0 && ((d.part 0).gran (granKey 0 0)).res == g.res) = true
      ∧ steps (stepTE { acts := [.fetch], res := .pending }) (fun _ d =>
        (({ d with tags := dev0.tags } : Dev).freeEntries 0).isEmpty) = true
      ∧ (match (({ dev0 with xl := (xl0.take 1).map fun c => { c with unit := 500 } } : Dev).teView [] 0 0 0).2 with
        | .plain => true
        | _ => false) = true
      ∧ steps (stepOf { dev0 with reports := [{ ctx := 0, part := 0, core := cc0, markers := [1] }] }) (fun _ d =>
        oldestReports d.reports == [0]) = true := by decide +kernel

/-- A launch record with a dependence that memory meets at once, and that it never meets. -/
theorem witness_dispatcher :
    (match parseLaunch (Word.toBytes 256 (1 + 2 ^ 20 + 64 * 2 ^ 448)), parseLaunch (Word.toBytes 256 (1 + 2 ^ 20
        + (64 + 2 ^ 64) * 2 ^ 448)) with
      | some r, some q => [r, q].map (fun r => r.deps.map fun p => match dev0.depWord [] 0 0 p with
        | (_, .ok w) => some (p.met w)
        | _ => none) == [[some true], [some false]]
      | _, _ => false) = true
      ∧ steps (stepOf { dev0 with schedAge := 1, queues := [(0, { enabled := true, entries := [launch0 1], wait := 1000 })] })
        (fun _ d => d.ready 0 && (d.queue 0).head.isSome && 1000 * d.schedAge.toNat ≤ (d.queue 0).wait) = true := by
  decide +kernel

/-- An image of one page whose tile 0 holds a block that passes records on: header, port table, section table and
section (R80, R107 to R111). -/
def imgOf (hash : List Byte) : List Byte :=
  let z : Nat → List Byte := fun n => List.replicate n 0
  Word.toBytes 4 0x47464356 ++ Word.toBytes 4 2 ++ hash ++ [1, 1, 0, 0] ++ Word.toBytes 2 4 ++ Word.toBytes 2 1
    ++ Word.toBytes 4 112 ++ [2, 0, 0, 0] ++ Word.toBytes 4 96 ++ z 24 ++ Word.toBytes 4 176 ++ z 8
    ++ z 8 ++ [1, 0, 0, 0, 0, 1, 0, 0] ++ z 4 ++ Word.toBytes 4 128 ++ Word.toBytes 4 48 ++ z 4
    ++ [1, 0, 0, 0] ++ Word.toBytes 4 32 ++ z 8
    ++ Word.toBytes 16 (0xB7 + 2 ^ 8 + 2 ^ 48 + 2 ^ 113)
    ++ [Instr.rdp { oi .i32 0 with hd := { hd0 with t0 := .left 1 } }, .fan (og .i32)].flatMap fun i =>
      Word.toBytes 8 (((encode i).getD 0).toNat)
def img0 : List Byte := imgOf (imgHash (imgOf (List.replicate 32 0)))

def devI : Dev := { dev0 with insts := [], installs := [launched0] }

theorem witness_install :
    ([img0, img0.drop 1] : List (List Byte)).map (fun b =>
      match parseLaunch (Word.toBytes 256 (1 + 0x1000 * 2 ^ 64)), devI.installs with
      | some r, l :: _ => match (devI.installChecks (writeAll [] (bytesAt 0x1000 b)) l r).2 with
        | .ok _ => 0
        | .error e => e.info
      | _, _ => 99) = [0, checkInfo 1] := by decide +kernel

theorem witness_instances :
    ([0, 1] : List Nat).all (fun k => onX (stepOf (devX fun x => { x with phase := .restoring, plane := k, rew := x.fab }))
        fun x _ d => x.phase == .restoring && (d.activePlane x.lead == x.plane) == (k == 0)
          && x.fab.round == x.rew.round && x.fab.tiles == x.rew.tiles && d.copies.all fun e => !e.2.refetch) = true
      ∧ onX (stepOf (devX fun x => { x with retired := true, threads := [0] })) (fun x _ d =>
        x.retired && x.threads.all fun p => !(d.ccOf p x.plane).threadLive) = true := by decide +kernel

theorem witness_shepherd_acts :
    onX (stepOf (((devX fun x => { x with phase := .boundary, pend := some (.move none) }).updPart 0 fun p =>
        { p with pages0 := 3 }).updCtx 0 fun c => { c with paddock := 0x11000 })) (fun x _ d => x.quiet && !d.copiesInto 1
          && (d.moveDest x none).isSome) = true
      ∧ steps (stepOf { dev0 with time := 10 ^ 6, compacts := [{ ctx := 0, cur := some (1, 0), rest := [] }] }) (fun _ d =>
        (d.compacts.find? fun c => c.cur.map (·.1) == some 1).isSome && 1000 * (d.part 0).ctmo.toNat ≤ d.time) = true
      ∧ ([(false, none), (true, some [1])] : List (Bool × Option (List Nat))).all (fun k => onX (stepOf (devX fun x => { x with
          phase := .boundary, snap := k.2
          pend := some (.snap { marker := k.1, addr := 4096, cap := 65536, release := false, issuer := cc0 }) }))
        fun x _ d => x.quiet && !d.copiesInto 1 && d.threadsSettled x && (!k.1 || x.markersDone (x.snap.getD [])))
      = true
      ∧ onX (stepOf ((devT fun t => { t with inp := [(0, { feeder := .vport 0, newDepth := some 8 })] }).updInst 1 fun x =>
          { x with snap := some [] })) (fun x _ _ => match x.tile 0 with
            | some t => (tileNodes 0 t).contains 0 && x.sourceNodes.contains 0
              && ((t.inp.filter fun q => q.1 != 0 && q.2.feeder == .route).map (·.2.depth)).foldl (· + ·) 8 ≤ 128
            | none => false) = true
      ∧ ([0, 64] : List Nat).all (fun a => onX (stepOf { (devX fun x => { x with phase := .boundary, pend := some .plsw }) with
          installs := [launched0]
          switches := [{ part := 0, acc := dev0.coreAcc cc0 .ctl .wr 1, pages := [0], plane := 1, done := a }] }) fun _ _ d =>
            ((d.activeOn [0]).all fun e => e.2.pend == some .plsw && e.2.quiet)
              && (d.installingOn [0]).any fun l => l.pend.isNone) = true := by decide +kernel

/-! ### Hypotheses that are met: records, memory and meters -/

theorem witness_deliveries :
    steps (stepOf (dev0.updCore cc0 fun c => { c with queue := [rec0], next := 64 })) (fun _ d =>
        d.takesS cc0 && firstRec (d.core cc0).queue == some rec0) = true
      ∧ steps (stepOf ({ dev0 with hqueue := [rec0] }.updCore (.sys 0) fun c => { c with thread := .live })) (fun _ d => d.takerH.isSome && firstRec d.hqueue == some rec0) = true
      ∧ steps (stepOf { dev0 with ctxs := [(0, { evBase := 1024, evSize := 4, evq := [rec0] })] }) (fun m d =>
        match d.load m (d.deviceAcc 0 0 .rd 0) 1024 20 with
        | (d1, .ok (bs, _)) => Word.ofBytes bs == 0
          && (match d1.devStore m 0 0 (1024 + 64) (rec0.bytes true) with
            | (d2, true) => (d2.devStore m 0 0 1024 (Word.toBytes 8 1)).2
            | _ => false)
        | _ => false) = true
      ∧ steps { (stepOf { dev0 with
          ctxs := [(0, { evBase := 1024, evSize := 4, evAck := [(0, { rec0 with holds := true })] })] }) with
          mem := writeAll [] (leAt (1024 + 64 + 56) 8 1) } (fun m d => (d.ctx 0).evEntry 0 == 1024 + 64
          && match (d.load m (d.deviceAcc 0 0 .rd 0) ((d.ctx 0).evEntry 0 + 56) 8).2 with
            | .ok (bs, _) => Word.ofBytes bs == 1
            | .error _ => false) = true
      ∧ steps (stepOf ({ dev0 with time := 9 }.updCore cc0 fun c => { c with thread := .wfi (some 5) })) (fun _ d =>
        (d.core cc0).thread == .wfi (some 5)) = true
      ∧ steps (stepOf { dev0 with time := 10 ^ 9, watch := [(.config 1, 0, false)] }) (fun _ d =>
        d.watched (.config 1) && d.wdogOf (.config 1) ≤ d.time / 1000) = true := by decide +kernel

def line0 (a : Nat) (bs : List Byte) : LineReq := { addr := a, tid := 0, data := bs }
def sep0 (k : SepKind) : SepReq := { kind := k, part := 0, ctx := 0, buf := 1024, cw := 2048 }

/-- A BEGIN buffer at 1024 with an identity of one byte and the generator as both points (R396), and its slot. -/
def memB : Mem := writeAll [] (bytesAt (1024 + 0x40) [1] ++ bytesAt (1024 + 0x60) (beBytes (sm2PubOf 1))
  ++ bytesAt (1024 + 0xA0) (beBytes (sm2PubOf 1)))
def slotB : KeySlot := { assigned := true }

/-- R423: block 1 of a device's second link stands 4,352 bytes into the region; a request beyond the credits waits. -/
theorem test_tier2_request :
    ((State.reset.dev.t2Request 3 0x40000001140 false 1).out.map fun o => (o.link, o.body)) = [(1, [0, 0, 0, 3, 0x140, 0])]
      ∧ (({ credits := 0, waiting := [{ kind := 0x42, link := 1, body := [] }] } : Link).drain.2) = [] := by decide +kernel

theorem witness_lines_and_meters :
    steps (stepOf { dev0 with tags := [(7, { state := 2 })] }) (fun _ d => (d.tag 7).state == 2 && (d.tag 7).lines.isEmpty) = true
      ∧ steps { mem := memB, dev := { dev0 with sepq := [sep0 .begin_] }.updPart 0 fun p => { p with slots := [slotB] } }
        (fun m d => (d.keySlot 0 0).assigned && ((d.keySlot 0 0).share 0).isNone
          && match (({ d with sepq := [] } : Dev).sepLoad m (sep0 .begin_) 0 8).2 with
            | some b => Word.ofBytes (sub b 0x40 2) == 1
              && ([0x60, 0xA0] : List Nat).all fun o => sm2OnCurve (BitVec.ofNat 512 (Word.ofBytesBe (sub b o 64)))
            | none => false) = true
      ∧ steps (stepOf dev0) (fun m d => d.pkg.powered && (d.readLocal m 0 false 64 64).1.isEmpty) = true
      ∧ steps (stepOf dev0) (fun _ d => (d.part 0).state == .running && (d.part 0).ival != 0
        && (d.part 0).meterDue ≤ d.time) = true
      ∧ ([.begin_, .finish, .record, .quote] : List SepKind).all (fun k =>
        steps (stepOf { dev0 with sepq := [sep0 k] }) fun m d =>
          (d.sepq.head?.map (·.kind)) == some k && (({ d with sepq := [] } : Dev).sepLoad m (sep0 k) 0 1).2.isSome) = true := by
  decide +kernel

/-- A FINISH of role 0 whose confirmation and share verify, bound to no configuration: the agreed bits are 0 (R396). -/
def slotF : KeySlot := { assigned := true, begun0 := some 0 }
def shareF : List Byte := xorBytes (List.replicate 16 0) (sm4Enc 0 (List.replicate 16 0))
def macF : List Byte := (hmacSm3 (Word.toBytesBe 16 0) (shareF ++ List.replicate 32 0 ++ Word.toBytes 1 0
  ++ Word.toBytes 1 0)).take 16
def bufF : List Byte := List.replicate 0x190 0 ++ (macF ++ List.replicate 96 0)

theorem sub_bufF (off n : Nat) (h : off + n ≤ 0x190) : sub bufF off n = List.replicate n 0 := by
  rw [sub, bufF, List.drop_append_of_le_length (by rw [List.length_replicate]; omega),
    List.take_append_of_le_length (by rw [List.length_drop, List.length_replicate]; omega), List.drop_replicate,
    List.take_replicate, Nat.min_eq_left (by omega)]

theorem sub_macF : sub bufF 0x190 16 = macF := by
  have : macF.length = 16 := by simp [macF, hmacSm3, sm3, Word.toBytesBe, Word.toBytes]
  rw [sub, bufF, List.drop_left' List.length_replicate, List.take_left' this]

theorem witness_finish :
    slotF.roleBad 0 = false
      ∧ openShare (sep0 .finish) slotF 0 bufF = .ok (BitVec.ofNat 128 (Word.ofBytesBe shareF), List.replicate 32 0) := by
  refine ⟨by decide, ?_⟩
  simp only [openShare, sub_bufF, sub_macF, Nat.reduceAdd, Nat.reduceLeDiff]
  have h0 : ∀ h l : Nat, Word.bits (0 : BitVec 768).toNat h l = 0 := by intro h l; simp [Word.bits]
  simp only [h0]
  have : Word.toBytesBe 32 0 = List.replicate 32 0 := by decide
  rw [this]
  change (if (List.replicate 32 0 != List.replicate 32 0 || macF != macF) = true then _ else _) = _
  simp only [bne_self_eq_false, Bool.or_self, Bool.false_eq_true, if_false, show slotF.bind = [] from rfl, List.all_nil,
    Bool.not_true, Bool.false_and, shareF]
  rfl

/-! ### Hypotheses that are met: cold operation, sessions and links -/

/-- Readings of all sensors at one temperature in K, and a state of the package. -/
def at_ (k : Nat) : List (Option Nat) := List.replicate 256 (some (64 * k))
def devP (s : PkgState) : Dev := { dev0 with pkg := s, bootOk := true }

theorem sensors_at (k : Nat) : sensorsOf (at_ k) = at_ k := by
  apply List.ext_getElem
  · simp only [sensorsOf, at_, List.length_map, List.length_range, List.length_replicate]
  · intro n h _
    have : n < 256 := by simpa only [sensorsOf, List.length_map, List.length_range] using h
    simp only [sensorsOf, at_, List.getElem_map, List.getElem_range, List.getElem?_replicate, this, if_true,
      Option.getD_some, List.getElem_replicate]

theorem witness_temperatures :
    ([99, 250] : List Nat).all (fun k => !tripDue (at_ k) && hottest (at_ k) == some (64 * k, 0)
        && coldest (at_ k) == some (64 * k, 0)) = true
      ∧ tripDue (at_ 64) = true
      ∧ steps (stepOf { devP .soak with time := 10 ^ 12, coolFrom := some 0, passClean := true }) (fun _ d =>
        (d.sample (at_ 90)).soaked) = true
      ∧ ([.soak, .coldReady, .run] : List PkgState).all (fun s => steps (stepOf { devP s with patrolNs := 3600 * 10 ^ 9 })
        fun _ d => d.pkg.patrols && !d.auditDue) = true := by decide +kernel

/-- The last group of an entry to RETREAT and of an exit from it. -/
theorem witness_retrain :
    ([1, 2] : List Nat).all (fun k => (((List.replicate 47 k ++ [0]).set 47 k).all (· == k))
        && !((List.replicate 48 0).set 47 k).all (· == k)) = true := by decide +kernel

/-- A request of session 1 with a good MAC, and a state in which the session holds every lock. -/
def req (op counter iface : Nat) (payload : List Byte) : MgmtMsg :=
  { session := 1, counter := counter, iface := iface, payload := payload
    mac := (hmacSm3 ({} : Session).requestKey (mgmtBytes 1 counter op iface 0 payload)).take 8 }
def devS (opened : Bool) : Dev := { devP .service with
  parts := [], sessions := [(1, { opened := opened })], locks := (List.range 4).map fun k => (k, 1, 10) }

theorem witness_mac (op counter iface : Nat) (payload : List Byte) (s : Session) (h : s.agreed = 0) :
    macOk (req op counter iface payload) op s = true := by simp [macOk, req, Session.requestKey, h]

theorem witness_sessions :
    ([(2, 1, 0xFF, Word.toBytesBe 32 0), (3, 1, 0xFF, []), (0x10, 1, 0, []), (0x20, 1, 0, Word.toBytesBe 8 2 ++ [7])
      , (0x22, 1, 0, [0])] : List (Nat × Nat × Nat × List Byte)).all (fun r =>
        steps (stepOf (devS (r.1 != 2))) fun _ d => match lookup (req r.1 r.2.1 r.2.2.1 r.2.2.2).session d.sessions with
          | some s => s.opened == (r.1 != 2) && s.agreed == 0 && s.counter < r.2.1
            && (r.2.2.1 == 0xFF || (d.holder r.2.2.1).map (·.1) == some 1)
          | none => false) = true := by decide +kernel

/-- An OPEN that names the key in place 0, with an identity of one byte (R405). -/
theorem witness_open :
    let p : List Byte := [0, 1, 7] ++ List.replicate 64 0
    steps (stepOf { devS false with flash := { opkeys := [sm2PubOf 1] } }) (fun _ d => Word.ofBytes (sub p 1 1) == 1
      && p.length == 67 && (d.flash.opKey (Word.ofBytes (sub p 0 1))).any sm2OnCurve) = true := by decide +kernel

theorem witness_commands_of_interfaces :
    ([0, 1, 2, 3] : List Nat).all (fun k => ((devS true).holder k).map (·.1) == some 1) = true
      ∧ (({ devS true with flash := { bank1 := { ok := true } } } : Dev).flash.bankOf true).ok = true
      ∧ (devS true).runningParts = []
      ∧ (({ opkeys := [5] } : Flash).opKey 0 = some 5 ∧ ({} : Flash).opKey 8 = some 0)
      ∧ (({} : Flash).takeWrite 0 2 [7]).length = 1 := by decide +kernel

def peer0 (kind : Nat) : PeerMsg :=
  { link := 0, circ := 3, seqNo := 0, kind := kind, npay := 1, tid := 0, part := 0, srcpkg := 1, addr := 64, payload := [1] }
def rdma0 (bs : List Byte) : RdmaMsg := { part := 0, qp := 5, addr := 0, rkey := 9, len := 8, kind := 0, payload := bs }

theorem witness_links :
    ([0, 1, 2, 3, 4, 5, 6, 7, 8] : List Nat).all (fun k => let q := peer0 k
        steps (stepOf { dev0 with insts := [], peerq := [write0] }) fun _ d => (d.peerAcked { q with addr := 0 } false).isSome && d.pkg.powered && (d.link q.link).up && q.npay ≤ 32
          && q.payload.length ≤ 64 * q.npay && (lookup q.circ (d.link q.link).seqs).all (· == q.seqNo)) = true
      ∧ lineSymbols (List.replicate 64 0) (1 :: List.replicate 63 0) = some { corr := true }
      ∧ inTier2 (t2Host 0 0) = true
      ∧ steps (stepOf (dev0.updLink 0 fun l => { l with resends := 8 })) (fun _ d =>
        (d.link 0).up && (d.link 0).resends == 8 && (d.t2link 0).up) = true := by decide +kernel

/-- An endpoint of queue pair 5 in context 0, over range 0, and the areas it admits (R420, R421). -/
def memQ : Mem := writeAll [] (leAt 0 64 (1 + 5 * 2 ^ 16 + 9 * 2 ^ 96) ++ leAt 0x1000 64 range0.toNat ++ leAt 0x200000 8 3)
def devQ : Dev := ({ dev0 with ctxs := [(0, { rtab := 0x1000 })] }.updPart 0 fun p =>
  { p with eth := 0x30000010 })

def flow0 : EthFlow :=
  { part := 0, qp := 5, port := 0, prio := 0, vlan := 0, remoteQp := 0, ipv6 := false, remoteIp := 0 }

theorem witness_rdma :
    ([AccKind.wr, .rd] : List AccKind).all (fun k =>
        steps { mem := memQ, dev := devQ } fun m d => match (d.notify m (rdma0 [1, 2])).admitRdma m (rdma0 [1, 2]) true k 0 8 with
          | (d1, _, some (va, a, _)) => (d1.loadSpan m a va 8).2.isOk
          | _ => false) = true
      ∧ steps { mem := memQ, dev := devQ } (fun m d => (Dev.inbound m 0 5 256 0 d).2.isSome) = true
      ∧ steps { mem := memQ, dev := { devQ with slowed := [flow0.num] } } (fun _ d => d.slowed.contains flow0.num) = true
      ∧ steps { mem := memQ, dev := devQ } (fun m d => match d.admitRdma m (rdma0 [1, 2]) false .wr 0 8 with
        | (d1, _, some (va, a, n)) => 320 ≤ n && (d1.putEntry m a va ((n - 64) / 256) [1, 2]).2
        | _ => false) = true
      ∧ steps { mem := [], dev := dev0 } (fun m d => (d.admitRdma m (rdma0 [1, 2]) true .wr 0 8).2.2.isNone) = true
      ∧ steps (stepOf { dev0 with copies := [(3, { cp0 (.pattern (pat0 0)) with unacked := [(5, 0)] })] }) (fun _ d =>
        (d.copies.find? fun e => e.2.part == (rdma0 []).part && e.2.answered (rdma0 []) != e.2).isSome) = true := by
  decide +kernel

/-! ### Hypotheses that are met: MOUT, words, and statements over all states -/

/-- A bank of accumulators that holds 0 converts with no invalid lane. -/
theorem mout_clean : ((moutElems (og .i32) {} []).all fun r =>
    (laneCause .plain { code := 0, invalid := r.invalid }).isNone) = true := by
  simp only [moutElems, List.all_map, List.all_eq_true]
  intro n _
  exact (by decide +kernel : (laneCause .plain { code := 0, invalid :=
    (moutElem .i32 .rne false 0 0).invalid }).isNone = true)

theorem witness_mout :
    ([(og .i32).hd, hd0].map fun h => ({ og .i32 with hd := h } : OpG)).all (fun o =>
      meets (eltB bank0 { bankM .tile with full := [] } (.mout o) (tok 0) (tok 0) (tok 0)) (.mout o) fun e _ _ d =>
        e.hdr.ppol == .plain && (d.draw e o.rm (128 * 192)).1 == [] && match d.inst e.cfg with
          | some x => match x.ct e.tile with
            | some c => (c.me.bank 0).words == [] && (c.me.bank 0).pois == [] && (c.me.bank 0).lowest.isNone
            | none => false
          | none => false) = true
      ∧ meets (eltB { bank0 with full := [] } bank0 (.mout { og .i32 with hd := hd0 }) (tok 0) (tok 0) (tok 0))
        (.mout { og .i32 with hd := hd0 }) (fun e _ _ d => elemBank d e 0 true fun _ b => !b.fillFull) = true := by
  decide +kernel

theorem witness_words :
    (Instr.add { og .i64 with hd := { hd0 with t0 := .left 7 } }).wellFormed = true
      ∧ encode (.add { og .i64 with hd := { hd0 with t0 := .left 7 } }) = some 0x2010E00E00000000#64
      ∧ decode 0x1500000000000000#64 = .ok (.halt oc) ∧ Ty.i32.ffmt = none
      ∧ ([{ start := 0, step := 4, count := 3 }] : List LoopCtr)[0]? = some { start := 0, step := 4, count := 3 }
      ∧ loopValue [{ start := 0, step := 4, count := 3 }] 0 5 = 8
      ∧ Ty.fp32.fmt.decode 0x3F800000 = .fin false (2 ^ 23) (-23)
      ∧ Ty.fp32.fmt.roundFin .rne false 0 false (2 ^ 23) (-23) = 0x3F800000 := by decide +kernel

/-- A word that stands as the next instruction after reset runs: HALT is captured in the block of system core 0, and
RDP of an element's block writes its port's token to an output port. -/
theorem witness_next_word :
    (match step (State.reset.withFetchWord 64 0x1500000000000000) with
      | .next t => (t.dev.core (.sys 0)).frame.map fun f => f.caps.map (·.slot)
      | _ => none) = some [0]
      ∧ (match step (State.reset.withFetchWord 64 ((encode (.rdp (oi .i32 0))).getD 0).toNat) with
        | .next t => (((t.dev.inst 1).bind fun x => x.tile 0).bind fun t => lookup 0 t.out).map fun p => p.q.length
        | _ => none) = some 1
      ∧ (Instr.rdp (oi .i32 0)).legalIn .control = false := by decide +kernel

theorem witness_memory :
    (writeAll [] [(4, 1), (2, 5), (4, 0)]).wf = true ∧ readByte (writeAll [] [(4, 1), (2, 5)]) 4 = 1
      ∧ writeAll [] [(4, 1), (2, 5), (4, 0)] = [(2, 5)] := by decide

/-- A store of two bytes through the copy of page 0, and what two memories that differ in a foreign frame have in
common for TID 0. -/
theorem witness_store_frame :
    (match dev0.xlate [] (dev0.coreAcc cc0 .ctl .wr 1) 64 with
      | (d1, .ok h) => match h.copy with
        | some c => c.leaf.getLsbD 10 && !c.leaf.getLsbD 8 && h.window.isNone && h.peer.isNone && h.typ != 1
          && h.host % 64 + 2 ≤ 64
          && let e := d1.markDirty h
            let line := e.copyLine h (h.host / 64 * 64)
            e.tagPass h.tid false line && !e.t2Down line && !(e.lineOut h.tid false line).zeros
              && (e.lineOut h.tid false line).poison.isNone
        | none => false
      | _ => false) = true
      ∧ (dev0.leafFault (dev0.coreAcc cc0 .ctl .wr 1) 0x407).isNone = true := by decide +kernel

theorem witness_isolation (a : Nat) (h : dev0.tagPass 0 false (a / 64 * 64) = true) :
    readByte [(5 * 2 ^ 21, 1)] a = readByte [] a := by
  have : a ≠ 5 * 2 ^ 21 := by
    rintro rfl
    exact absurd h (by decide +kernel)
  simp only [readByte]
  rw [if_neg (by omega)]

/-- A predicate of 1 stops PM 10, a null operand stops all but GATE, and poison of the left operand goes first. -/
theorem witness_gather :
    (gather { l := true, r := true, t := false } .onFalse false
        { ins := .sel (og .w32), l := [{ tok 1 with p := true, org := 7 }], r := [{ tok 1 with p := true, org := 8 }]
          t := [tok 1] }).map (fun g => (g.computes, g.org)) = some (false, some 7)
      ∧ (gather { l := true, r := true, t := false } .none false
        { ins := .sel (og .w32), l := [{ n := true }], r := [tok 1] }).map (fun g => (g.computes, g.mixed)) = some (false, false)
      ∧ (gather { l := true, r := true, t := false } .none true
        { ins := .sel (og .w32), l := [{ n := true }], r := [tok 1] }).map (fun g => g.computes) = some true := by decide +kernel

/-! ### Results worked out from the rules -/

/-- R137's example: 2 − 3 in W8 saturates to 0, and wraps to 0xFF without SAT. -/
theorem test_addi_saturates :
    lane0 8 (.addi { oi .w8 0xFFFD with fn := 1 }) (tok 2) (tok 0) (tok 0) = some 0
      ∧ lane0 8 (.addi (oi .w8 0xFFFD)) (tok 2) (tok 0) (tok 0) = some 0xFF := by decide +kernel

/-- R139: −7 / 2 is −3 and the remainder −1; the least value over −1 wraps; over 0 the quotient is 0 and poisoned. -/
theorem test_division :
    lane0 32 (.div (og .i32)) (tok 0xFFFFFFF9) (tok 2) (tok 0) = some 0xFFFFFFFD
      ∧ lane0 32 (.rem (og .i32)) (tok 0xFFFFFFF9) (tok 2) (tok 0) = some 0xFFFFFFFF
      ∧ (delivered (.div (og .i32)) (tok 5) (tok 0) (tok 0)).map (fun x => (laneOf 32 x.data 0, x.p)) = some (0, true) := by
  decide +kernel

theorem test_division_least : lane0 32 (.div (og .i32)) (tok 0x80000000) (tok 0xFFFFFFFF) (tok 0) = some 0x80000000 := by
  decide +kernel

/-- R140: a shift by the width gives 0, SRA the sign; ROTL by 36 is ROTL by 4. -/
theorem test_shifts :
    lane0 32 (.shl (og .w32)) (tok 1) (tok 32) (tok 0) = some 0
      ∧ lane0 32 (.sra (og .i32)) (tok 0x80000000) (tok 40) (tok 0) = some 0xFFFFFFFF
      ∧ lane0 32 (.rotl (og .w32)) (tok 0x80000001) (tok 36) (tok 0) = some 0x18 := by decide +kernel

/-- R122's example: OR of MOVH 0x4049 in quarter 1 and MOVI 0x0FDB is the FP32 value nearest to π. -/
theorem test_moves :
    lane0 32 (.movh { oi .w32 0x4049 with fn := 1 }) (tok 0) (tok 0) (tok 0) = some 0x40490000
      ∧ lane0 32 (.movi (oi .w32 0x0FDB)) (tok 0) (tok 0) (tok 0) = some 0xFDB
      ∧ lane0 32 (.or (og .w32)) (tok 0x40490000) (tok 0xFDB) (tok 0) = some 0x40490FDB := by decide +kernel

/-- R141 to R143: CLZ of 0 is w, BREV of 1 is the top bit, and BFX of an I type extends its sign. -/
theorem test_bits :
    lane0 32 (.clz (og .w32)) (tok 0) (tok 0) (tok 0) = some 32
      ∧ lane0 32 (.brev (og .w32)) (tok 1) (tok 0) (tok 0) = some 0x80000000
      ∧ lane0 32 (.bfx (oi .i32 0xC4)) (tok 0xF0) (tok 0) (tok 0) = some 0xFFFFFFFF := by decide +kernel

/-- R151: 1 + 2 is 3 and ∞ − ∞ is an invalid operation, with the canonical NaN and poison. -/
theorem test_fadd :
    lane0 32 (.fadd (og .fp32)) (tok 0x3F800000) (tok 0x40000000) (tok 0) = some 0x40400000
      ∧ (delivered (.fsub (og .fp32)) (tok 0x7F800000) (tok 0x7F800000) (tok 0)).map
        (fun x => (laneOf 32 x.data 0, x.p)) = some (0x7FC00000, true) := by decide +kernel

/-- R78's exact cases: sin of −1.25 turns is −1, 2^3 is 8, log2 of 8 is 3, 1/√4 is 0.5, tanh of 10 is 1, cos of 0
turns is 1; R157's √9 is 3, and the reciprocal of 4 is 0.25. -/
theorem test_functions :
    ([(.fsint (og .fp32), 0xBFA00000, 0xBF800000), (.fexp2 (og .fp32), 0x40400000, 0x41000000)
      , (.flog2 (og .fp32), 0x41000000, 0x40400000), (.frsq (og .fp32), 0x40800000, 0x3F000000)
      , (.ftanh (og .fp32), 0x41200000, 0x3F800000), (.fcost (og .fp32), 0, 0x3F800000)
      , (.fsqrt (og .fp32), 0x41100000, 0x40400000), (.frcp (og .fp32), 0x40800000, 0x3E800000)] :
      List (Instr × Nat × Nat)).all (fun e => lane0 32 e.1 (tok e.2.1) (tok 0) (tok 0) == some e.2.2) = true := by
  decide +kernel

/-- The key pair of the worked example of GB/T 32918.5, the standard of R5. -/
theorem test_sm2_vector : sm2PubOf 0x3945208F7B2144B13F36E38AC6D39F95889393692860B51A42FB81EF4DF7C5B8
    = 0x09F9DF311E5421A150DD7D161E4BC5C672179FAD1833FC076BB08FF356F35020CCEA490CE26775A52DC6EA718CC1AA600AED05FBF35E084A6632F6072DA9AD13#512 := by
  decide +kernel

/-- The published vectors of GB/T 32907 (example 1) and GB/T 32905 (example 1), the standards of R5. -/
theorem test_sm4_vector :
    sm4Enc 0x0123456789ABCDEFFEDCBA9876543210 (Word.toBytesBe 16 0x0123456789ABCDEFFEDCBA9876543210)
      = Word.toBytesBe 16 0x681EDF34D206965E86B3E94F536E4246 := by decide +kernel

theorem test_sm3_vector : sm3 [0x61, 0x62, 0x63]
    = Word.toBytesBe 32 0x66C7F0F462EEEDD9D1F2D46BDC10E4E24167C4875CF2F7A2297DA02B8F4BA8E0 := by decide +kernel

end Sys2Proof.Tests
end

section
/-! PROOFS. Exact values narrowed to a lane (R11, R136), and the lanes side by side in a token's DATA (R7). -/

namespace Sys2Proof.Proofs
open Sys2Proof Sys2Proof.Machine Sys2Proof.Laws

/-! ### Wrapped and saturated values -/

theorem cast_wrap (x : Int) (w : Nat) : ((Word.wrap x w : Nat) : Int) = x % ((2 ^ w : Nat) : Int) :=
  Int.toNat_of_nonneg (Int.emod_nonneg x (by positivity))

theorem toSigned_eq_toInt (w x : Nat) : Word.toSigned w x = (BitVec.ofNat w x).toInt := by
  rw [BitVec.toInt_eq_msb_cond, BitVec.msb_eq_getLsbD_last, BitVec.getLsbD_ofNat]
  rcases Nat.eq_zero_or_pos w with rfl | hw
  · simp [Word.toSigned, Nat.mod_one]
  · simp [Word.toSigned, hw, hw.ne']

theorem ofNat_wrap (x : Int) (w : Nat) : BitVec.ofNat w (Word.wrap x w) = BitVec.ofInt w x := by
  rw [← BitVec.ofInt_natCast, cast_wrap]
  exact BitVec.eq_of_toInt_eq (by simp only [BitVec.toInt_ofInt, Int.emod_bmod])

/-- The two's-complement reading of a wrapped number is its balanced remainder. -/
theorem toSigned_wrap (x : Int) (w : Nat) : Word.toSigned w (Word.wrap x w) = x.bmod (2 ^ w) := by
  rw [toSigned_eq_toInt, ofNat_wrap, BitVec.toInt_ofInt]

theorem intVal_wrap (t : Ty) (x : Int) :
    t.intVal (Word.wrap x t.width)
      = if t.isI then x.bmod (2 ^ t.width) else x % ((2 ^ t.width : Nat) : Int) := by
  unfold Ty.intVal
  split
  · exact toSigned_wrap x t.width
  · rw [Int.natCast_emod, cast_wrap, Int.emod_emod]

/-- A wrapped lane agrees with the exact value modulo 2^w. -/
theorem intVal_wrap_emod (t : Ty) (x : Int) :
    (t.intVal (Word.wrap x t.width) - x) % ((2 ^ t.width : Nat) : Int) = 0 := by
  rw [intVal_wrap]
  split
  · rw [Int.sub_emod, Int.bmod_emod, Int.sub_self, Int.zero_emod]
  · rw [Int.sub_emod, Int.emod_emod, Int.sub_self, Int.zero_emod]

theorem width_pos (t : Ty) : 0 < t.width := by cases t <;> decide

theorem two_pow_width (t : Ty) : 2 ^ t.width = 2 * 2 ^ (t.width - 1) := by
  rw [← Nat.pow_succ', Nat.succ_eq_add_one, Nat.sub_add_cancel (width_pos t)]

theorem intMin_le_intMax (t : Ty) : t.intMin ≤ t.intMax := by
  have h := Nat.two_pow_pos (t.width - 1)
  have hw := Nat.two_pow_pos t.width
  unfold Ty.intMin Ty.intMax
  split <;> omega

/-- Wrapping keeps a number that the type holds. -/
theorem intVal_wrap_of_range (t : Ty) {x : Int} (hlo : t.intMin ≤ x) (hhi : x ≤ t.intMax) :
    t.intVal (Word.wrap x t.width) = x := by
  have h2 := two_pow_width t
  rw [intVal_wrap]
  unfold Ty.intMin at hlo
  unfold Ty.intMax at hhi
  split <;> rename_i hI
  · rw [if_pos hI] at hlo hhi
    exact Int.bmod_eq_of_le (by omega) (by omega)
  · rw [if_neg hI] at hlo hhi
    exact Int.emod_eq_of_lt hlo (by omega)

/-- A saturated lane holds the number of the type's range that is nearest to the exact value. -/
theorem intVal_saturate (t : Ty) (x : Int) :
    t.intVal (saturate x t) = max t.intMin (min t.intMax x) :=
  intVal_wrap_of_range t (le_max_left _ _) (max_le (intMin_le_intMax t) (min_le_left _ _))

/-- Settles O9: both ends of the type's range and all between them survive wrapping to its width. -/
theorem narrowingExact : Obligations.NarrowingExact :=
  fun t x _ => ⟨intVal_saturate t x, intVal_wrap_emod t x⟩

/-! ### Lanes side by side -/

/-- The lanes packed from lane 0 up are the digits of a number in base 2^w. -/
theorem packLanes_eq_ofDigits (w : Nat) (xs : List Nat) :
    packLanes w xs = BitVec.ofNat 1024 (Nat.ofDigits (2 ^ w) (xs.map (· % 2 ^ w))) := by
  unfold packLanes
  congr 1
  induction xs with
  | nil => rfl
  | cons x xs ih => rw [List.foldr_cons, ih, List.map_cons, Nat.ofDigits_cons, Nat.add_comm, Nat.mul_comm]

theorem lt_of_mem_map_mod {w y : Nat} {xs : List Nat} (h : y ∈ xs.map (· % 2 ^ w)) : y < 2 ^ w := by
  obtain ⟨x, -, rfl⟩ := List.mem_map.mp h
  exact Nat.mod_lt x (Nat.two_pow_pos w)

theorem ofDigits_map_mod_lt {w n : Nat} {xs : List Nat} (hw : 0 < w) (h : xs.length * w ≤ n) :
    Nat.ofDigits (2 ^ w) (xs.map (· % 2 ^ w)) < 2 ^ n := by
  calc Nat.ofDigits (2 ^ w) (xs.map (· % 2 ^ w))
      < (2 ^ w) ^ (xs.map (· % 2 ^ w)).length :=
        Nat.ofDigits_lt_base_pow_length (Nat.one_lt_two_pow hw.ne') fun _ => lt_of_mem_map_mod
    _ = 2 ^ (xs.length * w) := by rw [List.length_map, ← Nat.pow_mul, Nat.mul_comm]
    _ ≤ 2 ^ n := Nat.pow_le_pow_right two_pos h

/-- Lanes that fit the 1,024 bits of DATA lose no digit. -/
theorem toNat_packLanes {w : Nat} {xs : List Nat} (hw : 0 < w) (h : xs.length * w ≤ 1024) :
    (packLanes w xs).toNat = Nat.ofDigits (2 ^ w) (xs.map (· % 2 ^ w)) := by
  rw [packLanes_eq_ofDigits, BitVec.toNat_ofNat]
  exact Nat.mod_eq_of_lt (ofDigits_map_mod_lt (n := 1024) hw h)

/-- A lane of packed DATA is the lane that was packed there. -/
theorem laneOf_packLanes {w l x : Nat} {xs : List Nat} (hw : 0 < w) (h : xs.length * w ≤ 1024) (hx : xs[l]? = some x) :
    laneOf w (packLanes w xs) l = x % 2 ^ w := by
  rw [laneOf, toNat_packLanes hw h, Nat.shiftRight_eq_div_pow, Nat.pow_mul,
    Nat.ofDigits_div_pow_eq_ofDigits_drop l (Nat.two_pow_pos w) _
      (fun _ => lt_of_mem_map_mod), Nat.ofDigits_mod_eq_head!]
  simp [List.head!_eq_getElem!, hx]

/-- Settles O14: the lanes fit the 1,024 bits, so packing loses none of them. -/
theorem lanesOfResult : Obligations.LanesOfResult := by
  intro o l x hw hfit hx
  refine laneOf_packLanes hw (by rwa [List.length_map]) ?_
  rw [List.getElem?_map, hx]
  rfl

end Sys2Proof.Proofs
end

section
/-! PROOFS. Byte memories: what a list of writes leaves behind, and the canonical form (R7, R355). -/

namespace Sys2Proof.Proofs
open Sys2Proof Sys2Proof.Machine Sys2Proof.Laws

theorem writeAll_append (m : Mem) (ws vs : List (Nat × Byte)) :
    writeAll m (ws ++ vs) = writeAll (writeAll m ws) vs := List.foldl_append

@[simp] theorem writeAll_cons (m : Mem) (w : Nat × Byte) (ws : List (Nat × Byte)) :
    writeAll m (w :: ws) = writeAll (writeByte m w.1 w.2) ws := rfl

/-- The last write of an address is what a read finds there. -/
theorem readByte_writeAll_last {m : Mem} (h : m.wf = true) (ws : List (Nat × Byte)) {vs : List (Nat × Byte)}
    {a : Nat} (v : Byte) (hv : ∀ w ∈ vs, w.1 ≠ a) : readByte (writeAll m (ws ++ (a, v) :: vs)) a = v := by
  rw [writeAll_append, writeAll_cons, readByte_writeAll_of_not_mem _ _ hv]
  exact readByte_writeByte_same (wf_writeAll h ws) a v

/-! ### The canonical form -/

theorem memWfFrom_cons {lo : Nat} {c : Host.Cell} {cs : Mem} :
    memWfFrom lo (c :: cs) = true ↔ lo ≤ c.1 ∧ c.2 ≠ unlisted ∧ memWfFrom (c.1 + 1) cs = true := by
  simp [memWfFrom, and_assoc]

theorem readByte_cons_same (c : Host.Cell) (cs : Mem) : readByte (c :: cs) c.1 = c.2 := if_pos rfl

theorem readByte_cons_ne {c : Host.Cell} {a : Nat} (h : c.1 ≠ a) (cs : Mem) :
    readByte (c :: cs) a = readByte cs a := if_neg h

/-- Memories that read alike list nothing below the first cell of either. -/
theorem le_head_of_readByte_eq {lo : Nat} {c : Host.Cell} {cs m : Mem} (hc : c.2 ≠ unlisted)
    (hm : memWfFrom lo m = true) (h : ∀ a, readByte (c :: cs) a = readByte m a) : lo ≤ c.1 := by
  by_contra hlt
  refine hc ?_
  rw [← readByte_cons_same c cs, h, readByte_below hm (by omega)]

/-- Canonical memories that read alike list the same cells. -/
theorem eq_of_readByte_eq {m m' : Mem} {lo lo' : Nat} (hm : memWfFrom lo m = true)
    (hm' : memWfFrom lo' m' = true) (h : ∀ a, readByte m a = readByte m' a) : m = m' := by
  induction m generalizing m' lo lo' with
  | nil =>
    cases m' with
    | nil => rfl
    | cons c' cs' =>
      obtain ⟨-, hc', -⟩ := memWfFrom_cons.mp hm'
      exact absurd ((readByte_cons_same c' cs').symm.trans (h c'.1).symm) hc'
  | cons c cs ih =>
    obtain ⟨-, hc, hcs⟩ := memWfFrom_cons.mp hm
    cases m' with
    | nil => exact absurd ((readByte_cons_same c cs).symm.trans (h c.1)) hc
    | cons c' cs' =>
      obtain ⟨-, hc', hcs'⟩ := memWfFrom_cons.mp hm'
      have ha : c.1 = c'.1 := Nat.le_antisymm
        (le_head_of_readByte_eq (lo := c.1) hc' (memWfFrom_cons.mpr ⟨le_rfl, hc, hcs⟩) fun a => (h a).symm)
        (le_head_of_readByte_eq (lo := c'.1) hc (memWfFrom_cons.mpr ⟨le_rfl, hc', hcs'⟩) h)
      have hv : c.2 = c'.2 := by
        rw [← readByte_cons_same c cs, h, ha, readByte_cons_same]
      have htail : ∀ a, readByte cs a = readByte cs' a := by
        intro a
        by_cases hca : c.1 = a
        · rw [readByte_below hcs (by omega), readByte_below hcs' (by omega)]
        · rw [← readByte_cons_ne hca cs, h, readByte_cons_ne (ha ▸ hca)]
      rw [Prod.ext ha hv, ih hcs hcs' htail]

/-! ### A run of bytes -/

theorem bytesAt_cons (a : Nat) (b : Byte) (bs : List Byte) : bytesAt a (b :: bs) = (a, b) :: bytesAt (a + 1) bs := by
  simp [bytesAt, List.mapIdx_cons, Nat.add_assoc, Nat.add_comm 1]

theorem le_of_mem_bytesAt {a : Nat} {bs : List Byte} {w : Nat × Byte} (h : w ∈ bytesAt a bs) : a ≤ w.1 := by
  obtain ⟨i, -, rfl⟩ := List.mem_mapIdx.mp h
  exact Nat.le_add_right a i

theorem readBytes_succ (m : Mem) (a n : Nat) : readBytes m a (n + 1) = readByte m a :: readBytes m (a + 1) n := by
  simp [readBytes, List.range_succ_eq_map, Function.comp_def, Nat.add_assoc, Nat.add_comm 1]

/-- A run of bytes written is the run that is read. -/
theorem readBytes_writeAll_bytesAt {m : Mem} (h : m.wf = true) (a : Nat) (bs : List Byte) :
    readBytes (writeAll m (bytesAt a bs)) a bs.length = bs := by
  induction bs generalizing m a with
  | nil => rfl
  | cons b bs ih =>
    have hne : ∀ w ∈ bytesAt (a + 1) bs, w.1 ≠ a := fun w hw => Nat.ne_of_gt (le_of_mem_bytesAt hw)
    rw [bytesAt_cons, List.length_cons, readBytes_succ]
    exact congrArg₂ _ (readByte_writeAll_last h [] b hne) (ih (wf_writeByte h a b) (a + 1))

/-- Settles O56: a write is found by the last read law, and canonical memories are compared cell by cell. -/
theorem memoryWrites : Obligations.MemoryWrites :=
  ⟨fun m ws _ h => readByte_writeAll_of_not_mem m ws h,
    fun _ ws _ _ v hm h => readByte_writeAll_last hm ws v h,
    fun _ ws h => wf_writeAll h ws,
    fun _ _ h h' heq => eq_of_readByte_eq h h' heq,
    fun _ a bs h => readBytes_writeAll_bytesAt h a bs⟩

end Sys2Proof.Proofs
end

section
/-! PROOFS. Links and Ethernet: what each step's body answers under the conditions of its rule (R5, R202, R221, R227,
R255, R365, R421 to R423). -/

namespace Sys2Proof.Proofs
open Sys2Proof Sys2Proof.Machine Sys2Proof.Laws

theorem mem_of_lookup {α : Type} {k : Nat} {x : α} {t : List (Nat × α)} (h : lookup k t = some x) : (k, x) ∈ t := by
  induction t with
  | nil => cases h
  | cons e rest ih =>
    simp only [lookup] at h
    split at h
    · next hk => simp [← hk, ← Option.some.inj h]
    · exact List.mem_cons_of_mem e (ih h)

/-! ### Peer links -/

/-- A message of a peer that may arrive: its link is up, it is of the kind awaited and the next of its circuit, and it
fits; `d1` is the state that has taken it in (R221, R255). -/
def PeerComes (q : PeerMsg) (kinds : Nat → Bool) (d d1 : Dev) : Prop :=
  d.pkg.powered = true ∧ (d.link q.link).up = true ∧ q.link < 16 ∧ kinds q.kind = true
    ∧ (∀ n, lookup q.circ (d.link q.link).seqs = some n → n = q.seqNo) ∧ q.npay ≤ 32
    ∧ q.payload.length ≤ 64 * q.npay
    ∧ d1 = d.updLink q.link fun l => { l with seqs := Machine.insert q.circ ((q.seqNo + 1) % 2 ^ 16) l.seqs }

theorem PeerComes.peerIn {q : PeerMsg} {kinds : Nat → Bool} {d d1 : Dev} (h : PeerComes q kinds d d1) :
    d.peerIn q kinds = some d1 := by
  obtain ⟨hp, hu, hl, hk, hseq, hn, hb, rfl⟩ := h
  unfold Dev.peerIn
  dsimp only
  cases hc : lookup q.circ (d.link q.link).seqs with
  | none => simp [hp, hu, hk, hn, hb, hl]
  | some n => simp [hseq n hc, hp, hu, hk, hn, hb, hl]

theorem PeerComes.insts {q : PeerMsg} {kinds : Nat → Bool} {d d1 : Dev} (h : PeerComes q kinds d d1) :
    d1.insts = d.insts := by
  obtain ⟨-, -, -, -, -, -, -, rfl⟩ := h
  rfl

/-- A step on a message of a peer, by its body once the message is taken in. -/
theorem writesIf_of_comes {i : Instr} {body : Mem → Dev → Dev} {f : Mem → Dev → Dev} (q : PeerMsg)
    (kinds : Nat → Bool) (d1 : Dev) (hx : ∀ s, Machine.exec i s = act s body)
    (h : ∀ m d, d.peerIn q kinds = some d1 → body m d = f m d) :
    WritesIf i (fun _ d => PeerComes q kinds d d1) f :=
  writesIf_of_act hx fun m d hc => h m d hc.peerIn

/-- A token of a circuit whose port has room, where no snapshot holds tokens back, enters the port or acts as the
control token that it is (R220, R221). -/
theorem bodyPeerTokenData_taken {q : PeerMsg} {m : Mem} {d d1 : Dev} {p : Nat × Nat × Nat}
    (hp : p = Config.circuitPort q.circ) (hin : d.peerIn q (· == 6) = some d1)
    (hroom : ∀ x, d1.inst p.1 = some x →
      (((x.tile p.2.1).bind fun t => lookup p.2.2 t.inp).isSome = true → x.edgeTakes p.2.1 p.2.2 = true)
        ∧ ∀ t, x.catches p.2.1 p.2.2 t = none) :
    bodyPeerTokenData q m d = match d1.inst p.1, Config.circuitToken q.payload with
      | some x, some t =>
        if t.c then d1.controlToken p.1 p.2.1 p.2.2 x t
        else if x.edgeTakes p.2.1 p.2.2 then d1.updInst p.1 fun x => x.enter p.2.1 p.2.2 t false
        else d1
      | _, _ => d1 := by
  subst hp
  simp only [bodyPeerTokenData, hin]
  cases hx : d1.inst (Config.circuitPort q.circ).1 with
  | none => rfl
  | some x =>
    cases Config.circuitToken q.payload with
    | none => rfl
    | some t =>
      obtain ⟨htakes, hcatch⟩ := hroom x hx
      dsimp only
      rw [hcatch t, if_neg (by simp)]
      cases hc : t.c with
      | true => rfl
      | false =>
        cases he : x.edgeTakes (Config.circuitPort q.circ).2.1 (Config.circuitPort q.circ).2.2 with
        | true => rfl
        | false =>
          rw [if_neg (by simp), if_neg (by simp), if_neg fun h => by simp [htakes h] at he]
          simp

/-! ### Links that go down -/

/-- A peer link that is up goes down with a report to H (R221, R422). -/
theorem takeDown_peerLink {d : Dev} {k : Nat} (hk : k < 16) (hu : (d.link k).up = true) :
    d.takeDown k = ((d.peerLost k).updLink k fun l => { l with up := false }).post 0 {
      cause := 0x0A, cls := 2, toH := true, noag := true, cfgid := 0xFFFF, tid := tidH, info := 2 ^ 63 + k } := by
  simp only [Dev.takeDown, if_pos hk, hu]
  rw [if_neg (by simp; omega)]
  rfl

/-- What an acknowledgement of a flit of a peer link that is up does (R221). -/
theorem bodyFlitAcknowledgement_peerLink {d : Dev} {k : Nat} (m : Mem) (ok : Bool) (hk : k < 16)
    (hp : d.pkg.powered = true) (hu : (d.link k).up = true) :
    bodyFlitAcknowledgement k ok m d =
      if ok then d.updLink k fun l => { l with resends := 0 }
      else if 8 ≤ (d.link k).resends then d.takeDown k
      else d.updLink k fun l => { l with resends := l.resends + 1 } := by
  have h32 : ¬ 32 ≤ k := by omega
  simp [bodyFlitAcknowledgement, hp, hk, hu, h32]

/-! ### Tier-2 links -/

/-- A message that a tier-2 link brings (R423). -/
def T2Comes (q : T2Msg) (kinds : Nat → Bool) (d : Dev) : Prop :=
  d.pkg.powered = true ∧ (d.t2link q.link).up = true ∧ q.link < 16 ∧ kinds q.kind = true

theorem T2Comes.t2In {q : T2Msg} {kinds : Nat → Bool} {d : Dev} (h : T2Comes q kinds d) : d.t2In q kinds = true := by
  obtain ⟨hp, hu, hl, hk⟩ := h
  simp [Dev.t2In, hp, hu, hl, hk]

/-- A step on a message of a tier-2 link that makes no write, by its body once the message is in. -/
theorem stepsIf_of_t2Comes {i : Instr} {body f : Mem → Dev → Dev} (q : T2Msg) (kinds : Nat → Bool)
    (hx : ∀ s, Machine.exec i s = act s body) (h : ∀ m d, d.t2In q kinds = true → body m d = f m d)
    (hw : ∀ m d, (f m d).wq = d.wq) (ht : ∀ m d, (f m d).tx = d.tx) :
    StepsIf i (fun _ d => T2Comes q kinds d) f :=
  stepsIf_of_act hx (fun m d hc => h m d hc.t2In) (fun m d _ => hw m d) fun m d _ => ht m d

/-- One line of tier 2 that comes back with wrong symbols has the condition that they make (R392, R423). -/
theorem bodyT2ReadData_line {q : T2Msg} {m : Mem} {d : Dev} {c : LineCond} (hin : d.t2In q (· == 1) = true)
    (hlen : q.payload.length = 64) (ht2 : inTier2 (t2Host q.link (q.addr / 64 * 64)) = true)
    (hc : lineSymbols (rdBytes m d (t2Host q.link (q.addr / 64 * 64)) 64) q.payload = some c) :
    bodyT2ReadData q m d
      = { d with conds := Machine.insert (t2Host q.link (q.addr / 64 * 64) / 64) c d.conds } := by
  have htake : q.payload.take 64 = q.payload := List.take_of_length_le hlen.le
  simp [bodyT2ReadData, hin, hlen, htake, hc, ht2]

/-! ### Ethernet -/

/-- The messages kept back and those sent are all that a flush changes. -/
theorem flushEth_eq (d : Dev) : ∃ q o, d.flushEth = { d with ethq := q, out := o } := by
  unfold Dev.flushEth
  generalize d.ethq = l
  suffices h : ∀ (l : List OutMsg) (a : Dev), (∃ q o, a = { d with ethq := q, out := o }) →
      ∃ q o, l.foldl (fun (d : Dev) o => match o.flow with
        | some e => if d.ethHeld d.ethq e then { d with ethq := d.ethq ++ [o] } else { d with out := d.out ++ [o] }
        | none => { d with out := d.out ++ [o] }) a = { d with ethq := q, out := o } from h l _ ⟨[], d.out, rfl⟩
  intro l
  induction l with
  | nil => exact fun _ ha => ha
  | cons o l ih =>
    rintro _ ⟨q, os, rfl⟩
    refine ih _ ?_
    dsimp only
    split
    · split <;> exact ⟨_, _, rfl⟩
    · exact ⟨_, _, rfl⟩

@[simp] theorem flushEth_wq (d : Dev) : d.flushEth.wq = d.wq := by
  obtain ⟨q, o, h⟩ := flushEth_eq d; rw [h]
@[simp] theorem flushEth_tx (d : Dev) : d.flushEth.tx = d.tx := by
  obtain ⟨q, o, h⟩ := flushEth_eq d; rw [h]

/-- A message of a paused priority or of a slowed flow is kept back (R5). -/
theorem roce_held {d : Dev} {f : EthFlow} (h : (f.port, f.prio) ∈ d.paused ∨ f.num ∈ d.slowed) (kind : Nat)
    (body : List Nat) : d.roce kind f body
      = { d with ethq := d.ethq ++ [{ kind := kind, link := f.qp, body := body, flow := some f }] } := by
  have hh : d.ethHeld d.ethq f = true := by
    rcases h with h | h <;> simp [Dev.ethHeld, h]
  simp [Dev.roce, hh]

theorem notify_marked {m : Mem} {d d1 : Dev} {q : RdmaMsg} {f : EthFlow} {r : Nat × Nat × Nat} (hq : q.ecn = true)
    (h : Dev.inbound m q.part q.qp 256 0 d = (d1, some (f, r))) : d.notify m q = d1.roce 0x23 f [q.part] := by
  simp [Dev.notify, hq, h, roceCnp]

/-! ### The obligation -/

/-- Settles O49: each clause is its step's body once the message is known to arrive. -/
theorem linksAndEthernet : Obligations.LinksAndEthernet := by
  refine ⟨⟨?readRequest, ?readData, ?write, ?writeAck, ?update, ?collective, ?token, ?credit, ?reserved,
    ?linkDown, ?acked, ?resent, ?givenUp⟩,
    ?t2Read, ?t2Ack, ?t2Credit, ?t2Reserved, ?rdmaWrite, ?rdmaWriteNak, ?rdmaRead, ?rdmaSend, ?rdmaSendLong,
    ?unsupported, ?response, ?pause, ?resume, ?congestion, ?held, ?notified⟩
  case readRequest =>
    exact fun q d1 => writesIf_of_comes q (· == 0) d1 (fun _ => rfl) fun m d h => by simp only [bodyPeerReadRequest, h]
  case readData =>
    exact fun q d1 => writesIf_of_comes q (· == 1) d1 (fun _ => rfl) fun m d h => by simp only [bodyPeerReadData, h]
  case write =>
    exact fun q d1 => writesIf_of_comes q (· == 2) d1 (fun _ => rfl) fun m d h => by simp only [bodyPeerWrite, h]
  case writeAck =>
    exact fun q d1 => writesIf_of_comes q (· == 3) d1 (fun _ => rfl) fun m d h => by simp only [bodyPeerWriteAck, h]
  case update =>
    exact fun q d1 => writesIf_of_comes q (· == 4) d1 (fun _ => rfl) fun m d h => by
      simp only [bodyPeerUpdate, h, beq_iff_eq]
      cases (Config.peerUpdate q.payload).2.2.2 <;> rfl
  case collective =>
    exact fun q d1 => writesIf_of_comes q (· == 5) d1 (fun _ => rfl) fun m d h => by
      simp only [bodyPeerCollective, h]
      cases Config.peerCall q.payload <;> rfl
  case token =>
    exact fun q d1 p hp => writesIf_of_act (fun _ => rfl) fun m d ⟨hc, hroom⟩ =>
      have hc : PeerComes q (· == 6) d d1 := hc
      bodyPeerTokenData_taken hp hc.peerIn fun x hx => hroom _ (hc.insts ▸ mem_of_lookup hx) _ _
  case credit =>
    exact fun q d1 => writesIf_of_comes q (· == 7) d1 (fun _ => rfl) fun m d h => by simp only [bodyPeerCreditReturn, h]
  case reserved =>
    exact fun q d1 => writesIf_of_comes q (fun k => 8 ≤ k && k < 16) d1 (fun _ => rfl) fun m d h => by simp only [bodyPeerReservedFlit, h]
  case linkDown =>
    exact fun k hk => writesIf_of_act (fun _ => rfl) fun m d ⟨hp, hu⟩ => by
      rw [bodyLinkDown, if_pos hp, takeDown_peerLink hk hu]
  case acked =>
    exact fun k hk => stepsIf_of_act (fun _ => rfl)
      (fun m d ⟨hp, hu⟩ => bodyFlitAcknowledgement_peerLink m true hk hp hu) (fun _ _ _ => rfl) fun _ _ _ => rfl
  case resent =>
    exact fun k hk => stepsIf_of_act (fun _ => rfl)
      (fun m d ⟨hp, hu, hr⟩ => by
        rw [bodyFlitAcknowledgement_peerLink m false hk hp hu, if_neg (by simp), if_neg (by omega)])
      (fun _ _ _ => rfl) fun _ _ _ => rfl
  case givenUp =>
    exact fun k hk => writesIf_of_act (fun _ => rfl) fun m d ⟨hp, hu, hr⟩ => by
      rw [bodyFlitAcknowledgement_peerLink m false hk hp hu, if_neg (by simp), if_pos hr]
  case t2Read =>
    rintro q host c
    refine writesIf_of_act (fun _ => rfl) ?_
    rintro m d ⟨hc, hlen, rfl, ht2, hsym⟩
    exact bodyT2ReadData_line (T2Comes.t2In hc) hlen ht2 hsym
  case t2Ack =>
    exact fun q => stepsIf_of_t2Comes q (· == 3) (fun _ => rfl) (fun m d h => if_pos h) (fun _ _ => rfl) fun _ _ => rfl
  case t2Credit =>
    exact fun q => stepsIf_of_t2Comes q (· == 4) (fun _ => rfl)
      (fun m d h => by simp [bodyT2CreditReturn, h, Link.drain, Dev.updT2link]) (fun _ _ => rfl) fun _ _ => rfl
  case t2Reserved =>
    exact fun q => stepsIf_of_t2Comes q (fun k => 5 ≤ k && k < 16) (fun _ => rfl) (fun m d h => if_pos h) (fun _ _ => rfl) fun _ _ => rfl
  case rdmaWrite =>
    exact fun q d1 f va a n => writesIf_of_act (fun _ => rfl) fun m d ⟨hp, had⟩ => by
      simp [bodyRdmaWriteInbound, hp, had, roceAck]
  case rdmaWriteNak =>
    exact fun q d1 f => writesIf_of_act (fun _ => rfl) fun m d ⟨hp, had⟩ => by
      simp [bodyRdmaWriteInbound, hp, had, Dev.nak, roceNak, nakAccess]
  case rdmaRead =>
    exact fun q d1 f va a n d2 bs p => writesIf_of_act (fun _ => rfl) fun m d ⟨hp, had, hld⟩ => by
      simp [bodyRdmaReadInbound, hp, had, hld, roceData]
  case rdmaSend =>
    exact fun q d1 f va a n d2 hlen hn => writesIf_of_act (fun _ => rfl) fun m d ⟨hp, had, hput⟩ => by
      simp [bodyRdmaSendInbound, hp, had, hput, roceAck, Nat.not_lt.mpr hlen, Nat.not_lt.mpr hn]
  case rdmaSendLong =>
    exact fun q d1 f r hlen => writesIf_of_act (fun _ => rfl) fun m d ⟨hp, had⟩ => by
      simp [bodyRdmaSendInbound, hp, had, hlen, Dev.nak, roceNak, nakInvalid]
  case unsupported =>
    exact fun q d1 e => writesIf_of_act (fun _ => rfl) fun m d ⟨hp, hin⟩ => by
      simp [bodyRoceUnsupportedRequest, hp, hin, Dev.nak, roceNak, nakInvalid]
  case response =>
    exact fun q id c => writesIf_of_act (fun _ => rfl) fun m d ⟨hp, hfind⟩ => by
      simp [bodyRoceResponseInbound, hp, hfind]
  case pause =>
    exact fun port prio hport hprio => stepsIf_of_act (fun _ => rfl)
      (fun m d hp => by simp [bodyPriorityFlowControlFrame, hp, hport, hprio])
      (fun _ _ _ => rfl) fun _ _ _ => rfl
  case resume =>
    exact fun port prio hport hprio => stepsIf_of_act (fun _ => rfl)
      (fun m d hp => by simp [bodyPriorityFlowControlFrame, hp, hport, hprio])
      (fun _ _ _ => flushEth_wq _) fun _ _ _ => flushEth_tx _
  case congestion =>
    exact fun flow => stepsIf_of_act (fun _ => rfl) (fun m d hp => if_pos hp) (fun _ _ _ => rfl) fun _ _ _ => rfl
  case held => exact fun d kind f body h => roce_held h kind body
  case notified => exact fun m d q d1 f r hq h => notify_marked hq h

end Sys2Proof.Proofs
end

section
/-! PROOFS. Predication: when a firing computes, what it consumes, and the null tokens that it delivers when it does
not (R24, R28, R29). -/

namespace Sys2Proof.Proofs
open Sys2Proof Sys2Proof.Machine Sys2Proof.Laws

/-! ### When a firing computes -/

/-- An operand that a form uses is null. -/
def nullOperand (sl : Slots) (s : Slot) : Bool :=
  (sl.l && (s.l.headD {}).n) || (sl.r && (s.r.headD {}).n) || (sl.t && (s.t.headD {}).n)

/-- A firing computes when its predicate lets it and no operand is null; GATE takes null operands. -/
theorem computes_of_gather {sl : Slots} {pm : Pm} {gate : Bool} {s : Slot} {g : Gathered}
    (h : gather sl pm gate s = some g) :
    g.computes = (predLets pm (s.t.headD {}) && (gate || !nullOperand sl s)) := by
  have hnull : ∀ (b : Bool) (t : Tok), (if b then t else {}).n = (b && t.n) := by
    intro b t
    cases b <;> rfl
  unfold gather at h
  dsimp only at h
  split at h
  · cases h
  · cases h
    cases pm with
    | none =>
      simp only [predLets, nullOperand, hnull, bne_self_eq_false, Bool.or_false]
      cases sl.t <;> simp
    | onTrue =>
      simp only [predLets, nullOperand, hnull, show (Pm.onTrue != Pm.none) = true from rfl, Bool.or_true, if_true]
    | onFalse =>
      simp only [predLets, nullOperand, hnull, show (Pm.onFalse != Pm.none) = true from rfl, Bool.or_true, if_true]

theorem predTrue_eq (t : Tok) : predTrue t = decide (t.data.toNat % 2 ^ 32 ≠ 0) := by
  rw [predTrue, Bool.eq_iff_iff, bne_iff_ne, decide_eq_true_iff]

/-- A firing that does not compute settles on a null token without poison, whatever its instruction's result. -/
theorem settle_not_computes (ctl : Bool) (pp : Ppol) (w : Nat → BitVec 24) {g : Gathered} (r : Res)
    (h : g.computes = false) : settle ctl pp w g r = some { n := true, l := g.l } := by
  simp [settle, h]

/-! ### Slots of a block -/

theorem slots_updSlot (b : Blk) {k : Nat} (f : Slot → Slot) {s : Slot} (h : b.slots[k]? = some s) :
    (b.updSlot k f).slots[k]? = some (f s) := by
  simp [Blk.updSlot, h]

/-! ### The compute tiles of a configuration -/

@[simp] theorem tile_setTile_same (x : Inst) (t : Nat) (v : Tile) : (x.setTile t v).tile t = some v :=
  lookup_insert_same t v x.fab.tiles

theorem tile_setTile_ne (x : Inst) {t u : Nat} (v : Tile) (h : u ≠ t) : (x.setTile t v).tile u = x.tile u :=
  lookup_insert_ne v x.fab.tiles h

theorem ct_of_tile {x : Inst} {k : Nat} {t : Tile} {c : Ct} (h : x.tile k = some t) (hk : t.kind = .ct c) :
    x.ct k = some c := by
  cases t
  subst hk
  simp [Inst.ct, h]

theorem tile_of_ct {x : Inst} {k : Nat} {c : Ct} (h : x.ct k = some c) : ∃ t, x.tile k = some t ∧ t.kind = .ct c := by
  unfold Inst.ct at h
  split at h
  · next ht => exact ⟨_, ht, congrArg TileKind.ct (Option.some.inj h)⟩
  · cases h

/-- A bank written leaves every compute tile as it is. -/
theorem ct_setBank (x : Inst) (t b : Nat) (v : Bank) (u : Nat) : (x.setBank t b v).ct u = x.ct u := by
  unfold Inst.setBank
  cases ht : x.tile t with
  | none => rfl
  | some tl =>
    obtain ⟨kind, inp, out, ops⟩ := tl
    cases kind with
    | ct c => rfl
    | mt m =>
      by_cases hu : u = t
      · subst hu
        simp [Inst.ct, ht]
      · simp [Inst.ct, tile_setTile_ne x _ hu]

/-- A hold released leaves every compute tile as it is. -/
theorem ct_dropHold (x : Inst) (tile k r u : Nat) : (x.dropHold tile k r).ct u = x.ct u := by
  unfold Inst.dropHold
  split
  · rfl
  · split
    · exact ct_setBank ..
    · rfl

theorem ct_dropHolds (x : Inst) (tile r u : Nat) (ks : List Nat) :
    (ks.foldl (fun x k => x.dropHold tile k r) x).ct u = x.ct u := by
  induction ks generalizing x with
  | nil => rfl
  | cons k ks ih => rw [List.foldl_cons, ih, ct_dropHold]

/-! ### Deliveries -/

/-- The slot of an element block after a firing with operands `g` in a round: the heads that it used are gone, and
where the marks of its data operands differ a discard begins (R24, R116). -/
def afterFiring (i : Instr) (round : Nat) (e : Site) (g : Gathered) (s : Slot) : Slot :=
  { s.taken (i.row .element).slots i.head.pm with
    disc := if g.mixed then
      some { l := g.lag.1, r := g.lag.2.1, t := g.lag.2.2, round := round, record := e.record }
    else none }

/-- An element firing that settles on a token: its slot has fired, and both targets of the block have the token. -/
theorem ct_fired {x : Inst} {i : Instr} {e : Site} {g : Gathered} {tok : Tok} {c : Ct} {b : Blk}
    (hc : x.ct e.tile = some c) (hb : c.blks[e.blk]? = some b) :
    (x.fired i e g (some tok)).ct e.tile = some { c with
      blks := ((setAt c.blks e.blk (b.updSlot e.slot (afterFiring i x.fab.round e g))).modify e.blk
        (·.deliver i.head.t0 tok)).modify e.blk (·.deliver i.head.t1 tok) } := by
  obtain ⟨t, ht, hk⟩ := tile_of_ct hc
  unfold Inst.fired
  rw [ht]
  dsimp only
  rw [hk]
  dsimp only
  rw [hb]
  dsimp only [Tile.send]
  generalize hX : List.foldl _ _ _ = X
  have key : X.ct e.tile = some { c with
      blks := ((setAt c.blks e.blk (b.updSlot e.slot (afterFiring i x.fab.round e g))).modify e.blk
        (·.deliver i.head.t0 tok)).modify e.blk (·.deliver i.head.t1 tok) } := by
    rw [← hX, ct_dropHolds]
    exact ct_of_tile (tile_setTile_same ..) rfl
  split
  · split <;> exact key
  · exact key

/-- The firing's own block after an element firing that settles on a token. -/
theorem blk_fired {x : Inst} {i : Instr} {e : Site} {g : Gathered} {tok : Tok} {c : Ct} {b : Blk}
    (hc : x.ct e.tile = some c) (hb : c.blks[e.blk]? = some b) :
    ∃ c', (x.fired i e g (some tok)).ct e.tile = some c' ∧ c'.blks[e.blk]?
      = some (((b.updSlot e.slot (afterFiring i x.fab.round e g)).deliver i.head.t0 tok).deliver i.head.t1 tok) := by
  refine ⟨_, ct_fired hc hb, ?_⟩
  have hlen : e.blk < c.blks.length := (List.getElem?_eq_some_iff.mp hb).1
  simp [setAt, hlen]

/-- The frame of a core after a delivery in its control block. -/
theorem frame_deliver_ctl {i : Instr} {e : Site} {g : Gathered} {r : Res} {d : Dev} {f : Frame} (he : e.ctl = true)
    (hf : (d.core e.core).frame = some f) : ((d.deliver i e g r).core e.core).frame
      = some (f.fired i e.slot (settle true e.hdr.ppol e.origin g r) (d.ctlLog i e g)) := by
  simp [Dev.deliver, he, Dev.deliverCtl, Dev.updFrame, hf]

/-- The configuration of an element firing after its delivery. -/
theorem inst_deliver_elem {i : Instr} {e : Site} {g : Gathered} {r : Res} {d : Dev} {y : Inst} (he : e.ctl = false)
    (hy : d.inst e.cfg = some y) : (d.deliver i e g r).inst e.cfg
      = some (y.fired i e g (settle false e.hdr.ppol e.origin g r)) := by
  simp [Dev.deliver, he, Dev.deliverElem, inst_updInst_same, hy]

/-- Settles O53: an instruction computes as `gather` decides it, and a firing that does not settles on null. -/
theorem predication : Obligations.Predication := by
  refine ⟨?computes, ?consumes, ?settles, ?targets, ?control, ?element⟩
  case computes =>
    intro sl pm gate s g h
    rw [computes_of_gather h]
    cases pm with
    | none => rfl
    | onTrue => rw [predLets, predTrue_eq]; rfl
    | onFalse => rw [predLets, predTrue_eq, decide_not, Bool.not_not]; rfl
  case consumes =>
    intro sl pm s
    refine ⟨?_, ?_, ?_, rfl, rfl⟩ <;> simp only [Slot.taken] <;> split <;> simp
  case settles =>
    exact fun ctl pp w g r h => ⟨_, settle_not_computes ctl pp w r h, rfl, rfl, rfl⟩
  case targets =>
    exact fun b k s x h => ⟨slots_updSlot b _ h, slots_updSlot b _ h, slots_updSlot b _ h⟩
  case control =>
    intro i e g r d f x he hf _ hx
    exact ⟨_, frame_deliver_ctl he hf, by rw [hx]; rfl⟩
  case element =>
    intro i e g r d y c b x he hy hc hb _ hx
    obtain ⟨c', hc', hb'⟩ := blk_fired (i := i) (g := g) (tok := x) hc hb
    exact ⟨_, c', afterFiring i y.fab.round e g, inst_deliver_elem he hy, by rw [hx]; exact hc',
      fun _ => ⟨rfl, rfl, rfl, rfl⟩, hb'⟩

end Sys2Proof.Proofs
end

section
/-! PROOFS. MMA and MMASP on armed fills (R184, R185). -/

namespace Sys2Proof.Proofs
open Sys2Proof Sys2Proof.Machine Sys2Proof.Laws

/-- What an MMA or MMASP does with a compute tile, the banks of its two armed fills and a permit of the governor: the
reads report uncorrectable granules, the meter counts, the accumulator bank takes the products, and the holds go
(R45, R175, R178, R184, R185). -/
def mmaDone (o : OpX) (sparse : Bool) (x : Inst) (c : Ct) (da : Binding) (a : Bank) (db : Binding) (b : Bank)
    (e : Site) (d : Dev) : Dev :=
  let m := mmaOp o sparse a.fill b.fill c.me.scale
  let badA := a.badRows (m.a.size m.groups)
  let badB := b.badRows (m.b.size m.groups)
  ((((d.operandReport e o.ba.val da a badA).operandReport e o.bb.val db b badB).meter x.part 1
    (mmaClocks o sparse)).updInst e.cfg fun x => x.updMe e.tile fun me =>
      me.setBank o.bank.val ((c.me.bank o.bank.val).mma m (o.acc == .set) e.hdr.ppol e.origin badA badB
        (originWord false e.col e.row o.ba.val 7) (originWord false e.col e.row o.bb.val 7))).releases e
    [o.ba.val, o.bb.val]

/-- With both operands armed and a permit, a matrix multiplication that computes is done at once. -/
theorem mmaElem_ready {o : OpX} {sparse : Bool} {x : Inst} {c : Ct} {da db : Binding} {a b : Bank} {e : Site}
    {g : Gathered} {d : Dev} (hx : d.inst e.cfg = some x) (hc : x.ct e.tile = some c) (hp : x.granted ≠ 0)
    (ha : x.fillAt e.tile o.ba.val e.record = .ready da a) (hb : x.fillAt e.tile o.bb.val e.record = .ready db b)
    (hg : g.computes = true) :
    mmaElem o sparse e g d = .done (mmaDone o sparse x c da a db b e d) (.data g.a.data none) := by
  simp only [mmaElem, hx, ha, hb, hg, hc, beq_eq_false_iff_ne.mpr hp]
  rfl

/-- Settles O17: both instructions fire with `mmaElem`, dense or sparse. -/
theorem matrixMultiply : Obligations.MatrixMultiply := by
  refine ⟨fun o x c da a db b => ?dense, fun o x c da a db b => ?sparse⟩
  case dense =>
    exact firesIf_of_fire (fun _ => rfl) fun m e g d ⟨hx, hc, hp, ha, hb⟩ hg => mmaElem_ready hx hc hp ha hb hg
  case sparse =>
    exact firesIf_of_fire (fun _ => rfl) fun m e g d ⟨hx, hc, hp, ha, hb⟩ hg => mmaElem_ready hx hc hp ha hb hg

end Sys2Proof.Proofs
end

section
/-! PROOFS. ROUTE in a control block (R30, R130): a firing there that does not compute records no group. -/

namespace Sys2Proof.Proofs
open Sys2Proof Sys2Proof.Machine Sys2Proof.Laws

/-- In a control block a firing that does not compute delivers null, also where an element firing would have its
effect all the same. -/
theorem fire_control_not_computes {i : Instr} {d : Dev} {id : CoreId} {slot : Nat} {e : Site} {g : Gathered}
    (always : Bool) (eff : Site → Gathered → Dev → Fired) (hf : d.focus = .fire id slot)
    (h : d.firing i = some (e, g)) (hg : g.computes = false) : d.fire i always eff = d.deliver i e g .none := by
  have hr : d.ctlReady i id slot = some (e, g) := by simpa [Dev.firing, hf] using h
  simp [Dev.fire, hf, Dev.fireCtl, hr, hg, Dev.deliver, ctlReady_ctl hr]

/-- A delivery in a control block leaves the instances alone. -/
theorem insts_deliver_ctl (i : Instr) {e : Site} (g : Gathered) (r : Res) (d : Dev) (he : e.ctl = true) :
    (d.deliver i e g r).insts = d.insts := by
  simp [Dev.deliver, he, Dev.deliverCtl]

/-! ### A ROUTE that does not compute, in a control block beside a configuration 0 -/

/-- ROUTE of group 1 when its predicate is true. -/
def routeIf : OpC := { hd := { pm := .onTrue, t0 := .none, t1 := .none }, ga := 0, gb := 0, exg := 1, off := 0 }

def plainHdr (mode : BlkMode) : BlkHdr :=
  { nins := 1, mode := mode, stmask := 0, portmask := 0, pgrp := 0, lcen := 0, marker := 0, markf := false
    roundb := false, ppol := .plain, heavy := 0 }

/-- Configuration 0 holds an empty block in its tile 0, and system core 0 has entered a block whose one slot holds the
ROUTE with a false predicate. -/
def routeDev : Dev :=
  ({ insts := [(0, { ctx := 0, part := 0, row0 := 0, col0 := 0, w := 1, h := 1
                     fab := { tiles := [(0, { kind := .ct { blks := [{ hdr := plainHdr .element, slots := [] }] } })] } })]
     focus := .fire (.sys 0) 0 } : Dev).updCore (.sys 0) fun c => { c with
      frame := some { addr := 0, blk := {
        hdr := plainHdr .control, slots := [{ ins := .route routeIf, t := [{}] }] } } }

def routeSite : Site :=
  { ctl := true, core := .sys 0, slot := 0, hdr := plainHdr .control, col := 0x1F, row := 0xF }

/-- What the ROUTE gathers: its predicate token is zero. -/
def routeOperands : Gathered := { computes := false, predOff := true }

theorem routeDev_firing : routeDev.firing (.route routeIf) = some (routeSite, routeOperands) := by
  have hg : gather (Instr.row .control (.route routeIf)).slots (Instr.head (.route routeIf)).pm
      (Instr.isGate (.route routeIf)) { ins := .route routeIf, t := [{}] } = some routeOperands := by decide +kernel
  have hf : (routeDev.core (.sys 0)).frame = some { addr := 0, blk := {
      hdr := plainHdr .control, slots := [{ ins := .route routeIf, t := [{}] }] } } := rfl
  show routeDev.ctlReady (.route routeIf) (.sys 0) 0 = _
  unfold Dev.ctlReady
  rw [hf]
  exact congrArg (Option.map _) hg

/-- Refutes O24: the site of a control firing names configuration 0, tile 0, block 0 and record 0, as of no element, and
`FiresAlways` has the ROUTE of `routeDev` record group 0 there; the step leaves every configuration as it is. -/
theorem not_exitsAndRegisters : ¬ Obligations.ExitsAndRegisters := by
  rintro ⟨⟨hroute, -⟩, -⟩
  have hs : ({ mem := [], dev := routeDev } : State).Sound := ⟨rfl, rfl, rfl⟩
  have hclaim := hroute routeIf _ _ _ hs routeDev_firing
  have hstep : bodyRoute routeIf [] routeDev = routeDev.deliver (.route routeIf) routeSite _ .none :=
    fire_control_not_computes true _ rfl routeDev_firing rfl
  have hexec : Machine.exec (.route routeIf) { mem := [], dev := routeDev }
      = .next (State.withDev { mem := [], dev := routeDev } (bodyRoute routeIf [] routeDev)) :=
    act_eq (f := bodyRoute routeIf) hs (by rw [hstep]; exact deliver_wq ..) (by rw [hstep]; exact deliver_tx ..)
  rw [hexec, hstep] at hclaim
  have hinsts := congrArg Dev.insts (congrArg State.dev (Host.Outcome.next.inj hclaim))
  simp only [State.withDev] at hinsts
  rw [insts_deliver_ctl _ _ _ _ rfl, insts_deliver_ctl _ _ _ _ rfl] at hinsts
  revert hinsts
  decide

end Sys2Proof.Proofs
end

section
/-! PROOFS. QCTL on a queue that has changed hands since the entry of its block (R352, R354). -/

namespace Sys2Proof.Proofs
open Sys2Proof Sys2Proof.Machine Sys2Proof.Laws

/-- A control firing whose check at entry fails meets the fault of that check. -/
theorem fireCommit_fault {i : Instr} {d : Dev} {id : CoreId} {slot : Nat} {e : Site} {g : Gathered} (always : Bool)
    {pre : Site → Gathered → Dev → Option (Nat × Nat × Nat)} (eff : Site → Gathered → Dev → Fired)
    (com : CoreId → Frame → Capture → Dev → Dev) {cause addr info : Nat} (hf : d.focus = .fire id slot)
    (h : d.firing i = some (e, g)) (hg : g.computes = true) (hp : pre e g d = some (cause, addr, info)) :
    d.fireCommit i always pre eff com = d.faultCtl i e cause addr info := by
  have hr : d.ctlReady i id slot = some (e, g) := by simpa [Dev.firing, hf] using h
  simp [Dev.fireCommit, hf, Dev.fireCtl, hr, hg, hp]

/-- A capture keeps one slot's operands more. -/
theorem caps_captureCtl {i : Instr} {e : Site} {g : Gathered} {d : Dev} {f : Frame}
    (hf : (d.core e.core).frame = some f) : ((d.captureCtl i e g).core e.core).frame.map (·.caps)
      = some (f.caps ++ [{ slot := e.slot, a := g.a, b := g.b, c := g.c, computes := true }]) := by
  simp [Dev.captureCtl, Dev.updFrame, hf]

/-- A fault keeps the operands of no further slot. -/
theorem caps_faultCtl {i : Instr} {e : Site} {cause addr info : Nat} {d : Dev} {f : Frame}
    (hf : (d.core e.core).frame = some f) :
    ((d.faultCtl i e cause addr info).core e.core).frame.map (·.caps) = some f.caps := by
  simp [Dev.faultCtl, Dev.updFrame, hf, Frame.fired]

/-- QCTL PRIV_VIOLATION: below H, a queue that was another partition's as the block was entered (R354). -/
theorem qctlPre_owner_at_entry {o : OpY} {e : Site} {d : Dev} {f : Frame} {free os : List (Nat × Nat)}
    (hf : (d.core e.core).frame = some f) (h0 : f.state0 = some (free, os)) (hh : d.atH e.core = false)
    (hq : ((d.core e.core).reg o.ga).v.toNat < nQueues)
    (ho : (lookup ((d.core e.core).reg o.ga).v.toNat os).getD 0 ≠ d.selPart e.core) :
    qctlPre false o e d = some (cPRIV, e.addr, f.word e.slot) := by
  simp [qctlPre, hf, h0, hh, hq, ho]

/-- A QCTL STATUS whose check at entry fails meets the fault of that check. -/
theorem bodyQctlStatus_fault {o : OpY} {d : Dev} {id : CoreId} {slot : Nat} {e : Site} {g : Gathered}
    {cause addr info : Nat} (m : Mem) (hf : d.focus = .fire id slot) (h : d.firing (.qctlStatus o) = some (e, g))
    (hg : g.computes = true) (hp : qctlPre false o e d = some (cause, addr, info)) :
    bodyQctlStatus o m d = d.faultCtl (.qctlStatus o) e cause addr info := by
  unfold bodyQctlStatus Dev.qctl Dev.late
  exact fireCommit_fault false _ _ hf h hg hp

/-! ### A queue that has been assigned since -/

/-- QCTL STATUS of the queue that g0 names. -/
def statusOf : OpY := { hd := { pm := .none, t0 := .none, t1 := .none }, sub := 0, ga := 0, gb := 0, imm := 0 }

/-- The block of the QCTL, as the core entered it while queue 0 was partition 5's. -/
def statusFrame : Frame :=
  { addr := 0, state0 := some ([], [(0, 5)])
    blk := {
      hdr := { nins := 1, mode := .control, stmask := 0, portmask := 0, pgrp := 0, lcen := 0, marker := 0
               markf := false, roundb := false, ppol := .plain, heavy := 0 }
      slots := [{ ins := .qctlStatus statusOf }] } }

/-- Core 0 of partition 0 is about to fire the QCTL on queue 0, now its partition's. -/
def statusDev : Dev :=
  ({ focus := .fire (.cc 0) 0 } : Dev).updCore (.cc 0) fun c => { c with level := .s, frame := some statusFrame }

theorem statusDev_frame : (statusDev.core (.cc 0)).frame = some statusFrame := rfl

theorem statusDev_firing : ∃ e g, statusDev.firing (.qctlStatus statusOf) = some (e, g) ∧ e.ctl = true
    ∧ e.core = .cc 0 ∧ g.computes = true := by
  refine ⟨statusDev.ctlSite (.cc 0) statusFrame 0, {}, ?_, rfl, rfl, rfl⟩
  have hg : gather (Instr.row .control (.qctlStatus statusOf)).slots (Instr.head (.qctlStatus statusOf)).pm
      (Instr.isGate (.qctlStatus statusOf)) { ins := .qctlStatus statusOf } = some {} := by decide +kernel
  show statusDev.ctlReady (.qctlStatus statusOf) (.cc 0) 0 = _
  unfold Dev.ctlReady
  rw [statusDev_frame]
  exact congrArg (Option.map _) hg

/-- Refutes O25: the queue of `statusDev` is its partition's, so the statement has the QCTL captured; R352 judges it
by its owner as the block was entered, another partition, and the firing meets PRIV_VIOLATION. -/
theorem not_instructionsCapture : ¬ Obligations.InstructionsCapture := by
  rintro ⟨-, -, -, -, -, -, -, -, -, hqctl, -⟩
  obtain ⟨e, g, hfire, hctl, hcore, hg⟩ := statusDev_firing
  have hs : ({ mem := [], dev := statusDev } : State).Sound := ⟨rfl, rfl, rfl⟩
  have hf : (statusDev.core e.core).frame = some statusFrame := by rw [hcore]; exact statusDev_frame
  have hclaim := hqctl (.qctlStatus statusOf) statusOf (.inl rfl) _ e g hs hfire hctl hg
    (by dsimp only; rw [hcore]; exact .inr (.inr rfl))
  have hpre : qctlPre false statusOf e statusDev = some (cPRIV, e.addr, statusFrame.word e.slot) := by
    refine qctlPre_owner_at_entry hf rfl ?_ ?_ ?_ <;> rw [hcore] <;> decide +kernel
  have hstep : bodyQctlStatus statusOf [] statusDev
      = statusDev.faultCtl (.qctlStatus statusOf) e cPRIV e.addr (statusFrame.word e.slot) :=
    bodyQctlStatus_fault [] rfl hfire hg hpre
  have hexec : Machine.exec (.qctlStatus statusOf) { mem := [], dev := statusDev }
      = .next (State.withDev { mem := [], dev := statusDev } (bodyQctlStatus statusOf [] statusDev)) :=
    act_eq (f := bodyQctlStatus statusOf) hs (by rw [hstep]; rfl) (by rw [hstep]; rfl)
  rw [hexec, hstep] at hclaim
  have hcaps := congrArg (fun s : State => ((s.dev.core e.core).frame.map (·.caps))) (Host.Outcome.next.inj hclaim)
  simp only [State.withDev, caps_faultCtl hf, caps_captureCtl hf] at hcaps
  simp at hcaps

end Sys2Proof.Proofs
end

section
/-! PROOFS. What a step of the machine runs: the pick of the agenda, and a word placed as the next instruction (R26,
R94, R99). -/

namespace Sys2Proof.Proofs
open Sys2Proof Sys2Proof.Machine Sys2Proof.Laws

/-- A step whose pick lets a row happen at a place runs that row there. -/
theorem step_of_row {s : State} {i : Instr} {f : Focus} (h : s.dev.takePick.2.todo s.dev.takePick.1 = .row i f) :
    step s = Machine.exec i { s with dev := s.dev.takePick.2.focused f } := by
  unfold step
  dsimp only
  rw [h]

theorem takePick_cons {d : Dev} {p : Pick} {rest : List Pick} (h : d.agenda = p :: rest) :
    d.takePick = (p, { d with agenda := rest }) := by
  simp [Dev.takePick, h]

/-- With nothing on the agenda a package without power boots. -/
theorem takePick_off {d : Dev} (h : d.agenda = []) (hp : d.pkg = .off) : d.takePick = (.ev .boot, d) := by
  simp [Dev.takePick, h, hp]

/-- With nothing on the agenda of a package with power system core 0 is picked. -/
theorem takePick_on {d : Dev} (h : d.agenda = []) (hp : d.pkg ≠ .off) : d.takePick = (.ctl (.sys 0), d) := by
  simp [Dev.takePick, h, hp]

/-- A step whose pick is the head of the agenda. -/
theorem step_of_head {s : State} {p : Pick} {rest : List Pick} {d : Dev} {i : Instr} {f : Focus}
    (h : s.dev.agenda = p :: rest) (hd : d = { s.dev with agenda := rest }) (ht : d.todo p = .row i f) :
    step s = Machine.exec i { s with dev := d.focused f } := by
  have hp := takePick_cons h
  rw [← hd] at hp
  rw [step_of_row (i := i) (f := f) (by rw [hp]; exact ht), hp]

/-! ### What a pick lets happen -/

theorem todo_enter {d : Dev} {id : CoreId} (h : (d.core id).frame = none) :
    d.todo (.ctl id) = .row (.controlBlockEntry id) .none := by
  simp [Dev.todo, Dev.coreTodo, h]

theorem todo_commit {d : Dev} {id : CoreId} {f : Frame} (h : (d.core id).frame = some f) (hc : f.choose = none) :
    d.todo (.ctl id) = .row (.controlBlockCommit id) .none := by
  simp [Dev.todo, Dev.coreTodo, h, hc]

theorem todo_fire {d : Dev} {id : CoreId} {f : Frame} {k : Nat} {sl : Slot} (h : (d.core id).frame = some f)
    (hc : f.choose = some k) (hs : f.blk.slots[k]? = some sl) : d.todo (.ctl id) = .row sl.ins (.fire id k) := by
  simp [Dev.todo, Dev.coreTodo, h, hc, Frame.instr, hs]

theorem todo_elem {d : Dev} {cfg tile blk slot : Nat} {x : Inst} {c : Ct} {b : Blk} {sl : Slot}
    (hx : d.inst cfg = some x) (hc : x.ct tile = some c) (hb : c.blks[blk]? = some b)
    (hs : b.slots[slot]? = some sl) : d.todo (.elem cfg tile blk slot) = .row sl.ins (.elem cfg tile blk slot) := by
  simp [Dev.todo, Dev.elemInstr, hx, hc, hb, hs]

theorem todo_ev {d : Dev} {i : Instr} (h : withinStep i = false) : d.todo (.ev i) = .row i .none := by
  simp [Dev.todo, h]

/-! ### A word placed as the next instruction -/

/-- A slot with a token for every operand can gather, whatever its form uses. -/
theorem gather_isSome {s : Slot} (sl : Slots) (pm : Pm) (gate : Bool) (hl : s.l ≠ []) (hr : s.r ≠ []) (ht : s.t ≠ []) :
    (gather sl pm gate s).isSome = true := by
  simp [gather, hl, hr, ht]

/-- The one slot of a control block fires next when its operands have arrived. -/
theorem choose_of_one {f : Frame} {s : Slot} (hs : f.blk.slots = [s]) (hf : s.fired = 0)
    (hg : (gather (s.ins.row .control).slots s.ins.head.pm s.ins.isGate s).isSome = true) : f.choose = some 0 := by
  have hready : f.ready = [0] := by simp [Frame.ready, hs, hf, hg]
  have hins : f.instr 0 = some s.ins := by simp [Frame.instr, hs]
  have hload : f.loadReady 0 = true := by
    simp only [Frame.loadReady, hins, hs, Option.bind_some]
    cases hl : s.ins.lsid <;> simp [hl]
  have hks : (if (f.ready.filter fun k => !f.waits.contains k).isEmpty then f.ready
      else f.ready.filter fun k => !f.waits.contains k) = [0] := by
    rw [hready]
    cases f.waits.contains 0 <;> simp
  unfold Frame.choose
  simp only [hks]
  cases hi : s.ins.isLoad <;> simp [hins, hload, hi]

/-- The slot of a block that holds one instruction, with a token for each of its operands. -/
def loneSlot (i : Instr) (w : Nat) : Slot :=
  { ins := i, word := BitVec.ofNat 64 w, l := [{}], r := [{}], t := [{}] }

theorem slots_loneBlock (mode : BlkMode) (i : Instr) (w : Nat) : (loneBlock mode i w).slots = [loneSlot i w] := rfl

theorem slots_loneBlock_zero (mode : BlkMode) (i : Instr) (w : Nat) :
    (loneBlock mode i w).slots[0]? = some (loneSlot i w) := rfl

theorem choose_loneBlock (i : Instr) (w : Nat) :
    ({ addr := 0, blk := loneBlock .control i w } : Frame).choose = some 0 :=
  choose_of_one (slots_loneBlock ..) rfl
    (gather_isSome _ _ _ (by simp [loneSlot]) (by simp [loneSlot]) (by simp [loneSlot]))

/-- A step after a word has been placed whose pick, then at the head of the agenda, lets its instruction run. -/
theorem step_withNext {s : State} {i : Instr} {w : Nat} {p : Pick} {f : Focus}
    (h : (s.dev.withNext i w).agenda = p :: s.dev.agenda) (ht : (s.dev.withNext i w).takePick.2.todo p = .row i f) :
    step { s with dev := s.dev.withNext i w }
      = Machine.exec i { s with dev := (s.dev.withNext i w).takePick.2.focused f } :=
  step_of_head (s := { s with dev := s.dev.withNext i w }) h (by rw [takePick_cons h]) ht

/-- A control instruction is placed as the slot that fires next in the block that system core 0 has entered. -/
theorem step_withNext_control (s : State) {i : Instr} (w : Nat) (h : i.legalIn .control = true) :
    step { s with dev := s.dev.withNext i w }
      = Machine.exec i { s with dev := (s.dev.withNext i w).takePick.2.focused (.fire (.sys 0) 0) } := by
  have ha : (s.dev.withNext i w).agenda = .ctl (.sys 0) :: s.dev.agenda := by
    rw [Dev.withNext, if_pos h]
    rfl
  have hf : ((s.dev.withNext i w).core (.sys 0)).frame = some { addr := 0, blk := loneBlock .control i w } := by
    rw [Dev.withNext, if_pos h, core_updCore_same]
  refine step_withNext ha ?_
  rw [takePick_cons ha]
  exact todo_fire hf (choose_loneBlock i w) (slots_loneBlock_zero ..)

/-- An element instruction is placed in the block of a configuration of its own. -/
theorem step_withNext_element (s : State) {i : Instr} (w : Nat) (h : i.legalIn .control = false) :
    step { s with dev := s.dev.withNext i w }
      = Machine.exec i { s with dev := (s.dev.withNext i w).takePick.2.focused (.elem 1 0 0 0) } := by
  have hc : ¬ i.legalIn .control = true := by simp [h]
  have ha : (s.dev.withNext i w).agenda = .elem 1 0 0 0 :: s.dev.agenda := by
    rw [Dev.withNext, if_neg hc]
  have hx : (s.dev.withNext i w).inst 1 = some (loneInst (loneBlock .element i w)) := by
    rw [Dev.withNext, if_neg hc]
    exact lookup_insert_same ..
  refine step_withNext ha ?_
  rw [takePick_cons ha]
  exact todo_elem (b := loneBlock .element i w) hx rfl rfl (slots_loneBlock_zero ..)

/-- Settles O52: each clause is a pick and what it lets happen. -/
theorem stepRunsDecoded : Obligations.StepRunsDecoded := by
  refine ⟨?core, ?element, ?agent, ?boot, ?entry, ?word⟩
  case core =>
    exact fun s id rest d ha hd => ⟨fun h => step_of_head ha hd (todo_enter h),
      fun f h hc => step_of_head ha hd (todo_commit h hc),
      fun f k sl h hc hs => step_of_head ha hd (todo_fire h hc hs)⟩
  case element =>
    exact fun s cfg tile blk slot rest d x c b sl ha hd hx hc hb hs => step_of_head ha hd (todo_elem hx hc hb hs)
  case agent => exact fun s i rest ha hi => step_of_head ha rfl (todo_ev hi)
  case boot =>
    intro s ha hp
    have h := takePick_off ha hp
    rw [step_of_row (i := .boot) (f := .none) (by rw [h]; exact todo_ev rfl), h]
  case entry =>
    intro s ha hp hf
    have h := takePick_on ha hp
    rw [step_of_row (by rw [h]; exact todo_enter hf), h]
  case word =>
    intro s nbits w i hw
    have hs : s.withFetchWord nbits w = { s with dev := s.dev.withNext i w } := by simp [State.withFetchWord, hw]
    rw [hs]
    cases h : i.legalIn .control with
    | true => exact step_withNext_control s w h
    | false => exact step_withNext_element s w h

end Sys2Proof.Proofs
end

section
/-! PROOFS. The scoreboards, the stream engines, the copy engines and the collective engines: what each step does under
the conditions of its rule (R209, R212 to R218, R222 to R229, R375). -/

namespace Sys2Proof.Proofs
open Sys2Proof Sys2Proof.Machine Sys2Proof.Laws

/-! ### Operations that make no write -/

@[simp] theorem startCmd_wq (d : Dev) (id : CoreId) (n : Nat) : (d.startCmd id n).wq = d.wq := rfl
@[simp] theorem startCmd_tx (d : Dev) (id : CoreId) (n : Nat) : (d.startCmd id n).tx = d.tx := rfl
@[simp] theorem endCmd_wq (d : Dev) (n : Nat) : (d.endCmd n).wq = d.wq := rfl
@[simp] theorem endCmd_tx (d : Dev) (n : Nat) : (d.endCmd n).tx = d.tx := rfl

@[simp] theorem updCopy_wq (d : Dev) (id : Nat) (f : Copy → Copy) : (d.updCopy id f).wq = d.wq := by
  unfold Dev.updCopy
  split <;> rfl
@[simp] theorem updCopy_tx (d : Dev) (id : Nat) (f : Copy → Copy) : (d.updCopy id f).tx = d.tx := by
  unfold Dev.updCopy
  split <;> rfl

@[simp] theorem endCopy_wq (d : Dev) (id : Nat) (c : Copy) : (d.endCopy id c).wq = d.wq := by
  unfold Dev.endCopy
  split <;> rfl
@[simp] theorem endCopy_tx (d : Dev) (id : Nat) (c : Copy) : (d.endCopy id c).tx = d.tx := by
  unfold Dev.endCopy
  split <;> rfl

/-! ### Commands that start -/

theorem bodyScoreboardCommandStart_bind {id : CoreId} {k cfg vp : Nat} {cmd : Cmd} {b : VpBind} {x : Inst} {v : Vp}
    {d : Dev} (m : Mem) (hk : (d.core id).board[k]? = some cmd) (hs : d.mayStart (d.core id) k cmd = true)
    (hb : cmd.kind = .bind b) (hvp : cmd.vp = some (cfg, vp)) (hx : d.inst cfg = some x) (hv : x.vp vp = some v) :
    bodyScoreboardCommandStart id k m d
      = (d.startCmd id cmd.id).updInst cfg fun x => x.bindVp vp { b with id := cmd.id } := by
  simp [bodyScoreboardCommandStart, hk, hs, hb, hvp, hx, hv]

theorem bodyScoreboardCommandStart_copy {id : CoreId} {k : Nat} {cmd : Cmd} {cp : Copy} {d : Dev} (m : Mem)
    (hk : (d.core id).board[k]? = some cmd) (hs : d.mayStart (d.core id) k cmd = true) (hc : cmd.kind = .copy cp)
    (hvp : cmd.vp = none) : bodyScoreboardCommandStart id k m d
      = ({ d.startCmd id cmd.id with
          copies := Machine.insert (d.startCmd id cmd.id).nextCopy { cp with cmd := cmd.id } (d.startCmd id cmd.id).copies
          nextCopy := (d.startCmd id cmd.id).nextCopy + 1 } : Dev).progress (.engine (d.startCmd id cmd.id).nextCopy) := by
  simp [bodyScoreboardCommandStart, hk, hs, hc, hvp]

theorem bodyScoreboardCommandStart_sbar {id : CoreId} {k : Nat} {cmd : Cmd} {d : Dev} (m : Mem)
    (hk : (d.core id).board[k]? = some cmd) (hs : d.mayStart (d.core id) k cmd = true) (hb : cmd.kind = .sbar) :
    bodyScoreboardCommandStart id k m d = d.endCmd cmd.id := by
  simp [bodyScoreboardCommandStart, hk, hs, hb]

theorem bodyScoreboardCommandStart_coll {id : CoreId} {k grp : Nat} {cmd : Cmd} {call : CollCall} {d : Dev} (m : Mem)
    (hk : (d.core id).board[k]? = some cmd) (hs : d.mayStart (d.core id) k cmd = true)
    (hc : cmd.kind = .coll grp call) :
    bodyScoreboardCommandStart id k m d = d.startColl m id cmd.id grp call := by
  simp [bodyScoreboardCommandStart, hk, hs, hc]

/-! ### Input streams -/

/-- Only a copy into a port has a copy engine behind it. -/
theorem portCopy_none (d : Dev) (cfg n : Nat) {b : VpBind} (h : b.kind ≠ .copyIn) : d.portCopy cfg n b = none := by
  simp [Dev.portCopy, h]

section Port
variable {cfg vp : Nat} {x : Inst} {v : Vp} {b : VpBind} {d : Dev}

/-- A binding of a virtual port of a configuration. -/
def PortBound (cfg vp : Nat) (x : Inst) (v : Vp) (b : VpBind) (d : Dev) : Prop :=
  d.inst cfg = some x ∧ x.vp vp = some v ∧ v.bind = some b

/-- A binding with a piece of its window that was read: the bytes, their poison with the port's origin, and the frame
they lie in when it is the package's own (R64, R217). -/
def pieceRead (v : Vp) (b : VpBind) (h : Hit) (bs : List Byte) (p : Option Nat) : VpBind :=
  { b with
    part0 := b.part0 ++ bs
    part0Org := b.part0Org ++ match p with
      | some c => [(b.part0.length, originWord false (tileCol v.tile) (tileRow v.tile) v.port c)]
      | none => []
    part0Src := b.part0Src ++ if h.peer.isNone then [(b.part0.length, h.host / frameBytes)] else [] }

/-- STREAM_FETCH of a piece that lies in memory (R217, R377). -/
theorem bodyStreamFetch_read {m : Mem} {va k : Nat} {h0 h : Hit} {d1 d2 : Dev} {bs : List Byte} {p : Option Nat}
    (hb : PortBound cfg vp x v b d) (hph : x.phase ≠ .ending) (hf : b.pendFault = none) (hr : b.roomy = true)
    (hn : b.nextPiece = some (.read va k)) (hk : k ≠ 0) (hc : b.kind ≠ .copyIn)
    (hx : d.xlate m (d.vpAcc cfg x v b .rd) va = (d1, .ok h0))
    (hl : d1.loadPlain m (d.vpAcc cfg x v b .rd) va k = (d2, .ok (h, bs, p))) :
    bodyStreamFetch cfg vp m d
      = (if b.part0.length % patBytes b.pat = 0 ∨ va % 64 = 0 then d2.countAccess m h k else d2).updInst cfg fun y =>
          y.setVp vp { v with bind := some (pieceRead v b h bs p).close } := by
  obtain ⟨hx0, hv, hbind⟩ := hb
  have hfetch : bodyStreamFetch cfg vp m d = d.fetchPiece m cfg vp x v b := by
    simp [bodyStreamFetch, hx0, hv, hbind, hph, hf, hr]
  have hpiece : d.fetchPiece m cfg vp x v b
      = (if b.part0.length % patBytes b.pat == 0 || va % 64 == 0 then d2.countAccess m h k else d2).updInst cfg fun y =>
          y.setVp vp { v with bind := some (pieceRead v b h bs p).close } := by
    simp only [Dev.fetchPiece, hn, portCopy_none d cfg vp hc, hx, hl, beq_eq_false_iff_ne.mpr hk]
    cases p <;> rfl
  simp only [hfetch, hpiece, Bool.or_eq_true, beq_iff_eq]

/-- STREAM_DELIVER of the first token of a window (R36, R217, R222). -/
theorem bodyStreamDeliver_token {m : Mem} {t : Tok} {ts : List Tok} (hb : PortBound cfg vp x v b d)
    (hw : b.window = t :: ts) (ha : x.admits v.adm = true) (hr : x.portRoom v.tile v.port = true) :
    bodyStreamDeliver cfg vp m d = d.updInst cfg fun x =>
      (x.enter v.tile v.port t (b.delivered.kind == .copyIn && b.delivered.passed ≥ patTotal b.delivered.pat)).setVp vp
        { v with bind := some b.delivered, adm := v.adm + 1, elems := b.delivered.passed } := by
  obtain ⟨hx, hv, hbind⟩ := hb
  simp [bodyStreamDeliver, hx, hv, hbind, hw, ha, hr]

/-- STREAM_FETCH_FAULT_RAISE of the fault of a stream's element, the first of its port in the round (R373, R375). -/
theorem bodyStreamFetchFaultRaise_stream {m : Mem} {f va : Nat} (hb : PortBound cfg vp x v b d)
    (hc : b.kind ≠ .copyIn) (hf : b.pendFault = some (f, va)) (hw : b.window = []) (ha : x.admits v.adm = true)
    (hr : x.portRoom v.tile v.port = true)
    (hnew : ∀ r ∈ x.faults, ¬(r.pv = true ∧ r.port = v.port ∧ r.tcol = tileCol v.tile ∧ r.trow = tileRow v.tile)) :
    bodyStreamFetchFaultRaise cfg vp m d = d.vpElemFault cfg x vp v (f % 256) va (f / 256) := by
  obtain ⟨hx, hv, hbind⟩ := hb
  have hagain : (x.faults.any fun r =>
      r.pv && r.port == v.port && r.tcol == tileCol v.tile && r.trow == tileRow v.tile) = false := by
    simpa [and_assoc] using hnew
  simp only [bodyStreamFetchFaultRaise, hx, hv, hbind, hf, hw, ha, hr, portCopy_none d cfg vp hc, hagain]
  rfl

/-- STREAM_FETCH_FAULT_RAISE of the fault of a copy into a port (R223). -/
theorem bodyStreamFetchFaultRaise_copy {m : Mem} {f va id : Nat} {cp : Copy} (hb : PortBound cfg vp x v b d)
    (hc : d.portCopy cfg vp b = some (id, cp)) (hf : b.pendFault = some (f, va)) (hw : b.window = [])
    (ha : x.admits v.adm = true) (hr : x.portRoom v.tile v.port = true) :
    bodyStreamFetchFaultRaise cfg vp m d = d.portCopyStops cfg vp id v b (f % 256) va (f / 256) := by
  obtain ⟨hx, hv, hbind⟩ := hb
  simp only [bodyStreamFetchFaultRaise, hx, hv, hbind, hf, hw, ha, hr, hc]
  rfl

/-! ### Output streams and streams with an index -/

/-- STREAM_OUTPUT_STAGE of a token whose elements all may be written (R209, R218). -/
theorem bodyStreamOutputStage_token {m : Mem} {o : OutTok} {es : List (Option Nat × Nat)} {d1 : Dev}
    (hb : PortBound cfg vp x v b d) (hk : b.kind = .output) (ho : x.vpHead v = .tok o) (hn : o.tok.n = false)
    (hp : b.passed < patTotal b.pat)
    (hes : es = (List.range (patTaken b.pat b.passed o.tok.l)).map fun k =>
      (patAddr b.pat (b.passed + k), patVa b.pat (b.passed + k)))
    (hd : Dev.probeAll m (d.vpAcc cfg x v b .wr) es d = (d1, none)) :
    bodyStreamOutputStage cfg vp m d = d1.updInst cfg fun x => ((x.vpTake cfg v).setVp vp { v with
        bind := some { b with passed := b.passed + es.length }, elems := b.passed + es.length }).stage vp b
      (es.mapIdx fun k e => Staged.store vp b.who (e.1.getD 0)
        (((Word.toBytes 128 o.tok.data.toNat).drop (k * patBytes b.pat)).take (patBytes b.pat))) := by
  obtain ⟨hx, hv, hbind⟩ := hb
  subst hes
  simp [bodyStreamOutputStage, hx, hv, hbind, hk, ho, hn, hp, hd]

/-- GATHER_INDEX_TOKEN that takes an index token (R225). -/
theorem bodyGatherIndexToken_token {m : Mem} {w : Vp} {o : OutTok} (hb : PortBound cfg vp x v b d)
    (hk : b.kind = .gather) (hph : x.phase ≠ .ending) (hi : b.idxs.length ≤ b.fetched - b.passed)
    (ho : x.idxHead b = some (w, .tok o)) (hn : o.tok.n = false) (hp : b.passed + b.idxs.length < patCount b.pat 0) :
    bodyGatherIndexToken cfg vp m d = d.updInst cfg fun x => (x.vpTake cfg w).setVp vp
      { v with bind := some { b with idxs := b.idxs ++ [o.tok] } } := by
  obtain ⟨hx, hv, hbind⟩ := hb
  have hidle : (x.phase == .ending) = false := by simpa using hph
  simp only [bodyGatherIndexToken, hx, hv, hbind, hk, hidle, if_neg (Nat.not_lt.mpr hi), ho, hn,
    if_neg (Nat.not_le.mpr hp), bne_self_eq_false]
  rfl

/-- A scatter or update stream that takes an index token whose data stand ready and whose elements all may be accessed
(R225, R226). -/
theorem pairStage_token {m : Mem} {kind : BindKind} {acc : AccKind} {f : VpBind → Nat → List Byte → Staged} {w : Vp}
    {o : OutTok} {ls : List (Nat × Nat)} {d1 : Dev} (hb : PortBound cfg vp x v b d) (hk : b.kind = kind)
    (hp : b.passed < patCount b.pat 0) (hlen : 128 * idxTokens b.pat ≤ b.part0.length)
    (ho : x.idxHead b = some (w, .tok o)) (hn : o.tok.n = false)
    (hls : ls = (List.range 32).filterMap fun l => (idxLane o.tok.data l).map fun i => (l, i))
    (hd : Dev.probeAll m (d.vpAcc cfg x v b acc) (ls.map fun e => (idxAddr b.pat e.2, idxVa b.pat e.2)) d = (d1, none)) :
    d.pairStage m cfg vp kind acc f = d1.updInst cfg fun x => ((x.vpTake cfg w).setVp vp
        { v with bind := some { b with passed := b.passed + 1, part0 := [] }, elems := b.passed + 1 }).stage vp b
      (ls.map fun e => f b ((idxAddr b.pat e.2).getD 0) ((b.part0.drop (e.1 * patBytes b.pat)).take (patBytes b.pat))) := by
  obtain ⟨hx, hv, hbind⟩ := hb
  subst hls
  have hready : (decide (b.passed ≥ patCount b.pat 0) || decide (b.part0.length < 128 * idxTokens b.pat)) = false := by
    simp [hp, hlen]
  simp only [Dev.pairStage, hx, hv, hbind, hk, hready, ho, hn, hd, bne_self_eq_false]
  rfl

end Port

/-! ### The end of a copy -/

/-- A copy whose payload has performed has filled its bank, if that is where it goes (R171, R437). -/
def copyFilled (c : Copy) (d : Dev) : Dev :=
  match c.dst with
  | .bank cfg tile bank =>
    if c.refetch && !c.again then d
    else d.updInst cfg fun x => match x.bank tile bank with
      | some b => { x.setBank tile bank (b.copied c (if c.again then c.made else x.fills)) with fills := x.fills + 1 }
      | none => x
  | .pattern _ | .vport _ _ | .scale _ _ _ _ _ => d

/-- The copy then is gone, and its command unless its port goes on (R213, R222). -/
def copyEnded (id : Nat) (c : Copy) (d : Dev) : Dev :=
  match c.dst with
  | .vport _ _ => { copyFilled c d with copies := remove id (copyFilled c d).copies }
  | .pattern _ | .bank _ _ _ | .scale _ _ _ _ _ => (copyFilled c d).endCopy id c

@[simp] theorem copyFilled_wq (c : Copy) (d : Dev) : (copyFilled c d).wq = d.wq := by
  unfold copyFilled
  split
  · split <;> simp
  all_goals rfl
@[simp] theorem copyFilled_tx (c : Copy) (d : Dev) : (copyFilled c d).tx = d.tx := by
  unfold copyFilled
  split
  · split <;> simp
  all_goals rfl
@[simp] theorem copyEnded_wq (id : Nat) (c : Copy) (d : Dev) : (copyEnded id c d).wq = d.wq := by
  unfold copyEnded
  split <;> simp
@[simp] theorem copyEnded_tx (id : Nat) (c : Copy) (d : Dev) : (copyEnded id c d).tx = d.tx := by
  unfold copyEnded
  split <;> simp

section Copies
variable {id : Nat} {c : Copy} {d : Dev}

/-- A copy that may end. -/
def CopyDone (id : Nat) (c : Copy) (d : Dev) : Prop :=
  lookup id d.copies = some c ∧ c.fault = none ∧ d.copyDone c = true

/-- COPY_COMPLETE of a copy with no completion word (R222). -/
theorem bodyCopyComplete_noWord (m : Mem) (h : CopyDone id c d) (hcw : c.cw = none) :
    bodyCopyComplete id m d = copyEnded id c d := by
  obtain ⟨hc, hf, hd⟩ := h
  simp only [bodyCopyComplete, hc, hf, hd, hcw, copyEnded, copyFilled]
  cases c.dst <;> rfl

/-- COPY_COMPLETE of a copy whose completion word could be written, or waits (R198, R222). -/
theorem bodyCopyComplete_word {m : Mem} {a : Nat} {v : Word} {d1 : Dev} {ok : Bool} (h : CopyDone id c d)
    (hcw : c.cw = some (a, v)) (hw : (copyEnded id c d).completionWord m
      { (copyFilled c d).copyAcc c .wr with path := .scopy } c.cfg a v = (d1, .ok ok)) :
    bodyCopyComplete id m d = if ok then d1 else d := by
  obtain ⟨hc, hf, hd⟩ := h
  simp only [bodyCopyComplete, hc, hf, hd, hcw]
  unfold copyEnded copyFilled at hw
  cases hdst : c.dst <;> rw [hdst] at hw <;> generalize hr : Dev.completionWord _ _ _ _ _ _ = r <;>
    obtain rfl : r = (d1, .ok ok) := hr.symm.trans hw <;> cases ok <;> rfl

theorem bodyCopyFault_fault (m : Mem) {cause addr info : Nat} (hc : lookup id d.copies = some c)
    (hf : c.fault = some (cause, addr, info)) :
    bodyCopyFault id m d = (d.copyReport c cause addr info).endCopy id c := by
  simp [bodyCopyFault, hc, hf]

end Copies

theorem bodyCollectiveComplete_calls {ctx grp : Nat} {g : Group} {cs : List CollCall} {d : Dev} (m : Mem)
    (hg : lookup grp (d.ctx ctx).groups = some g) (hc : g.nextCalls = some cs) :
    bodyCollectiveComplete ctx grp m d
      = cs.foldl (fun d c => d.finishCall m ctx grp cs c) (d.updGroup ctx grp fun g => g.joined cs) := by
  simp [bodyCollectiveComplete, hg, hc]

/-! ### The obligation -/

/-- Settles O43: each clause is its step's body under the conditions of the rule. -/
theorem enginesRun : Obligations.EnginesRun := by
  refine ⟨⟨?bind, ?copy, ?barrier, ?collective, ?fetch, ?deliver, ?fault, ?portCopyFault, ?stage, ?gather, ?scatter,
    ?update⟩, ?complete, ?completeWord, ?completeWait, ?copyFault, ?joined⟩
  case bind =>
    exact fun id k cmd b cfg vp x v => stepsIf_of_act (fun _ => rfl)
      (fun m d ⟨hk, hs, hb, hvp, hx, hv⟩ => bodyScoreboardCommandStart_bind m hk hs hb hvp hx hv)
      (fun _ _ _ => by simp) fun _ _ _ => by simp
  case copy =>
    exact fun id k cmd cp => writesIf_of_act (fun _ => rfl) fun m d ⟨hk, hs, hc, hvp⟩ =>
      bodyScoreboardCommandStart_copy m hk hs hc hvp
  case barrier =>
    exact fun id k cmd => stepsIf_of_act (fun _ => rfl)
      (fun m d ⟨hk, hs, hb⟩ => bodyScoreboardCommandStart_sbar m hk hs hb) (fun _ _ _ => rfl) fun _ _ _ => rfl
  case collective =>
    exact fun id k cmd g call => writesIf_of_act (fun _ => rfl) fun m d ⟨hk, hs, hc⟩ =>
      bodyScoreboardCommandStart_coll m hk hs hc
  case fetch =>
    intro cfg vp x v b va k h0 h d1 bs p d2
    exact writesIf_of_act (fun _ => rfl) fun m d ⟨hb, hph, hf, hr, hn, hk, hc, hx, hl⟩ =>
      (bodyStreamFetch_read hb hph hf hr hn hk hc hx hl).trans (by cases p <;> rfl)
  case deliver =>
    exact fun cfg vp x v b t ts => stepsIf_of_act (fun _ => rfl)
      (fun m d ⟨hb, hw, ha, hr⟩ => bodyStreamDeliver_token hb hw ha hr) (fun _ _ _ => by simp) fun _ _ _ => by simp
  case fault =>
    exact fun cfg vp x v b f va => stepsIf_of_act (fun _ => rfl)
      (fun m d ⟨hb, hc, hf, hw, ha, hr, hnew⟩ => bodyStreamFetchFaultRaise_stream hb hc hf hw ha hr hnew)
      (fun _ _ _ => by simp [Dev.vpElemFault]) fun _ _ _ => by simp [Dev.vpElemFault]
  case portCopyFault =>
    exact fun cfg vp x v b f va id cp => stepsIf_of_act (fun _ => rfl)
      (fun m d ⟨hb, hc, hf, hw, ha, hr⟩ => bodyStreamFetchFaultRaise_copy hb hc hf hw ha hr)
      (fun _ _ _ => by simp [Dev.portCopyStops, Dev.copyStops]) fun _ _ _ => by simp [Dev.portCopyStops, Dev.copyStops]
  case stage =>
    exact fun cfg vp x v b o es d1 => writesIf_of_act (fun _ => rfl) fun m d ⟨hb, hk, ho, hn, hp, hes, hd⟩ =>
      bodyStreamOutputStage_token hb hk ho hn hp hes hd
  case gather =>
    exact fun cfg vp x v b w o => stepsIf_of_act (fun _ => rfl)
      (fun m d ⟨hb, hk, hph, hi, ho, hn, hp⟩ => bodyGatherIndexToken_token hb hk hph hi ho hn hp)
      (fun _ _ _ => by simp) fun _ _ _ => by simp
  case scatter =>
    exact fun cfg vp x v b w o ls d1 => writesIf_of_act (fun _ => rfl) fun m d ⟨hb, hk, hp, hlen, ho, hn, hls, hd⟩ =>
      pairStage_token hb hk hp hlen ho hn hls hd
  case update =>
    exact fun cfg vp x v b w o ls d1 => writesIf_of_act (fun _ => rfl) fun m d ⟨hb, hk, hp, hlen, ho, hn, hls, hd⟩ =>
      pairStage_token hb hk hp hlen ho hn hls hd
  case complete =>
    exact fun id c hcw => stepsIf_of_act (fun _ => rfl) (fun m d h => bodyCopyComplete_noWord m h hcw)
      (fun _ _ _ => copyEnded_wq ..) fun _ _ _ => copyEnded_tx ..
  case completeWord =>
    exact fun id c a v d1 hcw => writesIf_of_act (fun _ => rfl) fun m d ⟨h, hw⟩ => bodyCopyComplete_word h hcw hw
  case completeWait =>
    exact fun id c a v d1 hcw => writesIf_of_act (fun _ => rfl) fun m d ⟨h, hw⟩ => bodyCopyComplete_word h hcw hw
  case copyFault =>
    exact fun id c cause addr info => writesIf_of_act (fun _ => rfl) fun m d ⟨hc, hf⟩ => bodyCopyFault_fault m hc hf
  case joined =>
    exact fun ctx grp g cs => writesIf_of_act (fun _ => rfl) fun m d ⟨hg, hc⟩ => bodyCollectiveComplete_calls m hg hc

end Sys2Proof.Proofs
end

section
/-! PROOFS. Tokens on their way, and the stream operators: how a step of each moves tokens, and what each operator
makes of the token it takes (R23, R34, R131, R171, R232 to R240). -/

namespace Sys2Proof.Proofs
open Sys2Proof Sys2Proof.Machine Sys2Proof.Laws

/-! ### Tokens that move -/

section Moves
variable {cfg tile port : Nat} {x : Inst} {t : Tile} {p : OutPort} {o : OutTok} {d : Dev}

/-- The token that stands at the head of an output port of a configuration that fires, and is no control token. -/
def PortHead (cfg tile port : Nat) (x : Inst) (t : Tile) (p : OutPort) (o : OutTok) (d : Dev) : Prop :=
  d.inst cfg = some x ∧ x.fires = true ∧ x.tile tile = some t ∧ lookup port t.out = some p
    ∧ t.outHead port = .tok o ∧ o.tok.c = false

theorem bodyTokenArrival_head (m : Mem) (h : PortHead cfg tile port x t p o d) :
    bodyTokenArrival (.routed cfg tile port) m d = d.routeToken cfg tile port x t p := by
  obtain ⟨hx, hf, ht, hp, -, -⟩ := h
  simp [bodyTokenArrival, hx, hf, ht, hp]

/-- TOKEN_ARRIVAL over a route (R23, R34). -/
theorem bodyTokenArrival_route {tile' port' n : Nat} (m : Mem) (h : PortHead cfg tile port x t p o d)
    (hs : p.sink = .route tile' port' n) (hc : x.catches tile' port' o.tok = none)
    (hr : x.edgeTakes tile' port' = true) : bodyTokenArrival (.routed cfg tile port) m d
      = (d.updInst cfg fun x => x.setTile tile (t.popOut port)).updInst cfg fun x =>
          x.enter tile' port' o.tok false := by
  rw [bodyTokenArrival_head m h]
  obtain ⟨-, -, -, -, ho, hctl⟩ := h
  simp [Dev.routeToken, ho, hs, hc, hctl, hr]

/-- TOKEN_ARRIVAL over a delay line, into a port of the same tile (R131). -/
theorem bodyTokenArrival_delay {port' n : Nat} (m : Mem) (h : PortHead cfg tile port x t p o d)
    (hs : p.sink = .delay port' n) (hc : x.catches tile port' o.tok = none)
    (hr : x.edgeTakes tile port' = true) : bodyTokenArrival (.routed cfg tile port) m d
      = (d.updInst cfg fun x => x.setTile tile (t.popOut port)).updInst cfg fun x =>
          x.enter tile port' o.tok false := by
  rw [bodyTokenArrival_head m h]
  obtain ⟨-, -, -, -, ho, hctl⟩ := h
  simp [Dev.routeToken, ho, hs, hc, hctl, hr]

/-- TOKEN_ARRIVAL of a token whose context is not the page's (R286, R390). -/
theorem bodyTokenArrival_stray {page link ctx : Nat} (m : Mem) (h : d.pageMark page ≠ some ctx) :
    bodyTokenArrival (.stray page link ctx) m d = d.post page {
      cause := cTENANT, cls := 2, olev := 3, part := (d.ctxPart ctx).getD 0, ctx := ctx, cfgid := 0xFFFF
      info := page % 2 ^ 7 + link % 2 ^ 3 * 2 ^ 7 + ctx % 2 ^ 12 * 2 ^ 10 } := by
  have hne : (d.pageMark page == some ctx) = false := beq_eq_false_iff_ne.mpr h
  simp only [bodyTokenArrival, hne]
  rfl

/-- The log entry of a poisoned token that a fill port takes. -/
def fillLog (cfg tile port : Nat) (x : Inst) (p : InPort) (t : Tok) : List LogEntry :=
  if t.p && !t.n then
    [{ org := t.org, skind := 1
       loc := (originWord false (tileCol tile) (tileRow tile) port 0).toNat / 128
       cfg := cfg, round := x.fab.round, record := p.taken }]
  else []

/-- FILL_PORT_TOKEN of a token that its bank's fill takes (R171, R349). -/
theorem bodyFillPortToken_row {p : InPort} {k : Nat} {t : Tok} {ts : List Tok} {b b' : Bank} (m : Mem)
    (hx : d.inst cfg = some x) (hp : (x.tile tile).bind (fun t => lookup port t.inp) = some p)
    (hk : p.fills = some k) (hq : p.q = t :: ts) (hf : x.fires = true) (hs : x.stopped tile (16 + port) = false)
    (hb : x.bank tile k = some b) (hn : t.n = true → t.l = true) (hw : b.fillWith t = some (.ok b')) :
    bodyFillPortToken cfg tile port m d = d.updInst cfg fun y =>
      { (y.portTaken tile port).setBank tile k b' with logs := y.logs ++ fillLog cfg tile port x p t } := by
  have hdrop : (t.n && !t.l) = false := by cases hnt : t.n <;> simp_all
  simp only [bodyFillPortToken, hx, hp, hk, hq, hf, hs, hb, hdrop, hw]
  rfl

end Moves

/-! ### The step of an operator's slot -/

/-- The tile after the step of a slot: its inputs' heads taken and its results put out. -/
def Tile.operated (t : Tile) (tile slot : Nat) (o : OpState) : Tile :=
  let r := opStep o (originWord false (tileCol tile) (tileRow tile) slot 8) (t.opHead o.in0) (t.opHead o.in1)
  let t := (t.opTake o.in0 r.take0).opTake o.in1 r.take1
  let t := (t.emitAll o.out0 r.out0).emitAll o.out1 r.out1
  { t with ops := insert slot r.st t.ops }

theorem operate_ready {cfg tile slot : Nat} {kind : OpKind} {x : Inst} {t : Tile} {o : OpState} {d : Dev}
    (hx : d.inst cfg = some x) (ht : x.tile tile = some t) (ho : lookup slot t.ops = some o) (hk : o.kind = kind)
    (hf : x.fires = true) (hs : x.stopped tile (1 + slot) = false) (h0 : t.opRoom o.out0 = true)
    (h1 : t.opRoom o.out1 = true) :
    d.operate kind cfg tile slot = d.updInst cfg fun x => x.setTile tile (Tile.operated t tile slot o) := by
  subst hk
  simp only [Dev.operate, hx, ht, ho, hf, hs, h0, h1, bne_self_eq_false]
  rfl

/-- An instruction that is the step of an operator's slot makes that step. -/
theorem stepsIf_operate {i : Nat → Nat → Nat → Instr} {kind : OpKind}
    (hi : ∀ cfg tile slot s, Machine.exec (i cfg tile slot) s = act s fun _ d => d.operate kind cfg tile slot)
    (cfg tile slot : Nat) (x : Inst) (t : Tile) (o : OpState) : StepsIf (i cfg tile slot)
      (fun _ d => d.inst cfg = some x ∧ x.tile tile = some t ∧ lookup slot t.ops = some o ∧ o.kind = kind
        ∧ x.fires = true ∧ x.stopped tile (1 + slot) = false ∧ t.opRoom o.out0 = true ∧ t.opRoom o.out1 = true)
      fun _ d => d.updInst cfg fun x => x.setTile tile (Tile.operated t tile slot o) :=
  stepsIf_of_act (hi cfg tile slot) (fun _ _ ⟨hx, ht, ho, hk, hf, hs, h0, h1⟩ => operate_ready hx ht ho hk hf hs h0 h1)
    (fun _ _ _ => updInst_wq ..) fun _ _ _ => updInst_tx ..

/-! ### Poison of a token -/

@[simp] theorem poison_data (t : Tok) (w : Option (BitVec 24)) : (t.poison w).data = t.data := by cases w <;> rfl
@[simp] theorem poison_l (t : Tok) (w : Option (BitVec 24)) : (t.poison w).l = t.l := by cases w <;> rfl
@[simp] theorem poison_n (t : Tok) (w : Option (BitVec 24)) : (t.poison w).n = t.n := by cases w <;> rfl

theorem poison_firstOrg_p {r : Tok} (a t : Tok) (hr : r.p = false) :
    (r.poison (firstOrg a.origin? t.origin?)).p = (a.p || t.p) := by
  cases ha : a.p <;> cases ht : t.p <;> simp [Tok.origin?, firstOrg, Tok.poison, ha, ht, hr]

theorem poison_firstOrg_org {r : Tok} (a t : Tok) (h : (a.p || t.p) = true) :
    (r.poison (firstOrg a.origin? t.origin?)).org = if a.p then a.org else t.org := by
  cases ha : a.p <;> cases ht : t.p <;> simp_all [Tok.origin?, firstOrg, Tok.poison]

/-! ### Control tokens and null tokens -/

/-- A control token passes to OUT0 in its place (R233). -/
theorem opStep_control {o : OpState} {t : Tok} (org : BitVec 24) (h : Option Tok) (hj : o.kind ≠ .join)
    (hm : o.kind ≠ .merge) (hz : o.kind = .zip → o.count < o.par 0) (hc : t.c = true) :
    opStep o org (some t) h = passCtl0 o t := by
  unfold opStep
  cases hk : o.kind
  case join => exact absurd hk hj
  case merge => exact absurd hk hm
  case splay => simp [stepSplay, hc]
  case zip => simp [stepZip, hz hk, hc]
  case unzip => simp [stepUnzip, hc]
  case scan => simp [stepScan, hc]
  case reduce => simp [stepScan, hc]
  case compact => cases h <;> simp [stepCompact, hc]
  case quant => simp [stepQuant, hc]
  case dequant => simp [stepDequant, hc]
  case transpose => simp [stepTranspose, hc]

/-- The operators with one input discard a null token, but SPLAY and UNZIP (R233). -/
theorem opStep_null {o : OpState} {t : Tok} (org : BitVec 24) (h : Option Tok)
    (hk : o.kind ∈ [OpKind.scan, .reduce, .quant, .dequant, .transpose]) (hc : t.c = false) (hn : t.n = true) :
    opStep o org (some t) h = { st := o, take0 := true } := by
  unfold opStep
  simp only [List.mem_cons, List.not_mem_nil, or_false] at hk
  rcases hk with hk | hk | hk | hk | hk <;> rw [hk]
  · simp [stepScan, hc, hn]
  · simp [stepScan, hc, hn]
  · simp [stepQuant, hc, hn]
  · simp [stepDequant, hc, hn]
  · simp [stepTranspose, hc, hn]

/-! ### SPLAY, ZIP, UNZIP -/

theorem stepSplay_token {o : OpState} {t : Tok} (hc : t.c = false) : stepSplay o (some t)
    = { st := { o with count := if o.par 0 ≤ o.count + 1 then 0 else o.count + 1 }
        take0 := decide (o.par 0 ≤ o.count + 1), out0 := [t], out1 := if o.out1.isSome then [t] else [] } := by
  simp [stepSplay, hc]

/-- The place of ZIP and UNZIP after one more token of their cycle (R235). -/
def phased (o : OpState) : OpState :=
  { o with count := if o.count + 1 < o.par 0 + o.par 1 then o.count + 1 else 0 }

theorem nextPhase_eq_phased (o : OpState) : nextPhase o = phased o := by
  simp only [nextPhase, phased, ge_iff_le, ← Nat.not_lt, ite_not]

theorem stepZip_first {o : OpState} {t : Tok} (h : Option Tok) (hc : t.c = false) (hn : o.count < o.par 0) :
    stepZip o (some t) h = { st := phased o, take0 := true, out0 := [t] } := by
  simp [stepZip, hc, hn, nextPhase_eq_phased]

theorem stepZip_second {o : OpState} {t : Tok} (h : Option Tok) (hc : t.c = false) (hn : o.par 0 ≤ o.count) :
    stepZip o h (some t) = { st := phased o, take1 := true, out0 := [t] } := by
  simp [stepZip, hc, Nat.not_lt.mpr hn, nextPhase_eq_phased]

theorem stepUnzip_first {o : OpState} {t : Tok} (hc : t.c = false) (hn : o.count < o.par 0) :
    stepUnzip o (some t) = { st := phased o, take0 := true, out0 := [t] } := by
  simp [stepUnzip, hc, hn, nextPhase_eq_phased]

theorem stepUnzip_second {o : OpState} {t : Tok} (hc : t.c = false) (hn : o.par 0 ≤ o.count) :
    stepUnzip o (some t) = { st := phased o, take0 := true, out1 := [t] } := by
  simp [stepUnzip, hc, Nat.not_lt.mpr hn, nextPhase_eq_phased]

/-! ### SCAN and REDUCE -/

/-- The running token once it has taken a token in (R236). -/
def scanned (o : OpState) (t : Tok) : Tok :=
  match o.toks with
  | [] => { t with s := false }
  | a :: _ => Tok.poison { data := scanOp o a.data t.data, l := t.l } (firstOrg a.origin? t.origin?)

theorem stepScan_token {o : OpState} {t : Tok} (reduce : Bool) (hc : t.c = false) (hn : t.n = false) :
    stepScan reduce o (some t) = { st := { o with toks := if t.l then [] else [scanned o t] }, take0 := true
                                   out0 := if reduce && !t.l then [] else [scanned o t] } := by
  simp only [stepScan, hc, hn, scanned]
  cases o.toks <;> rfl

theorem scanned_l (o : OpState) (t : Tok) : (scanned o t).l = t.l := by
  unfold scanned
  cases o.toks <;> simp

theorem scanned_n {o : OpState} {t : Tok} (hn : t.n = false) : (scanned o t).n = false := by
  unfold scanned
  cases o.toks <;> simp [hn]

theorem scanned_first {o : OpState} {t : Tok} (h : o.toks = []) : scanned o t = { t with s := false } := by
  simp [scanned, h]

theorem scanned_next {o : OpState} {t a : Tok} {as : List Tok} (h : o.toks = a :: as) :
    scanned o t = Tok.poison { data := scanOp o a.data t.data, l := t.l } (firstOrg a.origin? t.origin?) := by
  simp [scanned, h]

theorem lanes_mul_laneWidth_le (t : Ty) : t.lanes * t.laneWidth ≤ 1024 := Nat.div_mul_le_self _ _

theorem laneWidth_pos (t : Ty) : 0 < t.laneWidth := by cases t <;> decide

theorem laneWidth_eq_width {t : Ty} (h : t.ffmt = none) : t.laneWidth = t.width := by
  cases t <;> simp [Ty.ffmt] at h <;> rfl

theorem wrap_lt (x : Int) (w : Nat) : Word.wrap x w < 2 ^ w := by
  have h := Int.emod_lt_of_pos x (b := ((2 ^ w : Nat) : Int)) (by exact_mod_cast Nat.two_pow_pos w)
  have h0 := Int.emod_nonneg x (b := ((2 ^ w : Nat) : Int)) (by exact_mod_cast (Nat.two_pow_pos w).ne')
  unfold Word.wrap
  omega

/-- The sum of two integers of a type, narrowed once (R137, R236). -/
theorem redLanes_add_int {t : Ty} (rm : Rm) (a b : Nat) (h : t.ffmt = none) :
    (redLanes t 0 rm false 0 [a, b]).code = Word.wrap (t.intVal a + t.intVal b) t.width := by
  simp [redLanes, redAdd, h, narrow]

/-- SCAN and REDUCE with the operation ADD on integers. -/
theorem intLane_scanOp {o : OpState} {acc x : Data} {l : Nat} (h0 : o.par 0 = 0)
    (hf : (Ty.ofCode (o.par 1)).ffmt = none) (hl : l < (Ty.ofCode (o.par 1)).lanes) :
    intLane (Ty.ofCode (o.par 1)) (scanOp o acc x) l = (Ty.ofCode (o.par 1)).intVal
      (Word.wrap (intLane (Ty.ofCode (o.par 1)) acc l + intLane (Ty.ofCode (o.par 1)) x l)
        (Ty.ofCode (o.par 1)).width) := by
  generalize hty : Ty.ofCode (o.par 1) = ty at hf hl
  have hlane : laneOf ty.laneWidth (scanOp o acc x) l = Word.wrap (intLane ty acc l + intLane ty x l) ty.width := by
    unfold scanOp
    rw [hty]
    refine (laneOf_packLanes (laneWidth_pos ty) (by simpa using lanes_mul_laneWidth_le ty)
      (by rw [List.getElem?_map, List.getElem?_range hl]; rfl)).trans ?_
    dsimp only
    rw [h0, redLanes_add_int _ _ _ hf, intLane, intLane, laneWidth_eq_width hf]
    exact Nat.mod_eq_of_lt (wrap_lt _ _)
  rw [intLane, hlane]

/-! ### COMPACT -/

/-- The lanes of a data token that its mask keeps (R237). -/
def keptLanes (ty : Ty) (m t : Data) : List Nat :=
  ((List.range ty.lanes).filter fun l => bitLane ty m l != 0).map (bitLane ty t)

section Compact
variable {o : OpState} {t m : Tok} {ty : Ty} {all : List Nat} (hc : t.c = false) (hn : t.n = false)
  (hmc : m.c = false) (hmn : m.n = false) (hty : ty = Ty.ofCode (o.par 0))
  (hall : all = o.lanes ++ keptLanes ty m.data t.data)
include hc hn hmc hmn hty hall

theorem stepCompact_gathers (hl : t.l = false) (h : all.length < ty.lanes) :
    ∃ p, stepCompact o (some t) (some m) = { st := { o with lanes := all, pois := p }, take0 := true, take1 := true } := by
  subst hty hall
  simp only [stepCompact, hc, hn, hmc, hmn, hl]
  exact ⟨_, if_neg (Nat.not_le.mpr h)⟩

theorem stepCompact_full (hl : t.l = false) (h : ty.lanes ≤ all.length) :
    ∃ p w, stepCompact o (some t) (some m)
      = { st := { o with lanes := all.drop ty.lanes, pois := p }, take0 := true, take1 := true
          out0 := [Tok.poison { data := packLanes ty.laneWidth (all.take ty.lanes), l := false } w] } := by
  subst hty hall
  simp only [stepCompact, hc, hn, hmc, hmn, hl]
  exact ⟨_, _, if_pos h⟩

theorem stepCompact_last (hl : t.l = true) :
    ∃ w, stepCompact o (some t) (some m)
      = { st := { o with lanes := [], pois := none }, take0 := true, take1 := true
          out0 := if all.length > ty.lanes then
              [Tok.poison { data := packLanes ty.laneWidth (all.take ty.lanes), l := false } w,
                Tok.poison { data := packLanes ty.laneWidth (all.drop ty.lanes), l := true } t.origin?]
            else [Tok.poison { data := packLanes ty.laneWidth all, l := true } w] } := by
  subst hty hall
  simp only [stepCompact, hc, hn, hmc, hmn, hl]
  exact ⟨_, rfl⟩

theorem stepCompact_closes (hl : t.l = true) (h : all.length ≤ ty.lanes) :
    ∃ w, stepCompact o (some t) (some m)
      = { st := { o with lanes := [], pois := none }, take0 := true, take1 := true
          out0 := [Tok.poison { data := packLanes ty.laneWidth all, l := true } w] } := by
  obtain ⟨w, hr⟩ := stepCompact_last hc hn hmc hmn hty hall hl
  exact ⟨w, by rw [hr, if_neg (Nat.not_lt.mpr h)]⟩

theorem stepCompact_takes :
    (stepCompact o (some t) (some m)).take0 = true ∧ (stepCompact o (some t) (some m)).take1 = true := by
  cases hl : t.l
  · obtain h | h := Nat.lt_or_ge all.length ty.lanes
    · obtain ⟨p, hr⟩ := stepCompact_gathers hc hn hmc hmn hty hall hl h
      rw [hr]
      exact ⟨rfl, rfl⟩
    · obtain ⟨p, w, hr⟩ := stepCompact_full hc hn hmc hmn hty hall hl h
      rw [hr]
      exact ⟨rfl, rfl⟩
  · obtain ⟨w, hr⟩ := stepCompact_last hc hn hmc hmn hty hall hl
    rw [hr]
    exact ⟨rfl, rfl⟩

end Compact

/-! ### TRANSPOSE -/

theorem stepTranspose_holds {o : OpState} {t : Tok} (hc : t.c = false) (hn : t.n = false)
    (h : o.toks.length + 1 < 1024 / o.par 0) (hl : t.l = false) :
    stepTranspose o (some t) = { st := { o with toks := o.toks ++ [t] }, take0 := true } := by
  simp [stepTranspose, hc, hn, h, hl]

/-- Token `j` that leaves a complete block: lane `j` of each of its tokens (R238). -/
def turned (o : OpState) (t : Tok) (j : Nat) : Tok :=
  Tok.poison
    { data := packLanes (o.par 0)
        ((List.range (1024 / o.par 0)).map fun i => laneOf (o.par 0) ((o.toks ++ [t]).getD i {}).data j)
      l := t.l && j + 1 == 1024 / o.par 0 } ((o.toks ++ [t]).foldl (fun acc x => firstOrg acc x.origin?) none)

theorem stepTranspose_turns {o : OpState} {t : Tok} (hc : t.c = false) (hn : t.n = false)
    (h : o.toks.length + 1 = 1024 / o.par 0) : stepTranspose o (some t)
      = { st := { o with toks := [] }, take0 := true, out0 := (List.range (1024 / o.par 0)).map (turned o t) } := by
  have hfull : (decide ((o.toks ++ [t]).length < 1024 / o.par 0) && !t.l) = false := by simp [h]
  simp only [stepTranspose, hc, hn, hfull]
  rfl

theorem laneOf_mod (w : Nat) (d : Data) (l : Nat) : laneOf w d l % 2 ^ w = laneOf w d l := Nat.mod_mod _ _

theorem laneOf_turned {o : OpState} {t y : Tok} {i j : Nat} (hw : 0 < o.par 0) (hi : i < 1024 / o.par 0)
    (hy : (o.toks ++ [t])[i]? = some y) : laneOf (o.par 0) (turned o t j).data i = laneOf (o.par 0) y.data j := by
  rw [turned, poison_data]
  refine (laneOf_packLanes hw (by simpa using Nat.div_mul_le_self 1024 _)
    (by rw [List.getElem?_map, List.getElem?_range hi]; rfl)).trans ?_
  dsimp only
  rw [List.getD_eq_getElem?_getD, hy]
  exact laneOf_mod _ _ _

theorem turned_l (o : OpState) (t : Tok) (j : Nat) :
    (turned o t j).l = true ↔ t.l = true ∧ j + 1 = 1024 / o.par 0 := by
  simp [turned]

/-! ### QUANT and DEQUANT -/

theorem quantRow_invalid {k : Nat} {xs : List Fv} (h : ∃ x ∈ xs, x = .nan ∨ x.isInf = true) :
    quantRow k xs = (0xFF, xs.map fun _ => 0) := by
  have hany : (xs.any fun x => x == .nan || x.isInf) = true := by simpa using h
  simp only [quantRow, hany]
  rfl

/-- The scale of a row of finite values (R239). -/
def rowScale (k : Nat) (xs : List Fv) : Int :=
  if (xs.foldl Fv.maxMag (.fin false 0 0)).isZero then 127
  else max 0 (min 254 (Fv.floorLog2 (xs.foldl Fv.maxMag (.fin false 0 0)) - quantEmax k + 127))

theorem rowScale_range (k : Nat) (xs : List Fv) : 0 ≤ rowScale k xs ∧ rowScale k xs ≤ 254 := by
  unfold rowScale
  split <;> omega

theorem quantRow_finite {k : Nat} {xs : List Fv} (h : ∀ x ∈ xs, ∃ n m e, x = .fin n m e) :
    quantRow k xs = ((rowScale k xs).toNat, xs.map fun x => match x with
      | .fin n m d => (quantFmt k).roundFin .rne true 0 n m (d + 127 - rowScale k xs)
      | .nan | .inf _ => 0) := by
  have hany : (xs.any fun x => x == .nan || x.isInf) = false := by
    rw [List.any_eq_false]
    intro x hx
    obtain ⟨n, m, e, rfl⟩ := h x hx
    simp [Fv.isInf]
  simp only [quantRow, hany]
  rfl

theorem eq_fin_of_isZero {x : Fv} (h : x.isZero = true) : ∃ n e, x = .fin n 0 e := by
  unfold Fv.isZero at h
  split at h
  · exact ⟨_, _, rfl⟩
  · cases h

theorem isZero_maxMag {a b : Fv} (ha : a.isZero = true) (hb : b.isZero = true) : (Fv.maxMag a b).isZero = true := by
  obtain ⟨n, e, rfl⟩ := eq_fin_of_isZero ha
  obtain ⟨n', e', rfl⟩ := eq_fin_of_isZero hb
  unfold Fv.maxMag
  dsimp only
  split <;> rfl

theorem isZero_foldl_maxMag {xs : List Fv} {a : Fv} (ha : a.isZero = true) (h : ∀ x ∈ xs, x.isZero = true) :
    (xs.foldl Fv.maxMag a).isZero = true := by
  induction xs generalizing a with
  | nil => exact ha
  | cons x xs ih =>
    exact ih (isZero_maxMag ha (h x List.mem_cons_self)) fun y hy => h y (List.mem_cons_of_mem x hy)

theorem rowScale_zero {k : Nat} {xs : List Fv} (h : ∀ x ∈ xs, x.isZero = true) : rowScale k xs = 127 :=
  if_pos (isZero_foldl_maxMag rfl h)

theorem length_dequantGroup (o : OpState) (blk : List Tok) (l : Bool) : (dequantGroup o blk l).length = 128 := by
  simp [dequantGroup]

theorem dequantGroup_l {o : OpState} {blk : List Tok} {l : Bool} {r : Nat} {x : Tok}
    (h : (dequantGroup o blk l)[r]? = some x) : x.l = true ↔ l = true ∧ r = 127 := by
  unfold dequantGroup at h
  dsimp only at h
  rw [List.getElem?_map] at h
  obtain ⟨i, hi, rfl⟩ := Option.map_eq_some_iff.mp h
  obtain ⟨-, rfl⟩ : r < 128 ∧ r = i := by simpa [List.getElem?_eq_some_iff] using hi
  simp

/-! ### JOIN and MERGE -/

theorem stepPairs_passes {o : OpState} {t : Tok} (union : Bool) (h : Option Tok) (hb : o.buf0 = [])
    (he : o.end0 = false) (hc : t.c = true ∨ t.n = true) :
    stepPairs union o (some t) h = { st := o, take0 := true, out0 := if t.c then [t] else [] } := by
  cases htc : t.c
  · have hn : t.n = true := by simpa [htc] using hc
    simp [stepPairs, hb, he, htc, hn]
  · simp [stepPairs, hb, he, htc, passCtl0]

theorem stepPairs_compares {o : OpState} (union : Bool) (h0 h1 : Option Tok) (hb0 : o.buf0 ≠ [] ∨ o.end0 = true)
    (hb1 : o.buf1 ≠ [] ∨ o.end1 = true) : stepPairs union o h0 h1 = comparePairs union o := by
  have h0 : (o.buf0.isEmpty && !o.end0) = false := by
    rcases hb0 with h | h <;> simp [h]
  have h1 : (o.buf1.isEmpty && !o.end1) = false := by
    rcases hb1 with h | h <;> simp [h]
  simp only [stepPairs, h0, h1]
  rfl

theorem emitTriple_partial {o : OpState} {c x y : Nat} {w0 w1 : Option (Nat × BitVec 24)}
    (h : o.acc0.length < 15) : emitTriple o c x y w0 w1
      = { st := { o with acc0 := o.acc0 ++ [(c, x)], acc1 := o.acc1 ++ [(c, y)]
                         pois0 := earliest o.pois0 w0, pois1 := earliest o.pois1 w1 } } := by
  have hlen : ((o.acc0 ++ [(c, x)]).length == 16) = false := by
    simp only [List.length_append, List.length_singleton, beq_eq_false_iff_ne]
    omega
  simp only [emitTriple, hlen]
  rfl

section Compare
variable {o : OpState} {x y : Nat × Nat} {xs ys : List (Nat × Nat)} (h0 h1 : Option Tok)
  (hb0 : o.buf0 = x :: xs) (hb1 : o.buf1 = y :: ys)
include hb0 hb1

theorem stepPairs_eq_comparePairs (union : Bool) : stepPairs union o h0 h1 = comparePairs union o :=
  stepPairs_compares union h0 h1 (.inl (by simp [hb0])) (.inl (by simp [hb1]))

/-- JOIN and MERGE put out a triple of two equal coordinates (R234). -/
theorem stepPairs_equal (union : Bool) (ha : o.acc0.length < 15) (h : x.1 = y.1) : stepPairs union o h0 h1
    = { st := { o with buf0 := xs, buf1 := ys, acc0 := o.acc0 ++ [(x.1, x.2)], acc1 := o.acc1 ++ [(x.1, y.2)]
                       pois0 := earliest o.pois0 o.org0, pois1 := earliest o.pois1 o.org1 } } := by
  have hcmp : comparePairs union o
      = emitTriple { o with buf0 := xs, buf1 := ys } x.1 x.2 y.2 o.org0 o.org1 := by
    simp [comparePairs, hb0, hb1, h]
  rw [stepPairs_eq_comparePairs h0 h1 hb0 hb1, hcmp, emitTriple_partial]
  exact ha

/-- JOIN passes over the lower coordinate (R234). -/
theorem stepJoin_less (h : x.1 < y.1) : stepPairs false o h0 h1 = { st := { o with buf0 := xs } } := by
  rw [stepPairs_eq_comparePairs h0 h1 hb0 hb1]
  simp [comparePairs, hb0, hb1, h, h.ne]

theorem stepJoin_greater (h : y.1 < x.1) : stepPairs false o h0 h1 = { st := { o with buf1 := ys } } := by
  rw [stepPairs_eq_comparePairs h0 h1 hb0 hb1]
  simp [comparePairs, hb0, hb1, h.ne', h.le]

/-- MERGE puts the lower coordinate out with its fill value (R234). -/
theorem stepMerge_less (ha : o.acc0.length < 15) (h : x.1 < y.1) : stepPairs true o h0 h1
    = { st := { o with buf0 := xs, acc0 := o.acc0 ++ [(x.1, x.2)], acc1 := o.acc1 ++ [(x.1, o.par 0)]
                       pois0 := earliest o.pois0 o.org0, pois1 := earliest o.pois1 o.org0 } } := by
  have hcmp : comparePairs true o = emitTriple { o with buf0 := xs } x.1 x.2 (o.par 0) o.org0 o.org0 := by
    simp [comparePairs, hb0, hb1, h, h.ne]
  rw [stepPairs_eq_comparePairs h0 h1 hb0 hb1, hcmp, emitTriple_partial]
  exact ha

theorem stepMerge_greater (ha : o.acc0.length < 15) (h : y.1 < x.1) : stepPairs true o h0 h1
    = { st := { o with buf1 := ys, acc0 := o.acc0 ++ [(y.1, o.par 0)], acc1 := o.acc1 ++ [(y.1, y.2)]
                       pois0 := earliest o.pois0 o.org1, pois1 := earliest o.pois1 o.org1 } } := by
  have hcmp : comparePairs true o = emitTriple { o with buf1 := ys } y.1 (o.par 0) y.2 o.org1 o.org1 := by
    simp [comparePairs, hb0, hb1, h.ne', h.le]
  rw [stepPairs_eq_comparePairs h0 h1 hb0 hb1, hcmp, emitTriple_partial]
  exact ha

end Compare

/-- When both runs have ended both outputs close (R234). -/
theorem stepPairs_flush {o : OpState} (union : Bool) (h0 h1 : Option Tok) (hb0 : o.buf0 = []) (hb1 : o.buf1 = [])
    (he0 : o.end0 = true) (he1 : o.end1 = true) : stepPairs union o h0 h1 = flushPairs o := by
  rw [stepPairs_compares union h0 h1 (.inr he0) (.inr he1)]
  simp [comparePairs, hb0, hb1]

theorem pairTok_l (ps : List (Nat × Nat)) (l : Bool) (w : Option (BitVec 24)) : (pairTok ps l w).l = l := by
  simp [pairTok]

theorem flushPairs_closes (o : OpState) : (flushPairs o).st.end0 = false ∧ (flushPairs o).st.end1 = false
    ∧ (flushPairs o).out0.map (·.l) = [true] ∧ (flushPairs o).out1.map (·.l) = [true] := by
  simp [flushPairs, pairTok_l]

/-! ### The obligation -/

/-- Settles O42: tokens move and slots step by the steps' bodies, and each clause about an operator is the equation of
its step. -/
theorem tokensAndOperators : Obligations.TokensAndOperators := by
  refine ⟨⟨?route, ?delay, ?stray, ?fill, stepsIf_operate fun _ _ _ _ => rfl, stepsIf_operate fun _ _ _ _ => rfl,
    stepsIf_operate fun _ _ _ _ => rfl, stepsIf_operate fun _ _ _ _ => rfl, stepsIf_operate fun _ _ _ _ => rfl,
    stepsIf_operate fun _ _ _ _ => rfl, stepsIf_operate fun _ _ _ _ => rfl, stepsIf_operate fun _ _ _ _ => rfl,
    stepsIf_operate fun _ _ _ _ => rfl, stepsIf_operate fun _ _ _ _ => rfl, stepsIf_operate fun _ _ _ _ => rfl⟩,
    ?control, ?null, ?pairsPass, ?splay, ?first, ?second, ?scan, ?compact, ?holds, ?turns, ?invalid, ?finite, ?dequant,
    ?compare, ?ended⟩
  case route =>
    exact fun cfg tile port x t p o tile' port' n => stepsIf_of_act (fun _ => rfl)
      (fun m d ⟨h, hs, hc, hr⟩ => bodyTokenArrival_route m h hs hc hr) (fun _ _ _ => by simp) fun _ _ _ => by simp
  case delay =>
    exact fun cfg tile port x t p o port' n => stepsIf_of_act (fun _ => rfl)
      (fun m d ⟨h, hs, hc, hr⟩ => bodyTokenArrival_delay m h hs hc hr) (fun _ _ _ => by simp) fun _ _ _ => by simp
  case stray =>
    exact fun page link ctx => writesIf_of_act (fun _ => rfl) fun m d h => bodyTokenArrival_stray m h
  case fill =>
    exact fun cfg tile port x p k t ts b b' => stepsIf_of_act (fun _ => rfl)
      (fun m d ⟨hx, hp, hk, hq, hf, hs, hb, hn, hw⟩ => bodyFillPortToken_row m hx hp hk hq hf hs hb hn hw)
      (fun _ _ _ => by simp) fun _ _ _ => by simp
  case control =>
    intro o k t h hk hc hz
    simp only [List.mem_cons, List.not_mem_nil, or_false, not_or] at hk
    exact opStep_control 0 h hk.1 hk.2 hz hc
  case null => exact fun o k t h hk hc hn => opStep_null 0 h hk hc hn
  case pairsPass =>
    intro o k t h hk hb he hc
    simp only [List.mem_cons, List.not_mem_nil, or_false] at hk
    obtain rfl | rfl := hk
    · exact stepPairs_passes false h hb he hc
    · exact stepPairs_passes true h hb he hc
  case splay => exact fun o t h hc => stepSplay_token hc
  case first => exact fun o t h hc hn => ⟨stepZip_first h hc hn, stepUnzip_first hc hn⟩
  case second => exact fun o t h hc hn => ⟨stepZip_second h hc hn, stepUnzip_second hc hn⟩
  case scan =>
    intro o k t h hk hc hn
    refine ⟨scanned o t, scanned_l o t, scanned_n hn, ?_, fun ht => ?_, ?_⟩
    · obtain rfl | rfl := hk
      · exact stepScan_token false hc hn
      · exact (stepScan_token true hc hn).trans (by cases t.l <;> rfl)
    · rw [scanned_first ht]
      exact ⟨rfl, rfl, rfl⟩
    · rintro a as ty ht rfl
      rw [scanned_next ht, poison_firstOrg_p a t rfl]
      refine ⟨rfl, fun hp => poison_firstOrg_org a t hp, fun l hl hf h0 => ?_⟩
      rw [poison_data]
      exact intLane_scanOp h0 hf hl
  case compact =>
    intro o t m hc hn hmc hmn ty kept all r
    refine ⟨(stepCompact_takes hc hn hmc hmn rfl rfl).1, (stepCompact_takes hc hn hmc hmn rfl rfl).2, fun hl h => ?_,
      fun hl h => ?_, fun hl h => ?_⟩
    · obtain ⟨p, hr⟩ : ∃ p, r = _ := stepCompact_gathers hc hn hmc hmn rfl rfl hl h
      rw [hr]
      exact ⟨rfl, rfl⟩
    · obtain ⟨p, w, hr⟩ : ∃ p w, r = _ := stepCompact_full hc hn hmc hmn rfl rfl hl h
      rw [hr]
      exact ⟨rfl, congrArg (fun d => [d]) (poison_data _ _), congrArg (fun l => [l]) (poison_l _ _)⟩
    · obtain ⟨w, hr⟩ : ∃ w, r = _ := stepCompact_closes hc hn hmc hmn rfl rfl hl h
      rw [hr]
      exact ⟨rfl, congrArg (fun d => [d]) (poison_data _ _), congrArg (fun l => [l]) (poison_l _ _)⟩
  case holds =>
    rintro o t h w n rfl rfl hc hn hlen hl
    exact stepTranspose_holds hc hn hlen hl
  case turns =>
    rintro o t h w n rfl rfl hw hc hn hlen r
    have hr : r = { st := { o with kind := .transpose, toks := [] }, take0 := true
                    out0 := (List.range (1024 / o.par 0)).map (turned o t) } := stepTranspose_turns hc hn hlen
    have hpos : 0 < o.par 0 := Nat.pos_of_ne_zero fun h0 => by simp [h0] at hw
    rw [hr]
    refine ⟨rfl, rfl, by simp, fun i j hi hj => ?_⟩
    have hin : i < (o.toks ++ [t]).length := by rwa [List.length_append, List.length_singleton, hlen]
    exact ⟨turned o t j, (o.toks ++ [t])[i], by simp [List.getElem?_range hj], List.getElem?_eq_getElem hin,
      laneOf_turned hpos hi (List.getElem?_eq_getElem hin), turned_l o t j⟩
  case invalid => exact fun k xs h => quantRow_invalid h
  case finite =>
    intro k xs h
    obtain ⟨hlo, hhi⟩ := rowScale_range k xs
    refine ⟨(rowScale k xs).toNat, by rw [quantRow_finite h], by omega, fun hz => by rw [rowScale_zero hz]; rfl, ?_⟩
    rw [Int.toNat_of_nonneg hlo]
    exact congrArg Prod.snd (quantRow_finite h)
  case dequant => exact fun o blk l => ⟨length_dequantGroup o blk l, fun r x h => dequantGroup_l h⟩
  case compare =>
    intro o k x y xs ys h0 h1 hb0 hb1 ha0 ha1 r hk
    obtain h | h | h := Nat.lt_trichotomy x.1 y.1
    · have hj : r .join = _ := stepJoin_less (o := { o with kind := .join }) h0 h1 hb0 hb1 h
      have hm : r .merge = _ := stepMerge_less (o := { o with kind := .merge }) h0 h1 hb0 hb1 ha0 h
      obtain rfl | rfl := hk <;> rw [hm, hj] <;>
        exact ⟨rfl, rfl, rfl, rfl, fun he => absurd he h.ne, fun _ => ⟨rfl, hb1, rfl, rfl, rfl, rfl⟩,
          fun hg => absurd hg h.asymm⟩
    · have hj : r .join = _ := stepPairs_equal (o := { o with kind := .join }) h0 h1 hb0 hb1 false ha0 h
      have hm : r .merge = _ := stepPairs_equal (o := { o with kind := .merge }) h0 h1 hb0 hb1 true ha0 h
      obtain rfl | rfl := hk <;> rw [hm, hj] <;>
        exact ⟨rfl, rfl, rfl, rfl, fun _ => ⟨rfl, rfl, rfl, rfl⟩, fun hl => absurd h hl.ne, fun hg => absurd h hg.ne'⟩
    · have hj : r .join = _ := stepJoin_greater (o := { o with kind := .join }) h0 h1 hb0 hb1 h
      have hm : r .merge = _ := stepMerge_greater (o := { o with kind := .merge }) h0 h1 hb0 hb1 ha0 h
      obtain rfl | rfl := hk <;> rw [hm, hj] <;>
        exact ⟨rfl, rfl, rfl, rfl, fun he => absurd he h.ne', fun hl => absurd hl h.asymm,
          fun _ => ⟨hb0, rfl, rfl, rfl, rfl, rfl⟩⟩
  case ended =>
    intro o k h0 h1 hk hb0 hb1 he0 he1
    obtain rfl | rfl := hk
    · have hr : opStep { o with kind := .join } 0 h0 h1 = _ := stepPairs_flush (o := { o with kind := .join })
        false h0 h1 hb0 hb1 he0 he1
      dsimp only
      rw [hr]
      exact flushPairs_closes _
    · have hr : opStep { o with kind := .merge } 0 h0 h1 = _ := stepPairs_flush (o := { o with kind := .merge })
        true h0 h1 hb0 hb1 he0 he1
      dsimp only
      rw [hr]
      exact flushPairs_closes _

end Sys2Proof.Proofs
end

section
/-! PROOFS. Rounding a value that a format represents gives its code back (R55, R57, R59). -/

namespace Sys2Proof.Proofs
open Sys2Proof Sys2Proof.Machine Sys2Proof.Laws

/-! ### The fields of a code -/

/-- The exponent field of a code (R55). -/
def expField (f : FFmt) (b : Nat) : Nat := (b >>> f.mant) % 2 ^ f.expo

/-- The fraction field of a code (R55). -/
def fracField (f : FFmt) (b : Nat) : Nat := b % 2 ^ f.mant

theorem expField_lt (f : FFmt) (b : Nat) : expField f b < 2 ^ f.expo := Nat.mod_lt _ (Nat.two_pow_pos _)

theorem fracField_lt (f : FFmt) (b : Nat) : fracField f b < 2 ^ f.mant := Nat.mod_lt _ (Nat.two_pow_pos _)

/-- A code is its sign above its exponent field above its fraction field. -/
theorem withSign_fields {f : FFmt} {b : Nat} (h : b < 2 ^ (f.signBit + 1)) :
    f.withSign (b.testBit f.signBit) (expField f b * 2 ^ f.mant + fracField f b) = b := by
  have hmag : expField f b * 2 ^ f.mant + fracField f b = b % 2 ^ f.signBit := by
    rw [FFmt.signBit, Nat.pow_add, Nat.mod_mul, expField, fracField, Nat.shiftRight_eq_div_pow, Nat.mul_comm,
      Nat.add_comm]
  have hsplit : b % 2 ^ f.signBit + 2 ^ f.signBit * (b.testBit f.signBit).toNat = b := by
    rw [Nat.toNat_testBit, ← Nat.mod_pow_succ, Nat.mod_eq_of_lt h]
  rw [hmag, FFmt.withSign]
  split <;> rename_i hbit <;> simpa [hbit] using hsplit

/-- The leading bit of a significand, which the subnormal codes do not have (R55). -/
def leadBit (f : FFmt) (b : Nat) : Nat := if expField f b = 0 then 0 else 2 ^ f.mant

/-- The codes of infinities and NaNs (R55). -/
def IsSpecial (f : FFmt) (b : Nat) : Prop :=
  f.ieee = true ∧ expField f b = 2 ^ f.expo - 1 ∨ f = .e4m3 ∧ b % 128 = 127

/-- A finite value by the fields of its code; the subnormal codes share the exponent of field 1 (R55). -/
theorem fields_of_decode {f : FFmt} {b m : Nat} {n : Bool} {e : Int} (h : f.decode b = .fin n m e) :
    ¬ IsSpecial f b ∧ n = b.testBit f.signBit ∧ m = fracField f b + leadBit f b
      ∧ e = ((max (expField f b) 1 : Nat) : Int) + f.minLsb - 1 := by
  unfold FFmt.decode at h
  change (if (f.ieee && expField f b == _) = true then _ else if _ then _
    else if expField f b == 0 then Fv.fin _ (fracField f b) _
    else Fv.fin _ (fracField f b + _) ((expField f b : Int) + f.minLsb - 1)) = _ at h
  split at h
  · split at h <;> cases h
  split at h
  · cases h
  next hinf hnan =>
    simp only [Bool.and_eq_true, beq_iff_eq] at hinf hnan
    refine ⟨not_or.mpr ⟨hinf, hnan⟩, ?_⟩
    split at h <;> rename_i hz <;> rw [beq_iff_eq] at hz <;> cases h
    · simp [leadBit, hz]
    · simp [leadBit, hz, Nat.one_le_iff_ne_zero.mpr hz]

/-! ### The largest finite value -/

/-- The exponent field of the largest finite code (R55). -/
def topField (f : FFmt) : Nat := if f.ieee then 2 ^ f.expo - 2 else 2 ^ f.expo - 1

/-- The fraction field of the largest finite code: all ones, but below them in E4M3, where they are the NaN (R55). -/
def topFrac (f : FFmt) : Nat := if f = .e4m3 then 2 ^ f.mant - 2 else 2 ^ f.mant - 1

theorem decode_maxCode (f : FFmt) :
    f.decode f.maxCode = .fin false (topFrac f + 2 ^ f.mant) ((topField f : Int) + f.minLsb - 1) := by
  cases f <;> rfl

theorem topField_pos (f : FFmt) : 0 < topField f := by cases f <;> decide

theorem expField_le_topField {f : FFmt} {b : Nat} (h : ¬ IsSpecial f b) : expField f b ≤ topField f := by
  have hlt := expField_lt f b
  unfold topField
  split
  · next hi =>
    have hne : expField f b ≠ 2 ^ f.expo - 1 := fun he => h (.inl ⟨hi, he⟩)
    omega
  · omega

theorem fracField_le_topFrac {f : FFmt} {b : Nat} (h : ¬ IsSpecial f b) (he : expField f b = topField f) :
    fracField f b ≤ topFrac f := by
  have hlt := fracField_lt f b
  unfold topFrac
  split
  · next h4 =>
    subst h4
    have hne : b % 128 ≠ 127 := fun hb => h (.inr ⟨rfl, hb⟩)
    change (b >>> 3) % 16 = 15 at he
    change b % 8 ≤ 6
    omega
  · omega

/-- A number is not above another at the same exponent with as large a significand, nor at a larger one with a
significand of at least half. -/
theorem dyadicGt_eq_false {a b : Nat} {x y : Int} (hxy : x ≤ y) (heq : x = y → a ≤ b) (hlt : x < y → a ≤ 2 * b) :
    dyadicGt a x b y = false := by
  unfold dyadicGt
  split
  · next hyx =>
    have hx : x = y := le_antisymm hxy hyx
    simpa [hx] using heq hx
  · next hyx =>
    have hx : x < y := not_le.mp hyx
    have hpow : 2 ^ 1 ≤ 2 ^ (y - x).toNat := Nat.pow_le_pow_right two_pos (by omega)
    have hle : 2 * b ≤ b * 2 ^ (y - x).toNat := by
      rw [Nat.mul_comm 2 b]
      exact Nat.mul_le_mul_left b hpow
    rw [Nat.shiftLeft_eq]
    exact decide_eq_false (not_lt.mpr ((hlt hx).trans hle))

/-! ### Rounding at the value's own spacing -/

section Finite
variable {f : FFmt} {b m : Nat} {n : Bool} {e : Int} (h : f.decode b = .fin n m e)
include h

theorem sig_lt_of_decode : m < 2 ^ (f.mant + 1) := by
  obtain ⟨-, -, hm, -⟩ := fields_of_decode h
  have hfrac := fracField_lt f b
  unfold leadBit at hm
  split at hm <;> omega

/-- No finite value lies above the largest one (R55). -/
theorem dyadicGt_maxCode_eq_false :
    dyadicGt m e (topFrac f + 2 ^ f.mant) ((topField f : Int) + f.minLsb - 1) = false := by
  have hsig := sig_lt_of_decode h
  obtain ⟨hfin, -, hm, he⟩ := fields_of_decode h
  have hexp := expField_le_topField hfin
  have hpos := topField_pos f
  refine dyadicGt_eq_false (by omega) (fun heq => ?_) fun _ => by omega
  by_cases htop : expField f b = topField f
  · have hfrac := fracField_le_topFrac hfin htop
    rw [hm, leadBit, if_neg (by omega)]
    omega
  · have hfrac := fracField_lt f b
    rw [hm, leadBit, if_pos (by omega)]
    omega

/-- A finite value is a multiple of the spacing that its code has (R57). -/
theorem lsbAt_of_decode (h0 : m ≠ 0) : f.lsbAt m e = e := by
  have hlog : Nat.log2 m < f.mant + 1 := (Nat.log2_lt h0).mpr (sig_lt_of_decode h)
  obtain ⟨-, -, hm, he⟩ := fields_of_decode h
  unfold leadBit at hm
  unfold FFmt.lsbAt
  split at hm
  · omega
  · have hle : f.mant ≤ Nat.log2 m := (Nat.le_log2 h0).mpr (by omega)
    omega

theorem encodeMag_of_decode : f.encodeMag m e = expField f b * 2 ^ f.mant + fracField f b := by
  have hsig : ¬ m ≥ 2 ^ (f.mant + 1) := not_le.mpr (sig_lt_of_decode h)
  obtain ⟨-, -, hm, he⟩ := fields_of_decode h
  have hfrac := fracField_lt f b
  simp only [FFmt.encodeMag, if_neg hsig]
  unfold leadBit at hm
  split at hm
  · next hz => rw [if_pos (by omega), hm, hz, Nat.zero_mul, Nat.zero_add, Nat.add_zero]
  · next hz =>
    have hstep : (e - f.minLsb).toNat + 1 = expField f b := by omega
    rw [if_neg (by omega), hstep, hm, Nat.add_sub_cancel]

theorem fields_of_zero (h0 : m = 0) : expField f b * 2 ^ f.mant + fracField f b = 0 := by
  rw [← encodeMag_of_decode h, h0]
  simp [FFmt.encodeMag]

end Finite

theorem roundAt_self (rm : Rm) (n : Bool) (u m : Nat) (e : Int) : roundAt rm n u m e e = m := by
  simp [roundAt]

/-- Settles O12: a value of the format stands at its own spacing, where rounding leaves it, and within its range. -/
theorem roundingIsExact : Obligations.RoundingIsExact := by
  intro f rm sat u b n m e hb h
  have hcode : f.withSign n (expField f b * 2 ^ f.mant + fracField f b) = b := by
    obtain ⟨-, rfl, -, -⟩ := fields_of_decode h
    exact withSign_fields hb
  unfold FFmt.roundFin
  split <;> rename_i h0 <;> rw [beq_iff_eq] at h0
  · rw [← fields_of_zero h h0, hcode]
  · simp only [lsbAt_of_decode h h0, roundAt_self, decode_maxCode, dyadicGt_maxCode_eq_false h, encodeMag_of_decode h,
      hcode, Bool.false_eq_true, if_false]

end Sys2Proof.Proofs
end

section
/-! PROOFS. Poison: the first poisoned operand of a firing, and the result that carries it (R63 to R66). -/

namespace Sys2Proof.Proofs
open Sys2Proof Sys2Proof.Machine Sys2Proof.Laws

/-- An operand that a firing uses comes before those behind it; one that it does not use does not count (R66). -/
theorem firstPoison_used (used : Bool) (t : Tok) (ts : List Tok) :
    firstPoison ((if used = true then [if used = true then t else {}] else []) ++ ts)
      = if used = true ∧ t.p = true then some t.org else firstPoison ts := by
  cases used
  · rfl
  · simp [firstPoison]

/-- A firing's poison is that of the first poisoned operand in the order left, right, predicate (R66). -/
theorem org_of_gather {sl : Slots} {pm : Pm} {gate : Bool} {s : Slot} {g : Gathered}
    (h : gather sl pm gate s = some g) :
    g.org = if sl.l = true ∧ (s.l.headD {}).p = true then some (s.l.headD {}).org
      else if sl.r = true ∧ (s.r.headD {}).p = true then some (s.r.headD {}).org
      else if (sl.t = true ∨ pm ≠ .none) ∧ (s.t.headD {}).p = true then some (s.t.headD {}).org else none := by
  have hused : (sl.t || pm != .none) = true ↔ sl.t = true ∨ pm ≠ .none := by simp
  unfold gather at h
  dsimp only at h
  split at h
  · cases h
  · cases h
    dsimp only
    rw [List.append_assoc, firstPoison_used, firstPoison_used,
      ← List.append_nil (if (sl.t || pm != .none) = true then _ else _), firstPoison_used]
    simp only [hused, firstPoison]

/-- Lanes that an instruction computes settle on a plain token of their DATA, with the poison of the operands before
that of the first cause (R66). -/
theorem settle_alu (ctl : Bool) (pp : Ppol) (w : Nat → BitVec 24) {g : Gathered} (o : AluOut)
    (hc : g.computes = true) (hm : g.mixed = false) :
    settle ctl pp w g (.alu o) = some (({ data := o.data ctl, l := g.l } : Tok).poison
      (firstOrg g.org ((lanesCause pp o.lanes).map w))) := by
  simp only [settle, hc, hm]
  cases firstOrg g.org ((lanesCause pp o.lanes).map w) <;> rfl

/-- Settles O54: the operands' poison goes before that of a cause, and neither touches DATA. -/
theorem poisonTravels : Obligations.PoisonTravels := by
  refine ⟨fun sl pm gate s g h => org_of_gather h, fun ctl pp w g o hc hm => ⟨_, settle_alu ctl pp w o hc hm, ?data, ?null,
    ?operand, ?cause, ?clean⟩⟩
  case data => exact poison_data _ _
  case null => exact poison_n _ _
  case operand =>
    intro x hx
    rw [hx]
    exact ⟨rfl, rfl⟩
  case cause =>
    intro ho c hl
    rw [ho, hl]
    exact ⟨rfl, rfl⟩
  case clean =>
    intro ho hl
    rw [ho, hl]
    rfl

end Sys2Proof.Proofs
end

section
/-! PROOFS. The floating-point instructions on lanes (R145, R147 to R155). -/

namespace Sys2Proof.Proofs
open Sys2Proof Sys2Proof.Machine Sys2Proof.Laws

/-- A sign operation's lane carries NAN_INPUT where its operand is a NaN (R153). -/
theorem signOp_nanIn (f : FFmt) (a : Nat) (neg : Bool) : (signOp f a neg).nanIn = f.isNan a := by
  unfold signOp
  split <;> simp_all

/-- The instructions of two operands give each lane the exact result of theirs, rounded once with a draw of its own
(R59, R151). -/
theorem draws_of_fpBin {i : Instr} {o : OpG} {op : Fv → Fv → Fv × Bool}
    (hx : ∀ s, Machine.exec i s = act s fun _ d => d.fpAlu i o.rm o.ty.lanes fun ctl us g =>
      fpBin ctl o.ty o.ty.fmt o.rm o.sat us op g.a.data g.b.data) :
    Draws i o.rm o.ty.lanes fun e us g => .alu (mapLanes e.ctl o.ty fun l =>
      let x := fpLane o.ty g.a.data l
      let y := fpLane o.ty g.b.data l
      { code := o.ty.fmt.deliver o.rm o.sat (drawAt us l) (op x y).1, invalid := (op x y).2
        nanIn := x == .nan || y == .nan }) :=
  draws_of_fpAlu hx fun _ _ _ => rfl

/-- The extremum instructions give each lane the code that R152 picks, and carry the cause of a NaN operand. -/
theorem delivers_of_fpExtremum {i : Instr} {o : OpG} {k : Extremum}
    (hx : ∀ s, Machine.exec i s = act s fun _ d => d.alu i fun ctl g =>
      fpExtremum ctl o.ty o.ty.fmt k g.a.data g.b.data) :
    Delivers i fun e g => .alu (mapLanes e.ctl o.ty fun l =>
      { code := k.pick o.ty.fmt (bitLane o.ty g.a.data l) (bitLane o.ty g.b.data l)
        nanIn := o.ty.fmt.isNan (bitLane o.ty g.a.data l) || o.ty.fmt.isNan (bitLane o.ty g.b.data l) }) :=
  delivers_of_alu hx fun _ _ => rfl

/-- Settles O10: each instruction fires with the lanes of its entry; those that round draw once for each lane. -/
theorem floatArithmetic : Obligations.FloatArithmetic := by
  refine ⟨⟨?fadd, ?fsub, ?fmul, ?ffma⟩, ?fmin, ?fmax, ?famax, ?fabs, ?fneg, ?fcpys, ?fcmp, ?fclass⟩
  case fadd => exact fun o => draws_of_fpBin (op := fun x y => Fv.sum o.rm [x, y]) fun _ => rfl
  case fsub => exact fun o => draws_of_fpBin (op := fun x y => Fv.sum o.rm [x, y.negate]) fun _ => rfl
  case fmul => exact fun o => draws_of_fpBin (op := Fv.mul) fun _ => rfl
  case ffma => exact fun o => draws_of_fpAlu (fun _ => rfl) fun _ _ _ => rfl
  case fmin => exact fun o => delivers_of_fpExtremum fun _ => rfl
  case fmax => exact fun o => delivers_of_fpExtremum fun _ => rfl
  case famax => exact fun o => delivers_of_fpExtremum fun _ => rfl
  case fabs => exact fun o => delivers_of_alu (fun _ => rfl) fun _ _ => rfl
  case fneg => exact fun o => delivers_of_alu (fun _ => rfl) fun _ _ => rfl
  case fcpys =>
    refine fun o => delivers_of_alu (fun _ => rfl) fun _ _ => ?_
    simp only [signOp_nanIn]
    rfl
  case fcmp => exact fun o => delivers_of_alu (fun _ => rfl) fun _ _ => rfl
  case fclass => exact fun o => delivers_of_alu (fun _ => rfl) fun _ _ => rfl

end Sys2Proof.Proofs
end

section
/-! PROOFS. The words of instructions: the encoder and the decoder undo each other (R82 to R92, R95, R97). -/

namespace Sys2Proof.Proofs
open Sys2Proof Sys2Proof.Laws BitVec

/-! ### The codes of the fields -/

@[simp] theorem rm_ofCode_bits (r : Rm) : Rm.ofCode r.bits = some r := by cases r <;> rfl
@[simp] theorem pm_ofCode_bits (p : Pm) : Pm.ofCode p.bits = some p := by cases p <;> rfl
@[simp] theorem memMode_ofCode_bits (m : MemMode) : MemMode.ofCode m.bits = some m := by cases m <;> rfl
@[simp] theorem mFmt_ofCode_bits (f : MFmt) : MFmt.ofCode f.bits = some f := by cases f <;> rfl
@[simp] theorem accMode_ofCode_bits (a : AccMode) : AccMode.ofCode a.bits = some a := by cases a <;> rfl
@[simp] theorem low4OfCode_bits (k : Fin 4) : low4OfCode (low4Bits k) = some k := by decide +revert
@[simp] theorem ty_ofCode_bits (t : Ty) : Ty.ofCode t.bits.toNat = t := by cases t <;> rfl

/-- The 9 bits of a target read as the target. -/
@[simp] theorem tgt_ofCode_bits (t : Tgt) : Tgt.ofCode t.bits = some t := by
  have slot : ∀ (k : BitVec 2) (i : Fin 128), (k ++ BitVec.ofFin (w := 7) i).extractLsb' 7 2 = k ∧
      (k ++ BitVec.ofFin (w := 7) i).extractLsb' 0 7 = BitVec.ofFin i := fun k i =>
    ⟨(extractLsb'_append_eq_of_le (by omega)).trans extractLsb'_eq_self,
      (extractLsb'_append_eq_of_add_le (by omega)).trans extractLsb'_eq_self⟩
  cases t with
  | none => rfl
  | out k => decide +revert
  | left i => simp only [Tgt.bits, Tgt.ofCode, slot]; rfl
  | right i => simp only [Tgt.bits, Tgt.ofCode, slot]; rfl
  | pred i => simp only [Tgt.bits, Tgt.ofCode, slot]; rfl

theorem rm_bits_of_ofCode : ∀ {x r}, Rm.ofCode x = some r → r.bits = x :=
  @(by decide : ∀ x, ∀ r ∈ Rm.ofCode x, r.bits = x)
theorem pm_bits_of_ofCode : ∀ {x p}, Pm.ofCode x = some p → p.bits = x :=
  @(by decide : ∀ x, ∀ p ∈ Pm.ofCode x, p.bits = x)
theorem tgt_bits_of_ofCode : ∀ {x t}, Tgt.ofCode x = some t → t.bits = x :=
  @(by decide : ∀ x, ∀ t ∈ Tgt.ofCode x, t.bits = x)
theorem memMode_bits_of_ofCode : ∀ {x m}, MemMode.ofCode x = some m → m.bits = x :=
  @(by decide : ∀ x, ∀ m ∈ MemMode.ofCode x, m.bits = x)
theorem mFmt_bits_of_ofCode : ∀ {x f}, MFmt.ofCode x = some f → f.bits = x :=
  @(by decide : ∀ x, ∀ f ∈ MFmt.ofCode x, f.bits = x)
theorem accMode_bits_of_ofCode : ∀ {x a}, AccMode.ofCode x = some a → a.bits = x :=
  @(by decide : ∀ x, ∀ a ∈ AccMode.ofCode x, a.bits = x)
theorem low4Bits_of_ofCode : ∀ {x k}, low4OfCode x = some k → low4Bits k = x :=
  @(by decide : ∀ x, ∀ k ∈ low4OfCode x, low4Bits k = x)
@[simp] theorem ty_bits_ofCode (x : BitVec 4) : (Ty.ofCode x.toNat).bits = x := by decide +revert

/-! ### Fields written and read -/

@[simp] theorem ofBool_beq_one (b : Bool) : (BitVec.ofBool b == 1#1) = b := by cases b <;> rfl
@[simp] theorem ofBool_of_beq_one (x : BitVec 1) : BitVec.ofBool (x == 1#1) = x := by decide +revert

theorem readHead_headBits (op : Nat) (h : Head) (b : BitVec 36) : readHead (headBits op h ++ b) = .ok h := by
  simp (disch := omega) only [readHead, headBits, extractLsb'_append_eq_of_le, extractLsb'_append_eq_of_add_le]
  simp

theorem readG_bitsG (a : BitVec 28) (o : OpG) : readG o.hd (a ++ bitsG o) = some o := by
  simp (disch := omega) only [readG, bitsG, getLsbD_eq_extractLsb', extractLsb'_append_eq_of_le,
    extractLsb'_append_eq_of_add_le]
  simp

theorem readI_bitsI (a : BitVec 28) (o : OpI) : readI o.hd (a ++ bitsI o) = some o := by
  simp (disch := omega) only [readI, bitsI, getLsbD_eq_extractLsb', extractLsb'_append_eq_of_le,
    extractLsb'_append_eq_of_add_le]
  simp

theorem readM_bitsM (a : BitVec 28) (o : OpM) : readM o.hd (a ++ bitsM o) = some o := by
  simp (disch := omega) only [readM, bitsM, extractLsb'_append_eq_of_le, extractLsb'_append_eq_of_add_le]
  simp

theorem readX_bitsX (a : BitVec 28) (o : OpX) : readX o.hd (a ++ bitsX o) = some o := by
  simp (disch := omega) only [readX, bitsX, getLsbD_eq_extractLsb', extractLsb'_append_eq_of_le,
    extractLsb'_append_eq_of_add_le]
  simp

theorem readC_bitsC (a : BitVec 28) (o : OpC) : readC o.hd (a ++ bitsC o) = some o := by
  simp (disch := omega) only [readC, bitsC, extractLsb'_append_eq_of_le, extractLsb'_append_eq_of_add_le]
  simp

theorem readS_bitsS (a : BitVec 28) (o : OpS) : readS o.hd (a ++ bitsS o) = some o := by
  simp (disch := omega) only [readS, bitsS, extractLsb'_append_eq_of_le, extractLsb'_append_eq_of_add_le]
  simp

theorem readY_bitsY (a : BitVec 28) (o : OpY) : readY o.hd (a ++ bitsY o) = some o := by
  simp (disch := omega) only [readY, bitsY, extractLsb'_append_eq_of_le, extractLsb'_append_eq_of_add_le]
  simp

/-- The fields of any format are read back from the word that they make. -/
theorem readFields_bits (a : BitVec 28) (p : WordOp) : readFields p.format p.hd (a ++ p.bits) = some p := by
  cases p with
  | g o => exact congrArg (Option.map WordOp.g) (readG_bitsG a o)
  | i o => exact congrArg (Option.map WordOp.i) (readI_bitsI a o)
  | m o => exact congrArg (Option.map WordOp.m) (readM_bitsM a o)
  | x o => exact congrArg (Option.map WordOp.x) (readX_bitsX a o)
  | c o => exact congrArg (Option.map WordOp.c) (readC_bitsC a o)
  | s o => exact congrArg (Option.map WordOp.s) (readS_bitsS a o)
  | y o => exact congrArg (Option.map WordOp.y) (readY_bitsY a o)

/-! ### Fields read and written -/

section Read
variable {h : Head} {w : Word}

theorem headBits_of_readHead (e : readHead w = .ok h) :
    headBits (w.extractLsb' 56 8).toNat h = w.extractLsb' 36 28 := by
  unfold readHead at e
  split at e
  next pm t0 t1 hpm h0 h1 =>
    cases e
    simp (disch := omega) only [headBits, ofNat_toNat, setWidth_eq, pm_bits_of_ofCode hpm, tgt_bits_of_ofCode h0,
      tgt_bits_of_ofCode h1, extractLsb'_append_extractLsb'_eq_extractLsb']
  all_goals cases e

theorem bitsG_of_readG {o : OpG} (e : readG h w = some o) : o.hd = h ∧ bitsG o = w.extractLsb' 0 36 := by
  unfold readG at e
  split at e
  next rm hrm =>
    simp only [Option.ite_none_right_eq_some, beq_iff_eq, Option.some.injEq] at e
    obtain ⟨hz, rfl⟩ := e
    have hz : 0#20 = w.extractLsb' 0 20 := hz.symm
    refine ⟨rfl, ?_⟩
    simp (disch := omega) only [bitsG, getLsbD_eq_extractLsb', ofBool_of_beq_one, ty_bits_ofCode,
      rm_bits_of_ofCode hrm, hz, extractLsb'_append_extractLsb'_eq_extractLsb']
  next => cases e

theorem bitsI_of_readI {o : OpI} (e : readI h w = some o) : o.hd = h ∧ bitsI o = w.extractLsb' 0 36 := by
  simp only [readI, Option.ite_none_right_eq_some, beq_iff_eq, Option.some.injEq] at e
  obtain ⟨hz, rfl⟩ := e
  have hz : 0#8 = w.extractLsb' 0 8 := hz.symm
  refine ⟨rfl, ?_⟩
  simp (disch := omega) only [bitsI, getLsbD_eq_extractLsb', ofBool_of_beq_one, ty_bits_ofCode, hz,
    extractLsb'_append_extractLsb'_eq_extractLsb']

theorem bitsM_of_readM {o : OpM} (e : readM h w = some o) : o.hd = h ∧ bitsM o = w.extractLsb' 0 36 := by
  unfold readM at e
  split at e
  next md hmd =>
    cases e
    refine ⟨rfl, ?_⟩
    simp (disch := omega) only [bitsM, ofFin_toFin, ty_bits_ofCode, memMode_bits_of_ofCode hmd,
      extractLsb'_append_extractLsb'_eq_extractLsb']
  next => cases e

theorem bitsX_of_readX {o : OpX} (e : readX h w = some o) : o.hd = h ∧ bitsX o = w.extractLsb' 0 36 := by
  unfold readX at e
  split at e
  next a b acc scm bank ha hb hacc hscm hbank =>
    simp only [Option.ite_none_right_eq_some, beq_iff_eq, Option.some.injEq] at e
    obtain ⟨hz, rfl⟩ := e
    have hz : 0#2 = w.extractLsb' 2 2 := hz.symm
    refine ⟨rfl, ?_⟩
    simp (disch := omega) only [bitsX, ofFin_toFin, getLsbD_eq_extractLsb', ofBool_of_beq_one, mFmt_bits_of_ofCode ha,
      mFmt_bits_of_ofCode hb, accMode_bits_of_ofCode hacc, low4Bits_of_ofCode hscm, low4Bits_of_ofCode hbank, hz,
      extractLsb'_append_extractLsb'_eq_extractLsb']
  next => cases e

theorem bitsC_of_readC {o : OpC} (e : readC h w = some o) : o.hd = h ∧ bitsC o = w.extractLsb' 0 36 := by
  simp only [readC, Option.ite_none_right_eq_some, beq_iff_eq, Option.some.injEq] at e
  obtain ⟨hz, rfl⟩ := e
  have hz : 0#2 = w.extractLsb' 22 2 := hz.symm
  refine ⟨rfl, ?_⟩
  simp (disch := omega) only [bitsC, ofFin_toFin, hz, extractLsb'_append_extractLsb'_eq_extractLsb']

theorem bitsS_of_readS {o : OpS} (e : readS h w = some o) : o.hd = h ∧ bitsS o = w.extractLsb' 0 36 := by
  cases e
  refine ⟨rfl, ?_⟩
  simp (disch := omega) only [bitsS, ofFin_toFin, extractLsb'_append_extractLsb'_eq_extractLsb']

theorem bitsY_of_readY {o : OpY} (e : readY h w = some o) : o.hd = h ∧ bitsY o = w.extractLsb' 0 36 := by
  cases e
  refine ⟨rfl, ?_⟩
  simp (disch := omega) only [bitsY, ofFin_toFin, extractLsb'_append_extractLsb'_eq_extractLsb']

/-- The fields read from a word in any format make its low 36 bits. -/
theorem bits_of_readFields {f : Format} {p : WordOp} (e : readFields f h w = some p) :
    p.hd = h ∧ p.bits = w.extractLsb' 0 36 := by
  cases f <;> simp only [readFields, Option.map_eq_some_iff] at e <;> obtain ⟨o, e, rfl⟩ := e
  case g => exact bitsG_of_readG e
  case i => exact bitsI_of_readI e
  case m => exact bitsM_of_readM e
  case x => exact bitsX_of_readX e
  case c => exact bitsC_of_readC e
  case s => exact bitsS_of_readS e
  case y => exact bitsY_of_readY e

end Read

/-! ### Opcodes -/

/-- The opcode and fields of every well-formed instruction name it again. -/
theorem encoding_statement (i : Instr) : Encoding.Statement i := by
  cases i with
  | nop o => exact Encoding.nop o | rdp o => exact Encoding.rdp o | movi o => exact Encoding.movi o
  | movh o => exact Encoding.movh o | fan o => exact Encoding.fan o | null o => exact Encoding.null o
  | drop o => exact Encoding.drop o | gate o => exact Encoding.gate o | sel o => exact Encoding.sel o
  | lcnt o => exact Encoding.lcnt o | lidx o => exact Encoding.lidx o | pois o => exact Encoding.pois o
  | poisc o => exact Encoding.poisc o | mark o => exact Encoding.mark o | route o => exact Encoding.route o
  | bro o => exact Encoding.bro o | brx o => exact Encoding.brx o | callb o => exact Encoding.callb o
  | retb o => exact Encoding.retb o | halt o => exact Encoding.halt o | rdg o => exact Encoding.rdg o
  | wrg o => exact Encoding.wrg o | add o => exact Encoding.add o | addi o => exact Encoding.addi o
  | sub o => exact Encoding.sub o | adds o => exact Encoding.adds o | subs o => exact Encoding.subs o
  | neg o => exact Encoding.neg o | abs o => exact Encoding.abs o | mul o => exact Encoding.mul o
  | mulh o => exact Encoding.mulh o | mulhw o => exact Encoding.mulhw o | madd o => exact Encoding.madd o
  | div o => exact Encoding.div o | divw o => exact Encoding.divw o | rem o => exact Encoding.rem o
  | remw o => exact Encoding.remw o | lea o => exact Encoding.lea o | min o => exact Encoding.min o
  | max o => exact Encoding.max o | minw o => exact Encoding.minw o | maxw o => exact Encoding.maxw o
  | and o => exact Encoding.and o | or o => exact Encoding.or o | xor o => exact Encoding.xor o
  | andn o => exact Encoding.andn o | shl o => exact Encoding.shl o | shr o => exact Encoding.shr o
  | sra o => exact Encoding.sra o | rotl o => exact Encoding.rotl o | clz o => exact Encoding.clz o
  | popc o => exact Encoding.popc o | brev o => exact Encoding.brev o | cmp o => exact Encoding.cmp o
  | cmpi o => exact Encoding.cmpi o | bfx o => exact Encoding.bfx o | bfi o => exact Encoding.bfi o
  | fadd o => exact Encoding.fadd o | fsub o => exact Encoding.fsub o | fmul o => exact Encoding.fmul o
  | ffma o => exact Encoding.ffma o | fmin o => exact Encoding.fmin o | fmax o => exact Encoding.fmax o
  | famax o => exact Encoding.famax o | fabs o => exact Encoding.fabs o | fneg o => exact Encoding.fneg o
  | fcpys o => exact Encoding.fcpys o | fcmp o => exact Encoding.fcmp o | fclass o => exact Encoding.fclass o
  | fcvt o => exact Encoding.fcvt o | frnd o => exact Encoding.frnd o | frcp o => exact Encoding.frcp o
  | frsq o => exact Encoding.frsq o | fsqrt o => exact Encoding.fsqrt o | fexp2 o => exact Encoding.fexp2 o
  | flog2 o => exact Encoding.flog2 o | fsint o => exact Encoding.fsint o | fcost o => exact Encoding.fcost o
  | ftanh o => exact Encoding.ftanh o | fscale o => exact Encoding.fscale o | fdot2 o => exact Encoding.fdot2 o
  | fdot4 o => exact Encoding.fdot4 o | lswp o => exact Encoding.lswp o | lperm o => exact Encoding.lperm o
  | lbcst o => exact Encoding.lbcst o | lsld o => exact Encoding.lsld o | lred o => exact Encoding.lred o
  | lscan o => exact Encoding.lscan o | lvote o => exact Encoding.lvote o | lmsk o => exact Encoding.lmsk o
  | lcmpr o => exact Encoding.lcmpr o | lexpd o => exact Encoding.lexpd o | lpack o => exact Encoding.lpack o
  | lunpk o => exact Encoding.lunpk o | mbind o => exact Encoding.mbind o | mma o => exact Encoding.mma o
  | mmasp o => exact Encoding.mmasp o | mzero o => exact Encoding.mzero o | macci o => exact Encoding.macci o
  | mout o => exact Encoding.mout o | mswap o => exact Encoding.mswap o | mscls o => exact Encoding.mscls o
  | lds o => exact Encoding.lds o | sts o => exact Encoding.sts o | ldb o => exact Encoding.ldb o
  | stb o => exact Encoding.stb o | ldv o => exact Encoding.ldv o | stv o => exact Encoding.stv o
  | vrecl o => exact Encoding.vrecl o | wfa o => exact Encoding.wfa o | uwait o => exact Encoding.uwait o
  | ldg o => exact Encoding.ldg o | stg o => exact Encoding.stg o | upd o => exact Encoding.upd o
  | updf o => exact Encoding.updf o | ucas o => exact Encoding.ucas o | fence o => exact Encoding.fence o
  | bara o => exact Encoding.bara o | barw o => exact Encoding.barw o | apset o => exact Encoding.apset o
  | apcpy o => exact Encoding.apcpy o | apld o => exact Encoding.apld o | apclr o => exact Encoding.apclr o
  | sbind o => exact Encoding.sbind o | sbindw o => exact Encoding.sbindw o | sgath o => exact Encoding.sgath o
  | sscat o => exact Encoding.sscat o | supd o => exact Encoding.supd o | scopy o => exact Encoding.scopy o
  | sscl o => exact Encoding.sscl o | swait o => exact Encoding.swait o | sstat o => exact Encoding.sstat o
  | skill o => exact Encoding.skill o | sbar o => exact Encoding.sbar o | cred o => exact Encoding.cred o
  | cbcst o => exact Encoding.cbcst o | cagth o => exact Encoding.cagth o | cfgnx o => exact Encoding.cfgnx o
  | btok o => exact Encoding.btok o | ttld o => exact Encoding.ttld o | ttldClear o => exact Encoding.ttldClear o
  | tfetch o => exact Encoding.tfetch o | tevict o => exact Encoding.tevict o | tpin o => exact Encoding.tpin o
  | tpinUnpin o => exact Encoding.tpinUnpin o | tresStatus o => exact Encoding.tresStatus o
  | tresResume o => exact Encoding.tresResume o | tresResident o => exact Encoding.tresResident o
  | scopyk o => exact Encoding.scopyk o | kopen o => exact Encoding.kopen o | kclose o => exact Encoding.kclose o
  | trap o => exact Encoding.trap o | brk o => exact Encoding.brk o | rte o => exact Encoding.rte o
  | srd o => exact Encoding.srd o | swr o => exact Encoding.swr o | hcall o => exact Encoding.hcall o
  | wfi o => exact Encoding.wfi o | qpost o => exact Encoding.qpost o | qctlStatus o => exact Encoding.qctlStatus o
  | qctlPrio o => exact Encoding.qctlPrio o | qctlEnable o => exact Encoding.qctlEnable o
  | qctlDisable o => exact Encoding.qctlDisable o | qctlFlush o => exact Encoding.qctlFlush o
  | qctlAssign o => exact Encoding.qctlAssign o | placeLaunch o => exact Encoding.placeLaunch o
  | placeMove o => exact Encoding.placeMove o | placeCompact o => exact Encoding.placeCompact o
  | placeDiscard o => exact Encoding.placeDiscard o | psnapCut o => exact Encoding.psnapCut o
  | psnapMarker o => exact Encoding.psnapMarker o | prest o => exact Encoding.prest o
  | plsw o => exact Encoding.plsw o | rinvPages o => exact Encoding.rinvPages o
  | rinvRange o => exact Encoding.rinvRange o | rinvContext o => exact Encoding.rinvContext o
  | rinvPart o => exact Encoding.rinvPart o | xinvFrames o => exact Encoding.xinvFrames o
  | xinvPart o => exact Encoding.xinvPart o | kshrAssign o => exact Encoding.kshrAssign o
  | kshrBegin o => exact Encoding.kshrBegin o | kshrFinish o => exact Encoding.kshrFinish o
  | kshrErase o => exact Encoding.kshrErase o | mtrdRead o => exact Encoding.mtrdRead o
  | mtrdRecord o => exact Encoding.mtrdRecord o | mtrdQuote o => exact Encoding.mtrdQuote o
  | dbgMtdata o => exact Encoding.dbgMtdata o
  | _ => exact Encoding.of_none rfl

theorem parts_of_ofG {op : Nat} {o : OpG} {i : Instr} (h : ofG op o = some i) : i.parts = some (op, .g o) := by
  unfold ofG at h
  split at h <;> cases h <;> rfl

theorem parts_of_ofI {op : Nat} {o : OpI} {i : Instr} (h : ofI op o = some i) : i.parts = some (op, .i o) := by
  unfold ofI at h
  split at h <;> cases h <;> rfl

theorem parts_of_ofM {op : Nat} {o : OpM} {i : Instr} (h : ofM op o = some i) : i.parts = some (op, .m o) := by
  unfold ofM at h
  split at h <;> cases h <;> rfl

theorem parts_of_ofX {op : Nat} {o : OpX} {i : Instr} (h : ofX op o = some i) : i.parts = some (op, .x o) := by
  unfold ofX at h
  split at h <;> cases h <;> rfl

theorem parts_of_ofC {op : Nat} {o : OpC} {i : Instr} (h : ofC op o = some i) : i.parts = some (op, .c o) := by
  unfold ofC at h
  split at h <;> cases h <;> rfl

/-- A format-S opcode names its instruction alone or by SUB. -/
theorem parts_of_ofS {op : Nat} {o : OpS} {i : Instr} (h : ofS op o = some i) : i.parts = some (op, .s o) := by
  unfold ofS at h
  repeat' split at h
  all_goals cases h <;> rfl

/-- A format-Y opcode names its instruction alone, by SUB, or by the register read. -/
theorem parts_of_ofY {op : Nat} {o : OpY} {i : Instr} (h : ofY op o = some i) : i.parts = some (op, .y o) := by
  unfold ofY at h
  repeat' split at h
  all_goals cases h <;> rfl

/-- An instruction that an opcode and fields name has that opcode and those fields. -/
theorem parts_of_ofParts {op : Nat} {p : WordOp} {i : Instr} (h : ofParts op p = some i) :
    i.parts = some (op, p) := by
  cases p with
  | g o => exact parts_of_ofG h
  | i o => exact parts_of_ofI h
  | m o => exact parts_of_ofM h
  | x o => exact parts_of_ofX h
  | c o => exact parts_of_ofC h
  | s o => exact parts_of_ofS h
  | y o => exact parts_of_ofY h

/-! ### The obligations -/

/-- What a word that decodes holds: an opcode with a format, a head, the fields of the format, and a well-formed
instruction of that opcode and those fields. -/
theorem decode_eq_ok_iff {w : Word} {i : Instr} : decode w = .ok i ↔
    ∃ f h p, formatOf (w.extractLsb' 56 8).toNat = some f ∧ readHead w = .ok h ∧ readFields f h w = some p ∧
      ofParts (w.extractLsb' 56 8).toNat p = some i ∧ i.wellFormed = true := by
  constructor
  · intro e
    unfold decode at e
    dsimp only at e
    split at e
    next => cases e
    next f hf =>
    split at e
    next => cases e
    next h hh =>
    split at e
    next => cases e
    next p hp =>
    split at e
    next => cases e
    next j hj =>
    split at e
    next hw => cases e; exact ⟨f, h, p, hf, hh, hp, hj, hw⟩
    next => cases e
  · rintro ⟨f, h, p, hf, hh, hp, hj, hw⟩
    simp only [decode, hf, hh, hp, hj, hw, if_true]

/-- Settles O1: the opcode, the head and the fields are read back from the word, and name the instruction again. -/
theorem decodeOfEncode : Obligations.DecodeOfEncode := by
  intro i w hw he
  unfold encode at he
  split at he
  next op p hp =>
    cases he
    obtain ⟨hop, hf, hi⟩ := encoding_statement i op p hp hw
    have opcode : ((headBits op p.hd ++ p.bits).extractLsb' 56 8).toNat = op := by
      simp (disch := omega) only [headBits, extractLsb'_append_eq_of_le]
      simpa using hop
    rw [← opcode] at hf hi
    exact decode_eq_ok_iff.2 ⟨_, p.hd, p, hf, readHead_headBits .., readFields_bits .., hi, hw⟩
  next => cases he

/-- Settles O2: the head and the fields read from a word make the word again. -/
theorem encodeOfDecode : Obligations.EncodeOfDecode := by
  intro w i hd
  obtain ⟨f, h, p, hf, hh, hp, hi, hw⟩ := decode_eq_ok_iff.1 hd
  obtain ⟨rfl, hb⟩ := bits_of_readFields hp
  refine ⟨?_, hw⟩
  simp (disch := omega) only [encode, parts_of_ofParts hi, headBits_of_readHead hh, hb,
    extractLsb'_append_extractLsb'_eq_extractLsb', extractLsb'_eq_self]

end Sys2Proof.Proofs
end

section
/-! PROOFS. The slots of a block: what a legal element block holds, and the causes of a control block's words (R97 to
R99, R298). -/

namespace Sys2Proof.Proofs
open Sys2Proof Sys2Proof.Machine

/-- The word of a legal slot decodes to an instruction that is legal in a block of its mode. -/
theorem decode_of_slotOk {m : BlkMode} {b : RawBlk} {k : Nat} {w : Word} (h : slotOk m b k w = true) :
    ∃ i, decode w = .ok i ∧ i.legalIn m = true := by
  unfold slotOk at h
  split at h
  next => cases h
  next i hi =>
    simp only [Bool.and_eq_true] at h
    obtain ⟨⟨⟨⟨hl, _⟩, _⟩, _⟩, _⟩ := h
    exact ⟨i, hi, hl⟩

/-- A word that does not decode breaks a condition of its block. -/
theorem slotOk_of_decode_error {m : BlkMode} {b : RawBlk} {k : Nat} {w : Word} {e : DecodeError}
    (h : decode w = .error e) : slotOk m b k w = false := by
  simp only [slotOk, h]

/-- Every word of a block that breaks no condition is a legal slot. -/
theorem slotOk_of_blockBreach {m : BlkMode} {b : RawBlk} (h : blockBreach m b = none) {k : Nat} {w : Word}
    (hw : b.words[k]? = some w) : slotOk m b k w = true := by
  have hbad : badSlot m b = none := by
    unfold blockBreach at h
    split at h
    next => cases h
    next => exact Option.map_eq_none_iff.1 h
  obtain ⟨hk, rfl⟩ := List.getElem?_eq_some_iff.1 hw
  have hmem : (k, b.words[k]) ∈ b.words.mapIdx fun k w => (k, w) := List.mem_mapIdx.2 ⟨k, hk, rfl⟩
  have := List.findSome?_eq_none_iff.1 hbad _ hmem
  simpa using this

/-- Settles O35: a block without a breach has legal slots alone, and a slot's cause is decided by its conditions first
and its level then. -/
theorem decodeCauses : Obligations.DecodeCauses := by
  refine ⟨fun b lcs m hb => ⟨List.length_map .., fun k s hs => ?slot⟩, fun sys level b k w =>
    ⟨fun h => ?_, fun e he => ?_, fun i h hi hn => ?_⟩⟩
  case slot =>
    simp only [RawBlk.build, List.getElem?_map, Option.map_eq_some_iff] at hs
    obtain ⟨w, hw, rfl⟩ := hs
    obtain ⟨i, hi, hl⟩ := decode_of_slotOk (slotOk_of_blockBreach hb hw)
    simp [hi, hl, hw]
  · simp [slotCause, h, cILLEGAL]
  · simp [slotCause, slotOk_of_decode_error he, cILLEGAL]
  · simp [slotCause, h, hi, hn, cPRIV]

end Sys2Proof.Proofs
end

section
/-! PROOFS. Loads and waits of a control block (R94, R173, R195, R198, R199, R201, R204). -/

namespace Sys2Proof.Proofs
open Sys2Proof Sys2Proof.Machine Sys2Proof.Laws

/-! ### Banks that an MT address names -/

@[simp] theorem ctlBank_fire_ok (k : Nat) (x : Inst) (t n : Nat) (b : Bank) (d : Dev) (a kind : Nat)
    (f : Nat → Inst → Nat → Nat → Bank → Fired) : (CtlBank.ok k x t n b).fire d a kind f = f k x t n b := rfl

@[simp] theorem atBank_ok (k : Nat) (x : Inst) (t n : Nat) (b : Bank) (d : Dev) (a kind slot : Nat)
    (f : Nat → Inst → Nat → Nat → Bank → Dev) : d.atBank (.ok k x t n b) a kind slot f = f k x t n b := rfl

/-- A read of a bank without uncorrectable granules carries no poison and posts no report (R175). -/
theorem bankPoison_of_bad_nil {b : Bank} (h : b.bad = []) (d : Dev) (e : Site) (port tile bank off n : Nat) :
    d.bankPoison e port tile bank b off n = (d, none) := by
  simp [Dev.bankPoison, Bank.badAt, h]

/-! ### Firing in a control block -/

/-- A firing that computes and whose effect ends with a result delivers it. -/
theorem fire_of_computes {i : Instr} {always : Bool} {d d' : Dev} {e : Site} {g : Gathered} {r : Res}
    {eff : Site → Gathered → Dev → Fired} (h : d.firing i = some (e, g)) (hc : g.computes = true)
    (he : eff e g d = .done d' r) : d.fire i always eff = d'.deliver i e g r := by
  unfold Dev.firing at h
  unfold Dev.fire
  cases hf : d.focus <;> simp only [hf] at h
  case fire id slot => simp [Dev.fireCtl, h, hc, he, Dev.deliver, ctlReady_ctl h]
  case elem cfg tile blk slot => simp [Dev.fireElem, h, hc, he, Dev.deliver, elemReady_ctl h]
  all_goals cases h

/-- An instruction of both modes fires in a control block as its effect there says. -/
theorem firesIf_of_ctl {i : Instr} (ctl elem : Mem → Site → Gathered → Dev → Fired)
    {ok : Site → Gathered → Mem → Dev → Prop} {f : Site → Gathered → Mem → Dev → Dev × Res}
    (hx : ∀ s, Machine.exec i s = act s fun m d => d.fire i false fun e g d =>
      if e.ctl then ctl m e g d else elem m e g d)
    (hk : ∀ e g m d, ok e g m d → e.ctl = true)
    (he : ∀ m e g d, ok e g m d → ctl m e g d = .done (f e g m d).1 (f e g m d).2) : FiresIf i ok f :=
  firesIf_of_fire hx fun m e g d ho _ => by rw [if_pos (hk e g m d ho), he m e g d ho]

/-! ### LDB, which fires and has an effect at commit as well -/

/-- Where its slot can fire, LDB is a load. -/
theorem bodyLdb_of_firing {o : OpM} {m : Mem} {d : Dev} {p : Site × Gathered} (h : d.firing (.ldb o) = some p) :
    bodyLdb o m d = d.fire (.ldb o) true fun e g d => if e.ctl then ldbCtl o m e g d else ldbElem o e g d := by
  unfold Dev.firing at h
  unfold bodyLdb
  cases hf : d.focus with
  | commit id slot => simp [hf] at h
  | none | fire _ _ | elem _ _ _ _ | engine _ => rfl

/-- At its block's commit LDB moves the read position. -/
theorem bodyLdb_committing {o : OpM} {m : Mem} {d : Dev} {id : CoreId} {f : Frame} {c : Capture}
    (h : d.committing id f c) : bodyLdb o m d = ldbCom o id c d := by
  obtain ⟨slot, hfocus, hframe, hcap, -⟩ := h
  simp [bodyLdb, hfocus, hframe, hcap]

/-- LDB fires in a control block as its effect there says. -/
theorem firesIf_ldb {o : OpM} {ok : Site → Gathered → Mem → Dev → Prop} {f : Site → Gathered → Mem → Dev → Dev × Res}
    (hk : ∀ e g m d, ok e g m d → e.ctl = true)
    (he : ∀ m e g d, ok e g m d → ldbCtl o m e g d = .done (f e g m d).1 (f e g m d).2) : FiresIf (.ldb o) ok f := by
  intro s e g hs h hc ho
  have hx : Machine.exec (.ldb o) s = act s (bodyLdb o) := rfl
  rw [hx, act, sound_clean hs, bodyLdb_of_firing h,
    fire_of_computes h hc (by rw [if_pos (hk _ _ _ _ ho), he _ _ _ _ ho])]
  rfl

/-! ### Values and waits -/

theorem exists_of_isOk {ε α : Type} {r : Except ε α} (h : r.isOk = true) : ∃ x, r = .ok x := by
  cases r with
  | ok x => exact ⟨x, rfl⟩
  | error f => cases h

/-- A load whose access now is without a fault gives the bytes of the other view, and its own where that view meets
one (R94). -/
theorem loadAs_of_ok {view d : Dev} {m0 m : Mem} {acc : Acc} {a n : Nat} {now : List Byte} {p : Option Nat}
    (h : (d.load m acc a n).2 = .ok (now, p)) :
    Dev.loadAs view m0 m d acc a n = ((d.load m acc a n).1, .ok (match (view.load m0 acc a n).2 with
      | .ok (bs, _) => bs
      | .error _ => now, p)) := by
  simp only [Dev.loadAs, h]
  cases (view.load m0 acc a n).2 <;> rfl

theorem waitMet_equal {t : Ty} {cur want : Nat} :
    waitMet false t cur want = true ↔ cur % 2 ^ t.width = want % 2 ^ t.width := by
  simp [waitMet]

theorem waitMet_least {t : Ty} {cur want : Nat} : waitMet true t cur want = true ↔ t.intVal want ≤ t.intVal cur := by
  simp [waitMet]

/-- A wait of a control block on an MT bank delivers the element it watches once its condition holds (R199). -/
theorem waitCtl_mt {least : Bool} {o : OpM} {m : Mem} {e : Site} {g : Gathered} {d : Dev} {k : Nat} {x : Inst}
    {t n : Nat} {b v : Bank} (hbad : b.bad = []) (ha : Word.bit (effAddr g.a o.off (eltBytes o)) 63 = true)
    (hb : d.ctlBank e.core (effAddr g.a o.off (eltBytes o)) (eltBytes o) (eltBytes o) bankBytes [.tile]
      = .ok k x t n b)
    (hv : v = ((d.underOwn m e.core o).ctlBank e.core (effAddr g.a o.off (eltBytes o)) (eltBytes o) (eltBytes o)
      bankBytes [.tile]).seen b)
    (hmet : waitMet least o.ty (v.elem (mtOfs (effAddr g.a o.off (eltBytes o))) (eltBytes o))
      (ctlBits g.b o.ty.width) = true) :
    waitCtl least o m e g d = .done d
      (.data (ctlValue o.ty (v.elem (mtOfs (effAddr g.a o.off (eltBytes o))) (eltBytes o))) none) := by
  subst hv
  simp only [waitCtl, ha, hb, ctlBank_fire_ok, hmet, if_true, bankPoison_of_bad_nil hbad]

/-- A wait of a control block on main memory delivers the element it watches once its condition holds (R199). -/
theorem waitCtl_mem {least : Bool} {o : OpM} {m : Mem} {e : Site} {g : Gathered} {d : Dev} {now bs : List Byte}
    {p q : Option Nat} (ha : Word.bit (effAddr g.a o.off (eltBytes o)) 63 = false)
    (hal : effAddr g.a o.off (eltBytes o) % eltBytes o = 0)
    (hnow : (d.load m (d.coreAcc e.core .ctl .rd 0) (effAddr g.a o.off (eltBytes o)) (eltBytes o)).2 = .ok (now, p))
    (hbs : ((d.underOwn m e.core o).load m (d.coreAcc e.core .ctl .rd 0) (effAddr g.a o.off (eltBytes o))
      (eltBytes o)).2 = .ok (bs, q))
    (hmet : waitMet least o.ty (Word.ofBytes bs) (ctlBits g.b o.ty.width) = true) :
    waitCtl least o m e g d
      = .done (d.load m (d.coreAcc e.core .ctl .rd 0) (effAddr g.a o.off (eltBytes o)) (eltBytes o)).1
          (.data (ctlValue o.ty (Word.ofBytes bs)) (e.memOrigin p)) := by
  simp [waitCtl, ha, hal, loadAs_of_ok hnow, hbs, hmet]

/-- Settles O22: each load reads the bank or the memory as its block's loads see it, and each wait the state as it is,
which are the model's readings (DEDUCED, log entry 35). -/
theorem controlLoads : Obligations.ControlLoads := by
  refine ⟨⟨?lds, ?ldb, ?ldv, ?ldg, ?barw⟩, ?wfaMt, ?wfaMem, ?uwaitMt, ?uwaitMem⟩
  case lds =>
    intro o k x t n b hbad
    refine firesIf_of_ctl (fun _ => ldsCtl o) (fun _ => ldsElem o) (fun _ => rfl) (fun _ _ _ _ h => h.1) ?_
    rintro m e g d ⟨-, hbank⟩
    simp only [ldsCtl, hbank, ctlBank_fire_ok, bankPoison_of_bad_nil hbad]
  case ldb =>
    intro o k x t n b v off hbad
    refine firesIf_ldb (fun _ _ _ _ h => h.1) ?_
    rintro m e g d ⟨-, hbank, hlast, hrow⟩
    dsimp only at hbank hrow
    have hlast : (b.mode == .fifo && o.auxh.getLsbD 0) = false := by simpa using hlast
    simp only [ldbCtl, hbank, ctlBank_fire_ok, hrow, hlast, Bool.false_eq_true, if_false, bankPoison_of_bad_nil hbad]
  case ldv =>
    intro o k x t n b f v hbad
    refine firesIf_of_ctl (fun _ => ldvCtl o) (fun _ => ldvElem o) (fun _ => rfl) (fun _ _ _ _ h => h.1) ?_
    rintro m e g d ⟨-, hframe, hbank, hv⟩
    simp only [ldvCtl, hframe, hbank, ctlBank_fire_ok, hv, bankPoison_of_bad_nil hbad]
  case ldg =>
    intro o
    refine firesIf_of_fire (eff := ldgCtl o) (fun _ => rfl) ?_
    rintro m e g d ⟨-, hal, hok⟩ -
    obtain ⟨⟨now, p⟩, hr⟩ := exists_of_isOk hok
    simp only [ldgCtl, hal, loadAs_of_ok hr, hr]
    cases ((d.viewOf e.core o).load (d.entryMem e.core m) (d.coreAcc e.core .ldg .rd 0)
      (effAddr g.a o.off (eltBytes o)) (eltBytes o)).2 <;> rfl
  case barw =>
    intro o k x t mt
    refine firesIf_of_ctl (fun _ => barwCtl o) (fun _ => barwElem o) (fun _ => rfl) (fun _ _ _ _ h => h.1) ?_
    rintro m e g d ⟨-, hmt, hmet⟩
    simp only [barwCtl, hmt, hmet, if_true]
  case wfaMt =>
    intro o k x t n b v hbad
    refine firesIf_of_ctl (waitCtl false o) (fun _ => waitElem false o) (fun _ => rfl) (fun _ _ _ _ h => h.1) ?_
    rintro m e g d ⟨-, ha, hb, hv, hmet⟩
    exact waitCtl_mt hbad ha hb hv (waitMet_equal.2 hmet)
  case wfaMem =>
    intro o now bs p q
    refine firesIf_of_ctl (waitCtl false o) (fun _ => waitElem false o) (fun _ => rfl) (fun _ _ _ _ h => h.1) ?_
    rintro m e g d ⟨-, ha, hal, hnow, hbs, hmet⟩
    exact waitCtl_mem ha hal hnow hbs (waitMet_equal.2 hmet)
  case uwaitMt =>
    intro o k x t n b v hbad
    refine firesIf_of_ctl (waitCtl true o) (fun _ => waitElem true o) (fun _ => rfl) (fun _ _ _ _ h => h.1) ?_
    rintro m e g d ⟨-, ha, hb, hv, hmet⟩
    exact waitCtl_mt hbad ha hb hv (waitMet_least.2 hmet)
  case uwaitMem =>
    intro o now bs p q
    refine firesIf_of_ctl (waitCtl true o) (fun _ => waitElem true o) (fun _ => rfl) (fun _ _ _ _ h => h.1) ?_
    rintro m e g d ⟨-, ha, hal, hnow, hbs, hmet⟩
    exact waitCtl_mem ha hal hnow hbs (waitMet_least.2 hmet)

end Sys2Proof.Proofs
end

section
/-! PROOFS. Stores and updates of a control block at its commit (R94, R173, R194 to R204). -/

namespace Sys2Proof.Proofs
open Sys2Proof Sys2Proof.Machine Sys2Proof.Laws

/-! ### Effects at commit -/

/-- At its block's commit an instruction changes the device as its step there says. -/
theorem commitsIf_of_act {i : Instr} {body : Mem → Dev → Dev} {ok : CoreId → Frame → Capture → Mem → Dev → Prop}
    {com : CoreId → Frame → Capture → Mem → Dev → Dev} (hx : ∀ s, Machine.exec i s = act s body)
    (hb : ∀ m id f c d, d.committing id f c → ok id f c m d → body m d = com id f c m d) : CommitsIf i ok com := by
  intro s id f c hs h ho
  rw [hx, act, sound_clean hs, hb _ _ _ _ _ h ho]
  rfl

/-- No peer has an acknowledgement outstanding of the kinds that a FENCE selects (R203, R244). -/
theorem fencePeers_eq_false {d : Dev} {id : CoreId} {stores updates : Bool}
    (h : ∀ w ∈ d.peerq, w.unit = id.key → (if w.upd.isSome then updates else stores) = false) :
    d.fencePeers id stores updates = false := by
  simp only [Dev.fencePeers, List.any_eq_false, Bool.and_eq_true, beq_iff_eq, not_and]
  intro w hw hu
  rw [h w hw hu]
  exact Bool.false_ne_true

/-- The old value that an update of a control block delivers, when it has a result (R202). -/
def updOld (o : OpM) (id : CoreId) (c : Capture) (res : Bool) (v : Nat) (w : Option (BitVec 24)) (d : Dev) : Dev :=
  if res then
    d.gWrite id c.slot false ⟨o.auxh.toNat, by omega⟩
      { v := BitVec.ofNat 64 (ctlValue o.ty v).toNat, p := (firstOrg (firstPoison [c.a, c.b, c.c]) w).isSome,
        org := (firstOrg (firstPoison [c.a, c.b, c.c]) w).getD 0 }
  else d

/-- An update of an MT bank writes the new value and delivers the old one (R202). -/
theorem updateCom_mt {o : OpM} {m : Mem} {id : CoreId} {c : Capture} {res : Bool} {f : Nat → Nat} {d : Dev}
    {late : Option (Nat × Ty × Nat)} {k : Nat} {x : Inst} {t n : Nat} {b : Bank} (hbad : b.bad = [])
    (ha : Word.bit (effAddr c.a o.off (eltBytes o)) 63 = true)
    (hb : d.ctlBank id (effAddr c.a o.off (eltBytes o)) (eltBytes o) (eltBytes o) bankBytes [.tile]
      = .ok k x t n b) :
    updateCom o m id c res f d late = updOld o id c res (b.elem (mtOfs (effAddr c.a o.off (eltBytes o))) (eltBytes o))
      none (d.putBank k t n (b.setElem (mtOfs (effAddr c.a o.off (eltBytes o))) (eltBytes o)
        (f (b.elem (mtOfs (effAddr c.a o.off (eltBytes o))) (eltBytes o))))) := by
  simp only [updateCom, updOld, ha, if_true, hb, atBank_ok, bankPoison_of_bad_nil hbad]

/-- An update of main memory delivers the old value of the access with its poison (R202). -/
theorem updateCom_mem {o : OpM} {m : Mem} {id : CoreId} {c : Capture} {res : Bool} {f : Nat → Nat} {d : Dev}
    {late : Option (Nat × Ty × Nat)} {v : Nat} {p : Option Nat}
    (ha : Word.bit (effAddr c.a o.off (eltBytes o)) 63 = false)
    (hal : effAddr c.a o.off (eltBytes o) % eltBytes o = 0)
    (hu : (d.update m (d.coreAcc id .ctl .upd 2) (effAddr c.a o.off (eltBytes o)) (eltBytes o) f late).2
      = .ok (v, p)) :
    updateCom o m id c res f d late =
      let d := (d.update m (d.coreAcc id .ctl .upd 2) (effAddr c.a o.off (eltBytes o)) (eltBytes o) f late).1
      updOld o id c res v ((d.commitSite id c.slot).memOrigin p) d := by
  simp [updateCom, updOld, ha, hal, hu]

/-- UPD delivers no old value, so that a peer it reaches may perform it later (R244). -/
theorem updCom_upd (o : OpM) (m : Mem) (id : CoreId) (c : Capture) (d : Dev) : updCom o m id c false d =
    updateCom o m id c false (fun v => updateOp o.auxl.toNat o.ty v (ctlBits c.b o.ty.width)) d
      (some (o.auxl.toNat, o.ty, ctlBits c.b o.ty.width)) := rfl

/-- UPDF delivers the old value. -/
theorem updCom_updf (o : OpM) (m : Mem) (id : CoreId) (c : Capture) (d : Dev) : updCom o m id c true d =
    updateCom o m id c true (fun v => updateOp o.auxl.toNat o.ty v (ctlBits c.b o.ty.width)) d none := rfl

/-- UCAS stores the new value where the old one equals the compared one, and delivers the old value. -/
theorem ucasCom_eq (o : OpM) (m : Mem) (id : CoreId) (c : Capture) (d : Dev) : ucasCom o m id c d =
    updateCom o m id c true (fun v =>
      if v % 2 ^ o.ty.width = ctlBits c.b o.ty.width % 2 ^ o.ty.width then ctlBits c.c o.ty.width % 2 ^ o.ty.width
      else v) d none := by
  simp only [ucasCom, casOp, beq_iff_eq]

/-- Settles O23: at the commit each store and update of the block acts on the bank, counter or memory that its captured
address names; that STB extends its 64 bits to the row with zeros is the model's reading (DEDUCED, log entry 35). -/
theorem controlStores : Obligations.ControlStores := by
  refine ⟨⟨?sts, ?stbRow, ?stv, ?vrecl, ?stbRing, ?ldb, ?fence, ?bara, ?stg⟩,
    ?updMt, ?updMem, ?updfMt, ?updfMem, ?ucasMt, ?ucasMem⟩
  case sts =>
    refine fun o k x t n b => commitsIf_of_act (fun _ => rfl) fun m id f c d h hb => ?_
    rw [bodySts, fireCommit_committing h]
    simp only [stsCom, hb, atBank_ok]
  case stbRow =>
    refine fun o k x t n b hmode hfull => commitsIf_of_act (fun _ => rfl) fun m id f c d h ⟨hb, hrow⟩ => ?_
    rw [bodyStb, fireCommit_committing h]
    simp only [stbCom, hb, atBank_ok]
    simp [hmode, hfull, hrow]
  case stv =>
    refine fun o k x t n b w => commitsIf_of_act (fun _ => rfl) fun m id f c d h ⟨hb, hw⟩ => ?_
    rw [bodyStv, fireCommit_committing h]
    simp only [stvCom, hb, atBank_ok, hw]
  case vrecl =>
    refine fun o k x t n b => commitsIf_of_act (fun _ => rfl) fun m id f c d h hb => ?_
    rw [bodyVrecl, fireCommit_committing h]
    simp only [vreclCom, hb, atBank_ok]
  case stbRing =>
    refine fun o k x t n b b' hmode => commitsIf_of_act (fun _ => rfl) fun m id f c d h ⟨hb, hpush⟩ => ?_
    rw [bodyStb, fireCommit_committing h]
    simp only [stbCom, hb, atBank_ok]
    simp [hmode, hpush]
  case ldb =>
    refine fun o k x t n b => commitsIf_of_act (fun _ => rfl) fun m id f c d h hb => ?_
    rw [bodyLdb_committing h]
    simp only [ldbCom, hb, atBank_ok]
  case fence =>
    refine fun o => commitsIf_of_act (fun _ => rfl) fun m id f c d h ⟨hboard, hpeers⟩ => ?_
    have hstreams : (o.imm.getLsbD 10 && !(d.core id).board.isEmpty) = false := by
      rcases hboard with h10 | hnil
      · rw [h10, Bool.false_and]
      · rw [hnil, List.isEmpty_nil, Bool.not_true, Bool.and_false]
    have hdomain : (o.imm.toNat % 8 == 4 && d.fencePeers id (o.imm.getLsbD 8) (o.imm.getLsbD 9)) = false := by
      by_cases hs : o.imm.toNat % 8 = 4
      · simp only [fencePeers_eq_false (hpeers hs), Bool.and_false]
      · simp [hs]
    rw [bodyFence, fireCommit_committing h]
    simp only [hstreams, hdomain, Bool.false_eq_true, if_false]
  case bara =>
    refine fun o k x t mt => commitsIf_of_act (fun _ => rfl) fun m id f c d h hmt => ?_
    rw [bodyBara, fireCommit_committing h]
    simp only [baraCom, hmt]
  case stg =>
    refine fun o => commitsIf_of_act (fun _ => rfl) fun m id f c d h ⟨hal, hst⟩ => ?_
    rw [bodyStg, fireCommit_committing h]
    simp [stgCom, hal, hst]
  case updMt =>
    refine fun o k x t n b hbad => commitsIf_of_act (fun _ => rfl) fun m id f c d h ⟨ha, hb⟩ => ?_
    dsimp only at ha hb ⊢
    rw [bodyUpd, fireCommit_committing h, updCom_upd, updateCom_mt hbad ha hb]
    rfl
  case updMem =>
    refine fun o v p => commitsIf_of_act (fun _ => rfl) fun m id f c d h ⟨ha, hal, hu⟩ => ?_
    dsimp only at ha hal hu ⊢
    rw [bodyUpd, fireCommit_committing h, updCom_upd, updateCom_mem ha hal hu]
    rfl
  case updfMt =>
    refine fun o k x t n b hbad => commitsIf_of_act (fun _ => rfl) fun m id f c d h ⟨ha, hb⟩ => ?_
    dsimp only at ha hb ⊢
    rw [bodyUpdf, fireCommit_committing h, updCom_updf, updateCom_mt hbad ha hb]
    rfl
  case updfMem =>
    refine fun o v p => commitsIf_of_act (fun _ => rfl) fun m id f c d h ⟨ha, hal, hu⟩ => ?_
    dsimp only at ha hal hu ⊢
    rw [bodyUpdf, fireCommit_committing h, updCom_updf, updateCom_mem ha hal hu]
    rfl
  case ucasMt =>
    refine fun o k x t n b hbad => commitsIf_of_act (fun _ => rfl) fun m id f c d h ⟨ha, hb⟩ => ?_
    dsimp only at ha hb ⊢
    rw [bodyUcas, fireCommit_committing h, ucasCom_eq, updateCom_mt hbad ha hb]
    rfl
  case ucasMem =>
    refine fun o v p => commitsIf_of_act (fun _ => rfl) fun m id f c d h ⟨ha, hal, hu⟩ => ?_
    dsimp only at ha hal hu ⊢
    rw [bodyUcas, fireCommit_committing h, ucasCom_eq, updateCom_mem ha hal hu]
    rfl

end Sys2Proof.Proofs
end

section
/-! PROOFS. The dataflow instructions, loop counters and the words of the manual's examples (R120 to R129). -/

namespace Sys2Proof.Proofs
open Sys2Proof Sys2Proof.Machine Sys2Proof.Laws

/-! ### Words of the manual -/

/-- Settles O3: each word is the encoding of the well-formed instruction beside it. -/
theorem knownWords : Obligations.KnownWords := by
  refine ⟨?add, ?wrg, ?bro, ?fmul, ?lswp, ?mma, ?sts, ?sbindw, ?tresResident, ?xinvFrames⟩
  all_goals exact decodeOfEncode _ _ (by decide) (by decide)

/-! ### Loop counters -/

/-- Settles O5: the counters inside counter `j` have run once for every quotient of the record by their counts. -/
theorem loopCounterValue : Obligations.LoopCounterValue := by
  intro cs j
  induction cs generalizing j with
  | nil => intro c n h; cases h
  | cons c' cs ih =>
    intro c n h
    cases j with
    | zero =>
      cases h
      rw [List.take_zero, List.map_nil, List.prod_nil, Nat.div_one, loopValue]
    | succ j =>
      rw [loopValue, ih j c _ h, List.take_succ_cons, List.map_cons, List.prod_cons, Nat.div_div_eq_div_mul]

/-! ### What the dataflow instructions deliver -/

/-- SEL takes the lane of its second operand where the predicate's lane is 0 (R126). -/
theorem selLanes_eq (ctl : Bool) (t : Ty) (a b c : Data) :
    selLanes ctl t a b c = mapLanes ctl t fun l =>
      { code := if rawLane ctl t c l = 0 then rawLane ctl t b l else rawLane ctl t a l } := by
  simp only [selLanes, bne_iff_ne, ite_not]

/-- Settles O4: each instruction's result, and with it the marker that MARK records and the token that RDP takes. -/
theorem dataflowDelivers : Obligations.DataflowDelivers := by
  refine ⟨⟨?nop, ?drop, ?fan, ?null, ?gate, ?sel, ?poisc, ?pois, ?movi, ?movh⟩, ?lcnt, ?lidx, ?mark, ?rdp⟩
  case nop => exact fun o => delivers_of_res (fun _ => rfl) fun _ _ => rfl
  case drop => exact fun o => delivers_of_res (fun _ => rfl) fun _ _ => rfl
  case fan => exact fun o => delivers_of_res (fun _ => rfl) fun _ _ => rfl
  case null => exact fun o => delivers_of_res (fun _ => rfl) fun _ _ => rfl
  case gate =>
    refine fun o => delivers_of_res (fun _ => rfl) fun _ g => ?_
    cases g.a.n <;> cases g.b.n <;> rfl
  case sel => exact fun o => delivers_of_alu (fun _ => rfl) fun e g => congrArg Res.alu (selLanes_eq e.ctl o.ty ..)
  case poisc => exact fun o => delivers_of_res (fun _ => rfl) fun _ _ => rfl
  case pois => exact fun o => delivers_of_res (fun _ => rfl) fun _ _ => rfl
  case movi => exact fun o => delivers_of_alu (fun _ => rfl) fun _ _ => rfl
  case movh => exact fun o => delivers_of_alu (fun _ => rfl) fun _ _ => rfl
  case lcnt => exact fun o => delivers_of_res (fun _ => rfl) fun _ _ => rfl
  case lidx => exact fun o => delivers_of_res (fun _ => rfl) fun _ _ => rfl
  case mark =>
    refine fun o => firesWith_of_fire (fun _ => rfl) (fun _ _ _ _ => rfl) (fun e _ d => ?_) fun e _ d => ?_
    all_goals cases e.ctl <;> simp
  case rdp =>
    refine fun o x t p y rest => firesIf_of_fire (fun s => (rfl : execRdp o s = _)) ?_
    rintro _ e _ d ⟨hx, ht, hp, hq⟩ _
    simp only [hx, ht, hp, hq, Option.bind_some]

end Sys2Proof.Proofs
end

section
/-! PROOFS. The integer instructions on lanes: exact values, division, shifts, comparison and bit patterns (R136 to
R143). -/

namespace Sys2Proof.Proofs
open Sys2Proof Sys2Proof.Machine Sys2Proof.Laws

/-! ### Exact values narrowed once -/

/-- An instruction of two operands gives each lane the exact value of its operation, narrowed once (R136). -/
theorem delivers_of_intBin {i : Instr} {o : OpG} {op : Int → Int → Int} (f : Int → Int → Int)
    (hx : ∀ s, Machine.exec i s = act s fun _ d => d.alu i fun ctl g => intBin ctl o.ty o.sat op g.a.data g.b.data)
    (hop : ∀ a b, op a b = f a b) :
    Delivers i fun e g => .alu (mapLanes e.ctl o.ty fun l =>
      exactLane o.ty o.sat (f (intLane o.ty g.a.data l) (intLane o.ty g.b.data l))) := by
  obtain rfl : op = f := funext₂ hop
  exact delivers_of_alu hx fun _ _ => rfl

/-- An instruction of one operand gives each lane the exact value of its operation, narrowed once (R136). -/
theorem delivers_of_intUn {i : Instr} {t : Ty} {sat : Bool} {op : Int → Int} (f : Int → Int)
    (hx : ∀ s, Machine.exec i s = act s fun _ d => d.alu i fun ctl g => intUn ctl t sat op g.a.data)
    (hop : ∀ a, op a = f a) :
    Delivers i fun e g => .alu (mapLanes e.ctl t fun l => exactLane t sat (f (intLane t g.a.data l))) := by
  obtain rfl : op = f := funext hop
  exact delivers_of_alu hx fun _ _ => rfl

/-- The indication of ADDS and SUBS is 0 for a value that the type holds and 1 for any other (R138). -/
theorem outOfRange_eq (t : Ty) (x : Int) : outOfRange t x = if t.intMin ≤ x ∧ x ≤ t.intMax then 0 else 1 := by
  unfold outOfRange
  split <;> split <;> omega

/-- Settles O6: each instruction's operation is the exact one of its entry. -/
theorem integerExact : Obligations.IntegerExact := by
  have hmin : ∀ a b : Int, (if b < a then b else a) = min a b := fun a b => by split <;> omega
  have hmax : ∀ a b : Int, (if a < b then b else a) = max a b := fun a b => by split <;> omega
  refine ⟨?add, ?sub, ?adds, ?subs, ?mul, ?mulh, ?mulhw, ?lea, ?min, ?minw, ?max, ?maxw, ?neg, ?abs, ?addi, ?madd⟩
  case add => exact fun o => delivers_of_intBin (· + ·) (fun _ => rfl) fun _ _ => rfl
  case sub => exact fun o => delivers_of_intBin (· - ·) (fun _ => rfl) fun _ _ => rfl
  case adds =>
    exact fun o => delivers_of_intBin (fun a b => if o.ty.intMin ≤ a + b ∧ a + b ≤ o.ty.intMax then 0 else 1)
      (fun _ => rfl) fun a b => outOfRange_eq o.ty (a + b)
  case subs =>
    exact fun o => delivers_of_intBin (fun a b => if o.ty.intMin ≤ a - b ∧ a - b ≤ o.ty.intMax then 0 else 1)
      (fun _ => rfl) fun a b => outOfRange_eq o.ty (a - b)
  case mul => exact fun o => delivers_of_intBin (· * ·) (fun _ => rfl) fun _ _ => rfl
  case mulh => exact fun o => delivers_of_intBin (mulHigh o.ty) (fun _ => rfl) fun _ _ => rfl
  case mulhw => exact fun o => delivers_of_intBin (mulHigh o.ty) (fun _ => rfl) fun _ _ => rfl
  case lea =>
    exact fun o => delivers_of_intBin (fun a b => a + b * ((2 ^ o.fn.toNat : Nat) : Int)) (fun _ => rfl) fun _ _ => rfl
  case min => exact fun o => delivers_of_intBin min (fun _ => rfl) hmin
  case minw => exact fun o => delivers_of_intBin min (fun _ => rfl) hmin
  case max => exact fun o => delivers_of_intBin max (fun _ => rfl) hmax
  case maxw => exact fun o => delivers_of_intBin max (fun _ => rfl) hmax
  case neg => exact fun o => delivers_of_intUn (- ·) (fun _ => rfl) fun _ => rfl
  case abs => exact fun o => delivers_of_intUn abs (fun _ => rfl) Int.natCast_natAbs
  case addi => exact fun o => delivers_of_intUn (· + o.imm.toInt) (fun _ => rfl) fun _ => rfl
  case madd => exact fun o => delivers_of_alu (fun _ => rfl) fun _ _ => rfl

/-! ### Division -/

/-- The lanes of a quotient or a remainder: `z` of the dividend where the divisor is 0, with the cause of R64, and `f`
of both elsewhere (R139). -/
def divLanes (ctl : Bool) (t : Ty) (z : Int → Int) (f : Int → Int → Int) (x y : Data) : AluOut :=
  mapLanes ctl t fun l =>
    { code := Word.wrap (if intLane t y l = 0 then z (intLane t x l) else f (intLane t x l) (intLane t y l)) t.width
      intDiv := decide (intLane t y l = 0) }

theorem intDivRem_eq_divLanes (ctl : Bool) (t : Ty) (quot : Bool) (x y : Data) :
    intDivRem ctl t quot x y
      = divLanes ctl t (fun a => if quot then 0 else a) (fun a b => if quot then a.tdiv b else a.tmod b) x y := by
  refine congrArg (mapLanes ctl t) (funext fun l => ?_)
  change (if intLane t y l == 0 then _ else _) = _
  by_cases h : intLane t y l = 0
  · simp only [h, beq_self_eq_true, if_true, decide_true]
    rfl
  · simp only [h, beq_iff_eq, if_false, decide_false]
    rfl

/-- A division gives each lane its quotient or its remainder (R139). -/
theorem delivers_of_intDivRem {i : Instr} {t : Ty} {quot : Bool}
    (hx : ∀ s, Machine.exec i s = act s fun _ d => d.alu i fun ctl g => intDivRem ctl t quot g.a.data g.b.data) :
    Delivers i fun e g => .alu (divLanes e.ctl t (fun a => if quot then 0 else a)
      (fun a b => if quot then a.tdiv b else a.tmod b) g.a.data g.b.data) :=
  delivers_of_alu hx fun e _ => congrArg Res.alu (intDivRem_eq_divLanes e.ctl t quot ..)

/-! ### Patterns -/

/-- An instruction on the patterns of two operands gives each lane its operation's low bits (R136). -/
theorem delivers_of_patBin {i : Instr} {t : Ty} {op : Nat → Nat → Nat} (f : Nat → Nat → Nat)
    (hx : ∀ s, Machine.exec i s = act s fun _ d => d.alu i fun ctl g => patBin ctl t op g.a.data g.b.data)
    (hop : ∀ a b, op a b = f a b) :
    Delivers i fun e g => .alu (mapLanes e.ctl t fun l =>
      { code := f (bitLane t g.a.data l) (bitLane t g.b.data l) % 2 ^ t.width }) := by
  obtain rfl : op = f := funext₂ hop
  exact delivers_of_alu hx fun _ _ => rfl

/-- An instruction on the pattern of one operand gives each lane its operation's low bits (R136). -/
theorem delivers_of_patUn {i : Instr} {t : Ty} (f : Nat → Nat)
    (hx : ∀ s, Machine.exec i s = act s fun _ d => d.alu i fun ctl g => patUn ctl t f g.a.data) :
    Delivers i fun e g => .alu (mapLanes e.ctl t fun l => { code := f (bitLane t g.a.data l) % 2 ^ t.width }) :=
  delivers_of_alu hx fun _ _ => rfl

theorem shlPat_eq (w a k : Nat) : shlPat w a k = if k < w then a * 2 ^ k else 0 := by
  rw [shlPat, Nat.shiftLeft_eq]

theorem shrPat_eq (w a k : Nat) : shrPat w a k = if k < w then a / 2 ^ k else 0 := by
  rw [shrPat, Nat.shiftRight_eq_div_pow]

theorem rotlPat_eq (w a k : Nat) : rotlPat w a k = a * 2 ^ (k % w) % 2 ^ w + a / 2 ^ (w - k % w) := by
  rw [rotlPat, Nat.shiftLeft_eq, Nat.shiftRight_eq_div_pow]

/-- Settles O7: the two cases of a division, and the shifts as products and quotients of powers of two. -/
theorem divideAndShift : Obligations.DivideAndShift := by
  refine ⟨?div, ?divw, ?rem, ?remw, ?shl, ?shr, ?sra, ?rotl⟩
  case div => exact fun o => delivers_of_intDivRem (quot := true) fun _ => rfl
  case divw => exact fun o => delivers_of_intDivRem (quot := true) fun _ => rfl
  case rem => exact fun o => delivers_of_intDivRem (quot := false) fun _ => rfl
  case remw => exact fun o => delivers_of_intDivRem (quot := false) fun _ => rfl
  case shl =>
    exact fun o => delivers_of_patBin (fun a k => if k < o.ty.width then a * 2 ^ k else 0) (fun _ => rfl)
      (shlPat_eq o.ty.width)
  case shr =>
    exact fun o => delivers_of_patBin (fun a k => if k < o.ty.width then a / 2 ^ k else 0) (fun _ => rfl)
      (shrPat_eq o.ty.width)
  case sra => exact fun o => delivers_of_patBin (sraPat o.ty.width) (fun _ => rfl) fun _ _ => rfl
  case rotl =>
    exact fun o => delivers_of_patBin
      (fun a k => a * 2 ^ (k % o.ty.width) % 2 ^ o.ty.width + a / 2 ^ (o.ty.width - k % o.ty.width)) (fun _ => rfl)
      (rotlPat_eq o.ty.width)

/-! ### Counting, reversing and replacing bits -/

/-- The low `n` bits of a number, the highest of them at bit 0. -/
def revBits (a : Nat) : Nat → Nat
  | 0 => 0
  | n + 1 => Nat.bit (a.testBit n) (revBits a n)

theorem testBit_revBits (a : Nat) {n i : Nat} (h : i < n) : (revBits a n).testBit i = a.testBit (n - 1 - i) := by
  induction n generalizing i with
  | zero => omega
  | succ n ih =>
    cases i with
    | zero => exact Nat.testBit_bit_zero ..
    | succ i =>
      rw [revBits, Nat.testBit_bit_succ, ih (by omega)]
      congr 1
      omega

/-- After its first `n` steps BREV holds the low `n` bits reversed, at the top of the lane (R141). -/
theorem brevPat_steps (w a : Nat) {n : Nat} (h : n ≤ w) :
    (List.range n).foldl (fun acc i => if a.testBit i then acc + 2 ^ (w - 1 - i) else acc) 0
      = 2 ^ (w - n) * revBits a n := by
  induction n with
  | zero => rfl
  | succ n ih =>
    have hw : w - n = w - 1 - n + 1 := by omega
    have hw' : w - (n + 1) = w - 1 - n := by omega
    rw [List.range_succ, List.foldl_append, ih (by omega), revBits, Nat.bit_val, hw, hw', Nat.pow_succ,
      List.foldl_cons, List.foldl_nil]
    cases h : a.testBit n
    · simp only [Bool.false_eq_true, if_false, Bool.toNat_false]
      ring
    · simp only [if_true, Bool.toNat_true]
      ring

theorem testBit_brevPat {w i : Nat} (a : Nat) (h : i < w) : (brevPat w a).testBit i = a.testBit (w - 1 - i) := by
  rw [brevPat, brevPat_steps w a le_rfl, Nat.sub_self, Nat.pow_zero, Nat.one_mul, testBit_revBits a h]

/-- CLZ of a pattern leaves just the places that the pattern needs (R141). -/
theorem clzPat_bounds {w a : Nat} (h : a < 2 ^ w) :
    a < 2 ^ (w - clzPat w a) ∧ (a ≠ 0 → 2 ^ (w - clzPat w a - 1) ≤ a) := by
  rcases eq_or_ne a 0 with rfl | ha
  · simp [clzPat]
  · have hlog : a.log2 < w := (Nat.log2_lt ha).2 h
    have hclz : w - clzPat w a = a.log2 + 1 := by
      simp only [clzPat, beq_iff_eq, ha, if_false]
      omega
    rw [hclz]
    exact ⟨Nat.lt_log2_self, fun _ => Nat.log2_self_le ha⟩

/-- A number without a field of its bits is what lies above the field and what lies below it. -/
theorem sub_field (a pos len : Nat) :
    a - a / 2 ^ pos % 2 ^ len * 2 ^ pos = 2 ^ pos * (2 ^ len * (a / 2 ^ pos / 2 ^ len)) + a % 2 ^ pos := by
  have hhigh := Nat.div_add_mod a (2 ^ pos)
  have hfield := Nat.div_add_mod (a / 2 ^ pos) (2 ^ len)
  rw [← hfield, Nat.mul_add] at hhigh
  rw [Nat.mul_comm _ (2 ^ pos)]
  omega

/-- BFI replaces the bits of its field and no others (R143). -/
theorem testBit_bfiPat (imm a b i : Nat) :
    (bfiPat imm a b).testBit i
      = if imm % 64 ≤ i ∧ i < imm % 64 + (imm / 64 % 64 + 1) then b.testBit (i - imm % 64) else a.testBit i := by
  unfold bfiPat
  dsimp only
  generalize imm % 64 = pos
  generalize imm / 64 % 64 + 1 = len
  have hparts : a - (a >>> pos) % 2 ^ len * 2 ^ pos + b % 2 ^ len * 2 ^ pos
      = 2 ^ pos * (2 ^ len * (a / 2 ^ pos / 2 ^ len) + b % 2 ^ len) + a % 2 ^ pos := by
    rw [Nat.shiftRight_eq_div_pow, sub_field]
    ring
  rw [hparts, Nat.testBit_two_pow_mul_add _ (Nat.mod_lt a (Nat.two_pow_pos pos)),
    Nat.testBit_two_pow_mul_add _ (Nat.mod_lt b (Nat.two_pow_pos len))]
  by_cases hlow : i < pos
  · have hout : ¬ (pos ≤ i ∧ i < pos + len) := by omega
    simp [hlow, hout]
  · by_cases hin : i - pos < len
    · have hfield : pos ≤ i ∧ i < pos + len := by omega
      simp [hlow, hin, hfield]
    · have hout : ¬ (pos ≤ i ∧ i < pos + len) := by omega
      simp only [hlow, hin, hout, if_false, Nat.testBit_div_two_pow]
      congr 1
      omega

/-! ### The obligation -/

/-- The conditions of CMP and CMPI by FN (R142). -/
theorem cmpHolds_eq (fn : Nat) (a b : Int) : cmpHolds fn a b
    = [decide (a = b), decide (a ≠ b), decide (a < b), decide (a ≤ b), decide (a > b)].getD fn (decide (a ≥ b)) :=
  match fn with
  | 0 => rfl
  | 1 => by simp [cmpHolds, bne, BEq.beq]
  | 2 => rfl
  | 3 => rfl
  | 4 => rfl
  | _ + 5 => rfl

/-- Settles O8: each instruction's operation on patterns or numbers, and what BREV, CLZ and BFI do to the bits. -/
theorem bitInstructions : Obligations.BitInstructions := by
  refine ⟨⟨?and, ?or, ?xor, ?andn, ?clz, ?popc, ?brev, ?cmp, ?cmpi, ?bfx, ?bfi⟩, ?reversed, ?counted, ?replaced⟩
  case and => exact fun o => delivers_of_patBin (· &&& ·) (fun _ => rfl) fun _ _ => rfl
  case or => exact fun o => delivers_of_patBin (· ||| ·) (fun _ => rfl) fun _ _ => rfl
  case xor => exact fun o => delivers_of_patBin (· ^^^ ·) (fun _ => rfl) fun _ _ => rfl
  case andn =>
    exact fun o => delivers_of_patBin (fun a b => a &&& (b ^^^ (2 ^ o.ty.width - 1))) (fun _ => rfl) fun _ _ => rfl
  case clz => exact fun o => delivers_of_patUn (clzPat o.ty.width) fun _ => rfl
  case popc => exact fun o => delivers_of_patUn (popcPat o.ty.width) fun _ => rfl
  case brev => exact fun o => delivers_of_patUn (brevPat o.ty.width) fun _ => rfl
  case cmp =>
    refine fun o => delivers_of_alu (fun _ => rfl) fun _ _ => ?_
    simp only [intCmp, cmpHolds_eq]
    rfl
  case cmpi =>
    refine fun o => delivers_of_alu (fun _ => rfl) fun _ _ => ?_
    simp only [intCmp, cmpHolds_eq]
    rfl
  case bfx => exact fun o => delivers_of_patUn (bfxPat o.ty o.imm.toNat) fun _ => rfl
  case bfi => exact fun o => delivers_of_patBin (bfiPat o.imm.toNat) (fun _ => rfl) fun _ _ => rfl
  case reversed => exact fun w a i h => testBit_brevPat a h
  case counted => exact fun w a _ h => clzPat_bounds h
  case replaced => exact testBit_bfiPat

end Sys2Proof.Proofs
end

section
/-! PROOFS. The register writes of a block (R135). -/

namespace Sys2Proof.Proofs
open Sys2Proof Sys2Proof.Machine Sys2Proof.Laws

/-- A write of a register by a block: its slot, whether it is a link, the register and what it writes. -/
abbrev RegWrite := Nat × Bool × Fin 32 × GReg

/-- Register writes performed one after another. -/
def putRegs (c : Core) (ws : List RegWrite) : Core := ws.foldl (fun c w => c.setReg w.2.2.1 w.2.2.2) c

/-- The writes of a list that are no links, in the order of their slots. -/
def bySlot (gw : List RegWrite) (ks : List Nat) : List RegWrite :=
  ks.flatMap fun k => (gw.filter fun w => !w.2.1).filter (·.1 == k)

theorem writeRegs_eq (c : Core) (gw : List RegWrite) :
    c.writeRegs gw = putRegs (putRegs c (bySlot gw (List.range 128))) (gw.filter (·.2.1)) := rfl

theorem mem_bySlot {gw : List RegWrite} {ks : List Nat} {w : RegWrite} :
    w ∈ bySlot gw ks ↔ w.1 ∈ ks ∧ w ∈ gw ∧ w.2.1 = false := by
  simp [bySlot]

theorem bySlot_append (gw : List RegWrite) (js ks : List Nat) :
    bySlot gw (js ++ ks) = bySlot gw js ++ bySlot gw ks := List.flatMap_append

theorem putRegs_append (c : Core) (us vs : List RegWrite) :
    putRegs c (us ++ vs) = putRegs (putRegs c us) vs := List.foldl_append

theorem putRegs_concat (c : Core) (us : List RegWrite) (w : RegWrite) :
    putRegs c (us ++ [w]) = (putRegs c us).setReg w.2.2.1 w.2.2.2 := putRegs_append c us [w]

@[simp] theorem length_setReg (c : Core) (k : Fin 32) (v : GReg) : (c.setReg k v).g.length = c.g.length :=
  List.length_set

@[simp] theorem length_putRegs (c : Core) (ws : List RegWrite) : (putRegs c ws).g.length = c.g.length := by
  induction ws using List.reverseRecOn with
  | nil => rfl
  | append_singleton ws w ih => rw [putRegs_concat, length_setReg, ih]

theorem reg_setReg_same {c : Core} {r : Fin 32} (h : c.g.length = 32) (v : GReg) : (c.setReg r v).reg r = v := by
  simp [Core.reg, Core.setReg, setAt, h]

theorem reg_setReg_ne {r k : Fin 32} (h : k ≠ r) (c : Core) (v : GReg) : (c.setReg k v).reg r = c.reg r := by
  simp [Core.reg, Core.setReg, setAt, Fin.val_ne_of_ne h]

/-- A register that no write names keeps its value. -/
theorem reg_putRegs_of_not_named {r : Fin 32} {ws : List RegWrite} (h : ∀ w ∈ ws, w.2.2.1 ≠ r) (c : Core) :
    (putRegs c ws).reg r = c.reg r := by
  induction ws using List.reverseRecOn with
  | nil => rfl
  | append_singleton ws w ih =>
    rw [List.forall_mem_append, List.forall_mem_singleton] at h
    rw [putRegs_concat, reg_setReg_ne h.2, ih h.1]

/-- A register that one write alone names, however often, holds what it wrote. -/
theorem reg_putRegs_of_only {c : Core} {w : RegWrite} {ws : List RegWrite} (hc : c.g.length = 32) (hw : w ∈ ws)
    (h : ∀ u ∈ ws, u.2.2.1 = w.2.2.1 → u = w) : (putRegs c ws).reg w.2.2.1 = w.2.2.2 := by
  induction ws using List.reverseRecOn with
  | nil => cases hw
  | append_singleton ws v ih =>
    rw [List.forall_mem_append, List.forall_mem_singleton] at h
    rw [putRegs_concat]
    by_cases hv : v.2.2.1 = w.2.2.1
    · rw [h.2 hv, reg_setReg_same (by rwa [length_putRegs])]
    · have hmem : w ∈ ws := by
        rcases List.mem_append.mp hw with hmem | hlast
        · exact hmem
        · exact absurd (congrArg (·.2.2.1) (List.mem_singleton.mp hlast)).symm hv
      rw [reg_setReg_ne hv, ih hmem h.1]

theorem eq_of_mem_of_length_le_one {α : Type} {a b : α} {xs : List α} (h : xs.length ≤ 1) (ha : a ∈ xs)
    (hb : b ∈ xs) : a = b := by
  match xs, h with
  | [], _ => cases ha
  | [x], _ => exact (List.mem_singleton.mp ha).trans (List.mem_singleton.mp hb).symm

/-- The link of a register stands over every other write, where no other link names the register (R135). -/
theorem reg_writeRegs_link {c : Core} {gw : List RegWrite} {w : RegWrite} (hc : c.g.length = 32) (hw : w ∈ gw)
    (hlink : w.2.1 = true) (hone : (gw.filter fun u => u.2.1 && u.2.2.1 == w.2.2.1).length ≤ 1) :
    (c.writeRegs gw).reg w.2.2.1 = w.2.2.2 := by
  rw [writeRegs_eq]
  refine reg_putRegs_of_only (by rwa [length_putRegs]) (by simp [hw, hlink]) fun u hu hr => ?_
  obtain ⟨hmem, hlink'⟩ := List.mem_filter.mp hu
  exact eq_of_mem_of_length_le_one hone (by simp [hmem, hlink', hr]) (by simp [hw, hlink])

/-- Where no link names the register, the write of the highest slot stands: the slots above it leave the register
alone, and its own slot makes no other write (R135). -/
theorem reg_writeRegs_highest {c : Core} {gw : List RegWrite} {w : RegWrite} (hc : c.g.length = 32)
    (hslot : w.1 < 128) (hkey : gw.Pairwise fun x y => (x.1, x.2.1) ≠ (y.1, y.2.1)) (hw : w ∈ gw)
    (hplain : ∀ u ∈ gw, u.2.2.1 = w.2.2.1 → u.2.1 = false)
    (hmax : ∀ u ∈ gw, u.2.2.1 = w.2.2.1 → u.1 ≤ w.1) : (c.writeRegs gw).reg w.2.2.1 = w.2.2.2 := by
  have hsplit : List.range 128 = List.range w.1 ++ ([w.1] ++ List.range' (w.1 + 1) (127 - w.1)) := by
    have hlen : 128 = w.1 + (1 + (127 - w.1)) := by omega
    rw [hlen, List.range_eq_range', List.range_eq_range', ← List.range'_append, ← List.range'_append]
    simp
  have hkeys : ∀ u ∈ gw, (u.1, u.2.1) = (w.1, w.2.1) → u = w := fun u hu =>
    List.inj_on_of_nodup_map (List.pairwise_map.mpr hkey) hu hw
  have hlinks : ∀ u ∈ gw.filter (·.2.1), u.2.2.1 ≠ w.2.2.1 := by
    intro u hu hr
    obtain ⟨hmem, hlink⟩ := List.mem_filter.mp hu
    rw [hplain u hmem hr] at hlink
    cases hlink
  have habove : ∀ u ∈ bySlot gw (List.range' (w.1 + 1) (127 - w.1)), u.2.2.1 ≠ w.2.2.1 := by
    intro u hu hr
    obtain ⟨hk, hmem, -⟩ := mem_bySlot.mp hu
    have hle := hmax u hmem hr
    rw [List.mem_range'_1] at hk
    omega
  rw [writeRegs_eq, reg_putRegs_of_not_named hlinks, hsplit, bySlot_append, putRegs_append, bySlot_append,
    putRegs_append, reg_putRegs_of_not_named habove]
  have hown : w ∈ bySlot gw [w.1] := mem_bySlot.mpr ⟨List.mem_singleton_self _, hw, hplain w hw rfl⟩
  refine reg_putRegs_of_only (by rwa [length_putRegs]) hown ?_
  intro u hu hr
  obtain ⟨hk, hmem, hlink⟩ := mem_bySlot.mp hu
  exact hkeys u hmem (Prod.ext (List.mem_singleton.mp hk) (hlink.trans (hplain w hw rfl).symm))

/-- Settles O26: the writes are performed in the order of their slots, the links after them. -/
theorem registerWriteOrder : Obligations.RegisterWriteOrder := by
  refine fun c gw r hc hslots hkey hone => ⟨?link, ?highest, ?unnamed⟩
  case link =>
    rintro w hw hlink rfl
    exact reg_writeRegs_link hc hw hlink hone
  case highest =>
    rintro hplain w hw rfl hmax
    exact reg_writeRegs_highest hc (hslots w hw) hkey hw hplain hmax
  case unnamed =>
    intro h
    rw [writeRegs_eq, reg_putRegs_of_not_named fun w hw => h w (List.mem_of_mem_filter hw),
      reg_putRegs_of_not_named fun w hw => h w (mem_bySlot.mp hw).2.1]

end Sys2Proof.Proofs
end

section
/-! PROOFS. The lane instructions: lanes moved, folded, voted on, compressed and packed (R162 to R169). -/

namespace Sys2Proof.Proofs
open Sys2Proof Sys2Proof.Machine Sys2Proof.Laws

/-! ### Lanes kept and put back -/

theorem laneTrue_iff {t : Ty} {d : Data} {l : Nat} : laneTrue t d l = true ↔ bitLane t d l ≠ 0 := bne_iff_ne

theorem getElem?_map_range {α : Type} (f : Nat → α) {l n : Nat} (h : l < n) :
    ((List.range n).map f)[l]? = some (f l) := by
  rw [List.getElem?_map, List.getElem?_range h]
  rfl

theorem laneOf_rawLanes {t : Ty} {l : Nat} (f : Nat → Nat) (h : l < t.lanes) :
    laneOf t.laneWidth ((rawLanes t f).data false) l = f l % 2 ^ t.laneWidth :=
  lanesOfResult (rawLanes t f) l { code := f l } (laneWidth_pos t)
    (by simpa [rawLanes] using lanes_mul_laneWidth_le t) (getElem?_map_range _ h)

/-- A number that a filter of `0` to `n - 1` keeps stands behind those it keeps below it. -/
theorem getElem?_filter_range {p : Nat → Bool} {l n : Nat} (hl : l < n) (hp : p l = true) :
    ((List.range n).filter p)[((List.range l).filter p).length]? = some l := by
  obtain ⟨m, rfl⟩ : ∃ m, n = l + (m + 1) := ⟨n - l - 1, by omega⟩
  rw [List.range_add, List.filter_append, List.getElem?_append_right le_rfl, Nat.sub_self, List.range_succ_eq_map,
    List.map_cons, List.filter_cons_of_pos (by simpa using hp)]
  rfl

/-- Settles O15: a lane of the mask stands in the compressed token behind the lanes of the mask below it, which is
where LEXPD looks for it. -/
theorem laneRoundTrips : Obligations.LaneRoundTrips := by
  intro t a b l hl
  unfold lexpd
  rw [laneOf_rawLanes _ hl]
  by_cases hb : bitLane t b l = 0
  · simp [hb, laneTrue_iff]
  · have hmask : laneTrue t b l = true := laneTrue_iff.mpr hb
    have hrank : ((List.range l).filter (laneTrue t b)).length < t.lanes :=
      ((List.length_filter_le ..).trans List.length_range.le).trans_lt hl
    rw [if_pos hmask, if_neg hb, lcmpr, laneOf_rawLanes _ hrank, List.getD_eq_getElem?_getD, List.getElem?_map,
      getElem?_filter_range hl hmask]
    simp [laneOf, bitLane]

/-! ### Folds of lanes -/

theorem getElem?_lred {t : Ty} {l : Nat} (fn : Nat) (rm : Rm) (sat : Bool) (us : List Nat) (a : Data)
    (h : l < t.lanes) : (lred t fn rm sat us a).lanes[l]?
      = some (redLanes t fn rm sat (drawAt us 0) ((List.range t.lanes).map (bitLane t a))) :=
  getElem?_map_range _ h

theorem getElem?_lscan {t : Ty} {l : Nat} (fn : Nat) (rm : Rm) (sat : Bool) (us : List Nat) (a : Data)
    (h : l < t.lanes) : (lscan t fn rm sat us a).lanes[l]?
      = some (redLanes t fn rm sat (drawAt us l) ((List.range (l + 1)).map (bitLane t a))) := by
  refine (getElem?_map_range _ h).trans ?_
  rw [← List.map_take, List.take_range, Nat.min_eq_left h]
  rfl

theorem map_intLane (t : Ty) (a : Data) (ls : List Nat) :
    ls.map (intLane t a) = (ls.map (bitLane t a)).map t.intVal := by
  rw [List.map_map]
  rfl

theorem map_fpLane {t : Ty} {f : FFmt} (h : t.ffmt = some f) (a : Data) (ls : List Nat) :
    ls.map (fpLane t a) = (ls.map (bitLane t a)).map f.decode := by
  have hfmt : t.fmt = f := by simp [Ty.fmt, h]
  rw [List.map_map, ← hfmt]
  rfl

/-- The sum of integer lanes is exact and narrowed once (R165). -/
theorem redLanes_add_of_int {t : Ty} (rm : Rm) (sat : Bool) (u : Nat) (xs : List Nat) (h : t.ffmt = none) :
    redLanes t 0 rm sat u xs = exactLane t sat (xs.map t.intVal).sum := by
  simp only [redLanes, redAdd, h, List.sum_eq_foldl]
  rfl

/-- The sum of floating-point lanes is exact and rounded once (R165). -/
theorem redLanes_add_of_fp {t : Ty} {f : FFmt} (rm : Rm) (sat : Bool) (u : Nat) (xs : List Nat)
    (h : t.ffmt = some f) : redLanes t 0 rm sat u xs =
      { code := f.deliver rm sat u (Fv.sum rm (xs.map f.decode)).1, invalid := (Fv.sum rm (xs.map f.decode)).2
        nanIn := (xs.map f.decode).any (· == .nan) } := by
  simp only [redLanes, redAdd, h]

/-- What picks one of two values by the lower measure folds to a lowest of a list. -/
theorem foldl_pick {v : Nat → Int} {pick : Nat → Nat → Nat} (hmem : ∀ x y, pick x y = x ∨ pick x y = y)
    (hle : ∀ x y, v (pick x y) ≤ v x ∧ v (pick x y) ≤ v y) (x : Nat) (xs : List Nat) :
    xs.foldl pick x ∈ x :: xs ∧ ∀ z ∈ x :: xs, v (xs.foldl pick x) ≤ v z := by
  induction xs generalizing x with
  | nil => simp
  | cons y ys ih =>
    obtain ⟨hin, hlow⟩ := ih (pick x y)
    refine ⟨?_, fun z hz => ?_⟩
    · rcases List.mem_cons.mp hin with hfold | hfold
      · rw [List.foldl_cons, hfold]
        rcases hmem x y with h | h <;> simp [h]
      · simp [hfold]
    · have hpick := hlow _ (List.mem_cons_self ..)
      rcases List.mem_cons.mp hz with rfl | hz
      · exact hpick.trans (hle _ y).1
      rcases List.mem_cons.mp hz with rfl | hz
      · exact hpick.trans (hle x _).2
      · exact hlow z (List.mem_cons_of_mem _ hz)

theorem intVal_mod (t : Ty) (x : Nat) : t.intVal (x % 2 ^ t.width) = t.intVal x := by
  simp [Ty.intVal, Word.toSigned]

/-- MIN and MAX of integer lanes give the least and the greatest of them (R165). -/
theorem redExt_of_int {t : Ty} (h : t.ffmt = none) {xs : List Nat} (hne : xs ≠ []) :
    ∃ lo hi, redExt t .min xs = { code := lo } ∧ redExt t .max xs = { code := hi }
      ∧ t.intVal lo ∈ xs.map t.intVal ∧ t.intVal hi ∈ xs.map t.intVal
      ∧ ∀ z ∈ xs.map t.intVal, t.intVal lo ≤ z ∧ z ≤ t.intVal hi := by
  obtain ⟨x, xs, rfl⟩ := List.exists_cons_of_ne_nil hne
  have hmin : ∀ a b, redPick t .min a b = if t.intVal b < t.intVal a then b else a := fun a b => by
    simp only [redPick, h]
  have hmax : ∀ a b, redPick t .max a b = if t.intVal b > t.intVal a then b else a := fun a b => by
    simp only [redPick, h]
  obtain ⟨hlo, hlow⟩ := foldl_pick (v := t.intVal) (pick := redPick t .min)
    (fun a b => by rw [hmin]; split <;> simp) (fun a b => by rw [hmin]; split <;> omega) x xs
  obtain ⟨hhi, hhigh⟩ := foldl_pick (v := fun a => -t.intVal a) (pick := redPick t .max)
    (fun a b => by rw [hmax]; split <;> simp) (fun a b => by rw [hmax]; split <;> omega) x xs
  have hminSelf : redPick t .min x x = x := by simp [hmin]
  have hmaxSelf : redPick t .max x x = x := by simp [hmax]
  refine ⟨_, _, by simp only [redExt, h, hminSelf]; rfl, by simp only [redExt, h, hmaxSelf]; rfl, ?_⟩
  rw [intVal_mod, intVal_mod]
  refine ⟨List.mem_map_of_mem hlo, List.mem_map_of_mem hhi, fun z hz => ?_⟩
  obtain ⟨y, hy, rfl⟩ := List.mem_map.mp hz
  exact ⟨hlow y hy, Int.neg_le_neg_iff.mp (hhigh y hy)⟩

/-- The canonical NaN of a format that has one is a NaN (R55). -/
theorem isNan_nanCode {f : FFmt} {b : Nat} (h : f.isNan b = true) : f.isNan (f.nanCode.getD 0) = true := by
  cases f
  case e3m2 | e2m3 | e2m1 =>
    simp [FFmt.isNan, FFmt.decode, FFmt.ieee, ite_eq_iff] at h
  all_goals decide

theorem nanCode_mod_width {t : Ty} {f : FFmt} (h : t.ffmt = some f) :
    f.nanCode.getD 0 % 2 ^ t.width = f.nanCode.getD 0 := by
  cases t <;> cases h <;> rfl

/-- An extremum with a NaN is the canonical NaN (R152). -/
theorem pick_of_isNan {k : Extremum} {f : FFmt} {x y : Nat} (h : f.isNan x = true ∨ f.isNan y = true) :
    k.pick f x y = f.nanCode.getD 0 := by
  have hnan : (f.decode x == .nan || f.decode y == .nan) = true := by simpa [FFmt.isNan] using h
  simp only [Extremum.pick, hnan, if_true]

/-- Once an extremum of lanes has met a NaN it stays the canonical NaN (R152). -/
theorem foldl_pick_of_isNan (k : Extremum) {f : FFmt} {xs : List Nat} {x : Nat}
    (h : f.isNan x = true ∧ x = f.nanCode.getD 0 ∨ ∃ y ∈ xs, f.isNan y = true) :
    xs.foldl (k.pick f) x = f.nanCode.getD 0 := by
  induction xs generalizing x with
  | nil => simpa using h.imp_left And.right
  | cons y ys ih =>
    by_cases hxy : f.isNan x = true ∨ f.isNan y = true
    · have hcode := pick_of_isNan (k := k) hxy
      refine ih (.inl ⟨?_, hcode⟩)
      rw [hcode]
      exact hxy.elim isNan_nanCode isNan_nanCode
    · obtain ⟨hx, hy⟩ := not_or.mp hxy
      refine ih (.inr ?_)
      simpa [hx, hy] using h

theorem redExt_of_isNan {t : Ty} {f : FFmt} {y : Nat} (k : Extremum) (h : t.ffmt = some f) {xs : List Nat}
    (hy : y ∈ xs) (hnan : f.isNan y = true) : redExt t k xs = { code := f.nanCode.getD 0, nanIn := true } := by
  obtain _ | ⟨x, xs⟩ := xs
  · cases hy
  have hpick : redPick t k = k.pick f := by
    funext a b
    simp only [redPick, h]
  have hany : (x :: xs).any f.isNan = true := List.any_eq_true.mpr ⟨y, hy, hnan⟩
  have hfold : xs.foldl (k.pick f) (k.pick f x x) = f.nanCode.getD 0 := by
    refine foldl_pick_of_isNan k ((List.mem_cons.mp hy).imp ?_ fun h => ⟨y, h, hnan⟩)
    rintro rfl
    have hcode := pick_of_isNan (k := k) (.inl hnan : f.isNan y = true ∨ f.isNan y = true)
    exact ⟨hcode ▸ isNan_nanCode hnan, hcode⟩
  simp only [redExt, h, hpick, hfold, hany, nanCode_mod_width h]

theorem testBit_foldl_and (xs : List Nat) (x i : Nat) :
    (xs.foldl (· &&& ·) x).testBit i = (x.testBit i && xs.all (·.testBit i)) := by
  induction xs generalizing x with
  | nil => simp
  | cons y ys ih => simp [ih, Bool.and_assoc]

theorem testBit_foldl_or (xs : List Nat) (x i : Nat) :
    (xs.foldl (· ||| ·) x).testBit i = (x.testBit i || xs.any (·.testBit i)) := by
  induction xs generalizing x with
  | nil => simp
  | cons y ys ih => simp [ih, Bool.or_assoc]

theorem testBit_foldl_xor (xs : List Nat) (x i : Nat) :
    (xs.foldl (· ^^^ ·) x).testBit i = (x.testBit i ^^ ((xs.filter (·.testBit i)).length % 2 == 1)) := by
  induction xs generalizing x with
  | nil => simp
  | cons y ys ih =>
    rw [List.foldl_cons, ih, Nat.testBit_xor, List.filter_cons]
    cases y.testBit i
    · simp
    · have hodd : ∀ n : Nat, ((n + 1) % 2 == 1) = !(n % 2 == 1) := fun n => by
        rcases Nat.mod_two_eq_zero_or_one n with h | h <;> simp [Nat.add_mod, h]
      simp [hodd]

/-- AND of lanes, bit by bit (R165). -/
theorem testBit_foldl_and_ones {t : Ty} {i : Nat} {xs : List Nat} (hne : xs ≠ []) :
    (xs.foldl (· &&& ·) (2 ^ t.width - 1)).testBit i = xs.all fun x => i < t.width && x.testBit i := by
  rw [testBit_foldl_and, Nat.testBit_two_pow_sub_one]
  by_cases hi : i < t.width
  · simp [hi]
  · obtain ⟨x, xs, rfl⟩ := List.exists_cons_of_ne_nil hne
    simp [hi]

/-! ### Votes -/

theorem getElem?_lvote_any {t : Ty} {j : Nat} (a : Data) (h : j < 32) : (lvote t 0 a).lanes[j]?
    = some { code := if ∃ i, i < t.lanes ∧ bitLane t a i ≠ 0 then 0xFFFFFFFF else 0 } := by
  simp only [lvote, getElem?_map_range _ h]
  simp [maskLane, laneTrue_iff]

theorem getElem?_lvote_all {t : Ty} {j : Nat} (a : Data) (h : j < 32) : (lvote t 1 a).lanes[j]?
    = some { code := if ∀ i, i < t.lanes → bitLane t a i ≠ 0 then 0xFFFFFFFF else 0 } := by
  simp only [lvote, getElem?_map_range _ h]
  simp [maskLane, laneTrue_iff]

/-- A sum that holds each power of two once or not at all has them for its bits. -/
theorem foldl_two_pow (p : Nat → Bool) (n : Nat) :
    (List.range n).foldl (fun acc i => if p i then acc + 2 ^ i else acc) 0 < 2 ^ n
      ∧ ∀ i < n, ((List.range n).foldl (fun acc i => if p i then acc + 2 ^ i else acc) 0).testBit i = p i := by
  induction n with
  | zero => simp
  | succ n ih =>
    obtain ⟨hlt, hbit⟩ := ih
    rw [List.range_succ, List.foldl_append, List.foldl_cons, List.foldl_nil]
    generalize (List.range n).foldl _ 0 = acc at hlt hbit
    have htop : acc.testBit n = false := Nat.testBit_lt_two_pow hlt
    rw [Nat.pow_succ]
    cases hp : p n
    · refine ⟨by simp only [Bool.false_eq_true, if_false]; omega, fun i hi => ?_⟩
      rcases Nat.lt_succ_iff_lt_or_eq.mp hi with h | rfl
      · exact hbit i h
      · simp [htop, hp]
    · refine ⟨by simp only [if_true]; omega, fun i hi => ?_⟩
      rw [if_pos rfl, Nat.add_comm]
      rcases Nat.lt_succ_iff_lt_or_eq.mp hi with h | rfl
      · rw [Nat.testBit_two_pow_add_gt h, hbit i h]
      · rw [Nat.testBit_two_pow_add_eq, htop, hp]
        rfl

theorem getElem?_lvote_ballot {t : Ty} {j : Nat} (a : Data) (h : j < 32) : ∃ v,
    (lvote t 2 a).lanes[j]? = some { code := v }
      ∧ ∀ i, i < 32 → v.testBit i = decide (32 * j + i < t.lanes ∧ bitLane t a (32 * j + i) ≠ 0) := by
  refine ⟨_, by simp only [lvote, getElem?_map_range _ h]; rfl, fun i hi => ?_⟩
  rw [(foldl_two_pow _ 32).2 i hi, Bool.eq_iff_iff]
  simp [laneTrue_iff]

/-! ### Packed elements -/

theorem packBits_eq (t : Ty) : packBits t = if t = .e3m2 ∨ t = .e2m3 then 6 else 4 := by
  cases t <;> rfl

/-! ### The obligation -/

/-- Settles O13: each instruction fires with the lanes of its entry, and each lane is the exchange, fold, vote or bit
that its entry names. -/
theorem laneInstructions : Obligations.LaneInstructions := by
  refine ⟨⟨?lswp, ?lperm, ?lbcst, ?lsld, ?lred, ?lscan, ?lvote, ?lmsk, ?lcmpr, ?lexpd, ?lpack, ?lunpk⟩,
    fun t rm sat us a b l hl => ?lanes⟩
  case lswp => exact fun o => delivers_of_alu (fun _ => rfl) fun _ _ => rfl
  case lperm => exact fun o => delivers_of_alu (fun _ => rfl) fun _ _ => rfl
  case lbcst => exact fun o => delivers_of_alu (fun _ => rfl) fun _ _ => rfl
  case lsld => exact fun o => delivers_of_alu (fun _ => rfl) fun _ _ => rfl
  case lred => exact fun o => draws_of_fpAlu (fun _ => rfl) fun _ _ _ => rfl
  case lscan => exact fun o => draws_of_fpAlu (fun _ => rfl) fun _ _ _ => rfl
  case lvote => exact fun o => delivers_of_alu (fun _ => rfl) fun _ _ => rfl
  case lmsk =>
    refine fun o => delivers_of_alu (fun _ => rfl) fun _ _ => ?_
    have hfn : (o.fn.toNat == 0) = (o.fn == 0) := by
      rw [Bool.eq_iff_iff, beq_iff_eq, beq_iff_eq, ← BitVec.toNat_inj]
      rfl
    simp only [lmsk, hfn]
    rfl
  case lcmpr => exact fun o => delivers_of_alu (fun _ => rfl) fun _ _ => rfl
  case lexpd =>
    refine fun o => delivers_of_alu (fun _ => rfl) fun _ _ => ?_
    simp only [lexpd, laneTrue_iff, ite_not]
    rfl
  case lpack => exact fun o => delivers_of_alu (fun _ => rfl) fun _ _ => rfl
  case lunpk => exact fun o => delivers_of_alu (fun _ => rfl) fun _ _ => rfl
  case' lanes =>
    have hne : (List.range t.lanes).map (bitLane t a) ≠ [] := by
      simpa using Nat.ne_zero_of_lt hl
    refine ⟨?swapped, ?negated, ?sumInt, ?sumFp, ?extInt, ?extNan, ?bits, ?votes, ?packed, ?unpacked⟩
  case swapped =>
    intro k
    refine (getElem?_map_range _ hl).trans ?_
    cases t.ffmt <;> rfl
  case negated =>
    rintro k f v hf rfl
    refine (getElem?_map_range _ hl).trans ?_
    simp only [hf, Bool.true_and, Bool.not_eq_true']
    cases l.testBit k <;> rfl
  case sumInt =>
    intro h
    simp only [map_intLane]
    exact ⟨(getElem?_lred 0 rm sat us a hl).trans (congrArg some (redLanes_add_of_int _ _ _ _ h)),
      (getElem?_lscan 0 rm sat us a hl).trans (congrArg some (redLanes_add_of_int _ _ _ _ h))⟩
  case sumFp =>
    intro f h
    simp only [map_fpLane h]
    exact ⟨(getElem?_lred 0 rm sat us a hl).trans (congrArg some (redLanes_add_of_fp _ _ _ _ h)),
      (getElem?_lscan 0 rm sat us a hl).trans (congrArg some (redLanes_add_of_fp _ _ _ _ h))⟩
  case extInt =>
    intro h
    obtain ⟨lo, hi, hlo, hhi, hrest⟩ := redExt_of_int h hne
    rw [← map_intLane] at hrest
    exact ⟨lo, hi, (getElem?_lred 1 rm sat us a hl).trans (congrArg some hlo),
      (getElem?_lred 2 rm sat us a hl).trans (congrArg some hhi), hrest⟩
  case extNan =>
    intro f j k h hj hnan hk hk'
    have hmem : bitLane t a j ∈ (List.range t.lanes).map (bitLane t a) :=
      List.mem_map_of_mem (List.mem_range.mpr hj)
    refine (getElem?_lred k rm sat us a hl).trans (congrArg some ?_)
    obtain rfl | rfl | rfl : k = 1 ∨ k = 2 ∨ k = 3 := by omega
    · exact redExt_of_isNan .min h hmem hnan
    · exact redExt_of_isNan .max h hmem hnan
    · exact redExt_of_isNan .amax h hmem hnan
  case bits =>
    refine ⟨_, _, _, getElem?_lred 4 rm sat us a hl, getElem?_lred 5 rm sat us a hl, getElem?_lred 6 rm sat us a hl,
      fun i _ => ⟨?_, ?_, ?_⟩⟩
    · refine (testBit_foldl_and_ones hne).trans ?_
      rw [List.all_map]
      rfl
    · refine (testBit_foldl_or _ 0 i).trans ?_
      rw [List.any_map, Nat.zero_testBit, Bool.false_or]
      rfl
    · refine (testBit_foldl_xor _ 0 i).trans ?_
      rw [List.filter_map, List.length_map, Nat.zero_testBit, Bool.false_xor]
      rfl
  case votes =>
    intro j hj
    obtain ⟨v2, hballot, hbits⟩ := getElem?_lvote_ballot a hj
    exact ⟨_, _, v2, _, getElem?_lvote_any a hj, getElem?_lvote_all a hj, hballot, getElem?_map_range _ hj, rfl, rfl,
      hbits, rfl⟩
  case packed =>
    intro q v j hv _ hj
    have hbits : packBits t = v := (packBits_eq t).trans hv.symm
    simp only [lpack, getElem?_map_range _ hj, packElem, hbits, beq_iff_eq, Bool.toNat, Bool.cond_eq_ite]
  case unpacked =>
    intro q v j hv hj
    have hbits : packBits t = v := (packBits_eq t).trans hv.symm
    simp only [lunpk, getElem?_map_range _ hj, hbits, beq_iff_eq, Nat.shiftRight_eq_div_pow]

end Sys2Proof.Proofs
end

section
/-! PROOFS. Values as exact numbers: reciprocals and roots with a sticky bit, whole numbers in fixed point, and rounding
far from a format's range (R57, R60, R77, R78, R158, R160). -/

namespace Sys2Proof.Proofs
open Sys2Proof Sys2Proof.Machine Sys2Proof.Laws

/-! ### Reciprocals and roots -/

/-- The digits that `isqrtFrom` has still to decide leave the root between its bounds. -/
theorem isqrtFrom_eq_sqrt {n k r : Nat} (hlo : r * r ≤ n) (hhi : n < (r + 2 ^ k) * (r + 2 ^ k)) :
    isqrtFrom n k r = n.sqrt := by
  induction k generalizing r with
  | zero => exact Nat.eq_sqrt.mpr ⟨hlo, hhi⟩
  | succ k ih =>
    rw [isqrtFrom]
    split <;> rename_i hc
    · refine ih hc ?_
      rwa [Nat.add_assoc, ← Nat.two_mul, ← Nat.pow_succ']
    · exact ih hlo (not_le.mp hc)

theorem isqrt_eq_sqrt (n : Nat) : isqrt n = n.sqrt := by
  refine isqrtFrom_eq_sqrt (Nat.zero_le n) ?_
  rw [Nat.zero_add, ← Nat.pow_add]
  exact Nat.lt_log2_self.trans_le (Nat.pow_le_pow_right two_pos (by omega))

/-- A number with a low bit below it that says whether it is exact. -/
theorem sticky_parts {q r : Nat} {p : Prop} [Decidable p] (hr : r = 2 * q + if p then 0 else 1) :
    r / 2 = q ∧ (r % 2 = 0 ↔ p) := by
  subst hr
  by_cases hp : p
  · simp [hp]
  · simp only [hp, if_false, iff_false]
    omega

/-- FRCP's reciprocal has a hundred bits more than its operand, and a sticky bit below them (R77). -/
theorem recipDyadic_spec (m : Nat) (e : Int) : ∃ j q : Nat, Nat.log2 m + 100 ≤ j ∧ q / 2 = 2 ^ j / m
    ∧ (q % 2 = 0 ↔ m ∣ 2 ^ j) ∧ recipDyadic m e = (q, -j - 1 - e) := by
  obtain ⟨hhalf, hsticky⟩ := sticky_parts (q := 2 ^ (m.log2 + 100) / m) (p := 2 ^ (m.log2 + 100) % m = 0) rfl
  refine ⟨m.log2 + 100, _, le_rfl, hhalf, hsticky.trans Nat.dvd_iff_mod_eq_zero.symm, ?_⟩
  simp only [recipDyadic, beq_iff_eq]

/-- The root of a whole number, with a sticky bit below it. -/
theorem sticky_sqrt (a : Nat) : ∃ r : Nat, r = 2 * isqrt a + (if isqrt a * isqrt a = a then 0 else 1)
    ∧ r / 2 * (r / 2) ≤ a ∧ a < (r / 2 + 1) * (r / 2 + 1) ∧ (r % 2 = 0 ↔ r / 2 * (r / 2) = a) := by
  obtain ⟨hhalf, hsticky⟩ := sticky_parts (q := isqrt a) (p := isqrt a * isqrt a = a) rfl
  refine ⟨_, rfl, ?_⟩
  rw [hsticky, hhalf, isqrt_eq_sqrt]
  exact ⟨Nat.sqrt_le a, Nat.lt_succ_sqrt a, Iff.rfl⟩

/-- FSQRT's root is that of its operand at an even exponent, with a hundred bits or more and a sticky bit below them
(R77). -/
theorem sqrtDyadic_spec {m : Nat} (hm : m ≠ 0) (e : Int) : ∃ (a r : Nat) (c : Int),
    (Fv.fin false m e).isScaled a (2 * c) ∧ r / 2 * (r / 2) ≤ a ∧ a < (r / 2 + 1) * (r / 2 + 1)
      ∧ (r % 2 = 0 ↔ r / 2 * (r / 2) = a) ∧ 2 ^ 200 ≤ a ∧ sqrtDyadic m e = (r, c - 1) := by
  obtain ⟨m', c, hdy, hscale, hm'⟩ : ∃ (m' : Nat) (c : Int),
      (if (e % 2 == 0) = true then (m, e) else (2 * m, e - 1)) = (m', 2 * c + 200)
        ∧ (Fv.fin false m e).isScaled (m' <<< 200) (2 * c) ∧ m' ≠ 0 := by
    split <;> rename_i he <;> rw [beq_iff_eq] at he
    · refine ⟨m, e / 2 - 100, Prod.ext rfl (by dsimp only; omega), ⟨false, m, e, rfl, ?_⟩, hm⟩
      have hup : (e - 2 * (e / 2 - 100)).toNat = 200 := by omega
      have hdown : (2 * (e / 2 - 100) - e).toNat = 0 := by omega
      rw [hup, hdown, Nat.shiftLeft_eq, Nat.pow_zero, Nat.mul_one]
    · refine ⟨2 * m, (e - 1) / 2 - 100, Prod.ext rfl (by dsimp only; omega), ⟨false, m, e, rfl, ?_⟩, by omega⟩
      have hup : (e - 2 * ((e - 1) / 2 - 100)).toNat = 200 + 1 := by omega
      have hdown : (2 * ((e - 1) / 2 - 100) - e).toNat = 0 := by omega
      rw [hup, hdown, Nat.shiftLeft_eq, Nat.pow_zero, Nat.mul_one, Nat.pow_succ]
      ring
  obtain ⟨r, hr, hle, hlt, hsticky⟩ := sticky_sqrt (m' <<< 200)
  have hbig : 2 ^ 200 ≤ m' <<< 200 := by
    rw [Nat.shiftLeft_eq]
    exact Nat.le_mul_of_pos_left _ (Nat.pos_of_ne_zero hm')
  refine ⟨m' <<< 200, r, c, hscale, hle, hlt, hsticky, hbig, ?_⟩
  have hexp : (2 * c + 200) / 2 - 101 = c - 1 := by omega
  rw [sqrtDyadic, hdy]
  simp only [hexp, hr, beq_iff_eq]

/-! ### Whole numbers in fixed point -/

/-- The sign of a value as a factor. -/
def signOf (n : Bool) : Int := if n then -1 else 1

theorem signOf_mul_signOf_mul (n : Bool) (x : Int) : signOf n * (signOf n * x) = x := by
  cases n <;> simp [signOf]

theorem isWhole_fin {n : Bool} {m : Nat} {e k : Int} :
    (Fv.fin n m e).isWhole k ↔ signOf n * m * 2 ^ e.toNat = k * 2 ^ (-e).toNat := by
  constructor
  · rintro ⟨n', m', e', hx, h⟩
    cases hx
    exact h
  · exact fun h => ⟨n, m, e, rfl, h⟩

theorem toFix_fin (n : Bool) (m : Nat) (e : Int) : toFix (.fin n m e) = signOf n * m * 2 ^ (e + fixP).toNat := by
  simp only [toFix, Fv.at, Nat.shiftLeft_eq, sub_neg_eq_add, signOf]
  cases n <;> simp

/-- The exponents of fixed point, for a value that has no bit below it. -/
theorem fix_exponents {e : Int} (he : -(fixP : Int) ≤ e) :
    (-e).toNat + (e + fixP).toNat = e.toNat + fixP := by omega

/-- No format has a finite value with a bit below fixed point (R55). -/
theorem neg_fixP_le_of_decode {f : FFmt} {b m : Nat} {n : Bool} {e : Int} (h : f.decode b = .fin n m e) :
    -(fixP : Int) ≤ e := by
  have hmin : -149 ≤ f.minLsb := by cases f <;> decide
  have hfix : fixP = 400 := rfl
  obtain ⟨-, -, -, he⟩ := fields_of_decode h
  omega

/-- A whole number in fixed point. -/
theorem toFix_of_isWhole {n : Bool} {m : Nat} {e k : Int} (he : -(fixP : Int) ≤ e) (h : (Fv.fin n m e).isWhole k) :
    toFix (.fin n m e) = k * 2 ^ fixP := by
  have hpos : (2 : Int) ^ (-e).toNat ≠ 0 := by positivity
  refine mul_right_cancel₀ hpos ?_
  calc toFix (.fin n m e) * 2 ^ (-e).toNat
      = signOf n * m * 2 ^ ((-e).toNat + (e + fixP).toNat) := by rw [toFix_fin, pow_add]; ring
    _ = signOf n * m * 2 ^ e.toNat * 2 ^ fixP := by rw [fix_exponents he, pow_add]; ring
    _ = k * 2 ^ fixP * 2 ^ (-e).toNat := by rw [isWhole_fin.mp h]; ring

/-- Four times a value, in fixed point. -/
theorem toFix_add_two (n : Bool) (m : Nat) {e : Int} (he : -(fixP : Int) ≤ e) :
    toFix (.fin n m (e + 2)) = 4 * toFix (.fin n m e) := by
  have hexp : (e + 2 + fixP).toNat = (e + fixP).toNat + 2 := by omega
  rw [toFix_fin, toFix_fin, hexp, pow_add]
  ring

/-- The quarter turn that a whole number of quarters leaves after its whole turns (R78). -/
theorem four_mul_fracFix {n : Bool} {m : Nat} {e k : Int} (he : -(fixP : Int) ≤ e)
    (h : (Fv.fin n m (e + 2)).isWhole k) : 4 * fracFix (.fin n m e) = (k % 4).toNat * 2 ^ fixP := by
  have hfour : 4 * toFix (.fin n m e) = 2 ^ fixP * k := by
    rw [← toFix_add_two n m he, toFix_of_isWhole (by omega) h, mul_comm]
  have hturn : 4 * (toFix (.fin n m e) % 2 ^ fixP) = 2 ^ fixP * (k % 4) := by
    rw [← Int.mul_emod_mul_of_pos _ _ four_pos, hfour, mul_comm 4, Int.mul_emod_mul_of_pos _ _ (by positivity)]
  have hfrac : (fracFix (.fin n m e) : Int) = toFix (.fin n m e) % 2 ^ fixP := by
    rw [fracFix, Nat.cast_pow, Nat.cast_ofNat]
    exact Int.toNat_of_nonneg (Int.emod_nonneg _ (by positivity))
  have hk : ((k % 4).toNat : Int) = k % 4 := Int.toNat_of_nonneg (Int.emod_nonneg k four_ne_zero)
  zify
  rw [hfrac, hturn, hk, mul_comm]

theorem whole?_of_isWhole {n : Bool} {m : Nat} {e k : Int} (h : (Fv.fin n m e).isWhole k) :
    (Fv.fin n m e).whole? = some k := by
  have hk := isWhole_fin.mp h
  have hsign : ∀ x : Int, (if n = true then -x else x) = signOf n * x := fun x => by
    cases n <;> simp [signOf]
  simp only [Fv.whole?, hsign]
  by_cases he : 0 ≤ e
  · have hdown : (-e).toNat = 0 := by omega
    rw [hdown, pow_zero, mul_one] at hk
    rw [if_pos he, Nat.shiftLeft_eq, ← hk, mul_assoc]
    norm_cast
  · have hup : e.toNat = 0 := by omega
    rw [hup, pow_zero, mul_one] at hk
    have hm : (m : Int) = signOf n * k * 2 ^ (-e).toNat := by
      rw [mul_assoc, ← hk, signOf_mul_signOf_mul]
    obtain ⟨j, hj⟩ : ∃ j : Nat, signOf n * k = j := by
      refine Int.eq_ofNat_of_zero_le ?_
      by_contra hneg
      have hprod := mul_neg_of_neg_of_pos (not_le.mp hneg) (by positivity : (0 : Int) < 2 ^ (-e).toNat)
      omega
    have hkj : k = signOf n * j := by rw [← hj, signOf_mul_signOf_mul]
    have hmj : m = j * 2 ^ (-e).toNat := by
      rw [hj] at hm
      exact_mod_cast hm
    rw [if_neg he, hmj, Nat.mul_mod_left, Nat.shiftRight_eq_div_pow, Nat.mul_div_cancel _ (Nat.two_pow_pos _), hkj]
    rfl

/-- A value of at least ten, in fixed point (R78). -/
theorem ten_le_toFix {n : Bool} {m : Nat} {e : Int} (he : -(fixP : Int) ≤ e)
    (h : 10 * 2 ^ (-e).toNat ≤ m * 2 ^ e.toNat) : 10 * 2 ^ fixP ≤ (toFix (.fin n m e)).natAbs := by
  have habs : (toFix (.fin n m e)).natAbs = m * 2 ^ (e + fixP).toNat := by
    rw [toFix_fin]
    cases n <;> simp [signOf, Int.natAbs_mul, Int.natAbs_pow]
  rw [habs]
  refine Nat.le_of_mul_le_mul_right ?_ (Nat.two_pow_pos (-e).toNat)
  calc 10 * 2 ^ fixP * 2 ^ (-e).toNat = 10 * 2 ^ (-e).toNat * 2 ^ fixP := by ring
    _ ≤ m * 2 ^ e.toNat * 2 ^ fixP := Nat.mul_le_mul_right _ h
    _ = m * 2 ^ ((-e).toNat + (e + fixP).toNat) := by rw [fix_exponents he, Nat.pow_add, Nat.mul_assoc]
    _ = m * 2 ^ (e + fixP).toNat * 2 ^ (-e).toNat := by rw [Nat.pow_add]; ring

theorem ne_zero_of_pow {m : Nat} (h : m = 2 ^ Nat.log2 m) : m ≠ 0 := h ▸ (Nat.two_pow_pos _).ne'

theorem log2Exact_of_pow {m : Nat} (h : m = 2 ^ Nat.log2 m) (e : Int) :
    (Fv.fin false m e).log2Exact = some (Nat.log2 m + e) := by
  have hcond : (m != 0 && m == 2 ^ Nat.log2 m) = true := by simp [ne_zero_of_pow h, ← h]
  rw [Fv.log2Exact, if_pos hcond]

/-! ### Rounding -/

/-- Moving the lowest bit of a value's significand down does not move the value, so what stands at its own spacing
stays (R57). -/
theorem roundFin_shiftLeft {f : FFmt} {m : Nat} {e : Int} (hm : m ≠ 0) (hlsb : f.lsbAt m e = e) (rm : Rm) (sat : Bool)
    (u : Nat) (n : Bool) (k : Nat) : f.roundFin rm sat u n (m <<< k) (e - k) = f.roundFin rm sat u n m e := by
  have hlog : Nat.log2 (m <<< k) = Nat.log2 m + k := by
    rw [Nat.shiftLeft_eq, Nat.log2_eq_iff (by positivity), Nat.pow_add, Nat.add_right_comm, Nat.pow_add]
    exact ⟨Nat.mul_le_mul_right _ (Nat.log2_self_le hm),
      Nat.mul_lt_mul_of_pos_right Nat.lt_log2_self (Nat.two_pow_pos k)⟩
  have hlsb' : f.lsbAt (m <<< k) (e - k) = e := by
    rw [FFmt.lsbAt, hlog, Nat.cast_add, add_add_sub_cancel]
    exact hlsb
  have hround : roundAt rm n u (m <<< k) (e - k) e = m := by
    unfold roundAt
    have hsh : (e - (e - k)).toNat = k := by omega
    split
    · next hle =>
      obtain rfl : k = 0 := by omega
      simp
    · have hrest : m <<< k % 2 ^ k = 0 := by rw [Nat.shiftLeft_eq, Nat.mul_mod_left]
      simp only [hsh, Nat.shiftLeft_shiftRight, hrest, beq_self_eq_true, if_true]
  have hm' : m <<< k ≠ 0 := by
    rw [Nat.shiftLeft_eq]
    positivity
  simp only [FFmt.roundFin, beq_iff_eq, hm, hm', if_false, hlsb, hlsb', hround, roundAt_self]

/-- A value above every finite one of the format overflows (R60). -/
theorem roundFin_of_above {f : FFmt} {m : Nat} {e : Int} (hm : m ≠ 0) (hsig : m < 2 ^ (f.mant + 1))
    (he : (topField f : Int) + f.minLsb - 1 < Nat.log2 m + e - f.mant) (rm : Rm) (sat : Bool) (u : Nat) (n : Bool) :
    f.roundFin rm sat u n m e = f.overflow rm sat n := by
  have hlog : Nat.log2 m < f.mant + 1 := (Nat.log2_lt hm).mpr hsig
  have htop := topField_pos f
  have hlsb : f.lsbAt m e = Nat.log2 m + e - f.mant := max_eq_left (by omega)
  have hq : 2 ^ f.mant ≤ roundAt rm n u m e (f.lsbAt m e) := by
    have hsh : f.mant = Nat.log2 m + (e - f.lsbAt m e).toNat := by omega
    rw [roundAt, if_pos (by omega), Nat.shiftLeft_eq]
    calc 2 ^ f.mant = 2 ^ Nat.log2 m * 2 ^ (e - f.lsbAt m e).toNat := by rw [← Nat.pow_add, ← hsh]
      _ ≤ m * 2 ^ (e - f.lsbAt m e).toNat := Nat.mul_le_mul_right _ (Nat.log2_self_le hm)
  have hfrac : topFrac f < 2 ^ f.mant := by
    have hpos := Nat.two_pow_pos f.mant
    unfold topFrac
    split <;> omega
  have habove : dyadicGt (roundAt rm n u m e (f.lsbAt m e)) (f.lsbAt m e) (topFrac f + 2 ^ f.mant)
      ((topField f : Int) + f.minLsb - 1) = true := by
    have hstep : 2 ^ 1 ≤ 2 ^ (f.lsbAt m e - ((topField f : Int) + f.minLsb - 1)).toNat :=
      Nat.pow_le_pow_right two_pos (by omega)
    rw [dyadicGt, if_pos (by omega), decide_eq_true_eq, Nat.shiftLeft_eq]
    have hmul := Nat.mul_le_mul hq hstep
    omega
  simp only [FFmt.roundFin, beq_iff_eq, hm, if_false, decode_maxCode, habove, if_true]

/-- What a rounding mode makes of a value far below half the spacing does not depend on the value (R57, R59). -/
theorem roundAt_tiny {n : Bool} {u m : Nat} {e lsb : Int} (rm : Rm) (hm : m ≠ 0)
    (h : m * 2 ^ 32 < 2 ^ (lsb - e).toNat) :
    roundAt rm n u m e lsb = if roundsUp rm n u 0 0 1 then 1 else 0 := by
  have hlt : m < 2 ^ (lsb - e).toNat := by omega
  have hle : ¬ lsb ≤ e := fun hle => by
    have hsh : (lsb - e).toNat = 0 := by omega
    rw [hsh] at hlt
    omega
  have hup : roundsUp rm n u 0 m (lsb - e).toNat = roundsUp rm n u 0 0 1 := by
    have hdiv : m * 2 ^ 32 / 2 ^ (lsb - e).toNat = 0 := Nat.div_eq_of_lt h
    have hhalf : 2 * m < 2 ^ (lsb - e).toNat := by omega
    cases rm
    case rne => simp [roundsUp, hhalf.not_gt]
    case rna => simp [roundsUp, hhalf]
    case rsto => simp only [roundsUp, hdiv, Nat.zero_mul, Nat.zero_div]
    case rtz | rdn | rup => rfl
  simp only [roundAt, hle, if_false, Nat.shiftRight_eq_div_pow, Nat.div_eq_of_lt hlt, Nat.mod_eq_of_lt hlt, beq_iff_eq,
    hm, hup]

/-- A value far below the smallest spacing of the format rounds to zero or to the smallest code, whatever it is (R57,
R59). -/
theorem roundFin_of_below {f : FFmt} {m : Nat} {e d : Int} (hm : m ≠ 0) (hsig : m < 2 ^ (f.mant + 1))
    (he : e + f.mant + 33 ≤ f.minLsb) (hd : d ≤ e) (rm : Rm) (sat : Bool) (u : Nat) (n : Bool) :
    f.roundFin rm sat u n m d = f.roundFin rm sat u n m e := by
  have hlog : Nat.log2 m < f.mant + 1 := (Nat.log2_lt hm).mpr hsig
  have hlsb : ∀ c ≤ e, f.lsbAt m c = f.minLsb := fun c hc => max_eq_right (by omega)
  have hround : ∀ c ≤ e, roundAt rm n u m c f.minLsb = if roundsUp rm n u 0 0 1 then 1 else 0 := fun c hc =>
    roundAt_tiny rm hm <|
      calc m * 2 ^ 32 < 2 ^ (f.mant + 1) * 2 ^ 32 := Nat.mul_lt_mul_of_pos_right hsig (by positivity)
        _ = 2 ^ (f.mant + 1 + 32) := (Nat.pow_add ..).symm
        _ ≤ 2 ^ (f.minLsb - c).toNat := Nat.pow_le_pow_right two_pos (by omega)
  simp only [FFmt.roundFin, beq_iff_eq, hm, if_false, hlsb d hd, hlsb e le_rfl, hround d hd, hround e le_rfl]

/-- Every power of two that FSCALE's clamp cuts off takes a finite value of the format past its range or far below it,
so that the clamp changes no result (R160). -/
theorem roundFin_clamp {f : FFmt} {b m : Nat} {n : Bool} {e : Int} (h : f.decode b = .fin n m e) (hm : m ≠ 0)
    (rm : Rm) (sat : Bool) (u : Nat) (k : Int) :
    f.roundFin rm sat u n m (e + max (-1000000) (min 1000000 k)) = f.roundFin rm sat u n m (e + k) := by
  have hsig := sig_lt_of_decode h
  have hrange : f.mant ≤ 23 ∧ -149 ≤ f.minLsb ∧ f.minLsb ≤ 0 ∧ topField f ≤ 254 := by cases f <;> decide
  obtain ⟨hfin, -, -, he⟩ := fields_of_decode h
  have hexp := expField_le_topField hfin
  rcases lt_or_ge 1000000 k with hk | hk
  · rw [roundFin_of_above hm hsig (by omega), roundFin_of_above hm hsig (by omega)]
  rcases lt_or_ge k (-1000000) with hk' | hk'
  · exact (roundFin_of_below hm hsig (by omega) (by omega) rm sat u n).symm
  · rw [min_eq_right hk, max_eq_right hk']

theorem decode_mod (f : FFmt) (b : Nat) : f.decode (b % 2 ^ (f.signBit + 1)) = f.decode b := by
  have hsign : (b % 2 ^ (f.signBit + 1)).testBit f.signBit = b.testBit f.signBit := by
    simp [Nat.testBit_mod_two_pow]
  have hexp : (b % 2 ^ (f.signBit + 1)) >>> f.mant % 2 ^ f.expo = b >>> f.mant % 2 ^ f.expo := by
    refine Nat.eq_of_testBit_eq fun i => ?_
    simp only [Nat.testBit_mod_two_pow, Nat.testBit_shiftRight, FFmt.signBit]
    by_cases hi : i < f.expo
    · have hlt : f.mant + i < f.mant + f.expo + 1 := by omega
      simp [hi, hlt]
    · simp [hi]
  have hfrac : b % 2 ^ (f.signBit + 1) % 2 ^ f.mant = b % 2 ^ f.mant :=
    Nat.mod_mod_of_dvd b (Nat.pow_dvd_pow 2 (by unfold FFmt.signBit; omega))
  have hnan : (f == .e4m3 && b % 2 ^ (f.signBit + 1) % 128 == 127) = (f == .e4m3 && b % 128 == 127) := by
    cases f
    case e4m3 => rw [Nat.mod_mod_of_dvd b (by decide : 128 ∣ 2 ^ (FFmt.e4m3.signBit + 1))]
    all_goals rfl
  simp only [FFmt.decode, hsign, hexp, hfrac, hnan]

/-- A whole number of the format is its own rounding to one (R158). -/
theorem roundFin_whole {f : FFmt} {b m : Nat} {n : Bool} {e : Int} (h : f.decode b = .fin n m e) (he : 0 ≤ e)
    (rm : Rm) (u : Nat) : f.roundFin .rne false 0 n (roundAt rm n u m e 0) 0 = b % 2 ^ (f.signBit + 1) := by
  have hcode : f.roundFin .rne false 0 n m e = b % 2 ^ (f.signBit + 1) :=
    roundingIsExact f .rne false 0 _ n m e (Nat.mod_lt _ (Nat.two_pow_pos _)) ((decode_mod f b).trans h)
  rw [roundAt, if_pos he, sub_zero, ← hcode]
  by_cases hm : m = 0
  · simp [hm, FFmt.roundFin]
  · have hzero : (0 : Int) = e - (e.toNat : Int) := by omega
    rw [hzero]
    exact roundFin_shiftLeft hm (lsbAt_of_decode h hm) .rne false 0 n e.toNat

end Sys2Proof.Proofs
end

section
/-! PROOFS. Conversions, scaling, dot products and the functions of one operand on lanes (R76 to R78, R156 to R161). -/

namespace Sys2Proof.Proofs
open Sys2Proof Sys2Proof.Machine Sys2Proof.Laws

/-! ### The special and exact cases of the six functions (R78) -/

theorem eval_nan (k : FnId) (xb : Nat) (t : Ty) : k.eval .nan xb t = { v := .nan } := by
  cases k <;> rfl

theorem eval_rsq_of_pow {m : Nat} {e k : Int} (hm : m = 2 ^ Nat.log2 m) (hk : Nat.log2 m + e = 2 * k) (xb : Nat)
    (t : Ty) : FnId.eval .rsq (.fin false m e) xb t = { v := .fin false 1 (-k) } := by
  have hhalf : 2 * k / 2 = k := by omega
  simp [FnId.eval, ne_zero_of_pow hm, log2Exact_of_pow hm, hk, hhalf]

theorem eval_log2_of_pow {m : Nat} {e k : Int} (hm : m = 2 ^ Nat.log2 m) (hk : Nat.log2 m + e = k) (xb : Nat) (t : Ty) :
    FnId.eval .log2 (.fin false m e) xb t = { v := .fin (decide (k < 0)) k.natAbs 0 } := by
  simp [FnId.eval, ne_zero_of_pow hm, log2Exact_of_pow hm, hk, Fv.ofInt]

section Fixed
variable {n : Bool} {m : Nat} {e k : Int} (he : -(fixP : Int) ≤ e)
include he

theorem eval_exp2_of_isWhole (h : (Fv.fin n m e).isWhole k) (xb : Nat) (t : Ty) :
    FnId.eval .exp2 (.fin n m e) xb t = if 128 ≤ k then { v := .inf false, overran := true }
      else if k < -149 then { v := .fin false 0 0 } else { v := .fin false 1 k } := by
  have hover : toFix (.fin n m e) ≥ ((128 * 2 ^ fixP : Nat) : Int) ↔ 128 ≤ k := by
    rw [toFix_of_isWhole he h, ge_iff_le, Nat.cast_mul, Nat.cast_pow]
    exact mul_le_mul_iff_left₀ (by positivity)
  simp only [FnId.eval, hover, whole?_of_isWhole h]

/-- A whole number of quarter turns has the sine of the quarter it ends at. -/
theorem quarterSin_fracFix (h : (Fv.fin n m (e + 2)).isWhole k) (j : Nat) :
    (4 * fracFix (.fin n m e) % 2 ^ fixP == 0) = true
      ∧ quarterSin (4 * fracFix (.fin n m e) / 2 ^ fixP + j) = quarterSin ((k + j) % 4).toNat := by
  rw [four_mul_fracFix he h, Nat.mul_mod_left, Nat.mul_div_cancel _ (Nat.two_pow_pos _)]
  have hturn : ((k % 4).toNat + j) % 4 = ((k + j) % 4).toNat % 4 := by omega
  simp only [quarterSin, hturn, beq_self_eq_true, and_self]

theorem eval_sint_of_quarter (hm : m ≠ 0) (h : (Fv.fin n m (e + 2)).isWhole k) (xb : Nat) (t : Ty) :
    FnId.eval .sint (.fin n m e) xb t = { v := quarterSin (k % 4).toNat } := by
  obtain ⟨hturn, hsin⟩ := quarterSin_fracFix he h 0
  rw [Nat.add_zero, Nat.cast_zero, add_zero] at hsin
  simp only [FnId.eval, beq_iff_eq, hm, if_false, hsin, beq_iff_eq.mp hturn, if_true]

theorem eval_cost_of_quarter (h : (Fv.fin n m (e + 2)).isWhole k) (xb : Nat) (t : Ty) :
    FnId.eval .cost (.fin n m e) xb t = { v := quarterSin ((k + 1) % 4).toNat } := by
  obtain ⟨hturn, hsin⟩ := quarterSin_fracFix he h 1
  rw [Nat.cast_one] at hsin
  simp only [FnId.eval, hsin, hturn, if_true]

theorem eval_tanh_of_ten_le (h : 10 * 2 ^ (-e).toNat ≤ m * 2 ^ e.toNat) (xb : Nat) (t : Ty) :
    FnId.eval .tanh (.fin n m e) xb t = { v := .fin n 1 0 } := by
  have hm : m ≠ 0 := by
    rintro rfl
    have hpos := Nat.two_pow_pos (-e).toNat
    omega
  have hbig : (toFix (.fin n m e)).natAbs ≥ 10 * 2 ^ fixP := ten_le_toFix he h
  simp only [FnId.eval, beq_iff_eq, hm, if_false, hbig, if_true]

end Fixed

theorem quarterSin_emod (k : Int) : quarterSin (k % 4).toNat
    = if k % 4 = 1 then .fin false 1 0 else if k % 4 = 3 then .fin true 1 0 else .fin false 0 0 := by
  obtain h | h | h | h : k % 4 = 0 ∨ k % 4 = 1 ∨ k % 4 = 2 ∨ k % 4 = 3 := by omega
  all_goals rw [h]; rfl

theorem quarterSin_succ_emod (k : Int) : quarterSin ((k + 1) % 4).toNat
    = if k % 4 = 0 then .fin false 1 0 else if k % 4 = 2 then .fin true 1 0 else .fin false 0 0 := by
  have h0 : (k + 1) % 4 = 1 ↔ k % 4 = 0 := by omega
  have h2 : (k + 1) % 4 = 3 ↔ k % 4 = 2 := by omega
  simp only [quarterSin_emod, h0, h2]

/-! ### Lanes -/

/-- A function's lane is its value, rounded to nearest for FP32 and by RM for BF16 and FP16; an overflow under SAT is
the largest finite value of FP32 (R76, R77, R159). -/
theorem fnLane_eq {k : FnId} {t : Ty} {f : FFmt} {rm : Rm} {sat : Bool} {u xb : Nat} {x : Fv} {r : FnRes}
    (hx : f.decode xb = x) (hr : ∀ x32, k.eval x x32 t = r) : fnLane k t f rm sat u xb =
      { code := f.deliver (if f = .fp32 then .rne else rm) sat u
          (if r.overran && sat then FFmt.fp32.decode 0x7F7FFFFF else r.v)
        invalid := r.invalid, divZero := r.divZero, nanIn := x == .nan } := by
  simp only [fnLane, hx, hr, beq_iff_eq]
  rfl

theorem frcpLane_fin {f : FFmt} {xb m : Nat} {n : Bool} {e : Int} (hx : f.decode xb = .fin n m e) (hm : m ≠ 0)
    (rm : Rm) (sat : Bool) (u : Nat) : frcpLane f rm sat u xb
      = { code := f.deliver rm sat u (.fin n (recipDyadic m e).1 (recipDyadic m e).2) } := by
  simp only [frcpLane, hx, beq_iff_eq, hm, if_false]

theorem fsqrtLane_fin {f : FFmt} {xb m : Nat} {e : Int} (hx : f.decode xb = .fin false m e) (hm : m ≠ 0) (rm : Rm)
    (sat : Bool) (u : Nat) : fsqrtLane f rm sat u xb
      = { code := f.deliver rm sat u (.fin false (sqrtDyadic m e).1 (sqrtDyadic m e).2) } := by
  simp only [fsqrtLane, hx, beq_iff_eq, hm, if_false, Bool.false_eq_true]

theorem frndLane_fin {f : FFmt} {xb m : Nat} {n : Bool} {e : Int} (hx : f.decode xb = .fin n m e) (rm : Rm) (u : Nat) :
    frndLane f rm u xb = { code := f.roundFin .rne false 0 n (roundAt rm n u m e 0) 0 } := by
  have habs : (roundWhole rm u n m e).natAbs = roundAt rm n u m e 0 := by
    unfold roundWhole
    cases n <;> simp
  simp only [frndLane, hx, habs]

theorem fscaleLane_fin {t : Ty} {f : FFmt} {xb m : Nat} {n : Bool} {e : Int} (hx : f.decode xb = .fin n m e)
    (hm : m ≠ 0) (rm : Rm) (sat : Bool) (u b : Nat) : fscaleLane t f rm sat u xb b
      = { code := f.roundFin rm sat u n m (e + Word.toSigned t.width b) } := by
  simp only [fscaleLane, hx, beq_iff_eq, hm, if_false, roundFin_clamp hx hm]

/-- FSCALE passes a NaN, an infinity and a zero on (R160). -/
theorem fscaleLane_special {f : FFmt} (hf : f.ieee = true) {xb : Nat}
    (hx : f.decode xb = .nan ∨ (f.decode xb).isInf = true ∨ (f.decode xb).isZero = true) (t : Ty) (rm : Rm)
    (sat : Bool) (u b : Nat) : (fscaleLane t f rm sat u xb b).code = f.deliver .rne false 0 (f.decode xb) := by
  unfold fscaleLane
  rcases hv : f.decode xb with _ | n | ⟨n, m, e⟩ <;> rw [hv] at hx <;> dsimp only
  · cases f <;> rfl
  · simp [FFmt.deliver, FFmt.roundTo, hf]
  · obtain rfl : m = 0 := by
      rcases hx with hx | hx | hx
      · cases hx
      · cases hx
      · unfold Fv.isZero at hx
        split at hx <;> simp_all
    simp [FFmt.deliver, FFmt.roundFin]

/-! ### The obligation -/

/-- Settles O11: each instruction fires with the lanes of its entry, and the lanes have the values of R78's table, of
one rounding of the exact reciprocal, root or product, and of a rounding to a whole number. -/
theorem floatFunctions : Obligations.FloatFunctions := by
  refine ⟨⟨?fcvt, ?frnd, ?frcp, ?fsqrt, ?frsq, ?fexp2, ?flog2, ?fsint, ?fcost, ?ftanh, ?fscale, ?fdot2, ?fdot4⟩,
    fun t f rm sat u x ht hf => ?lanes⟩
  case fcvt => exact fun o => draws_of_fpAlu (fun _ => rfl) fun _ _ _ => rfl
  case frnd => exact fun o => draws_of_fpAlu (fun _ => rfl) fun _ _ _ => rfl
  case frcp => exact fun o => draws_of_fpAlu (fun _ => rfl) fun _ _ _ => rfl
  case fsqrt => exact fun o => draws_of_fpAlu (fun _ => rfl) fun _ _ _ => rfl
  case frsq => exact fun o => draws_of_fpAlu (fun _ => rfl) fun _ _ _ => rfl
  case fexp2 => exact fun o => draws_of_fpAlu (fun _ => rfl) fun _ _ _ => rfl
  case flog2 => exact fun o => draws_of_fpAlu (fun _ => rfl) fun _ _ _ => rfl
  case fsint => exact fun o => draws_of_fpAlu (fun _ => rfl) fun _ _ _ => rfl
  case fcost => exact fun o => draws_of_fpAlu (fun _ => rfl) fun _ _ _ => rfl
  case ftanh => exact fun o => draws_of_fpAlu (fun _ => rfl) fun _ _ _ => rfl
  case fscale => exact fun o => draws_of_fpAlu (fun _ => rfl) fun _ _ _ => rfl
  case fdot2 => exact fun o => draws_of_fpAlu (fun _ => rfl) fun _ _ _ => rfl
  case fdot4 => exact fun o => draws_of_fpAlu (fun _ => rfl) fun _ _ _ => rfl
  case' lanes =>
    refine ⟨?nan, ?inf, ?zero, ?negative, ?rsq, ?log2, ?exp2, ?quarter, ?tanh, ?recip, ?root, ?whole, ?round, ?rndInf,
      ?scale, ?scaleSpecial⟩
  case nan =>
    intro h k
    have hlane := fnLane_eq (rm := rm) (sat := sat) (u := u) h (eval_nan k · t)
    exact ⟨congrArg LaneOut.code hlane, congrArg LaneOut.nanIn hlane, congrArg LaneOut.invalid hlane⟩
  case inf =>
    intro n h
    refine ⟨?rsqInf, ?exp2Inf, ?log2Inf, fnLane_eq (r := { v := .nan, invalid := true }) h fun _ => rfl,
      fnLane_eq (r := { v := .nan, invalid := true }) h fun _ => rfl,
      fnLane_eq (r := { v := .fin n 1 0 }) h fun _ => rfl, by simp only [frcpLane, h], by simp only [fsqrtLane, h]⟩
    case rsqInf =>
      cases n
      · exact fnLane_eq (r := { v := .fin false 0 0 }) h fun _ => rfl
      · exact fnLane_eq (r := { v := .nan, invalid := true }) h fun _ => rfl
    case exp2Inf =>
      cases n
      · exact fnLane_eq (r := { v := .inf false }) h fun _ => rfl
      · exact fnLane_eq (r := { v := .fin false 0 0 }) h fun _ => rfl
    case log2Inf =>
      cases n
      · exact fnLane_eq (r := { v := .inf false }) h fun _ => rfl
      · exact fnLane_eq (r := { v := .nan, invalid := true }) h fun _ => rfl
  case zero =>
    intro n e h
    have hwhole : ∀ c : Int, (Fv.fin n 0 c).isWhole 0 := fun c => isWhole_fin.mpr (by simp)
    exact ⟨fnLane_eq (r := { v := .inf n, divZero := true }) h fun _ => rfl,
      fnLane_eq h (eval_exp2_of_isWhole (neg_fixP_le_of_decode h) (hwhole e) · t),
      fnLane_eq (r := { v := .inf true, divZero := true }) h fun _ => rfl,
      fnLane_eq (r := { v := .fin n 0 0 }) h fun _ => rfl,
      fnLane_eq h (eval_cost_of_quarter (neg_fixP_le_of_decode h) (hwhole (e + 2)) · t),
      fnLane_eq (r := { v := .fin n 0 0 }) h fun _ => rfl, by simp [frcpLane, h], by simp [fsqrtLane, h]⟩
  case negative =>
    intro m e hm h
    exact ⟨fnLane_eq (r := { v := .nan, invalid := true }) h fun _ => by simp [FnId.eval, hm],
      fnLane_eq (r := { v := .nan, invalid := true }) h fun _ => by simp [FnId.eval, hm], by simp [fsqrtLane, h, hm]⟩
  case rsq => exact fun m e k hm h hk => fnLane_eq h (eval_rsq_of_pow hm hk · t)
  case log2 => exact fun m e k hm h hk => fnLane_eq h (eval_log2_of_pow hm hk · t)
  case exp2 =>
    intro k hk
    obtain ⟨n, m, e, h, -⟩ := id hk
    have heval := eval_exp2_of_isWhole (neg_fixP_le_of_decode h) (h ▸ hk)
    refine ⟨fun hover => ?_, fun hlo hhi => ?_, fun hunder => ?_⟩
    · exact fnLane_eq h fun x32 => (heval x32 t).trans (if_pos hover)
    · exact fnLane_eq h fun x32 => (heval x32 t).trans ((if_neg hhi.not_ge).trans (if_neg hlo.not_gt))
    · exact fnLane_eq h fun x32 => (heval x32 t).trans ((if_neg (by omega)).trans (if_pos hunder))
  case quarter =>
    intro n m e k hm h hk
    rw [← quarterSin_emod, ← quarterSin_succ_emod]
    exact ⟨fnLane_eq h (eval_sint_of_quarter (neg_fixP_le_of_decode h) hm hk · t),
      fnLane_eq h (eval_cost_of_quarter (neg_fixP_le_of_decode h) hk · t)⟩
  case tanh => exact fun n m e h hten => fnLane_eq h (eval_tanh_of_ten_le (neg_fixP_le_of_decode h) hten · t)
  case recip =>
    intro n m e hm h
    obtain ⟨j, q, hj, hq, hexact, hrecip⟩ := recipDyadic_spec m e
    refine ⟨j, q, hj, hq, hexact, (frcpLane_fin h hm rm sat u).trans ?_⟩
    rw [hrecip]
  case root =>
    intro m e hm h
    obtain ⟨a, r, c, hscale, hle, hlt, hexact, hbig, hroot⟩ := sqrtDyadic_spec hm e
    refine ⟨a, r, c, hscale, hle, hlt, hexact, hbig, (fsqrtLane_fin h hm rm sat u).trans ?_⟩
    rw [hroot]
  case whole =>
    intro n m e h he
    rw [frndLane_fin h]
    exact roundFin_whole h he rm u
  case round => exact fun n m e h => frndLane_fin h rm u
  case rndInf =>
    intro n h
    simp only [frndLane, h]
  case scale => exact fun n m e b hm h => fscaleLane_fin h hm rm sat u b
  case scaleSpecial =>
    have hieee : f.ieee = true := by rcases hf with rfl | rfl | rfl <;> rfl
    exact fun b h => fscaleLane_special hieee h t rm sat u b

end Sys2Proof.Proofs
end

section
/-! PROOFS. The elements of a bank: a store is read back, and leaves every other byte alone (R193, R194). -/

namespace Sys2Proof.Proofs
open Sys2Proof Sys2Proof.Machine Sys2Proof.Laws

theorem lt_of_mem_bytesAt {a : Nat} {bs : List Byte} {w : Nat × Byte} (h : w ∈ bytesAt a bs) :
    w.1 < a + bs.length := by
  obtain ⟨i, hi, rfl⟩ := List.mem_mapIdx.mp h
  exact Nat.add_lt_add_left hi a

@[simp] theorem bytes_setElem (b : Bank) (off s v : Nat) :
    (b.setElem off s v).bytes = writeAll b.bytes (bytesAt off (Word.toBytes s v)) := rfl

/-- A little-endian value written is read back, cut to its bytes (R7). -/
theorem readLe_writeAll_toBytes {m : Mem} (h : m.wf = true) (a n v : Nat) :
    readLe (writeAll m (bytesAt a (Word.toBytes n v))) a n = v % 2 ^ (8 * n) := by
  have hread := readBytes_writeAll_bytesAt h a (Word.toBytes n v)
  rw [length_toBytes] at hread
  rw [readLe, hread, ofBytes_toBytes, Nat.pow_mul]

/-- A run of bytes written leaves every address outside it alone. -/
theorem readByte_writeAll_outside (m : Mem) {a c : Nat} {bs : List Byte} (h : c < a ∨ a + bs.length ≤ c) :
    readByte (writeAll m (bytesAt a bs)) c = readByte m c := by
  refine readByte_writeAll_of_not_mem m _ fun w hw => ?_
  have hlo := le_of_mem_bytesAt hw
  have hhi := lt_of_mem_bytesAt hw
  omega

/-- Settles O20: an element is the run of its bytes in the bank. -/
theorem elementReadAfterWrite : Obligations.ElementReadAfterWrite := by
  intro b off s x hwf
  refine ⟨readLe_writeAll_toBytes hwf off s x, fun a ha => ?_⟩
  rw [bytes_setElem]
  exact readByte_writeAll_outside _ (by rwa [length_toBytes])

end Sys2Proof.Proofs
end

section
/-! PROOFS. Element accesses through a binding slot (R172, R175, R197), and the firing of instructions of both modes in
an element block. -/

namespace Sys2Proof.Proofs
open Sys2Proof Sys2Proof.Machine Sys2Proof.Laws

/-! ### Banks that a binding slot names -/

theorem ctl_of_elemBank {d : Dev} {e : Site} {k : Nat} {wr : Bool} {x : Inst} {bd : Binding} {b : Bank}
    (h : ElemBank d e k wr x bd b) : e.ctl = false := h.1

theorem elemFault_eq_none {b : Bank} {wr : Bool} (hpassed : b.passed = false) (hsealed : b.sealed = false)
    (hcls : wr = true → b.cls ≠ .input) : b.elemFault wr false = none := by
  cases wr <;> simp_all [Bank.elemFault]

/-- An access inside a bank whose slot is in order goes on with its effect (R172, R197). -/
theorem withBank_of_elemBank {d : Dev} {e : Site} {k : Nat} {wr : Bool} {x : Inst} {bd : Binding} {b : Bank}
    {kind : Nat} {at_ : Bank → Nat × Bool} {f : Inst → Binding → Bank → Fired} (h : ElemBank d e k wr x bd b)
    (hin : (at_ b).2 = false) : d.withBank e k wr kind at_ f = f x bd b := by
  obtain ⟨-, hx, hb, howned, hpassed, hsealed, hcls⟩ := h
  simp [Dev.withBank, hx, hb, howned, hin, elemFault_eq_none hpassed hsealed hcls]

/-- A read of elements of a bank without uncorrectable granules carries no poison and posts no report (R175). -/
theorem elemsPoison_of_bad_nil {b : Bank} (h : b.bad = []) (d : Dev) (e : Site) (port : Nat) (bd : Binding) (s : Nat)
    (es : List (Option Int)) : d.elemsPoison e port bd b s es = (d, none) := by
  have hgood : b.badElem s es = none := by
    rw [Bank.badElem, List.findSome?_eq_none_iff]
    rintro (_ | v) -
    · rfl
    · simp [Bank.badAt, h]
  rw [Dev.elemsPoison, hgood]

/-! ### Firing in an element block -/

/-- An instruction of both modes fires in an element block as its effect there says. -/
theorem firesIf_of_elem {i : Instr} (ctl elem : Mem → Site → Gathered → Dev → Fired)
    {ok : Site → Gathered → Mem → Dev → Prop} {f : Site → Gathered → Mem → Dev → Dev × Res}
    (hx : ∀ s, Machine.exec i s = act s fun m d => d.fire i false fun e g d =>
      if e.ctl then ctl m e g d else elem m e g d)
    (hk : ∀ e g m d, ok e g m d → e.ctl = false)
    (he : ∀ m e g d, ok e g m d → elem m e g d = .done (f e g m d).1 (f e g m d).2) : FiresIf i ok f :=
  firesIf_of_fire hx fun m e g d ho _ => by rw [hk e g m d ho, ← he m e g d ho]; rfl

/-- LDB fires in an element block as its effect there says. -/
theorem firesIf_ldb_elem {o : OpM} {ok : Site → Gathered → Mem → Dev → Prop}
    {f : Site → Gathered → Mem → Dev → Dev × Res} (hk : ∀ e g m d, ok e g m d → e.ctl = false)
    (he : ∀ m e g d, ok e g m d → g.computes = true → ldbElem o e g d = .done (f e g m d).1 (f e g m d).2) :
    FiresIf (.ldb o) ok f := by
  intro s e g hs h hc ho
  have hx : Machine.exec (.ldb o) s = act s (bodyLdb o) := rfl
  have heff : (if e.ctl then ldbCtl o s.mem e g s.dev else ldbElem o e g s.dev)
      = .done (f e g s.mem s.dev).1 (f e g s.mem s.dev).2 := by
    rw [hk _ _ _ _ ho, ← he _ _ _ _ ho hc]
    rfl
  rw [hx, act, sound_clean hs, bodyLdb_of_firing h, fire_of_computes h hc heff]
  rfl

end Sys2Proof.Proofs
end

section
/-! PROOFS. Matrix instructions beside MMA: arming, accumulator banks, scale memory and MOUT (R178, R183, R186 to
R190). -/

namespace Sys2Proof.Proofs
open Sys2Proof Sys2Proof.Machine Sys2Proof.Laws

/-! ### Arming -/

/-- Settles O16: the holds that MBIND names arm the bank, and with none the binding is skipped. -/
theorem mbindArms : Obligations.MbindArms := by
  refine ⟨fun o x bd b => ?arms, fun o => ?skips⟩
  case arms =>
    refine firesIf_of_fire (always := true) (eff := fun _ => mbindElem o) (fun _ => rfl) ?_
    rintro m e g d ⟨hx, hb, hpassed, howned, hholds, hfull, hn⟩ hg
    simp [mbindElem, hx, hb, hpassed, howned, hholds, hfull, hn, hg]
  case skips =>
    refine firesIf_of_fire (always := true) (eff := fun _ => mbindElem o) (fun _ => rfl) ?_
    rintro m e g d hn hg
    simp [mbindElem, hn, hg]

/-! ### Fills and banks without uncorrectable granules -/

theorem badRows_of_bad_nil {b : Bank} (h : b.bad = []) (n : Nat) : b.badRows n = [] := by
  simp [Bank.badRows, Bank.badAt, h]

@[simp] theorem operandReport_nil (d : Dev) (e : Site) (k : Nat) (bd : Binding) (b : Bank) :
    d.operandReport e k bd b [] = d := rfl

/-- MACCI with KS set loads the bank from an armed fill that is not sealed (R187). -/
theorem macciLoad_ready {o : OpX} {x : Inst} {bd : Binding} {b : Bank} {e : Site} {g : Gathered} {d : Dev}
    (hx : d.inst e.cfg = some x) (hfill : x.fillAt e.tile o.ba.val e.record = .ready bd b) (hsealed : b.sealed = false)
    (hbad : b.bad = []) (hg : g.computes = true) :
    macciLoad o e g d = .done ((d.updInst e.cfg fun x => x.updMe e.tile fun me => me.setBank o.bank.val
      { me.bank o.bank.val with words := loadAcc (o.afmt == .bf16) b.fill, pois := [] }).releases e [o.ba.val])
      (.data g.a.data none) := by
  simp [macciLoad, hx, hfill, hg, hsealed, badRows_of_bad_nil hbad]

/-- MSCLS copies an armed fill into scale memory (R190). -/
theorem msclsElem_ready {o : OpX} {x : Inst} {bd : Binding} {b : Bank} {e : Site} {g : Gathered} {d : Dev}
    (hx : d.inst e.cfg = some x) (hfill : x.fillAt e.tile o.ba.val e.record = .ready bd b) (hbad : b.bad = [])
    (hg : g.computes = true) :
    msclsElem o e g d = .done ((d.updInst e.cfg fun x => x.updMe e.tile fun me =>
      { me with
        scale := writeAll me.scale (bytesAt (1024 * o.bb.val)
          (readBytes b.port (b.bufBase b.readPtr) (256 * (o.ks.toNat + 1))))
        scaleCaps := me.capsAfter b (1024 * o.bb.val) (256 * (o.ks.toNat + 1)) }).releases e [o.ba.val])
      (.data g.a.data none) := by
  simp [msclsElem, hx, hfill, hg, badRows_of_bad_nil hbad]

/-! ### MOUT -/

/-- MOUT has nothing to log when no row is poisoned and no conversion is invalid (R67, R188). -/
def MoutClean (pp : Ppol) (acc : AccBank) (outs : List LaneOut) : Prop :=
  acc.lowest = none ∧ (outs.all fun r => (laneCause pp { code := 0, invalid := r.invalid }).isNone) = true

theorem MoutClean.firstOrg_eq_none {pp : Ppol} {acc : AccBank} {outs : List LaneOut} (h : MoutClean pp acc outs)
    (w : BitVec 24) :
    firstOrg acc.lowest (if (outs.map fun r => (laneCause pp { code := 0, invalid := r.invalid }).isSome).any id
      then some w else none) = none := by
  obtain ⟨hrow, hconv⟩ := h
  have hany : (outs.map fun r => (laneCause pp { code := 0, invalid := r.invalid }).isSome).any id = false := by
    simpa [List.all_eq_true, Option.isSome_eq_false_iff] using hconv
  rw [hrow, hany]
  rfl

/-- The device after a clean MOUT to an output port: the tokens of the bank stand in the port as one burst. -/
def moutSent (o : OpG) (p : Nat) (c : Ct) (e : Site) (d : Dev) : Dev :=
  let acc := c.me.bank (o.fn.toNat % 4)
  let outs := moutElems o acc (d.draw e o.rm (128 * 192)).1
  let toks := moutToks o.ty.width acc
    (outs.map fun r => (laneCause e.hdr.ppol { code := 0, invalid := r.invalid }).isSome)
    (packBitsOf o.ty.width (outs.map (·.code))) (e.origin 1)
  (d.draw e o.rm (128 * 192)).2.updInst e.cfg fun x => match x.tile e.tile with
    | some t => x.setTile e.tile (t.burst e.blk e.record p toks true)
    | none => x

/-- A clean MOUT whose first target is an output port sends its elements there (R188). -/
theorem moutElemFire_port {o : OpG} {p : Fin 16} {x : Inst} {c : Ct} {e : Site} {g : Gathered} {d : Dev}
    (hp : o.hd.t0 = .out p) (hx : d.inst e.cfg = some x) (hc : x.ct e.tile = some c)
    (hclean : MoutClean e.hdr.ppol (c.me.bank (o.fn.toNat % 4))
      (moutElems o (c.me.bank (o.fn.toNat % 4)) (d.draw e o.rm (128 * 192)).1)) :
    moutElemFire o e g d = .done (moutSent o p c e d) .none := by
  simp only [moutElemFire, hx, hc, hclean.firstOrg_eq_none, hp]
  rfl

/-- A clean MOUT without an output port fills the bank of its binding whole (R188). -/
theorem moutElemFire_bank {o : OpG} {x : Inst} {c : Ct} {bd : Binding} {b : Bank} {e : Site} {g : Gathered} {d : Dev}
    (hp : ∀ p, o.hd.t0 ≠ .out p) (hb : ElemBank (d.draw e o.rm (128 * 192)).2 e (o.fn.toNat / 4) true x bd b)
    (hx : d.inst e.cfg = some x) (hc : x.ct e.tile = some c)
    (hclean : MoutClean e.hdr.ppol (c.me.bank (o.fn.toNat % 4))
      (moutElems o (c.me.bank (o.fn.toNat % 4)) (d.draw e o.rm (128 * 192)).1)) (hfull : b.fillFull = false) :
    moutElemFire o e g d = .done ((d.draw e o.rm (128 * 192)).2.putBank e.cfg bd.tile bd.bank
      (b.wholeFill (Word.toBytes (128 * 192 * o.ty.width / 8) (packBitsOf o.ty.width
        ((moutElems o (c.me.bank (o.fn.toNat % 4)) (d.draw e o.rm (128 * 192)).1).map (·.code)))))) .none := by
  simp only [moutElemFire, hx, hc, hclean.firstOrg_eq_none]
  cases ht : o.hd.t0 with
  | out p => exact absurd ht (hp p)
  | none | left _ | right _ | pred _ =>
    dsimp only
    rw [withBank_of_elemBank hb, hfull]
    all_goals rfl

/-- Settles O18: MZERO and MSWAP write accumulator banks, MACCI and MSCLS read an armed fill, and a clean MOUT goes to
a port or a bank. -/
theorem accumulatorInstructions : Obligations.AccumulatorInstructions := by
  refine ⟨⟨?mzero, ?mswap, ?macci, ?macciLoad, ?mscls⟩, ?moutPort, ?moutBank⟩
  case mzero =>
    exact fun o => firesWith_of_fire (fun _ => rfl) (fun _ _ _ _ => rfl) (fun _ _ _ => updInst_wq ..)
      fun _ _ _ => updInst_tx ..
  case mswap =>
    exact fun o => firesWith_of_fire (fun _ => rfl) (fun _ _ _ _ => rfl) (fun _ _ _ => updInst_wq ..)
      fun _ _ _ => updInst_tx ..
  case macci =>
    refine fun o hks => delivers_of_res (f := fun _ g => .data g.a.data none) (fun s => ?_) fun _ _ => rfl
    have hbody : bodyMacci o = fun _ d => d.fireRes (.macci o) fun _ g => .data g.a.data none :=
      funext₂ fun _ _ => if_pos (beq_iff_eq.mpr hks)
    exact congrArg (act s) hbody
  case macciLoad =>
    refine fun o x bd b hks => firesIf_of_fire (always := true) (eff := fun _ => macciLoad o) (fun s => ?_) ?_
    · have hbody : bodyMacci o = fun _ d => d.fire (.macci o) true (macciLoad o) :=
        funext₂ fun _ _ => if_neg (mt beq_iff_eq.mp hks)
      exact congrArg (act s) hbody
    · exact fun m e g d ⟨hx, hfill, hsealed, hbad⟩ hg => macciLoad_ready hx hfill hsealed hbad hg
  case mscls =>
    exact fun o x bd b => firesIf_of_fire (eff := fun _ => msclsElem o) (fun _ => rfl)
      fun m e g d ⟨hx, hfill, hbad⟩ hg => msclsElem_ready hx hfill hbad hg
  case moutPort =>
    exact fun o p x c hp => firesIf_of_fire (eff := fun _ => moutElemFire o) (fun _ => rfl)
      fun m e g d ⟨hx, hc, hclean⟩ _ => moutElemFire_port hp hx hc hclean
  case moutBank =>
    exact fun o x c bd b hp => firesIf_of_fire (eff := fun _ => moutElemFire o) (fun _ => rfl)
      fun m e g d ⟨hb, hx, hc, hclean, hfull⟩ _ => moutElemFire_bank hp hb hx hc hclean hfull

end Sys2Proof.Proofs
end

section
/-! PROOFS. Elements of the scratchpad read, written and updated by element blocks, and their fences and barriers (R193,
R194, R202 to R204). -/

namespace Sys2Proof.Proofs
open Sys2Proof Sys2Proof.Machine Sys2Proof.Laws

/-- An update of elements that all lie in a bank without uncorrectable granules writes the new values and gives the old
ones (R202). -/
theorem updateElem_inside {o : OpM} {res : Bool} {f : Nat → Nat → Nat} {e : Site} {g : Gathered} {d : Dev} {x : Inst}
    {bd : Binding} {b : Bank} (hbad : b.bad = []) (hb : ElemBank d e o.auxh.toNat true x bd b)
    (hin : (eltOutside o (eltIdx o g.a.data o.ty.lanes)).2 = false) :
    updateElem o res f e g d
      = .done (d.putBank e.cfg bd.tile bd.bank (b.updateElems (eltBytes o) f 0 (eltIdx o g.a.data o.ty.lanes)).1)
          (if res then
            .data (packLanes o.ty.laneWidth (b.updateElems (eltBytes o) f 0 (eltIdx o g.a.data o.ty.lanes)).2) none
          else .done) := by
  unfold updateElem
  dsimp only
  rw [withBank_of_elemBank hb hin, elemsPoison_of_bad_nil hbad]

theorem casOp_eq (w old cmp new : Nat) :
    casOp w old cmp new = if old % 2 ^ w = cmp % 2 ^ w then new % 2 ^ w else old := by
  simp only [casOp, beq_iff_eq]

/-- Settles O19: an access inside its bank does what its element form says, and FENCE and BARW go on when what they
wait for holds. -/
theorem elementScratch : Obligations.ElementScratch := by
  refine ⟨⟨?lds, ?sts⟩, ?upd, ?updf, ?ucas, ?fence, ?bara, ?barw⟩
  case lds =>
    refine fun o x bd b => firesIf_of_elem (fun _ => ldsCtl o) (fun _ => ldsElem o) (fun _ => rfl)
      (fun _ _ _ _ ⟨hb, _⟩ => ctl_of_elemBank hb) ?_
    rintro m e g d ⟨hb, hin⟩
    exact withBank_of_elemBank hb hin
  case sts =>
    refine fun o x bd b => firesIf_of_fireCommit (eff := fun _ => stsElem o) (fun s => (rfl : execSts o s = _))
      (fun _ _ _ _ ⟨hb, _⟩ => ctl_of_elemBank hb) ?_
    rintro m e g d ⟨hb, hin⟩ -
    exact withBank_of_elemBank hb hin
  case upd =>
    exact fun o x bd b hbad => firesIf_of_fireCommit (eff := fun _ e g => updateElem o false (updLane o g) e g)
      (fun s => (rfl : execUpd o s = _)) (fun _ _ _ _ ⟨hb, _⟩ => ctl_of_elemBank hb)
      fun m e g d ⟨hb, hin⟩ _ => updateElem_inside hbad hb hin
  case updf =>
    exact fun o x bd b hbad => firesIf_of_fireCommit (eff := fun _ e g => updateElem o true (updLane o g) e g)
      (fun s => (rfl : execUpdf o s = _)) (fun _ _ _ _ ⟨hb, _⟩ => ctl_of_elemBank hb)
      fun m e g d ⟨hb, hin⟩ _ => updateElem_inside hbad hb hin
  case ucas =>
    refine fun o x bd b hbad => firesIf_of_fireCommit (eff := fun _ e g => updateElem o true (fun l old =>
      casOp o.ty.width old (laneOf o.ty.laneWidth g.b.data l) (laneOf o.ty.laneWidth g.c.data l)) e g)
      (fun s => (rfl : execUcas o s = _)) (fun _ _ _ _ ⟨hb, _⟩ => ctl_of_elemBank hb) ?_
    rintro m e g d ⟨hb, hin⟩ -
    simp only [casOp_eq]
    exact updateElem_inside hbad hb hin
  case fence =>
    refine fun o c b => firesIf_of_fireCommit (eff := fun _ => fenceElem o) (fun s => (rfl : execFence o s = _))
      (fun _ _ _ _ ⟨hctl, _⟩ => hctl) ?_
    rintro m e g d ⟨-, hc, hb, hmet⟩ -
    simp only [fenceElem, hc, hb, hmet, if_true]
  case bara =>
    refine fun o x bd b mt => firesIf_of_fireCommit (eff := fun _ => baraElem o) (fun s => (rfl : execBara o s = _))
      (fun _ _ _ _ ⟨hctl, _⟩ => hctl) ?_
    rintro m e g d ⟨-, hx, hb, hmt⟩ -
    simp only [baraElem, hx, hb, hmt]
  case barw =>
    refine fun o x bd b mt => firesIf_of_elem (fun _ => barwCtl o) (fun _ => barwElem o) (fun _ => rfl)
      (fun _ _ _ _ ⟨hctl, _⟩ => hctl) ?_
    rintro m e g d ⟨-, hx, hb, hmt, hmet⟩
    simp only [barwElem, hx, hb, hmt, hmet, Option.bind_some, if_true]

end Sys2Proof.Proofs
end

section
/-! PROOFS. Rows, versioned words and waits of element blocks (R178, R195, R198, R199). -/

namespace Sys2Proof.Proofs
open Sys2Proof Sys2Proof.Machine Sys2Proof.Laws

/-! ### Rows -/

/-- The fill that an LDB reads in a TILE bank is armed and is not skipped; other modes have no fill (R178). -/
def LdbArmed (o : OpM) (x : Inst) (b : Bank) (e : Site) : Prop :=
  b.mode = .tile → b.armedFor (holdKey e.tile o.auxl.toNat) e.record = true
    ∧ (x.skipped e.tile o.auxl.toNat e.record && o.auxh.getLsbD 0) = false

theorem unarmed_eq_none {o : OpM} {d : Dev} {e : Site} {x : Inst} {bd : Binding} {b : Bank}
    (hb : ElemBank d e o.auxl.toNat false x bd b) (hready : LdbArmed o x b e) :
    d.unarmed e o.auxl.toNat (o.auxh.getLsbD 0) = none := by
  obtain ⟨-, hx, hbound, -⟩ := hb
  simp only [Dev.unarmed, hx, hbound, Option.bind_some, Option.map_some]
  by_cases hm : b.mode = .tile
  · obtain ⟨harmed, hskip⟩ := hready hm
    rw [Bool.and_comm] at hskip
    simp only [hskip, harmed, Bool.not_true, Bool.false_eq_true, if_false, ite_self]
  · simp only [bne_iff_ne.mpr hm, Bool.true_or, if_true]

theorem firstOrg_none (w : Option (BitVec 24)) : firstOrg w none = w := by cases w <;> rfl

/-- A row that lies in the buffer of a TILE bank does not overrun it (R195). -/
theorem overran_eq_false {b : Bank} {r : Option Int}
    (h : ∀ i, b.mode = .tile → r = some i → 0 ≤ i ∧ i.toNat < b.rowLimit) :
    (b.mode == .tile && r.isSome && (r.getD 0 < 0 || (r.getD 0).toNat ≥ b.rowLimit)) = false := by
  by_cases hm : b.mode = .tile
  · cases r with
    | none => simp
    | some i =>
      obtain ⟨hlo, hhi⟩ := h i hm rfl
      simp only [Option.getD_some, Int.not_lt.mpr hlo, ge_iff_le, Nat.not_le.mpr hhi, decide_false, Bool.or_self,
        Bool.and_false]
  · simp [hm]

/-- Where a row lies, in a bank in order, an LDB gives the row and moves the read position (R195). -/
theorem ldbElem_row {o : OpM} {e : Site} {g : Gathered} {d : Dev} {x : Inst} {bd : Binding} {b : Bank} {r : Option Int}
    {off : Nat} (hg : g.computes = true) (hbad : b.bad = []) (hb : ElemBank d e o.auxl.toNat false x bd b)
    (hr : rowIndex o g.a.data = r) (hsome : b.mode ≠ .fifo → r.isSome = true) (hready : LdbArmed o x b e)
    (hin : b.mode = .tile → 0 ≤ r.getD 0 ∧ (r.getD 0).toNat < b.rowLimit) (hat : b.rowAt true (r.getD 0) = .at_ off) :
    ldbElem o e g d = .done
      (d.putBank e.cfg bd.tile bd.bank (b.afterRead (o.auxh.getLsbD 0) (some (holdKey e.tile o.auxl.toNat))))
      (.tok { data := b.row off, s := b.rowS off, p := g.org.isSome, org := g.org.getD 0 }) := by
  have hrow : (b.mode != .fifo && r.isNone) = false := by
    by_cases hm : b.mode = .fifo
    · rw [bne_eq_false_iff_eq.mpr hm, Bool.false_and]
    · rw [Option.isNone_eq_false_iff.mpr (hsome hm), Bool.and_false]
  simp only [ldbElem, hg, unarmed_eq_none hb hready, hr, Bool.not_true, Bool.false_and, Bool.true_and,
    Bool.false_eq_true, if_false]
  rw [withBank_of_elemBank hb
    (overran_eq_false fun i hm hi => by simpa only [hi, Option.getD_some] using hin hm)]
  simp only [hrow, hat, bankPoison_of_bad_nil hbad, firstOrg_none, Bool.false_eq_true, if_false]

/-- A lane of ones reads nothing, and an LDB of it moves the read position alone (R195). -/
theorem ldbElem_nothing {o : OpM} {e : Site} {g : Gathered} {d : Dev} {x : Inst} {bd : Binding} {b : Bank}
    (hg : g.computes = true) (hmode : b.mode ≠ .fifo) (hb : ElemBank d e o.auxl.toNat false x bd b)
    (hr : rowIndex o g.a.data = none) (hready : LdbArmed o x b e) :
    ldbElem o e g d = .done
      (d.putBank e.cfg bd.tile bd.bank (b.afterRead (o.auxh.getLsbD 0) (some (holdKey e.tile o.auxl.toNat))))
      (.tok { p := g.org.isSome, org := g.org.getD 0 }) := by
  simp only [ldbElem, hg, unarmed_eq_none hb hready, hr, Bool.not_true, Bool.false_and, Bool.true_and,
    Bool.false_eq_true, if_false]
  rw [withBank_of_elemBank hb (overran_eq_false (r := none) fun _ _ h => nomatch h)]
  simp only [bne_iff_ne.mpr hmode, Option.isNone_none, Bool.and_self, if_true]

/-- A TILE bank after an STB that names a row, or none (R195). -/
def putNamed (b : Bank) (r : Option Int) (x : Data) (s last : Bool) : Bank :=
  match r with
  | some i => b.putRow i.toNat x s last
  | none => if last then b.endFill else b

/-- An STB of a TILE bank whose fill pointer has a free buffer writes the row that it names, and with LAST ends the fill
(R195). -/
theorem stbElem_tile {o : OpM} {e : Site} {g : Gathered} {d : Dev} {x : Inst} {bd : Binding} {b : Bank} {r : Option Int}
    (hmode : b.mode = .tile) (hb : ElemBank d e o.auxl.toNat true x bd b) (hfull : b.fillFull = false)
    (hr : rowIndex o g.a.data = r) (hin : ∀ i, r = some i → 0 ≤ i ∧ i.toNat < b.rowLimit) :
    stbElem o e g d = .done (d.putBank e.cfg bd.tile bd.bank
      (putNamed b r g.b.data g.b.s (o.auxh.getLsbD 0))) .done := by
  simp only [stbElem, hr]
  rw [withBank_of_elemBank hb (overran_eq_false fun i _ hi => hin i hi), beq_iff_eq.mpr hmode, hfull]
  cases r <;> rfl

/-- An STB of a ring with room pushes its row (R195). -/
theorem stbElem_ring {o : OpM} {e : Site} {g : Gathered} {d : Dev} {x : Inst} {bd : Binding} {b b' : Bank}
    (hmode : b.mode ≠ .tile) (hb : ElemBank d e o.auxl.toNat true x bd b) (hpush : b.push g.b.data g.b.s = some b') :
    stbElem o e g d = .done (d.putBank e.cfg bd.tile bd.bank b') .done := by
  simp only [stbElem]
  rw [withBank_of_elemBank hb (overran_eq_false fun i hm _ => absurd hm hmode), beq_eq_false_iff_ne.mpr hmode, hpush]
  rfl

/-! ### Waits -/

/-- A wait of an element block on a bank without uncorrectable granules delivers the element that it watches once its
condition holds (R199). -/
theorem waitElem_met {least : Bool} {o : OpM} {e : Site} {g : Gathered} {d : Dev} {x : Inst} {bd : Binding} {b : Bank}
    (hbad : b.bad = []) (hb : ElemBank d e o.auxl.toNat false x bd b)
    (hin : (eltOutside o (eltIdx o g.a.data 1)).2 = false)
    (hmet : waitMet least o.ty ((b.loadElems (eltBytes o) (eltIdx o g.a.data 1)).headD 0)
      (laneOf o.ty.laneWidth g.b.data 0) = true) :
    waitElem least o e g d = .done d (.data ((splat false o.ty
      ((b.loadElems (eltBytes o) (eltIdx o g.a.data 1)).headD 0)).data false) none) := by
  unfold waitElem
  dsimp only
  rw [withBank_of_elemBank hb hin, hmet, elemsPoison_of_bad_nil hbad]
  rfl

/-! ### The obligation -/

/-- Settles O21: each instruction finds the row, the word or the element that it names in a bank in order. -/
theorem elementRowsAndWords : Obligations.ElementRowsAndWords := by
  refine ⟨?ldbRow, ?ldbNothing, ?stbTile, ?stbRing, ?ldv, ?stv, ?vrecl, ?storeNothing, ?ldvNothing, ?wfa, ?uwait⟩
  case ldbRow =>
    exact fun o x bd b r off hbad => firesIf_ldb_elem (fun _ _ _ _ ⟨hb, _⟩ => ctl_of_elemBank hb)
      fun m e g d ⟨hb, hr, hsome, hready, hin, hat⟩ hg => ldbElem_row hg hbad hb hr hsome hready hin hat
  case ldbNothing =>
    exact fun o x bd b hmode => firesIf_ldb_elem (fun _ _ _ _ ⟨hb, _⟩ => ctl_of_elemBank hb)
      fun m e g d ⟨hb, hr, hready⟩ hg => ldbElem_nothing hg hmode hb hr hready
  case stbTile =>
    exact fun o x bd b r hmode => firesIf_of_fireCommit (eff := fun _ => stbElem o) (fun s => (rfl : execStb o s = _))
      (fun _ _ _ _ ⟨hb, _⟩ => ctl_of_elemBank hb) fun m e g d ⟨hb, hfull, hr, hin⟩ _ => stbElem_tile hmode hb hfull hr hin
  case stbRing =>
    exact fun o x bd b b' hmode => firesIf_of_fireCommit (eff := fun _ => stbElem o) (fun s => (rfl : execStb o s = _))
      (fun _ _ _ _ ⟨hb, _⟩ => ctl_of_elemBank hb) fun m e g d ⟨hb, hpush⟩ _ => stbElem_ring hmode hb hpush
  case ldv =>
    refine fun o x bd b r v hbad => firesIf_of_elem (fun _ => ldvCtl o) (fun _ => ldvElem o) (fun _ => rfl)
      (fun _ _ _ _ ⟨hb, _⟩ => ctl_of_elemBank hb) ?_
    rintro m e g d ⟨hb, hr, hin, hv⟩
    simp only [ldvElem, hr]
    rw [withBank_of_elemBank hb, hv, bankPoison_of_bad_nil hbad]
    exact hin
  case stv =>
    refine fun o x bd b r w => firesIf_of_fireCommit (eff := fun _ => stvElem o) (fun s => (rfl : execStv o s = _))
      (fun _ _ _ _ ⟨hb, _⟩ => ctl_of_elemBank hb) ?_
    rintro m e g d ⟨hb, hr, hin, hw⟩ -
    simp only [stvElem, hr]
    rw [withBank_of_elemBank hb, hw]
    exact hin
  case vrecl =>
    refine fun o x bd b r => firesIf_of_fireCommit (eff := fun _ => vreclElem o) (fun s => (rfl : execVrecl o s = _))
      (fun _ _ _ _ ⟨hb, _⟩ => ctl_of_elemBank hb) ?_
    rintro m e g d ⟨hb, hr, hin⟩ -
    simp only [vreclElem, hr]
    exact withBank_of_elemBank hb hin
  case storeNothing =>
    rintro i o x bd b (rfl | rfl)
    · refine firesIf_of_fireCommit (eff := fun _ => stvElem o) (fun s => (rfl : execStv o s = _))
        (fun _ _ _ _ ⟨hb, _⟩ => ctl_of_elemBank hb) ?_
      rintro m e g d ⟨hb, hr⟩ -
      simp only [stvElem, hr]
      exact withBank_of_elemBank hb rfl
    · refine firesIf_of_fireCommit (eff := fun _ => vreclElem o) (fun s => (rfl : execVrecl o s = _))
        (fun _ _ _ _ ⟨hb, _⟩ => ctl_of_elemBank hb) ?_
      rintro m e g d ⟨hb, hr⟩ -
      simp only [vreclElem, hr]
      exact withBank_of_elemBank hb rfl
  case ldvNothing =>
    refine fun o x bd b => firesIf_of_elem (fun _ => ldvCtl o) (fun _ => ldvElem o) (fun _ => rfl)
      (fun _ _ _ _ ⟨hb, _⟩ => ctl_of_elemBank hb) ?_
    rintro m e g d ⟨hb, hr⟩
    simp only [ldvElem, hr]
    exact withBank_of_elemBank hb rfl
  case wfa =>
    exact fun o x bd b hbad => firesIf_of_elem (waitCtl false o) (fun _ => waitElem false o) (fun _ => rfl)
      (fun _ _ _ _ ⟨hb, _⟩ => ctl_of_elemBank hb)
      fun m e g d ⟨hb, hin, hmet⟩ => waitElem_met hbad hb hin (waitMet_equal.2 hmet)
  case uwait =>
    exact fun o x bd b hbad => firesIf_of_elem (waitCtl true o) (fun _ => waitElem true o) (fun _ => rfl)
      (fun _ _ _ _ ⟨hb, _⟩ => ctl_of_elemBank hb)
      fun m e g d ⟨hb, hin, hmet⟩ => waitElem_met hbad hb hin (waitMet_least.2 hmet)

end Sys2Proof.Proofs
end

section
/-! PROOFS. Pattern registers, and the commands that bind a virtual port: what a control block's commit does to the
scoreboard of its core (R208, R210 to R214, R216, R225, R226). -/

namespace Sys2Proof.Proofs
open Sys2Proof Sys2Proof.Machine Sys2Proof.Laws

/-! ### Effects at commit -/

/-- At its block's commit an instruction that makes no write and leaves the transaction going changes the device as its
step there says. -/
theorem commits_of_act {i : Instr} {body : Mem → Dev → Dev} {com : CoreId → Frame → Capture → Dev → Dev}
    (hx : ∀ s, Machine.exec i s = act s body)
    (hb : ∀ m id f c d, d.committing id f c → body m d = com id f c d)
    (hw : ∀ id f c d, (com id f c d).wq = d.wq) (ht : ∀ id f c d, (com id f c d).tx = d.tx) : Commits i com := by
  intro s id f c hs h
  have hbody := hb s.mem id f c s.dev h
  have ⟨_, hwq, htx⟩ := hs
  rw [hx, act_eq hs (by rw [hbody, hw, hwq]) (by rw [hbody, ht, htx]), hbody]

/-- An instruction performed by `commits` that changes its core alone. -/
theorem commits_of_updCore {i : Instr} {com : CoreId → Frame → Capture → Dev → Dev}
    (f : CoreId → Frame → Capture → Dev → Core → Core)
    (hx : ∀ s, Machine.exec i s = act s fun _ d => d.commits i com)
    (hc : ∀ id fr c d, com id fr c d = d.updCore id (f id fr c d)) :
    Commits i fun id fr c d => d.updCore id (f id fr c d) :=
  commits_of_act hx (fun _ id fr c d h => by rw [commits_committing h, hc]) (fun _ _ _ _ => rfl) fun _ _ _ _ => rfl

/-! ### APLD, which fires and has an effect at commit as well -/

/-- Where its slot can fire, APLD is a load. -/
theorem bodyApld_of_firing {o : OpS} {m : Mem} {d : Dev} {p : Site × Gathered} (h : d.firing (.apld o) = some p) :
    bodyApld o m d = d.fire (.apld o) false fun e g d => apldFire o m e g d := by
  unfold Dev.firing at h
  unfold bodyApld
  cases hf : d.focus with
  | commit id slot => simp [hf] at h
  | none | fire _ _ | elem _ _ _ _ | engine _ => rfl

/-- At its block's commit APLD sets its pattern register to what it has read. -/
theorem bodyApld_committing {o : OpS} {m : Mem} {d : Dev} {id : CoreId} {f : Frame} {c : Capture}
    (h : d.committing id f c) : bodyApld o m d = d.setPat id o.ap.val (BitVec.ofNat 512 c.b.data.toNat) := by
  obtain ⟨slot, hfocus, hframe, hcap, -⟩ := h
  simp [bodyApld, hfocus, hframe, hcap]

/-- APLD from main memory keeps for its commit the 64 bytes that its block's entry sees (R94, R211). -/
theorem apldFire_mem {o : OpS} {m : Mem} {e : Site} {g : Gathered} {d : Dev} {a : Nat} {now bs : List Byte}
    {p q : Option Nat} (hga : ((d.core e.core).reg o.ga).v.toNat = a) (hal : a % 64 = 0) (hmt : Word.bit a 63 = false)
    (hnow : (d.load m (d.coreAcc e.core .ldg .rd 0) a 64).2 = .ok (now, p))
    (hbs : ((d.atEntry e.core).load (d.entryMem e.core m) (d.coreAcc e.core .ldg .rd 0) a 64).2 = .ok (bs, q)) :
    apldFire o m e g d = .done ((d.load m (d.coreAcc e.core .ldg .rd 0) a 64).1.alsoCommit e
      { g with b := { data := BitVec.ofNat 1024 (Word.ofBytes bs) } }) .none := by
  subst hga
  simp only [apldFire, hal, hmt, Dev.entryLoad, loadAs_of_ok hnow, hbs]
  rfl

/-- Settles O27: each command's change at the commit, and APLD's read as its block is entered. -/
theorem patternRegisters : Obligations.PatternRegisters := by
  refine ⟨?apset, ?apcpy, ?apclr, ?apldCommit, ?apldFires, ?sbar⟩
  case apset => exact fun o => commits_of_updCore _ (fun _ => rfl) fun _ _ _ _ => rfl
  case apcpy => exact fun o => commits_of_updCore _ (fun _ => rfl) fun _ _ _ _ => rfl
  case apclr => exact fun o => commits_of_updCore _ (fun _ => rfl) fun _ _ _ _ => rfl
  case apldCommit =>
    exact fun o => commits_of_act (body := bodyApld o) (fun _ => rfl) (fun _ _ _ _ _ h => bodyApld_committing h)
      (fun _ _ _ _ => rfl) fun _ _ _ _ => rfl
  case apldFires =>
    intro o a s e g hs h hc ⟨_, hga, hal, hmt, hnow, hbs⟩
    obtain ⟨⟨now, p⟩, hnow⟩ := exists_of_isOk hnow
    obtain ⟨⟨bs, q⟩, hbs⟩ := exists_of_isOk hbs
    have hx : Machine.exec (.apld o) s = act s (bodyApld o) := rfl
    rw [hx, act, sound_clean hs, bodyApld_of_firing h,
      fire_of_computes h hc (apldFire_mem hga hal hmt hnow hbs)]
    simp only [hbs]
    rfl
  case sbar =>
    exact fun o => commits_of_act (fun s => (rfl : execSbar o s = _)) (fun _ _ _ _ _ h => commits_committing h _ _)
      (fun _ _ _ _ => rfl) fun _ _ _ _ => rfl

/-! ### Commands that enter a scoreboard -/

/-- A command enters the scoreboard queue of its core while that has room (R213). -/
theorem queueCmd_of_room {d : Dev} {id : CoreId}
    (h : ((d.core id).board.filter fun q => q.kind != .sbar).length < 32) (vp : Option (Nat × Nat)) (k : CmdKind) :
    d.queueCmd id vp k = d.addCmd id vp k := if_neg (Nat.not_le.mpr h)

/-- The command of a binding of kind `kind` to a virtual port (R210). -/
def bindOf (kind : BindKind) (o : OpS) (id : CoreId) (d : Dev) : VpBind :=
  let gathers := kind == .gather || kind == .scatter || kind == .update
  { kind := kind, pat := (d.core id).pat o.ap.val, ctx := (d.issuer id).1, part := (d.issuer id).2.1
    idxVp := if gathers then o.aux.toNat % 64 else 0
    op := if kind == .update then o.sub.toNat % 16 else 0
    ty := if kind == .update then Ty.ofCode (o.sub.toNat / 16) else .i32 }

/-- A binding command whose pattern is in order for its kind and fits its port is queued (R208, R212, R213). -/
theorem bindCom_queued {kind : BindKind} {o : OpS} {id : CoreId} {fr : Frame} {c : Capture} {d : Dev} {k : Nat}
    {x : Inst} {v : Vp} (hroom : ((d.core id).board.filter fun q => q.kind != .sbar).length < 32)
    (hill : patIllegal ((d.core id).pat o.ap.val) false = false)
    (hfault : patFault ((d.core id).pat o.ap.val) false = none)
    (hdim : kind = .gather ∨ kind = .scatter ∨ kind = .update → patNdim ((d.core id).pat o.ap.val) = 1)
    (hesz : kind = .update → patEsz ((d.core id).pat o.ap.val) = 2) (hinst : d.instOf id = some (k, x))
    (hvp : x.liveVp o.vp.val = some v) (hwin : overWindow v ((d.core id).pat o.ap.val) = false) :
    bindCom kind o id fr c d = d.addCmd id (some (k, o.vp.val)) (.bind (bindOf kind o id d)) := by
  have hgathers : ((kind == .gather || kind == .scatter || kind == .update)
      && patNdim ((d.core id).pat o.ap.val) != 1) = false := by
    by_cases hk : kind = .gather ∨ kind = .scatter ∨ kind = .update
    · simp [hdim hk]
    · simp_all
  have hupdates : (kind == .update && patEsz ((d.core id).pat o.ap.val) != 2) = false := by
    by_cases hk : kind = .update
    · simp [hesz hk]
    · simp [hk]
  simp only [bindCom, hinst, hvp, hill, hgathers, hupdates, hfault, hwin]
  exact queueCmd_of_room hroom _ _

/-- Settles O28: the five commands commit by `bindCom`, each with its kind. -/
theorem bindingCommands : Obligations.BindingCommands := by
  unfold Obligations.BindingCommands
  intro ok com
  have queued : ∀ (i : Instr) (kind : BindKind) (o : OpS) (out : Bool),
      (∀ s, Machine.exec i s = act s fun _ d => d.bindCmd i kind o out) → CommitsIf i (ok kind o) (com kind o) := by
    refine fun i kind o out hx => commitsIf_of_act hx fun m id f c d h ho => ?_
    obtain ⟨hroom, hill, hfault, hdim, hesz, k, x, v, hinst, hvp, hwin⟩ := ho
    rw [Dev.bindCmd, fireCommit_committing h, bindCom_queued hroom hill hfault hdim hesz hinst hvp hwin]
    simp only [com, hinst]
    rfl
  exact ⟨fun o => queued _ .input o false fun _ => rfl, fun o => queued _ .output o true fun _ => rfl,
    fun o => queued _ .gather o false fun _ => rfl, fun o => queued _ .scatter o true fun _ => rfl,
    fun o => queued _ .update o true fun _ => rfl⟩

end Sys2Proof.Proofs
end

section
/-! PROOFS. Copies, waits and the end of a binding: what the commands of a control block queue or change at its commit
(R213, R215, R216, R222 to R224, R276, R281). -/

namespace Sys2Proof.Proofs
open Sys2Proof Sys2Proof.Machine Sys2Proof.Laws

/-! ### Commands that meet no cause -/

/-- A command that meets no cause goes on with its commit (R304). -/
@[simp] theorem orTrap_nil (d : Dev) (fr : Frame) (slot : Nat) (go : Dev) : d.orTrap fr slot [] go = go := rfl

section Copies
variable {o : OpS} {id : CoreId} {fr : Frame} {c : Capture} {d : Dev}

/-- A copy command has room in its scoreboard, and neither its source pattern nor its completion word raises a cause
(R208, R213, R222). -/
def CopyClean (keyed : Bool) (o : OpS) (id : CoreId) (d : Dev) : Prop :=
  ((d.core id).board.filter fun q => q.kind != .sbar).length < 32
    ∧ patCauses ((d.core id).pat o.ap.val) keyed = []
    ∧ d.cwCauses id ((d.core id).cwPair (o.sub.getLsbD 2) o.gb) = []

/-- The copy from a command's source pattern to `dst`, with the command's completion word (R222). -/
def copyTo (o : OpS) (id : CoreId) (dst : CopyDst) (d : Dev) : Copy :=
  d.newCopy id ((d.core id).pat o.ap.val) dst ((d.core id).cwPair (o.sub.getLsbD 2) o.gb)

/-- SCOPY between two patterns of one size queues its copy (R223). -/
theorem scopyCom_pattern (h0 : o.sub.toNat % 4 = 0) (h : CopyClean false o id d)
    (hdst : patCauses ((d.core id).pat (o.aux.toNat % 16)) false = [])
    (hsize : patTotal ((d.core id).pat o.ap.val) * patBytes ((d.core id).pat o.ap.val)
      = patTotal ((d.core id).pat (o.aux.toNat % 16)) * patBytes ((d.core id).pat (o.aux.toNat % 16))) :
    scopyCom o id fr c d
      = d.addCmd id none (.copy (copyTo o id (.pattern ((d.core id).pat (o.aux.toNat % 16))) d)) := by
  obtain ⟨hroom, hsrc, hcw⟩ := h
  simp only [scopyCom, h0, hsrc, hcw, hdst, hsize, bne_self_eq_false]
  exact queueCmd_of_room hroom _ _

/-- SCOPY into a bank queues its copy (R223). -/
theorem scopyCom_bank {dst : CopyDst} (h1 : o.sub.toNat % 4 = 1) (h : CopyClean false o id d)
    (hbank : d.bankCauses id ((d.core id).reg o.ga).v.toNat ((d.core id).pat o.ap.val) [.tile, .scale] (fun _ => true)
      = ([], some dst)) : scopyCom o id fr c d = d.addCmd id none (.copy (copyTo o id dst d)) := by
  obtain ⟨hroom, hsrc, hcw⟩ := h
  simp only [scopyCom, h1, hsrc, hcw, hbank]
  exact queueCmd_of_room hroom _ _

/-- SCOPY into a virtual port queues its copy for the port (R223). -/
theorem scopyCom_port {k : Nat} {x : Inst} {v : Vp} (h2 : 2 ≤ o.sub.toNat % 4) (h : CopyClean false o id d)
    (hinst : d.instOf id = some (k, x)) (hvp : x.liveVp o.vp.val = some v)
    (hwin : overWindow v ((d.core id).pat o.ap.val) = false) :
    scopyCom o id fr c d
      = d.addCmd id (some (k, o.vp.val)) (.copy (copyTo o id (.vport k o.vp.val) d)) := by
  obtain ⟨hroom, hsrc, hcw⟩ := h
  have hsub : o.sub.toNat % 4 = 2 ∨ o.sub.toNat % 4 = 3 := by omega
  rcases hsub with hsub | hsub
  all_goals
    simp only [scopyCom, hsub, hsrc, hcw, hinst, hvp, hwin]
    exact queueCmd_of_room hroom _ _

/-- SSCL queues a scale fill, with the binding of its handle when it is keyed (R224, R276). -/
theorem ssclCom_queued {dst : CopyDst} {key : List (Nat × Nat × Nat) × Option (BitVec 512 × Nat × Nat × Nat)}
    (h : CopyClean (o.sub.getLsbD 0) o id d) (hkeyed : o.sub.getLsbD 0 = patKeyed ((d.core id).pat o.ap.val))
    (hbank : d.bankCauses id ((d.core id).reg o.ga).v.toNat ((d.core id).pat o.ap.val) [.scale] (fun _ => true)
      = ([], some dst))
    (hkey : key = if o.sub.getLsbD 0 then
        d.keyCauses (d.issuer id).2.1 (d.issuer id).1 (o.aux.toNat % 16) ((d.core id).pat o.ap.val) true
      else ([], none)) (hno : key.1 = []) :
    ssclCom o id fr c d
      = d.addCmd id none (.copy { copyTo o id dst d with scale := true, key := key.2 }) := by
  obtain ⟨hroom, hsrc, hcw⟩ := h
  have hne : (o.sub.getLsbD 0 != patKeyed ((d.core id).pat o.ap.val)) = false := by rw [hkeyed, bne_self_eq_false]
  simp only [ssclCom, hne, hsrc, hcw, hbank, ← hkey, hno]
  exact queueCmd_of_room hroom _ _

/-- SCOPYK queues a copy with the binding of its handle (R276, R281). -/
theorem scopykCom_queued {dst : CopyDst} {key : Option (BitVec 512 × Nat × Nat × Nat)} (h : CopyClean true o id d)
    (hbank : d.bankCauses id ((d.core id).reg o.ga).v.toNat ((d.core id).pat o.ap.val) [.tile]
      (fun b => b.cls == .input) = ([], some dst))
    (hkey : d.keyCauses (d.issuer id).2.1 (d.issuer id).1 (o.aux.toNat % 16) ((d.core id).pat o.ap.val) false
      = ([], key)) :
    scopykCom o id fr c d = d.addCmd id none (.copy { copyTo o id dst d with key := key }) := by
  obtain ⟨hroom, hsrc, hcw⟩ := h
  simp only [scopykCom, hsrc, hcw, hbank, hkey]
  exact queueCmd_of_room hroom _ _

end Copies

/-! ### The end of a binding -/

@[simp] theorem vp_setVp_same (x : Inst) (n : Nat) (v : Vp) : (x.setVp n v).vp n = some v :=
  lookup_insert_same n v x.fab.vps

@[simp] theorem vp_setTile (x : Inst) (t : Nat) (v : Tile) (n : Nat) : (x.setTile t v).vp n = x.vp n := rfl

@[simp] theorem tile_setVp (x : Inst) (n : Nat) (v : Vp) (t : Nat) : (x.setVp n v).tile t = x.tile t := rfl

/-- A port whose binding fed its consumer, once that binding has ended (R216). -/
def endedVp (v : Vp) (b : VpBind) : Vp :=
  { v with bind := none, ended := true, killed := true, spent := true, discards := false, elems := b.passed }

/-- Ending a binding that feeds its port's consumer ends the port, and sends a null token that closes (R216). -/
theorem killVp_of_feeds {x : Inst} {n : Nat} {v : Vp} {b : VpBind} {t : Tile} {q : InPort} (hv : x.vp n = some v)
    (hb : v.bind = some b) (hkind : b.kind = .input ∨ b.kind = .gather ∨ b.kind = .copyIn)
    (ht : x.tile v.tile = some t) (hq : lookup v.port t.inp = some q) :
    x.killVp n = (x.setVp n (endedVp v b)).setTile v.tile
      { t with inp := Machine.insert v.port { q with q := q.q ++ [{ n := true, l := true }] } t.inp } := by
  have hfeeds : (b.kind == .input || b.kind == .gather || b.kind == .copyIn) = true := by
    simpa [or_assoc] using hkind
  simp [Inst.killVp, hv, hb, hfeeds, ht, hq, endedVp]

/-- Settles O29: each command that meets no cause is queued, and a binding that SKILL ends closes its port. -/
theorem copiesAndPorts : Obligations.CopiesAndPorts := by
  refine ⟨⟨?pattern, ?bank, ?port, ?sscl, ?scopyk, ?swait, ?sstat, ?skill⟩, ?closes⟩
  case pattern =>
    refine fun o h0 => commitsIf_of_act (fun _ => rfl) fun m id f c d h ⟨hclean, hdst, hsize⟩ => ?_
    rw [bodyScopy, fireCommit_committing h, scopyCom_pattern h0 hclean hdst hsize]
    rfl
  case bank =>
    refine fun o dst h1 => commitsIf_of_act (fun _ => rfl) fun m id f c d h ⟨hclean, hbank⟩ => ?_
    rw [bodyScopy, fireCommit_committing h, scopyCom_bank h1 hclean hbank]
    rfl
  case port =>
    refine fun o k x v h2 => commitsIf_of_act (fun _ => rfl) fun m id f c d h ⟨hclean, hinst, hvp, hwin⟩ => ?_
    rw [bodyScopy, fireCommit_committing h, scopyCom_port h2 hclean hinst hvp hwin]
    rfl
  case sscl =>
    refine fun o dst key => commitsIf_of_act (fun _ => rfl) fun m id f c d h ho => ?_
    obtain ⟨hclean, hkeyed, hbank, hkey, hno⟩ := ho
    rw [bodySscl, commits_committing h, ssclCom_queued hclean hkeyed hbank hkey hno]
    rfl
  case scopyk =>
    refine fun o dst key => commitsIf_of_act (fun _ => rfl) fun m id f c d h ⟨hclean, hbank, hkey⟩ => ?_
    rw [bodyScopyk, commits_committing h, scopykCom_queued hclean hbank hkey]
    rfl
  case swait =>
    refine fun o k x => commitsIf_of_act (fun _ => rfl) fun m id f c d h ⟨hinst, hnone⟩ => ?_
    have hidle : ((d.core id).board.any (·.names k o.vp.val)) = false := by simpa using hnone
    rw [bodySwait, fireCommit_committing h]
    simp only [hinst, hidle, Bool.false_eq_true, if_false]
  case sstat =>
    refine fun o k x v => commitsIf_of_act (fun _ => rfl) fun m id f c d h ⟨hinst, hvp⟩ => ?_
    rw [bodySstat, fireCommit_committing h]
    simp only [hinst, hvp]
  case skill =>
    refine fun o k x => commitsIf_of_act (fun _ => rfl) fun m id f c d h hinst => ?_
    rw [bodySkill, fireCommit_committing h]
    simp only [hinst]
  case closes =>
    intro x n v b t q hv hb hkind ht hq
    rw [killVp_of_feeds hv hb hkind ht hq]
    simp [endedVp]

end Sys2Proof.Proofs
end

section
/-! PROOFS. Collectives, chaining and the ownership tokens of banks, in both modes (R42, R227 to R231). -/

namespace Sys2Proof.Proofs
open Sys2Proof Sys2Proof.Machine Sys2Proof.Laws

/-! ### Collectives of element blocks -/

/-- The group of an element's call knows the rank of its tile and has kept the result of its call (R227 to R229). -/
def ResultKept (o : OpS) (x : Inst) (rank : Nat) (k : KeptRes) (e : Site) (m : Mem) (d : Dev) : Prop :=
  e.ctl = false ∧ d.inst e.cfg = some x
    ∧ (d.group m x.part x.ctx o.vp.val).2.rankOf (d.group m x.part x.ctx o.vp.val).1.self e.cfg (tileCol e.tile)
        (tileRow e.tile) true = some rank
    ∧ (d.group m x.part x.ctx o.vp.val).2.kept.find? (fun k =>
        k.cfg == e.cfg && k.tile == e.tile && k.place == 128 * e.blk + e.slot && k.record == e.record) = some k

/-- A collective whose result is held takes it (R228, R229). -/
theorem collElem_kept {i : Instr} {o : OpS} {x : Inst} {rank : Nat} {k : KeptRes} {e : Site} {g : Gathered} {m : Mem}
    {d : Dev} (h : ResultKept o x rank k e m d) :
    collElem i o m e g d = collDeliver i e g k.toks (d.group m x.part x.ctx o.vp.val).1 := by
  obtain ⟨-, hx, hrank, hkept⟩ := h
  simp only [collElem, hx, hrank, hkept]

/-- A collective other than CAGTH takes the first token of its result (R228). -/
theorem collDeliver_token {i : Instr} (h : i.opcode ≠ 0xB2) (e : Site) (g : Gathered) (ts : List Tok) (d : Dev) :
    collDeliver i e g ts d = .done d (.tok (ts.headD {})) := by
  simp [collDeliver, h]

/-- CAGTH sends its result to an output port as one burst (R228). -/
theorem collDeliver_burst {o : OpS} {p : Fin 16} {g : Gathered} (hp : o.hd.t0 = .out p) (hg : g.computes = true)
    (e : Site) (ts : List Tok) (d : Dev) :
    collDeliver (.cagth o) e g ts d = .done (d.updInst e.cfg fun x => match x.tile e.tile with
      | some t => x.setTile e.tile (t.burst e.blk e.record p.val ts false)
      | none => x) .none := by
  have ht : (Instr.cagth o).head.t0 = .out p := hp
  simp only [collDeliver, hg, ht]
  rfl

/-- A collective in an element block fires with the result that its group holds. -/
theorem firesIf_collective {i : Instr} {o : OpS} {x : Inst} {rank : Nat} {k : KeptRes}
    {f : Site → Gathered → Mem → Dev → Dev × Res}
    (hx : ∀ s, Machine.exec i s = act s fun m d => d.collective i o m)
    (hf : ∀ e g m d, g.computes = true → collDeliver i e g k.toks (d.group m x.part x.ctx o.vp.val).1
      = .done (f e g m d).1 (f e g m d).2) : FiresIf i (fun e _ m d => ResultKept o x rank k e m d) f :=
  firesIf_of_fireCommit (eff := fun m e g d => collElem i o m e g d) hx (fun _ _ _ _ h => h.1)
    fun m e g d h hg => by rw [collElem_kept h, hf e g m d hg]

/-! ### Collectives of control blocks -/

/-- The call that a collective command of a control rank makes; `d1` is the device once the group is known (R227,
R228). -/
def controlCall (i : Instr) (o : OpS) (id : CoreId) (k rank : Nat) (d d1 : Dev) : CollCall :=
  let src := (d.core id).pat o.ap.val
  let cw := ((d.core id).cwPair true o.gb).getD (0, 0)
  { rank := rank, mnem := i.opcode, op := o.sub.toNat % 16, ty := collTy o
    bytes := patTotal src * patBytes src, root := ((d.core id).reg o.ga).v.toNat, src := src
    ctl := some (id, (d.core id).pat (o.aux.toNat % 16), cw.1, cw.2), ctx := (d.issuer id).1
    part := (d.issuer id).2.1, cfg := k, who := { d1.coreRec id with cls := 2 } }

/-- A collective command that meets no cause is queued for its rank, which a CC has by its page's place in its
configuration (R213, R227, R228). -/
theorem collCom_queued {i : Instr} {o : OpS} {m : Mem} {page : Fin 128} {fr : Frame} {c : Capture} {d d1 : Dev}
    {gr : Group} {k rank : Nat} {x : Inst} (hinst : d.instOf (.cc page) = some (k, x))
    (hroom : ((d.core (.cc page)).board.filter fun q => q.kind != .sbar).length < 32)
    (hsrc : patCauses ((d.core (.cc page)).pat o.ap.val) false = [])
    (hdst : patCauses ((d.core (.cc page)).pat (o.aux.toNat % 16)) false = [])
    (hcw : d.cwCauses (.cc page) ((d.core (.cc page)).cwPair true o.gb) = [])
    (hgroup : d.group m (d.issuer (.cc page)).2.1 (d.issuer (.cc page)).1 o.vp.val = (d1, gr))
    (hcore : d1.core (.cc page) = d.core (.cc page))
    (hrank : gr.rankOf d1.self k (page.val % 16 - x.col0) (page.val / 16 - x.row0) false = some rank) :
    collCom i o m (.cc page) fr c d
      = d1.addCmd (.cc page) none (.coll o.vp.val (controlCall i o (.cc page) k rank d d1)) := by
  rw [← hcore] at hroom
  simp only [collCom, hinst, hsrc, hdst, hcw, hgroup, hrank]
  exact queueCmd_of_room hroom _ _

/-! ### Ownership tokens -/

theorem passBank_eq (x : Inst) (t b : Nat) :
    x.passBank t b = if (t, b) ∈ x.btoks then x else { x with btoks := x.btoks ++ [(t, b)] } := by
  simp only [Inst.passBank, List.contains_iff_mem]

/-- BTOK of an element block whose bank is owned lets its token pass (R42, R231). -/
theorem btokElem_passes {o : OpI} {e : Site} {g : Gathered} {d : Dev} {x : Inst} {bd : Binding} {b : Bank}
    (hx : d.inst e.cfg = some x) (hb : x.bound e.tile (o.imm.toNat % 16) = some (bd, b)) (hpassed : b.passed = false)
    (howned : b.owned = true) :
    btokElem o e g d = .done (d.updInst e.cfg fun x => x.passBank bd.tile bd.bank) .none := by
  simp [btokElem, hx, hb, hpassed, howned]

/-- BTOK of a control block whose address names a bank that its configuration owns lets its token pass (R42, R231). -/
theorem btokCom_passes {id : CoreId} {c : Capture} {d : Dev} {a k t : Nat} {x : Inst} {mt : Mt} {b : Bank}
    (ha : c.a.data.toNat % 2 ^ 64 = a) (hmt : d.mtOf id a = some (k, x, t, mt)) (hb : mt.banks[mtBank a]? = some b)
    (hpassed : b.passed = false) (hofs : mtOfs a = 0) (howned : b.owned = true) :
    btokCom id c d = d.updInst k fun x => x.passBank t (mtBank a) := by
  subst ha
  simp only [btokCom, hmt, hb, hpassed, hofs, howned]
  rfl

/-- Settles O30: the collectives take their kept result or queue their call, CFGNX and BTOK note what the round's end
is to do. -/
theorem collectivesAndChaining : Obligations.CollectivesAndChaining := by
  refine ⟨?collectives, ?cfgnxElem, ?cfgnxCommit, ?btokElem, ?btokCommit⟩
  case collectives =>
    intro kept one cmd
    have queued : ∀ (i : Instr) (o : OpS), (∀ s, Machine.exec i s = act s fun m d => d.collective i o m) →
        cmd i o := by
      refine fun i o hx k x rank => commitsIf_of_act hx fun m id f c d h ho => ?_
      obtain ⟨hinst, hroom, hsrc, hdst, hcw, hcore, hrank⟩ := ho
      cases id with
      | sys n => cases hinst
      | cc page =>
        rw [Dev.collective, fireCommit_committing h, collCom_queued hinst hroom hsrc hdst hcw rfl hcore hrank]
        rfl
    have takes : ∀ (i : Instr) (o : OpS), (∀ s, Machine.exec i s = act s fun m d => d.collective i o m) →
        i.opcode ≠ 0xB2 → one i o :=
      fun i o hx hop x rank k => firesIf_collective hx fun e g _ _ _ => collDeliver_token hop e g k.toks _
    refine ⟨fun o => takes _ o (fun _ => rfl) ?cred, fun o => takes _ o (fun _ => rfl) ?cbcst,
      fun o x rank k p hp => ?cagth, fun o => queued _ o fun _ => rfl, fun o => queued _ o fun _ => rfl,
      fun o => queued _ o fun _ => rfl⟩
    case cred => exact show 0xB0 ≠ 0xB2 by decide
    case cbcst => exact show 0xB1 ≠ 0xB2 by decide
    case cagth =>
      exact firesIf_collective (i := .cagth o) (fun _ => rfl) fun e g _ _ hg => collDeliver_burst hp hg e k.toks _
  case cfgnxElem =>
    exact fun o => firesIf_of_fireCommit (eff := fun _ e _ d => .done (d.updInst e.cfg fun x => x.makeLast 0) .none)
      (fun s => (rfl : execCfgnx o s = _)) (fun _ _ _ _ h => h) fun _ _ _ _ _ _ => rfl
  case cfgnxCommit =>
    refine fun o k x => commitsIf_of_act (fun _ => rfl) fun m id f c d h hinst => ?_
    rw [bodyCfgnx, fireCommit_committing h]
    simp only [hinst]
    rfl
  case btokElem =>
    intro o x bd b
    refine firesIf_of_fireCommit (eff := fun _ => btokElem o) (fun s => (rfl : execBtok o s = _))
      (fun _ _ _ _ h => h.1) fun m e g d ⟨_, hx, hb, hpassed, howned⟩ _ => ?_
    simp only [btokElem_passes hx hb hpassed howned, passBank_eq]
  case btokCommit =>
    refine fun o k x t mt b => commitsIf_of_act (fun _ => rfl) fun m id f c d h ho => ?_
    obtain ⟨hmt, hb, hpassed, hofs, howned⟩ := ho
    rw [bodyBtok, fireCommit_committing h, btokCom_passes rfl hmt hb hpassed hofs howned]
    simp only [passBank_eq]

end Sys2Proof.Proofs
end

section
/-! PROOFS. Writes to this package's memory (R258, R364, R389, R392, R393). -/

namespace Sys2Proof.Proofs
open Sys2Proof Sys2Proof.Machine Sys2Proof.Laws

/-! ### What the tag check looks at (R389) -/

/-- The tag of a frame replaced by one that names the same users and is in use as before leaves the tag check alone. -/
theorem tagPass_insert_tag {d : Dev} {hfn : Nat} {t : FrameTag} (ho : t.owner = (d.tag hfn).owner)
    (hh : t.hyp = (d.tag hfn).hyp) (he : t.exp = (d.tag hfn).exp) (hi : t.etid = (d.tag hfn).etid)
    (hs : (t.state == 1 || t.state == 2) = ((d.tag hfn).state == 1 || (d.tag hfn).state == 2)) :
    ({ d with tags := Machine.insert hfn t d.tags } : Dev).tagPass = d.tagPass := by
  funext tid peer host
  have htag : ({ d with tags := Machine.insert hfn t d.tags } : Dev).tag (host / frameBytes)
      = if host / frameBytes = hfn then t else d.tag (host / frameBytes) := by
    simp only [Dev.tag, lookup_insert]
    split <;> rfl
  have hpart : ({ d with tags := Machine.insert hfn t d.tags } : Dev).part = d.part := rfl
  simp only [Dev.tagPass, htag, hpart]
  split
  · next heq => rw [heq, ho, hh, he, hi, hs]
  · rfl

/-- A change of a partition that keeps its TIDs leaves the tag check alone. -/
theorem updPart_tagPass {d : Dev} {k : Nat} {f : Partition → Partition} (h : (f (d.part k)).tid = (d.part k).tid) :
    (d.updPart k f).tagPass = d.tagPass := by
  have htag : (d.updPart k f).tag = d.tag := rfl
  have hpart : ∀ j, ((d.updPart k f).part j).tid = (d.part j).tid := by
    intro j
    by_cases hj : j = k
    · rw [hj, part_updPart_same, h]
    · rw [part_updPart_ne d f hj]
  funext tid peer host
  simp only [Dev.tagPass, htag, Partition.tidBase, Partition.tidCnt, hpart]
  rfl

@[simp] theorem fresh_tagPass (d : Dev) : d.fresh.2.tagPass = d.tagPass := rfl

@[simp] theorem write_tagPass (d : Dev) (ws : List (Nat × Byte)) : (d.write ws).tagPass = d.tagPass := rfl

@[simp] theorem cureLine_tagPass (d : Dev) (host : Nat) : (d.cureLine host).tagPass = d.tagPass := rfl

@[simp] theorem t2Request_tagPass (d : Dev) (tid host : Nat) (wr : Bool) (n : Nat) :
    (d.t2Request tid host wr n).tagPass = d.tagPass := rfl

@[simp] theorem meterTid_tagPass (d : Dev) (tid i n : Nat) : (d.meterTid tid i n).tagPass = d.tagPass := by
  unfold Dev.meterTid Dev.meter
  split
  · split
    · exact updPart_tagPass rfl
    · rfl
  · rfl

@[simp] theorem meterLine_tagPass (d : Dev) (tid host : Nat) (wr : Bool) :
    (d.meterLine tid host wr).tagPass = d.tagPass := by
  unfold Dev.meterLine
  dsimp only
  rw [meterTid_tagPass]
  split <;> simp

/-- A line counted as written leaves the tag check alone: a frame whose last line is cleared goes from CLEARING to
OWNED, and the check passes in both (R389, R393). -/
@[simp] theorem markCleared_tagPass (d : Dev) (host : Nat) : (d.markCleared host).tagPass = d.tagPass := by
  unfold Dev.markCleared
  dsimp only
  generalize hfn_def : host / frameBytes = hfn
  generalize ht : (if (d.tag hfn).stale && !(d.tag hfn).rewritten.contains (host / 64 % 32768)
    then { d.tag hfn with rewritten := (d.tag hfn).rewritten ++ [host / 64 % 32768] } else d.tag hfn) = t
  obtain ⟨ho, hh, he, hi, hs⟩ : t.owner = (d.tag hfn).owner ∧ t.hyp = (d.tag hfn).hyp ∧ t.exp = (d.tag hfn).exp
      ∧ t.etid = (d.tag hfn).etid ∧ t.state = (d.tag hfn).state := by
    rw [← ht]
    split <;> exact ⟨rfl, rfl, rfl, rfl, rfl⟩
  generalize hd1 : (if t == d.tag hfn then d else { d with tags := Machine.insert hfn t d.tags }) = d1
  obtain ⟨htag, hpass⟩ : d1.tag hfn = t ∧ d1.tagPass = d.tagPass := by
    rw [← hd1]
    split
    · next heq => exact ⟨(eq_of_beq heq).symm, rfl⟩
    · exact ⟨by simp [Dev.tag], tagPass_insert_tag ho hh he hi (by rw [hs])⟩
  split
  · exact hpass
  · next hclearing =>
    have hstate : t.state = 2 := by simp_all
    rw [← hpass]
    apply tagPass_insert_tag <;> rw [htag] <;> split <;> simp [hstate]

/-! ### What a step writes -/

@[simp] theorem write_wq (d : Dev) (ws : List (Nat × Byte)) : (d.write ws).wq = d.wq ++ ws := rfl

@[simp] theorem fresh_wq (d : Dev) : d.fresh.2.wq = d.wq := rfl

@[simp] theorem cureLine_wq (d : Dev) (host : Nat) : (d.cureLine host).wq = d.wq := rfl

@[simp] theorem markCleared_wq (d : Dev) (host : Nat) : (d.markCleared host).wq = d.wq := by
  unfold Dev.markCleared
  dsimp only
  split_ifs <;> rfl

@[simp] theorem meterTid_wq (d : Dev) (tid i n : Nat) : (d.meterTid tid i n).wq = d.wq := by
  unfold Dev.meterTid Dev.meter
  split
  · split <;> rfl
  · rfl

@[simp] theorem meterLine_wq (d : Dev) (tid host : Nat) (wr : Bool) : (d.meterLine tid host wr).wq = d.wq := by
  unfold Dev.meterLine
  dsimp only
  rw [meterTid_wq]
  split <;> rfl

/-! ### Lines -/

theorem line_of_mem_linesOf {host n line : Nat} (h : line ∈ linesOf host n) : line % 64 = 0 ∧ host < line + 64 := by
  obtain ⟨i, -, rfl⟩ := List.mem_map.mp h
  omega

/-- Bytes within one line touch that line alone. -/
theorem linesOf_within {host n : Nat} (h0 : 0 < n) (hn : host % 64 + n ≤ 64) : linesOf host n = [host / 64 * 64] := by
  have hone : (host + n + 63) / 64 - host / 64 = 1 := by omega
  simp [linesOf, hone]

theorem mem_bytesAt_line {line lo : Nat} {bs : List Byte} {w : Nat × Byte} (hline : line % 64 = 0) (hlo : line ≤ lo)
    (hhi : lo + bs.length ≤ line + 64) (h : w ∈ bytesAt lo bs) : w.1 / 64 * 64 = line := by
  have h1 := le_of_mem_bytesAt h
  have h2 := lt_of_mem_bytesAt h
  omega

/-- An outcome that delivers the line's own bytes is not one whose bytes the manual leaves open (R392). -/
theorem open_of_poison_none {o : LineOut} (h : o.poison = none) : o.open = false := by
  cases o <;> simp_all [LineOut.poison, LineOut.open]

/-! ### A write, line by line -/

/-- What a write does at one line (R389, R392, R393): a step of `Dev.writeLocal`. -/
def writeLine (tid : Nat) (peer : Bool) (host : Nat) (bs : List Byte) (via : Nat → Nat) (acc : List BadLine × Dev)
    (line : Nat) : List BadLine × Dev :=
  let (bad, d) := acc
  let lo := max line host
  let hi := min (line + 64) (host + bs.length)
  let part := (bs.drop (lo - host)).take (hi - lo)
  let (v, d) := if d.t2Down (via line) then d.fresh else (1, d)
  if !d.tagPass tid peer (via line) then (bad ++ [{ out := .tenant, host := via line, tid := tid }], d)
  else if !v.getLsbD 0 then (bad, d)
  else if hi - lo == 64 then
    (bad, (((d.write (bytesAt lo part)).markCleared (via line)).cureLine (via line)).meterLine tid (via line) true)
  else
    let o := d.lineOut tid peer (via line)
    let d := if o.zeros then d.write (bytesAt line (List.replicate 64 0))
      else if o.open then d.fresh.2.write (bytesAt line (Word.toBytes 64 d.fresh.1.toNat)) else d
    (if o.poison.isSome then bad ++ [{ out := o, host := via line, tid := tid }] else bad,
      (((d.write (bytesAt lo part)).markCleared (via line)).cureLine (via line)).meterLine tid (via line) true)

theorem writeLocal_eq_foldl (d : Dev) (tid : Nat) (peer : Bool) (host : Nat) (bs : List Byte) (via : Nat → Nat) :
    d.writeLocal tid peer host bs via
      = (linesOf host bs.length).foldl (writeLine tid peer host bs via) ([], d) := rfl

/-- A change of the device that leaves the tag check alone and writes only within the lines of `ls` that pass it. -/
def WritesWithin (tid : Nat) (peer : Bool) (ls : List Nat) (d d' : Dev) : Prop :=
  d'.tagPass = d.tagPass ∧ ∃ ws, d'.wq = d.wq ++ ws
    ∧ ∀ w ∈ ws, w.1 / 64 * 64 ∈ ls ∧ d.tagPass tid peer (w.1 / 64 * 64) = true

theorem WritesWithin.rfl {tid : Nat} {peer : Bool} {ls : List Nat} {d : Dev} : WritesWithin tid peer ls d d :=
  ⟨Eq.refl _, [], by simp⟩

theorem WritesWithin.trans {tid : Nat} {peer : Bool} {ls : List Nat} {d d1 d2 : Dev}
    (h1 : WritesWithin tid peer ls d d1) (h2 : WritesWithin tid peer ls d1 d2) : WritesWithin tid peer ls d d2 := by
  obtain ⟨ht1, ws1, hw1, hin1⟩ := h1
  obtain ⟨ht2, ws2, hw2, hin2⟩ := h2
  refine ⟨ht2.trans ht1, ws1 ++ ws2, by rw [hw2, hw1, List.append_assoc], fun w hw => ?_⟩
  rcases List.mem_append.mp hw with h | h
  · exact hin1 w h
  · exact ht1 ▸ hin2 w h

/-- Nothing written. -/
theorem WritesWithin.of_eq {tid : Nat} {peer : Bool} {ls : List Nat} {d d' : Dev} (ht : d'.tagPass = d.tagPass)
    (hw : d'.wq = d.wq) : WritesWithin tid peer ls d d' := ⟨ht, [], by simp [hw]⟩

/-- A run of bytes written within a line that passes the tag check. -/
theorem WritesWithin.write {tid : Nat} {peer : Bool} {ls : List Nat} {d : Dev} {line lo : Nat} {bs : List Byte}
    (hline : line % 64 = 0) (hmem : line ∈ ls) (hpass : d.tagPass tid peer line = true) (hlo : line ≤ lo)
    (hhi : lo + bs.length ≤ line + 64) : WritesWithin tid peer ls d (d.write (bytesAt lo bs)) := by
  refine ⟨write_tagPass d _, bytesAt lo bs, write_wq d _, fun w hw => ?_⟩
  rw [mem_bytesAt_line hline hlo hhi hw]
  exact ⟨hmem, hpass⟩

/-- The part of the bytes that goes to a line stays within it. -/
theorem length_linePart_le {host line : Nat} (bs : List Byte) (h : host < line + 64) :
    max line host + ((bs.drop (max line host - host)).take (min (line + 64) (host + bs.length) - max line host)).length
      ≤ line + 64 := by
  rw [List.length_take]
  omega

/-- The bytes of a line performed, with what the step then notes of the line (R391, R393, R398). -/
theorem WritesWithin.noted {tid tid' : Nat} {peer : Bool} {ls : List Nat} {d d' : Dev} {at_ : Nat}
    (h : WritesWithin tid peer ls d d') :
    WritesWithin tid peer ls d (((d'.markCleared at_).cureLine at_).meterLine tid' at_ true) :=
  h.trans (.of_eq (by simp) (by simp))

theorem writesWithin_writeLine {tid : Nat} {peer : Bool} {host line : Nat} {bs : List Byte} {ls : List Nat}
    (hmem : line ∈ ls) (hline : line % 64 = 0) (hhost : host < line + 64) (bad : List BadLine) (d : Dev) :
    WritesWithin tid peer ls d (writeLine tid peer host bs id (bad, d) line).2 := by
  unfold writeLine
  dsimp only [id]
  generalize hvd : (if d.t2Down line then d.fresh else (1, d)) = vd
  have hdraw : WritesWithin tid peer ls d vd.2 := by
    rw [← hvd]
    split <;> exact .of_eq rfl rfl
  obtain ⟨v, d1⟩ := vd
  refine hdraw.trans ?_
  dsimp only
  split
  · exact .rfl
  next hpass =>
    have hpass : d1.tagPass tid peer line = true := by simpa using hpass
    split
    · exact .rfl
    split
    · exact (WritesWithin.write hline hmem hpass (le_max_left _ _) (length_linePart_le bs hhost)).noted
    · generalize hd2 : (if (d1.lineOut tid peer line).zeros then d1.write (bytesAt line (List.replicate 64 0))
        else if (d1.lineOut tid peer line).open then
          d1.fresh.2.write (bytesAt line (Word.toBytes 64 d1.fresh.1.toNat)) else d1) = d2
      have hbase : WritesWithin tid peer ls d1 d2 := by
        rw [← hd2]
        split
        · exact .write hline hmem hpass le_rfl (by simp)
        · split
          · exact .write (d := d1.fresh.2) hline hmem hpass le_rfl (by simp)
          · exact .rfl
      have hpass2 : d2.tagPass tid peer line = true := hbase.1 ▸ hpass
      exact (hbase.trans (.write hline hmem hpass2 (le_max_left _ _) (length_linePart_le bs hhost))).noted

/-- A write goes to the lines that its bytes touch and that pass the tag check (R389). -/
theorem writesWithin_writeLocal (d : Dev) (tid : Nat) (peer : Bool) (host : Nat) (bs : List Byte) :
    WritesWithin tid peer (linesOf host bs.length) d (d.writeLocal tid peer host bs).2 := by
  have hlines : ∀ (lines : List Nat) (acc : List BadLine × Dev), lines ⊆ linesOf host bs.length →
      WritesWithin tid peer (linesOf host bs.length) acc.2 (lines.foldl (writeLine tid peer host bs id) acc).2 := by
    intro lines
    induction lines with
    | nil => exact fun _ _ => .rfl
    | cons line lines ih =>
      intro acc hsub
      obtain ⟨hmem, hrest⟩ := List.cons_subset.mp hsub
      obtain ⟨hline, hhost⟩ := line_of_mem_linesOf hmem
      exact (writesWithin_writeLine hmem hline hhost acc.1 acc.2).trans (ih _ hrest)
  exact hlines _ ([], d) (List.Subset.refl _)

/-! ### A write within one line -/

/-- A write within one line that passes the tag check and that nothing overlays writes exactly its bytes (R389,
R392). -/
theorem writeLocal_within {d : Dev} {tid : Nat} {peer : Bool} {host : Nat} {bs : List Byte} {via : Nat → Nat}
    {line : Nat} (h0 : 0 < bs.length) (hn : host % 64 + bs.length ≤ 64) (hline : via (host / 64 * 64) = line)
    (hpass : d.tagPass tid peer line = true) (hup : d.t2Down line = false)
    (hzeros : (d.lineOut tid peer line).zeros = false) (hpoison : (d.lineOut tid peer line).poison = none) :
    (d.writeLocal tid peer host bs via).1 = []
      ∧ (d.writeLocal tid peer host bs via).2.wq = d.wq ++ bytesAt host bs := by
  have hlo : max (host / 64 * 64) host = host := by omega
  have hhi : min (host / 64 * 64 + 64) (host + bs.length) - host = bs.length := by omega
  have hopen := open_of_poison_none hpoison
  rw [writeLocal_eq_foldl, linesOf_within h0 hn, List.foldl_cons, List.foldl_nil]
  simp only [writeLine, hline, hup, Bool.false_eq_true, if_false, hlo, hhi, Nat.sub_self, List.drop_zero,
    List.take_length]
  simp [hpass, hzeros, hopen, hpoison]

/-! ### A store through a writable leaf -/

theorem dirtyStep_of_dirty {m : Mem} {d : Dev} {a : Acc} {va : Nat} {h : Hit} {c : XlCopy} (hc : h.copy = some c)
    (hd : c.leaf.getLsbD 10 = true) : d.dirtyStep m a va h = (d, .ok h) := by
  simp [Dev.dirtyStep, hc, hd]

@[simp] theorem markDirty_wq (d : Dev) (h : Hit) : (d.markDirty h).wq = d.wq := by
  unfold Dev.markDirty
  split
  · rfl
  · dsimp only
    split
    · rfl
    · split <;> simp

/-- An access through a leaf that does not count leaves the counters alone (R377). -/
theorem countAccess_of_uncounted {m : Mem} {d : Dev} {h : Hit} {c : XlCopy} (hc : h.copy = some c)
    (hn : c.leaf.getLsbD 8 = false) (n : Nat) : d.countAccess m h n = d := by
  have hbit : Word.bit c.leaf.toNat 8 = false := hn
  simp [Dev.countAccess, Dev.countLines, hc, hbit]

/-- A page that is not of type ENCRYPTED is written as it is (R362). -/
theorem writeHit_of_plain {m : Mem} {d : Dev} {a : Acc} {h : Hit} (ht : h.typ ≠ 1) (bs : List Byte) :
    d.writeHit m a h bs = (d.markDirty h).writeRaw a h h.place bs := by
  simp [Dev.writeHit, Dev.innerKey, ht]

/-- An access that stays in the package writes its memory, at the line of the granule's current copy (R258). -/
theorem writeRaw_of_local {d : Dev} {a : Acc} {h : Hit} (hw : h.window = none) (hp : h.peer = none) (host : Nat)
    (bs : List Byte) : d.writeRaw a h host bs
      = (d.writeLocal h.tid false host bs (d.copyLine h)).2.postLines a h.va
          (d.writeLocal h.tid false host bs (d.copyLine h)).1 := by
  simp [Dev.writeRaw, hw, hp]

/-- Settles O57: the lines of a write are followed one by one, and a store through a writable leaf is the write of its
bytes at the translation's host address. -/
theorem storeFrame : Obligations.StoreFrame := by
  refine ⟨fun d tid peer host bs => (writesWithin_writeLocal d tid peer host bs).2, ?_, ?_⟩
  · intro d tid peer host bs h0 hn hpass hup hzeros hpoison
    obtain ⟨hbad, hwq⟩ := writeLocal_within (via := id) h0 hn rfl hpass hup hzeros hpoison
    exact ⟨Prod.ext hbad rfl, hwq⟩
  · intro m d a va bs d1 h c e line hx hc hdirty hcount hwin hpeer htyp h0 hn he hline hpass hup hzeros hpoison
    have hplace : h.place = h.host := by simp [Hit.place, hwin]
    obtain ⟨hbad, hwq⟩ := writeLocal_within (via := e.copyLine h) h0 hn hline.symm hpass hup hzeros hpoison
    have hstore : d.store m a va bs = ((e.writeLocal h.tid false h.host bs (e.copyLine h)).2, none) := by
      simp only [Dev.store, Dev.storePlain, hx, dirtyStep_of_dirty hc hdirty, countAccess_of_uncounted hc hcount,
        writeHit_of_plain htyp, ← he, writeRaw_of_local hwin hpeer, hplace, hbad]
      rfl
    rw [hstore]
    exact ⟨rfl, by rw [hwq, he, markDirty_wq]⟩

end Sys2Proof.Proofs
end

section
/-! PROOFS. Tier, timetable and key-handle instructions (R258, R263, R266, R269 to R271, R279, R282). -/

namespace Sys2Proof.Proofs
open Sys2Proof Sys2Proof.Machine Sys2Proof.Laws

/-! ### Firing and committing -/

/-- An instruction whose body at a commit stands apart fires as its effect says where its slot can fire. -/
theorem firesIf_of_body {i : Instr} {body : Mem → Dev → Dev} {always : Bool}
    {eff : Mem → Site → Gathered → Dev → Fired} {ok : Site → Gathered → Mem → Dev → Prop}
    {f : Site → Gathered → Mem → Dev → Dev × Res}
    (hx : ∀ s, Machine.exec i s = act s body)
    (hb : ∀ m d p, d.firing i = some p → body m d = d.fire i always (eff m))
    (he : ∀ m e g d, ok e g m d → eff m e g d = .done (f e g m d).1 (f e g m d).2) : FiresIf i ok f := by
  intro s e g hs h hc ho
  rw [hx, act, sound_clean hs, hb _ _ _ h, fire_of_computes h hc (he _ _ _ _ ho)]
  rfl

/-- The focus of a firing slot is no commit. -/
theorem focus_ne_commit_of_firing {d : Dev} {i : Instr} {p : Site × Gathered} (h : d.firing i = some p) (id : CoreId)
    (slot : Nat) : d.focus ≠ .commit id slot := by
  intro hf
  simp [Dev.firing, hf] at h

/-- A capture is that of the slot it was found for. -/
theorem slot_of_cap {f : Frame} {slot : Nat} {c : Capture} (h : f.cap slot = some c) : c.slot = slot := by
  simpa using List.find?_some h

/-! ### TTLD (R263, R270) -/

theorem bodyTtld_of_firing {o : OpS} {m : Mem} {d : Dev} {p : Site × Gathered} (h : d.firing (.ttld o) = some p) :
    bodyTtld o m d = d.fire (.ttld o) false fun e g d => ttldFire o m e g d := by
  unfold bodyTtld
  split
  · next id slot hf => exact absurd hf (focus_ne_commit_of_firing h id slot)
  all_goals rfl

/-- The commit of TTLD loads the timetable that its slot kept. -/
theorem bodyTtld_committing {o : OpS} {m : Mem} {d : Dev} {id : CoreId} {f : Frame} {c : Capture} {t : Timetable}
    (h : d.committing id f c) (ht : lookup c.slot f.tts = some t) :
    bodyTtld o m d = d.loadTimetable (d.issuer id).1 (some t) := by
  obtain ⟨slot, hfocus, hframe, hcap, -⟩ := h
  obtain rfl := slot_of_cap hcap
  simp [bodyTtld, hfocus, hframe, ht]

/-- TTLD keeps the timetable that it read and that meets R261. -/
theorem ttldFire_kept {o : OpS} {m : Mem} {e : Site} {g : Gathered} {d d1 d2 d3 : Dev} {h : Nat} {es : List Nat}
    {t : Timetable} (hal : ((d.core e.core).reg o.ga).v.toNat % 32 = 0)
    (hh : Dev.ttRead m e.core (d.coreAcc e.core .ctl .rd 0) 1 ((d.core e.core).reg o.ga).v.toNat d = (d1, .ok [h]))
    (hok : ttHeaderOk h = true)
    (hes : Dev.ttRead m e.core (d.coreAcc e.core .ctl .rd 0) (Word.bits h 63 48)
      (((d.core e.core).reg o.ga).v.toNat + 32) d1 = (d2, .ok es))
    (ht : d2.timetable m (d.issuer e.core).2.1 (d.issuer e.core).1 h es = (d3, some t)) :
    ttldFire o m e g d
      = .done ((d3.alsoCommit e g).updFrame e.core fun f => { f with tts := f.tts ++ [(e.slot, t)] }) .none := by
  simp [ttldFire, hal, hh, hok, hes, ht]

/-! ### Spans of granules (R269) -/

/-- What a tier instruction does with one granule: `f` acts on it when it lies in a tiered range (R258, R269). -/
def onTiered (m : Mem) (part ctx : Nat) (f : Nat → Nat → Dev → Dev) (d : Dev) (va : Nat) : Dev :=
  match (d.teView m part ctx va).2 with
  | .tiered _ => f part (granKey ctx va) (d.teView m part ctx va).1
  | .faults | .plain => (d.teView m part ctx va).1

/-- The span of a tier instruction is whole granules within one range (R269). -/
def SpanFits (o : OpS) (id : CoreId) (m : Mem) (d : Dev) : Prop :=
  let va := ((d.core id).reg o.ga).v.toNat
  let n := ((d.core id).reg o.gb).v.toNat
  n ≠ 0 ∧ n % granBytes = 0 ∧ va % granBytes = 0
    ∧ (d.spanInRange m (d.issuer id).2.1 (d.issuer id).1 va n).2 = true

/-- A span that fits has its granules handled in ascending address. -/
theorem tierSpan_of_fits {m : Mem} {d : Dev} {id : CoreId} {fr : Frame} {slot : Nat} {o : OpS}
    {f : Nat → Nat → Dev → Dev} (h : SpanFits o id m d) :
    d.tierSpan m id fr slot o f
      = (granules ((d.core id).reg o.ga).v.toNat ((d.core id).reg o.gb).v.toNat).foldl
          (onTiered m (d.issuer id).2.1 (d.issuer id).1 f)
          (d.spanInRange m (d.issuer id).2.1 (d.issuer id).1 ((d.core id).reg o.ga).v.toNat
            ((d.core id).reg o.gb).v.toNat).1 := by
  obtain ⟨hn, hgran, hva, hspan⟩ := h
  have hsome : (((d.core id).reg o.gb).v.toNat == 0) = false := beq_false_of_ne hn
  simp only [Dev.tierSpan, hsome, hgran, hva, hspan]
  rfl

/-- A tier instruction at its commit acts on each tiered granule of a span that fits. -/
theorem commitsIf_tierSpan {i : Instr} {o : OpS} {f : CoreId → Nat → Nat → Dev → Dev}
    (hx : ∀ s, Machine.exec i s = act s fun m d => d.commits i fun id fr c d => d.tierSpan m id fr c.slot o (f id)) :
    CommitsIf i (fun id _ _ m d => SpanFits o id m d) fun id _ _ m d =>
      (granules ((d.core id).reg o.ga).v.toNat ((d.core id).reg o.gb).v.toNat).foldl
        (onTiered m (d.issuer id).2.1 (d.issuer id).1 (f id))
        (d.spanInRange m (d.issuer id).2.1 (d.issuer id).1 ((d.core id).reg o.ga).v.toNat
          ((d.core id).reg o.gb).v.toNat).1 :=
  commitsIf_of_act hx fun _ _ _ _ _ h hspan => by rw [commits_committing h, tierSpan_of_fits hspan]

/-! ### TRES (R266, R271) -/

/-- TRES gives the status word and acts on a stalled configuration. -/
theorem commitsIf_tres {i : Instr} {o : OpS} {f : Inst → Inst} (k : Nat) (x : Inst)
    (hx : ∀ s, Machine.exec i s = act s fun _ d => d.commits i fun id _ c d => d.tres id c.slot o f) :
    CommitsIf i (fun id _ _ _ d => d.instOf id = some (k, x)) fun id _ c _ d =>
      let d' := d.gWrite id c.slot false o.ga { v := BitVec.ofNat 64 (d.teStatus x) }
      if x.phase = .stalled then d'.updInst k f else d' :=
  commitsIf_of_act hx fun _ _ _ _ _ h hinst => by
    rw [commits_committing h]
    simp only [Dev.tres, hinst, beq_iff_eq]

/-! ### Key handles (R279, R282) -/

theorem bodyKopen_of_firing {o : OpS} {m : Mem} {d : Dev} {p : Site × Gathered} (h : d.firing (.kopen o) = some p) :
    bodyKopen o m d = d.fire (.kopen o) false fun e g d => kopenFire o m e g d := by
  unfold bodyKopen
  split
  · next id slot hf => exact absurd hf (focus_ne_commit_of_firing h id slot)
  all_goals rfl

theorem bodyKopen_committing {o : OpS} {m : Mem} {d : Dev} {id : CoreId} {f : Frame} {c : Capture}
    (h : d.committing id f c) : bodyKopen o m d = kopenCom o id f c d := by
  obtain ⟨slot, hfocus, hframe, hcap, -⟩ := h
  simp [bodyKopen, hfocus, hframe, hcap]

/-- KOPEN keeps the record that it read and that meets R275. -/
theorem kopenFire_kept {o : OpS} {m : Mem} {e : Site} {g : Gathered} {d d1 : Dev} {bs : List Byte} {p : Option Nat}
    (hal : ((d.core e.core).reg o.ga).v.toNat % 64 = 0)
    (hload : d.entryLoad m e.core (d.coreAcc e.core .ctl .rd 0) ((d.core e.core).reg o.ga).v.toNat 64
      = (d1, .ok (bs, p)))
    (hok : layoutOk (BitVec.ofNat 512 (BitVec.ofNat 1024 (Word.ofBytes bs)).toNat) = true) :
    kopenFire o m e g d
      = .done (d1.alsoCommit e { g with b := { data := BitVec.ofNat 1024 (Word.ofBytes bs) } }) .none := by
  simp only [kopenFire, hal, hload, hok]
  rfl

/-- KOPEN binds the handle when the slot is assigned to the context, admits the configuration and is ready. -/
theorem kopenCom_bound {o : OpS} {id : CoreId} {fr : Frame} {c : Capture} {d : Dev} {s : KeySlot}
    (hs : s = d.keySlot (d.issuer id).2.1 (laySlot (BitVec.ofNat 512 c.b.data.toNat))) (hassigned : s.assigned = true)
    (hctx : s.ctx = (d.issuer id).1) (hadmits : s.admits ((d.instOf id).map fun x => x.2.idhash) = true)
    (hready : s.ready = true) :
    kopenCom o id fr c d = d.setHandle (d.issuer id).1 (o.aux.toNat % 16)
      (some { layout := BitVec.ofNat 512 c.b.data.toNat, slot := laySlot (BitVec.ofNat 512 c.b.data.toNat)
              gen := s.gen }) := by
  subst hs
  simp only [kopenCom, hassigned, hctx, hadmits, hready, bne_self_eq_false, beq_self_eq_true]
  rfl

/-- Settles O31: each instruction does at its firing or its commit what its own lemma says. -/
theorem tierInstructions : Obligations.TierInstructions := by
  refine ⟨⟨?ttld, ?ttldClear, ?tfetch, ?tevict, ?tpin, ?tpinUnpin, ?tresStatus, ?tresResume, ?tresResident⟩,
    ?ttldFire, ?kopenFire, ?kopen, ?kclose⟩
  case ttld =>
    exact fun o t => commitsIf_of_act (fun _ => rfl) fun m id f c d h ht => bodyTtld_committing h ht
  case ttldClear =>
    exact fun o => commits_of_act (fun _ => rfl) (fun m id f c d h => commits_committing h _ _) (fun _ _ _ _ => rfl)
      fun _ _ _ _ => rfl
  case tfetch => exact fun o => commitsIf_tierSpan (f := fun id part k d => d.tierAct id o true part k) fun _ => rfl
  case tevict => exact fun o => commitsIf_tierSpan (f := fun id part k d => d.tierAct id o false part k) fun _ => rfl
  case tpin => exact fun o => commitsIf_tierSpan (f := fun _ part k d => d.passAction part k .pin) fun _ => rfl
  case tpinUnpin => exact fun o => commitsIf_tierSpan (f := fun _ part k d => d.passAction part k .unpin) fun _ => rfl
  case tresStatus => exact fun o k x => commitsIf_tres k x fun _ => rfl
  case tresResume => exact fun o k x => commitsIf_tres k x fun _ => rfl
  case tresResident => exact fun o k x => commitsIf_tres k x fun _ => rfl
  case ttldFire =>
    refine fun o a d1 h d2 es t d3 => firesIf_of_body (fun _ => rfl) (fun _ _ _ => bodyTtld_of_firing) ?_
    rintro m e g d ⟨-, rfl, hal, hh, hok, hes, ht⟩
    exact ttldFire_kept hal hh hok hes ht
  case kopenFire =>
    refine fun o a d1 bs p => firesIf_of_body (fun _ => rfl) (fun _ _ _ => bodyKopen_of_firing) ?_
    rintro m e g d ⟨-, rfl, hal, hload, hok⟩
    exact kopenFire_kept hal hload hok
  case kopen =>
    refine fun o k s => commitsIf_of_act (fun _ => rfl) fun m id f c d h ho => ?_
    obtain ⟨rfl, hs, hassigned, hctx, hadmits, hready⟩ := ho
    rw [bodyKopen_committing h, kopenCom_bound hs hassigned hctx hadmits hready]
    rfl
  case kclose =>
    exact fun o => commits_of_act (fun _ => rfl) (fun m id f c d h => commits_committing h _ _) (fun _ _ _ _ => rfl)
      fun _ _ _ _ => rfl

end Sys2Proof.Proofs
end

section
/-! PROOFS. The tier engine, the dispatcher and installs (R258, R259, R264, R265, R329, R331 to R334, R337, R345). -/

namespace Sys2Proof.Proofs
open Sys2Proof Sys2Proof.Machine Sys2Proof.Laws

/-! ### Actions of a granule (R258) -/

/-- An action stands first among those of a granule, and `v` is what the TE finds at it (R258). -/
def FirstAction (ctx gran part : Nat) (act : TeAct) (m : Mem) (d : Dev) (v : TeView) (d1 : Dev) : Prop :=
  d.ctxPart ctx = some part ∧ ((d.part part).gran (granKey ctx (gran * granBytes))).acts.head? = some act
    ∧ d.teView m part ctx (gran * granBytes) = (d1, v)

/-- The TE has acted: the action leaves its granule's queue, and fired entries that have completed are forgotten. -/
def afterAction (ctx gran part : Nat) (m : Mem) (d : Dev) : Dev :=
  (d.updGran part (granKey ctx (gran * granBytes)) Granule.taken).pruneFired m part ctx

section Actions
variable {ctx gran part : Nat} {m : Mem} {d d1 : Dev}

/-- The TE acts on a granule of a tiered range. -/
theorem actsOn_tiered {act : TeAct} {host : Nat} (h : FirstAction ctx gran part act m d (.tiered host) d1)
    (f : Nat → Nat → Granule → Dev → Dev) :
    d.actsOn m ctx gran act f = afterAction ctx gran part m
      (f part (granKey ctx (gran * granBytes)) ((d.part part).gran (granKey ctx (gran * granBytes))) d1) := by
  obtain ⟨hpart, hhead, hview⟩ := h
  simp only [Dev.actsOn, hpart, hhead, hview, ne_eq, not_true_eq_false, if_false]
  rfl

/-- An action on a range that is not tiered does nothing. -/
theorem actsOn_plain {act : TeAct} (h : FirstAction ctx gran part act m d .plain d1)
    (f : Nat → Nat → Granule → Dev → Dev) : d.actsOn m ctx gran act f = afterAction ctx gran part m d1 := by
  obtain ⟨hpart, hhead, hview⟩ := h
  simp only [Dev.actsOn, hpart, hhead, hview, ne_eq, not_true_eq_false, if_false]
  rfl

theorem startFill_of_free {k e : Nat} {d2 : Dev} (h : d1.pickOf (d1.freeEntries part) = (d2, some e)) :
    d1.startFill part k
      = (d2.updGran part k fun g => { g with res := .filling, dirty := false, entry := e }, true) := by
  simp only [Dev.startFill, h]

theorem startFill_of_none_free {k : Nat} (h : d1.freeEntries part = []) : d1.startFill part k = (d1, false) := by
  simp only [Dev.startFill, h, Dev.pickOf]

end Actions

/-! ### Marker reports (R264, R265) -/

/-- With one source, the TE takes the oldest report. -/
theorem bodyTeMarkerReport_oldest {m : Mem} {d : Dev} {r : Report} {rs : List Report} (h : d.reports = r :: rs)
    (hold : oldestReports d.reports = [0]) :
    bodyTeMarkerReport m d =
      let mks := (List.range 4096).filter r.markers.contains
      (mks.foldl (Dev.fireMarker m r) (mks.foldl (Dev.checkMarker m r) { d with reports := rs })).pruneFired m r.part
        r.ctx := by
  have hhead : d.reports[0]? = some r := by rw [h]; rfl
  have htail : d.reports.eraseIdx 0 = rs := by rw [h]; rfl
  simp only [bodyTeMarkerReport, hold, List.length_singleton, le_refl, if_true, Nat.mod_one, List.getElem?_cons_zero,
    hhead, htail]

/-! ### The dispatcher (R329, R332 to R334) -/

theorem promote_eq (d : Dev) (q : Nat) : d.promote q =
    if d.schedAge ≠ 0 ∧ d.ready q = true ∧ 1000 * d.schedAge.toNat ≤ (d.queue q).wait then
      d.updQueue q fun x => { x with promoted := true }
    else d := by
  simp only [Dev.promote, Bool.and_eq_true, bne_iff_ne, decide_eq_true_eq, ge_iff_le, and_assoc]

/-! ### Installs and restores (R337, R345) -/

theorem bodyInstall_checked {m : Mem} {d d1 : Dev} {l : Launch} {rest : List Launch} {r : LRec} {p : Plan}
    {tt : Option Timetable} {saved : Option (Bool × Restored)} (hl : d.installs = l :: rest)
    (hr : parseLaunch l.record = some r) (hc : d.installChecks m l r = (d1, .ok (p, tt, saved))) :
    bodyInstall m d = ({ d1 with installs := rest } : Dev).installed m l r p tt saved := by
  simp only [bodyInstall, hl, hr, hc]

theorem bodyInstall_failed {m : Mem} {d d1 : Dev} {l : Launch} {rest : List Launch} {r : LRec} {e : TrapRec}
    (hl : d.installs = l :: rest) (hr : parseLaunch l.record = some r)
    (hc : d.installChecks m l r = (d1, .error e)) :
    bodyInstall m d = ({ d1 with installs := rest } : Dev).failLaunch m l.part l.ctx l.page r.doneaddr
      { e with cfgid := l.cfg } := by
  simp only [bodyInstall, hl, hr, hc]

/-- No refetch of a restore is under way (R345). -/
def RefetchesDone (cfg : Nat) (d : Dev) : Prop := ∀ e ∈ d.copies, e.2.refetch = true → e.2.dst.inst ≠ some cfg

theorem refetches_not_busy {cfg : Nat} {d : Dev} (h : RefetchesDone cfg d) :
    (d.copies.any fun e => e.2.refetch && e.2.dst.inst == some cfg) = false := by
  simpa [RefetchesDone] using h

/-- A restore in the active plane runs on. -/
theorem bodyRestoreSourcesResume_active {cfg : Nat} {m : Mem} {d : Dev} {x : Inst} (hx : d.inst cfg = some x)
    (hphase : x.phase = .restoring) (hplane : d.activePlane x.lead = x.plane) (hdone : RefetchesDone cfg d) :
    bodyRestoreSourcesResume cfg m d = (d.updInst cfg fun x => { x with
      phase := if x.reconf.isSome then .boundary else .running, paused := x.reconf.isSome }).progress
      (.config cfg) := by
  have hactive : (d.activePlane x.lead != x.plane) = false := bne_eq_false_iff_eq.mpr hplane
  simp [bodyRestoreSourcesResume, hx, hphase, hactive, refetches_not_busy hdone]

/-- A restore at a boundary in a plane that is not active holds there. -/
theorem bodyRestoreSourcesResume_held {cfg : Nat} {m : Mem} {d : Dev} {x : Inst} (hx : d.inst cfg = some x)
    (hphase : x.phase = .restoring) (hplane : d.activePlane x.lead ≠ x.plane) (hround : x.fab.round = x.rew.round)
    (htiles : x.fab.tiles = x.rew.tiles) (hdone : RefetchesDone cfg d) :
    bodyRestoreSourcesResume cfg m d
      = (d.updInst cfg fun x => { x with phase := .boundary, paused := true }).progress (.config cfg) := by
  have hheld : (d.activePlane x.lead != x.plane) = true := bne_iff_ne.mpr hplane
  simp [bodyRestoreSourcesResume, hx, hphase, hheld, hround, htiles, refetches_not_busy hdone]

theorem bodyInstanceEnd_halted {cfg : Nat} {m : Mem} {d : Dev} {x : Inst} (hx : d.inst cfg = some x)
    (hretired : x.retired = true) (hthreads : ∀ p ∈ x.threads, (d.ccOf p x.plane).threadLive = false) :
    bodyInstanceEnd cfg m d = d.endInst m cfg := by
  have hall : (x.threads.all fun p => !(d.ccOf p x.plane).threadLive) = true := by simpa using hthreads
  simp only [bodyInstanceEnd, hx, hretired, hall, Bool.and_self, if_true]

/-- Settles O44: the actions of the TE go through what stands first at a granule, the dispatcher and the installs
through what their own lemmas say. That a granule is HOME after a fill and RESIDENT after a drain that the TE cannot end
are the model's readings (DEDUCED, R373, log entry 51). -/
theorem tierEngineAndLaunches : Obligations.TierEngineAndLaunches := by
  refine ⟨⟨?fill, ?pending, ?undrain, ?drain, ?pinned, ?plain, ?filled, ?drained, ?report⟩,
    ?decision, ?reread, ?rereadHead, ?promotion, ?install, ?installFails, ?resumes, ?holds, ?ends⟩
  case fill =>
    refine fun ctx gran part host d1 d2 e => writesIf_of_act (fun _ => rfl) fun m d ⟨hacts, hres, hpick⟩ => ?_
    rw [bodyTeFetchAction, actsOn_tiered hacts]
    simp only [hres, startFill_of_free hpick]
    rfl
  case pending =>
    refine fun ctx gran part host d1 => writesIf_of_act (fun _ => rfl) fun m d ⟨hacts, hres, hfree⟩ => ?_
    rw [bodyTeFetchAction, actsOn_tiered hacts]
    simp only [hres, startFill_of_none_free hfree]
    rfl
  case undrain =>
    refine fun ctx gran part host d1 => writesIf_of_act (fun _ => rfl) fun m d ⟨hacts, hres⟩ => ?_
    rw [bodyTeFetchAction, actsOn_tiered hacts]
    simp only [hres]
    rfl
  case drain =>
    refine fun ctx gran part host d1 => writesIf_of_act (fun _ => rfl) fun m d ⟨hacts, hres, hpin⟩ => ?_
    rw [bodyTeEvictAction, actsOn_tiered hacts]
    simp only [hres, hpin]
    rfl
  case pinned =>
    refine fun ctx gran part host d1 => writesIf_of_act (fun _ => rfl) fun m d ⟨hacts, hpin⟩ => ?_
    rw [bodyTeEvictAction, actsOn_tiered hacts]
    simp only [hpin, if_true]
    rfl
  case plain =>
    rintro ctx gran part act d1 (rfl | rfl)
    · exact writesIf_of_act (fun _ => rfl) fun m d hacts => actsOn_plain hacts _
    · exact writesIf_of_act (fun _ => rfl) fun m d hacts => actsOn_plain hacts _
  case filled =>
    refine fun ctx gran part => writesIf_of_act (fun _ => rfl) fun m d ⟨hpart, hres⟩ => ?_
    simp only [bodyTeFillComplete, hpart, hres]
    rfl
  case drained =>
    refine fun ctx gran part => writesIf_of_act (fun _ => rfl) fun m d ⟨hpart, hres⟩ => ?_
    simp only [bodyTeDrainComplete, hpart, hres]
    rfl
  case report =>
    exact fun r rs => writesIf_of_act (fun _ => rfl) fun m d ⟨h, hold⟩ => bodyTeMarkerReport_oldest h hold
  case decision =>
    refine writesIf_of_act (fun _ => rfl) fun m d _ => ?_
    have hpromote : Dev.promote = _ := funext fun d => funext fun q => promote_eq d q
    rw [bodyDispatchDecision, hpromote]
    rfl
  case reread =>
    intro m q r p ps k d d1 w hmet hword
    simp only [Dev.rereadFrom, hmet, hword]
    rfl
  case rereadHead =>
    refine fun q r => writesIf_of_act (fun _ => rfl) fun m d hhead => ?_
    simp only [bodyDependenceReread, Dev.rereadHead, hhead]
  case promotion =>
    refine fun q => stepsIf_of_act (fun _ => rfl) (fun m d h => ?_) (fun _ _ _ => rfl) fun _ _ _ => rfl
    rw [bodyQueuePromotion, promote_eq, if_pos h]
  case install =>
    exact fun l rest r d1 p tt saved => writesIf_of_act (fun _ => rfl) fun m d ⟨hl, hr, hc⟩ =>
      bodyInstall_checked hl hr hc
  case installFails =>
    exact fun l rest r d1 e => writesIf_of_act (fun _ => rfl) fun m d ⟨hl, hr, hc⟩ => bodyInstall_failed hl hr hc
  case resumes =>
    exact fun cfg x => stepsIf_of_act (fun _ => rfl)
      (fun m d ⟨hx, hphase, hplane, hdone⟩ => bodyRestoreSourcesResume_active hx hphase hplane hdone)
      (fun _ _ _ => by simp) fun _ _ _ => by simp
  case holds =>
    exact fun cfg x => stepsIf_of_act (fun _ => rfl)
      (fun m d ⟨hx, hphase, hplane, hround, htiles, hdone⟩ =>
        bodyRestoreSourcesResume_held hx hphase hplane hround htiles hdone)
      (fun _ _ _ => by simp) fun _ _ _ => by simp
  case ends =>
    exact fun cfg x => writesIf_of_act (fun _ => rfl) fun m d ⟨hx, hretired, hthreads⟩ =>
      bodyInstanceEnd_halted hx hretired hthreads

end Sys2Proof.Proofs
end

section
/-! PROOFS. A sound state stays sound: every instruction is one change of the device between two steps (R302, R355). -/

namespace Sys2Proof.Proofs
open Sys2Proof Sys2Proof.Machine Sys2Proof.Laws

/-- A change of the device answers a next state that is sound, whatever the change, where memory was in its canonical
form: its writes keep that form, and none of them is left over. -/
theorem act_next_sound {s : State} (h : s.mem.wf = true) (f : Mem → Dev → Dev) :
    ∃ t, act s f = .next t ∧ t.Sound :=
  ⟨_, rfl, wf_writeAll h _, rfl, rfl⟩

/-- Every arm of the dispatch is a change of the device. -/
theorem exists_exec_eq_act (i : Instr) (s : State) : ∃ f, Machine.exec i s = act s f := by
  cases i
  all_goals
    dsimp only [Machine.exec]
    exact ⟨_, rfl⟩

theorem exec_next_sound (i : Instr) {s : State} (h : s.mem.wf = true) :
    ∃ t, Machine.exec i s = .next t ∧ t.Sound := by
  obtain ⟨f, hf⟩ := exists_exec_eq_act i s
  rw [hf]
  exact act_next_sound h f

/-- The next step of a core is a row, or nothing where its block has no such slot. -/
theorem coreTodo_ne_bad (d : Dev) (id : CoreId) : d.coreTodo id ≠ .bad := by
  unfold Dev.coreTodo
  split
  · nofun
  · split
    · nofun
    · split <;> nofun

/-- Only a row that is no step of its own is a bad pick. -/
theorem exists_ev_of_todo_bad {d : Dev} {p : Pick} (h : d.todo p = .bad) : ∃ i, p = .ev i ∧ withinStep i = true := by
  cases p with
  | ctl id => exact absurd h (coreTodo_ne_bad d id)
  | elem cfg tile blk slot =>
    simp only [Dev.todo] at h
    split at h <;> cases h
  | ev i =>
    refine ⟨i, rfl, ?_⟩
    by_contra hw
    simp [Dev.todo, hw] at h
  | elapse | copy | lineCond | badGranule | dropCopy | mgmtOther => cases h

/-- A bad pick is the head of the agenda: what is picked when the agenda is empty is never bad. -/
theorem agenda_of_todo_bad {d : Dev} (h : d.takePick.2.todo d.takePick.1 = .bad) :
    ∃ i rest, d.agenda = .ev i :: rest ∧ withinStep i = true := by
  obtain ⟨i, hp, hw⟩ := exists_ev_of_todo_bad h
  cases ha : d.agenda with
  | cons p rest =>
    rw [takePick_cons ha] at hp
    exact ⟨i, rest, by rw [← hp], hw⟩
  | nil =>
    by_cases hoff : d.pkg = .off
    · rw [takePick_off ha hoff] at hp
      cases hp
      exact absurd hw (by decide)
    · rw [takePick_on ha hoff] at hp
      cases hp

/-- A step is bad, or answers a next state that is sound. -/
theorem step_bad_or_sound {s : State} (h : s.mem.wf = true) :
    (s.dev.takePick.2.todo s.dev.takePick.1 = .bad ∧ step s = .fault .noSuchEvent)
      ∨ ∃ t, step s = .next t ∧ t.Sound := by
  unfold step
  dsimp only
  cases s.dev.takePick.2.todo s.dev.takePick.1 with
  | row i f => exact .inr (exec_next_sound i h)
  | env p => exact .inr (act_next_sound (s := { s with dev := s.dev.takePick.2 }) h (environment p))
  | bad => exact .inl ⟨rfl, rfl⟩

/-- Settles O50: an instruction is a change of the device, and so is every step but a bad one. -/
theorem stepKeepsSound : Obligations.StepKeepsSound := by
  refine ⟨fun i s h => exec_next_sound i h, fun s t hs ht => ?keeps, fun s hs => ?progress⟩
  case keeps =>
    obtain ⟨-, hbad⟩ | ⟨u, hu, sound⟩ := step_bad_or_sound hs.1
    · rw [hbad] at ht
      cases ht
    · rw [hu] at ht
      cases ht
      exact sound
  case progress =>
    exact (step_bad_or_sound hs.1).imp (fun ⟨hbad, _⟩ => agenda_of_todo_bad hbad) id

end Sys2Proof.Proofs
end

section
/-! PROOFS. Taking an exception, returning from it, and where a raised record goes (R297, R303, R307 to R309, R312,
R313, R323). -/

namespace Sys2Proof.Proofs
open Sys2Proof Sys2Proof.Machine Sys2Proof.Laws

/-! ### Entry -/

@[simp] theorem enterTrap_wq (d : Dev) (id : CoreId) (r : TrapRec) (epc : Nat) : (d.enterTrap id r epc).wq = d.wq := rfl
@[simp] theorem enterTrap_tx (d : Dev) (id : CoreId) (r : TrapRec) (epc : Nat) : (d.enterTrap id r epc).tx = d.tx := rfl

/-- Entry changes the core that takes the exception alone. -/
theorem core_enterTrap_ne (d : Dev) {id j : CoreId} (r : TrapRec) (epc : Nat) (h : j ≠ id) :
    (d.enterTrap id r epc).core j = d.core j := core_updCore_ne d _ h

/-- Settles O33: entry and return each replace one core, whose fields are read off. -/
theorem exceptionEntryAndReturn : Obligations.ExceptionEntryAndReturn := by
  refine ⟨fun d id r epc => ?entry, fun c id => ?leave⟩
  case entry =>
    have hk : (d.enterTrap id r epc).core id = _ := core_updCore_same ..
    dsimp only
    rw [hk]
    refine ⟨rfl, rfl, rfl, rfl, rfl, ?pie, rfl, rfl, rfl, rfl, rfl, rfl, rfl, rfl, rfl, rfl, rfl, rfl, rfl, rfl,
      fun j hj => core_enterTrap_ne d r epc hj⟩
    simp only [beq_iff_eq]
  case leave => exact ⟨rfl, rfl, rfl, rfl, rfl, rfl, rfl, rfl, rfl, rfl, rfl, rfl⟩

/-! ### Where a record goes -/

/-- The core held with a record until the record is acknowledged: it goes on at `epc` (R309, R312). -/
def heldWith (d : Dev) (id : CoreId) (r : TrapRec) (epc : Nat) : Dev :=
  d.updCore id fun c => { c with thread := .held r.seqNo, frame := none, next := epc, stepArmed := false }

/-- A record that holds an agent always finds room in the H queue (R312). -/
theorem postH_of_holds {d : Dev} {r : TrapRec} (h : r.holds = true) :
    d.postH r = { d with hqueue := d.hqueue ++ [r], heldRecs := d.heldRecs ++ [r] } := by
  simp [Dev.postH, h]

/-- The record of a CC as it is raised: stamped, and holding the core. -/
def raisedRec (d : Dev) (r0 : TrapRec) : TrapRec := { r0 with holds := true, seqNo := d.seqNo }

/-- The device once a record has been stamped. -/
def stamped (d : Dev) : Dev := { d with seqNo := (d.seqNo + 1) % 2 ^ 32 }

@[simp] theorem core_stamped (d : Dev) (id : CoreId) : (stamped d).core id = d.core id := rfl
@[simp] theorem delegated_stamped (d : Dev) (r : TrapRec) : (stamped d).delegated r = d.delegated r := rfl

/-- A CC is held with its record at H: H is the handler, or a second fault meets S while entry is inhibited (R309). -/
def HeldAtH (d : Dev) (id : CoreId) (r : TrapRec) : Prop :=
  handlerH r = true ∨ (handlerH r = false ∧ d.delegated r = false ∧ (d.core id).level = .s ∧ (d.core id).st.inh = true)

section Raise

variable {d : Dev} {id : CoreId} {r0 : TrapRec} {epc : Nat}

/-- Case 1 of R309: a system core enters its handler. -/
theorem raise_sys (h : id.isSys = true) :
    d.raise id r0 epc = (stamped d).enterTrap id { r0 with seqNo := d.seqNo } epc := by
  simp [Dev.raise, h, Dev.stamp, stamped]

/-- Cases 2 to 4 of R309 on a CC, in their order. -/
theorem raise_cc (h : id.isSys = false) : d.raise id r0 epc =
    if handlerH (raisedRec d r0) then (heldWith (stamped d) id (raisedRec d r0) epc).postH (raisedRec d r0)
    else if d.delegated (raisedRec d r0) then
      (heldWith (stamped d) id (raisedRec d r0) epc).updCtx r0.ctx fun x => { x with evq := x.evq ++ [raisedRec d r0] }
    else if (d.core id).level == .s && (d.core id).st.inh then
      (heldWith (stamped d) id (raisedRec d r0) epc).postH (raisedRec d r0)
    else (stamped d).enterTrap id { raisedRec d r0 with holds := false } epc := by
  unfold Dev.raise
  rw [h]
  rfl

theorem raise_heldAtH (hs : id.isSys = false) (h : HeldAtH d id (raisedRec d r0)) :
    d.raise id r0 epc = (heldWith (stamped d) id (raisedRec d r0) epc).postH (raisedRec d r0) := by
  rw [raise_cc hs]
  obtain hH | ⟨hH, hd, hl, hi⟩ := h
  · rw [if_pos hH]
  · simp [hH, hd, hl, hi]

theorem raise_delegated (hs : id.isSys = false) (hH : handlerH (raisedRec d r0) = false)
    (hd : d.delegated (raisedRec d r0) = true) : d.raise id r0 epc =
      (heldWith (stamped d) id (raisedRec d r0) epc).updCtx r0.ctx
        fun x => { x with evq := x.evq ++ [raisedRec d r0] } := by
  simp [raise_cc hs, hH, hd]

theorem raise_entersS (hs : id.isSys = false) (hH : handlerH (raisedRec d r0) = false)
    (hd : d.delegated (raisedRec d r0) = false) (h : ¬((d.core id).level = .s ∧ (d.core id).st.inh = true)) :
    d.raise id r0 epc = (stamped d).enterTrap id { raisedRec d r0 with holds := false } epc := by
  rw [raise_cc hs]
  simp [hH, hd, h]

/-- A raised record takes the next number, wherever it goes. -/
theorem raise_seqNo : (d.raise id r0 epc).seqNo = (d.seqNo + 1) % 2 ^ 32 := by
  cases hs : id.isSys with
  | true =>
    rw [raise_sys hs]
    rfl
  | false =>
    rw [raise_cc hs, postH_of_holds rfl]
    split_ifs <;> rfl

end Raise

/-- Entry reads of the device the core, the vectors and nothing else. -/
theorem core_enterTrap_stamped (d : Dev) (id : CoreId) (r : TrapRec) (epc : Nat) :
    ((stamped d).enterTrap id r epc).core id = (d.enterTrap id r epc).core id := by
  simp only [Dev.enterTrap, core_updCore_same]
  rfl

/-- Settles O34: the cases of R309 in their order. -/
theorem raiseChooses : Obligations.RaiseChooses := by
  intro d id r0 epc
  refine ⟨raise_seqNo, fun hs => ?_, fun hs h => ?_, fun hs hH hd => ?_, fun hs hH hd h => ?_⟩
  case refine_1 => rw [raise_sys hs, core_enterTrap_stamped]
  case refine_2 =>
    rw [raise_heldAtH hs h, postH_of_holds rfl]
    have hc : (heldWith (stamped d) id (raisedRec d r0) epc).core id = _ := core_updCore_same ..
    exact ⟨congrArg Core.thread hc, congrArg Core.next hc, congrArg Core.frame hc, rfl, rfl⟩
  case refine_3 =>
    rw [raise_delegated hs hH hd]
    have hc : (heldWith (stamped d) id (raisedRec d r0) epc).core id = _ := core_updCore_same ..
    exact ⟨congrArg Core.thread hc, congrArg Context.evq (ctx_updCtx_same ..)⟩
  case refine_4 =>
    rw [raise_entersS hs hH hd h, core_enterTrap_stamped]
    rfl

end Sys2Proof.Proofs
end

section
/-! PROOFS. TRAP, HCALL, WFI, RTE and BRK (R310, R318, R321 to R323, R325). -/

namespace Sys2Proof.Proofs
open Sys2Proof Sys2Proof.Machine Sys2Proof.Laws

/-! ### BRK -/

/-- An armed skip covers the first BRK of its block (R318). -/
def brkSkips (d : Dev) (id : CoreId) : Bool :=
  (d.core id).skipArmed && match (d.core id).frame with
    | some f => !f.skipped
    | none => true

/-- What BRK does where its slot fires (R322). -/
def brkFire (o : OpY) (e : Site) (d : Dev) : Fired :=
  if brkSkips d e.core then .done (d.updFrame e.core fun f => { f with skipped := true }) .none
  else if d.brkTraps e.core then .fault d cBREAK e.addr o.imm.toNat
  else .done d .none

theorem bodyBrk_eq (o : OpY) (m : Mem) (d : Dev) : bodyBrk o m d = d.fire (.brk o) false fun e _ d => brkFire o e d :=
  rfl

theorem brkFire_skipped {o : OpY} {e : Site} {d : Dev} (h : brkSkips d e.core = true) :
    brkFire o e d = .done (d.updFrame e.core fun f => { f with skipped := true }) .none := if_pos h

theorem brkFire_nothing {o : OpY} {e : Site} {d : Dev} (hs : brkSkips d e.core = false)
    (ht : d.brkTraps e.core = false) : brkFire o e d = .done d .none := by
  simp [brkFire, hs, ht]

theorem brkFire_traps {o : OpY} {e : Site} {d : Dev} (hs : brkSkips d e.core = false)
    (ht : d.brkTraps e.core = true) : brkFire o e d = .fault d cBREAK e.addr o.imm.toNat := by
  simp [brkFire, hs, ht]

/-- A firing in a control block that computes and meets a fault leaves it to its block (R99). -/
theorem fire_of_fault {i : Instr} {always : Bool} {d d' : Dev} {e : Site} {g : Gathered} {cause addr info : Nat}
    {eff : Site → Gathered → Dev → Fired} (h : d.firing i = some (e, g)) (hk : e.ctl = true) (hc : g.computes = true)
    (he : eff e g d = .fault d' cause addr info) : d.fire i always eff = d'.faultCtl i e cause addr info := by
  unfold Dev.firing at h
  unfold Dev.fire
  cases hf : d.focus <;> simp only [hf] at h
  case fire id slot => simp [Dev.fireCtl, h, hc, he]
  case elem cfg tile blk slot => simp [elemReady_ctl h] at hk
  all_goals cases h

/-! ### RTE -/

/-- RTE of a block without WFI returns the core from its handler. -/
theorem bodyRte_committing {o : OpY} {m : Mem} {id : CoreId} {f : Frame} {c : Capture} {d : Dev}
    (h : d.committing id f c) (hw : ∀ b, (d.core id).thread ≠ .wfi b) : bodyRte o m d =
      (match (d.core id).entry with
        | some r => if !id.isSys && (d.core id).st.hold then d.releaseConfig r.seqNo r.cause (d.core id).st.act else d
        | none => d).updCore id fun k => k.returnFromTrap id := by
  rw [bodyRte, commits_committing h]
  refine congrArg (Dev.updCore _ id) (funext fun k => ?_)
  dsimp only
  split
  · next b _ hb => exact absurd hb (hw b)
  · rfl

/-- Settles O32: what each instruction does at its block's commit, and where BRK fires. -/
theorem systemInstructions : Obligations.SystemInstructions := by
  refine ⟨?trap, ?hcall, ?wfi, ?rteFree, ?rteHeld, ?brkSkipped, ?brkNothing, ?brkTraps⟩
  case trap =>
    refine fun o => commitsIf_of_act (fun _ => rfl) fun m id f c d h _ => ?_
    rw [bodyTrap, commits_committing h]
    rfl
  case hcall =>
    refine fun o => commitsIf_of_act (fun _ => rfl) fun m id f c d h _ => ?_
    rw [bodyHcall, commits_committing h]
    rfl
  case wfi => exact fun o => commits_of_updCore _ (fun _ => rfl) fun _ _ _ _ => rfl
  case rteFree =>
    refine fun o => commitsIf_of_act (fun _ => rfl) fun m id f c d h ⟨he, hw⟩ => ?_
    rw [bodyRte_committing h hw, he]
  case rteHeld =>
    refine fun o r => commitsIf_of_act (fun _ => rfl) fun m id f c d h ⟨hs, he, hh, hw⟩ => ?_
    rw [bodyRte_committing h hw, he]
    simp [hs, hh]
  case brkSkipped =>
    refine fun o => firesIf_of_body (fun _ => rfl) (fun m d _ _ => bodyBrk_eq o m d) fun m e g d h => ?_
    exact brkFire_skipped h
  case brkNothing =>
    refine fun o => firesIf_of_body (fun _ => rfl) (fun m d _ _ => bodyBrk_eq o m d) fun m e g d ⟨hs, ht⟩ => ?_
    exact brkFire_nothing hs ht
  case brkTraps =>
    intro o s e g hs h hk hc hskip htrap
    have hbrk : bodyBrk o s.mem s.dev = s.dev.faultCtl (.brk o) e cBREAK e.addr o.imm.toNat := by
      rw [bodyBrk_eq, fire_of_fault h hk hc (brkFire_traps hskip htrap)]
    have ⟨_, hwq, htx⟩ := hs
    rw [show Machine.exec (.brk o) s = act s (bodyBrk o) from rfl,
      act_eq hs (by rw [hbrk]; exact hwq) (by rw [hbrk]; exact htx), hbrk]
    rfl

end Sys2Proof.Proofs
end

section
/-! PROOFS. Reads and writes of system registers (R300, R301, R319, R324, R402). -/

namespace Sys2Proof.Proofs
open Sys2Proof Sys2Proof.Machine Sys2Proof.Laws

/-! ### SWR (R324) -/

/-- The registers whose write has a behaviour of its own. -/
def actingRegs : List Nat := [0x09C, 0x105, 0x302, 0x400, 0x403, 0x404, 0x580, 0x600, 0x612]

/-- The registers that select what other registers name. -/
def selectorRegs : List Nat := [0x102, 0x201, 0x402, 0x610, 0x611, 0x700, 0x901, 0xA03, 0xB02]

theorem selects_iff {n : Nat} : selects n = true ↔ n ∈ selectorRegs := List.contains_iff_mem

theorem not_acting_of_selector : ∀ {n : Nat}, n ∈ selectorRegs → n ∉ actingRegs := by decide

/-- A register without a behaviour of its own is kept for the end of the block when it selects, and written else. -/
theorem swr_of_not_acting {n : Nat} (h : n ∉ actingRegs) (m : Mem) (d : Dev) (id : CoreId) (v : Word) :
    d.swr m id n v =
      if selects n then d.updFrame id fun f => { f with sels := f.sels ++ [(n, v)] } else d.srWrite id n v := by
  unfold Dev.swr
  split
  case h_10 => rfl
  all_goals exact absurd (by decide) h

theorem swr_plain {n : Nat} (ha : n ∉ actingRegs) (hs : n ∉ selectorRegs) (m : Mem) (d : Dev) (id : CoreId) (v : Word) :
    d.swr m id n v = d.srWrite id n v := by
  rw [swr_of_not_acting ha, if_neg (mt selects_iff.1 hs)]

theorem swr_selector {n : Nat} (hs : n ∈ selectorRegs) (m : Mem) (d : Dev) (id : CoreId) (v : Word) :
    d.swr m id n v = d.updFrame id fun f => { f with sels := f.sels ++ [(n, v)] } := by
  rw [swr_of_not_acting (not_acting_of_selector hs), if_pos (selects_iff.2 hs)]

/-! ### A register that is written reads back (R301) -/

/-- A write of a register of a core is made on the core. -/
theorem srWrite_core {n : Nat} {l : Level} {b : SrBank} (h : srInfo n = some (l, b))
    (hb : b = .cc ∨ b = .sys ∨ b = .core) (d : Dev) (id : CoreId) (v : Word) :
    d.srWrite id n v = d.updCore id fun c => c.srWrite n v := by
  obtain rfl | rfl | rfl := hb <;> simp [Dev.srWrite, h]

theorem srWrite_pkg {n : Nat} {l : Level} (h : srInfo n = some (l, .pkg)) (d : Dev) (id : CoreId) (v : Word) :
    d.srWrite id n v = d.srWritePkg n v := by
  simp [Dev.srWrite, h]

theorem getD_setAt_same {α : Type} {xs : List α} {k : Nat} (h : k < xs.length) (v e : α) :
    (setAt xs k v).getD k e = v := by
  simp [setAt, h]

/-- A save register holds the whole word that was written. -/
theorem srRead_save {k : Nat} (hk : k < 4) (d : Dev) (id : CoreId) (v : Word) (hl : (d.core id).save.length = 4) :
    (d.srWrite id (0x010 + k) v).srRead id (0x010 + k) = v := by
  have hw : d.srWrite id (0x010 + k) v = d.updCore id fun c => { c with save := setAt c.save k v } := by
    interval_cases k <;> exact srWrite_core rfl (.inl rfl) d id v
  have hr : ∀ d : Dev, d.srRead id (0x010 + k) = BitVec.ofNat 64 ((d.core id).save.getD k 0).toNat := by
    interval_cases k <;> exact fun _ => rfl
  rw [hr, hw, core_updCore_same, getD_setAt_same (by omega), BitVec.ofNat_toNat, BitVec.setWidth_eq]

/-- Settles O36: what the instructions deliver and write, and what each register keeps. That SHEP_PGSEL holds seven bits
is the model's choice (DESIGN CHOICE, log entry 59; R351). -/
theorem systemRegisters : Obligations.SystemRegisters := by
  refine ⟨⟨?srd, ?mtrdRead, ?mtdata, ?plain, ?selector⟩, fun d id v => ⟨?save, ?epc, ?ctxsel, ?pgsel, ?hvec, ?hrval⟩⟩
  case srd =>
    refine fun o f => firesIf_of_body (fun _ => rfl) (fun _ _ _ _ => rfl) fun m e g d ⟨_, hsel, hf⟩ => ?_
    simp [hsel, hf, Frame.sr]
  case mtrdRead =>
    refine fun o f => firesIf_of_body (fun _ => rfl) (fun _ _ _ _ => rfl) fun m e g d ⟨_, hf⟩ => ?_
    simp [hf, Frame.sr]
  case mtdata =>
    refine fun o f a k x t n b => firesIf_of_body (fun _ => rfl) (fun _ _ _ _ => rfl) fun m e g d ⟨_, hf, ha, hb⟩ => ?_
    simp only [hf, ha, hb, ctlBank_fire_ok]
  case plain =>
    exact fun o ha hs => commitsIf_of_act (fun _ => rfl) fun m id f c d h _ => by
      rw [bodySwr, fireCommit_committing h, swr_plain ha hs]
  case selector =>
    exact fun o hs => commitsIf_of_act (fun _ => rfl) fun m id f c d h _ => by
      rw [bodySwr, fireCommit_committing h, swr_selector hs]
  case save => exact fun k hk _ hl => srRead_save hk d id v hl
  case epc =>
    intro _
    rw [srWrite_core rfl (.inl rfl)]
    simp [Dev.srRead, Dev.srdTrap, Core.srWrite]
  case ctxsel =>
    rw [srWrite_core rfl (.inr (.inr rfl))]
    simp [Dev.srRead, Dev.srdTrap, Core.srWrite]
  case pgsel =>
    rw [srWrite_core rfl (.inr (.inr rfl))]
    simp [Dev.srRead, Dev.srdPlace, Core.srWrite]
  case hvec =>
    intro _
    rw [srWrite_pkg rfl]
    simp [Dev.srRead, Dev.srdTrap, Dev.srWritePkg]
  case hrval =>
    intro _
    rw [srWrite_pkg rfl]
    simp [Dev.srRead, Dev.srdTrap, Dev.srWritePkg]

end Sys2Proof.Proofs
end

section
/-! PROOFS. Writes of registers that act (R312, R325, R350, R351, R381, R386, R387). -/

namespace Sys2Proof.Proofs
open Sys2Proof Sys2Proof.Machine Sys2Proof.Laws

/-! ### Agents that are released or woken -/

/-- PRIV_WAKE ends the WFI of the core whose number it writes (R325). -/
theorem bodyPrivWake_wakes {v : Word} {d : Dev} {b : Option Nat} (hv : v.toNat < 132)
    (ht : (d.core (coreOfKey v.toNat)).thread = .wfi b) (id : CoreId) (m : Mem) :
    bodyPrivWake id v m d = d.updCore (coreOfKey v.toNat) fun c => { c with thread := .live } := by
  by_cases hc : v.toNat < 128
  · have hk : coreOfKey v.toNat = .cc ⟨v.toNat, hc⟩ := dif_pos hc
    rw [hk] at ht ⊢
    simp [bodyPrivWake, hc, ht]
  · have h4 : v.toNat - 128 < 4 := by omega
    have hk : coreOfKey v.toNat = .sys ⟨v.toNat - 128, h4⟩ := by simp [coreOfKey, hc, h4]
    rw [hk] at ht ⊢
    simp [bodyPrivWake, hc, h4, ht]

/-! ### The Shepherd's registers (R350, R351) -/

/-- Two changes of a context agree where they do on the context as it stands. -/
theorem updCtx_congr {d : Dev} {k : Nat} {f g : Context → Context} (h : f (d.ctx k) = g (d.ctx k)) :
    d.updCtx k f = d.updCtx k g := by
  unfold Dev.updCtx
  rw [h]

/-- A context that occupies no page gives its paddock up; REJ stays until a write clears it. -/
theorem bodyShepPaddock_clears {id : CoreId} {v : Word} {d : Dev} (h16 : v.getLsbD 16 = false)
    (hp : d.ctxPages (d.selCtx id) = []) (m : Mem) : bodyShepPaddock id v m d = d.updCtx (d.selCtx id) fun x =>
      { x with paddock := if x.paddock.toNat.testBit 17 && !v.getLsbD 17 then 0x20000 else 0 } := by
  simp only [bodyShepPaddock, h16, hp, Bool.false_eq_true, if_false, List.isEmpty_nil, if_true]
  refine updCtx_congr ?_
  split <;> rfl

/-- A rectangle lies in the pages of a context's partition, meets no paddock of another context, and holds the
pages that its own occupies. -/
def PaddockFits (id : CoreId) (r : Rect) (d : Dev) : Prop :=
  r.inGrid = true
    ∧ (∀ g ∈ r.pages, d.pageFor (d.selPart id) g = true ∨ d.enabledPage g = false)
    ∧ (∀ e ∈ d.ctxs, e.1 ≠ d.selCtx id → (d.part (d.selPart id)).hasCtx e.1 = true →
        ∀ q, e.2.pad = some q → ∀ g ∈ q.pages, g ∉ r.pages)
    ∧ ∀ g ∈ d.ctxPages (d.selCtx id), g ∈ r.pages

/-- A rectangle that fits is granted, and the context's planes get a new key. -/
theorem bodyShepPaddock_grants {id : CoreId} {v : Word} {d : Dev} (h16 : v.getLsbD 16 = true)
    (h17 : v.getLsbD 17 = true) (hf : PaddockFits id (rectOf v.toNat) d) (m : Mem) : bodyShepPaddock id v m d =
      ({ d with free := d.free + 1 } : Dev).updCtx (d.selCtx id) fun x => { x with
        worldKey := (Config.freeBits d.free).setWidth 128
        paddock := BitVec.ofNat 64 (v.toNat % 8 + Word.bits v.toNat 7 4 * 2 ^ 4 + Word.bits v.toNat 10 8 * 2 ^ 8
          + Word.bits v.toNat 15 12 * 2 ^ 12 + 2 ^ 16) } := by
  obtain ⟨hgrid, hpages, hothers, hmine⟩ := hf
  have hown : ((rectOf v.toNat).pages.all fun g => d.pageFor (d.selPart id) g || !d.enabledPage g) = true := by
    simpa using hpages
  have hin : ((d.ctxPages (d.selCtx id)).all (rectOf v.toNat).pages.contains) = true := by simpa using hmine
  unfold bodyShepPaddock
  dsimp only
  rw [if_pos h16, if_pos]
  · simp only [h17, Bool.not_true, Bool.and_false, Bool.false_eq_true, if_false, Nat.add_zero]
    rfl
  · simp only [Bool.and_eq_true, Bool.not_eq_true']
    refine ⟨⟨⟨hgrid, hown⟩, List.any_eq_false.2 fun e he hmeets => ?_⟩, hin⟩
    simp only [Bool.and_eq_true, bne_iff_ne] at hmeets
    obtain ⟨⟨hne, hctx⟩, hmeet⟩ := hmeets
    split at hmeet
    · next q hq =>
      obtain ⟨g, hg, hgr⟩ := List.any_eq_true.1 hmeet
      exact hothers e he hne hctx q hq g hg (List.contains_iff_mem.1 hgr)
    · cases hmeet

/-- The owners of a page's four planes side by side are the low bits of the register. -/
theorem planeGroups_eq (x : Nat) :
    (List.range 4).foldl (fun acc k => acc + x / 2 ^ (5 * k) % 32 * 2 ^ (5 * k)) 0 = x % 2 ^ 20 := by
  simp only [List.range, List.range.loop, List.foldl]
  omega

/-- Where no plane of the page is occupied, every plane takes the owner written for it. -/
theorem bodyShepPlown_free {id : CoreId} {d : Dev} (h : ∀ k, k < 4 → d.occupied (d.core id).pgsel k = false) (v : Word)
    (m : Mem) : bodyShepPlown id v m d = { d with plown := insert (d.core id).pgsel (low v 20) d.plown } := by
  have hnew : (List.range 4).foldl (fun acc k =>
      let g := if d.occupied (d.core id).pgsel k then d.plownOf (d.core id).pgsel / 2 ^ (5 * k) % 32
        else v.toNat / 2 ^ (5 * k) % 32
      acc + g * 2 ^ (5 * k)) 0 = v.toNat % 2 ^ 20 := by
    rw [← planeGroups_eq]
    exact List.foldl_ext _ _ _ fun acc k hk => by simp [h k (List.mem_range.1 hk)]
  unfold bodyShepPlown
  simp only [hnew]
  rfl

theorem bodyShepPlmap_free {id : CoreId} {d : Dev} (h : ∀ k, k < 4 → d.occupied (d.core id).pgsel k = false) (v : Word)
    (m : Mem) : bodyShepPlmap id v m d = { d with plmap := insert (d.core id).pgsel (low v 42) d.plmap } := by
  have hany : ¬ (List.range 4).any (d.occupied (d.core id).pgsel) = true := by
    simp only [List.any_eq_true, List.mem_range, not_exists, not_and]
    exact fun k hk => by simp [h k hk]
  simp only [bodyShepPlmap, hany]
  rfl

/-! ### Partitions (R386) -/

/-- A STOP leaves its partition in state NONE. -/
theorem state_stopPartition (m : Mem) (d : Dev) (k c : Nat) : ((d.stopPartition m k c).part k).state = .none := by
  unfold Dev.stopPartition
  exact congrArg Partition.state (part_updPart_same ..)

/-- A write of PART_FTAG that is not of an accepted kind for every frame that it covers (R387). -/
theorem bodyPartFtag_refused {id : CoreId} {v : Word} {d : Dev}
    (h : (((List.range (d.core id).ftcnt).map ((d.core id).ftsel + ·)).all fun f => (d.tag f).accepts v.toNat) = false)
    (m : Mem) : bodyPartFtag id v m d =
      { d with tags := insert (d.core id).ftsel { d.tag (d.core id).ftsel with rej := true } d.tags } := by
  simp only [bodyPartFtag, h]
  rfl

/-- Settles O37: each register's write under the conditions of its rule. That a refused write of PART_FTAG sets REJ of
its first frame alone and that START begins the record numbers anew are the model's readings (DEDUCED, log entries 45
and 46). -/
theorem actingRegisters : Obligations.ActingRegisters := by
  refine ⟨?ack, ?wake, ?padClear, ?padGrant, ?plown, ?plmap, ?cgtab, ?s2base, ?opens, ?fails, ?starts, ?stops, ?stopped,
    ?refused, ?accepted⟩
  case ack =>
    refine fun a v r => writesIf_of_act (fun _ => rfl) fun m d h => ?_
    simp only [bodyTrapHAck, h]
  case wake =>
    refine fun a v p b => stepsIf_of_act (fun _ => rfl) (fun m d ⟨hv, hp, ht⟩ => ?_) (fun _ _ _ => rfl) fun _ _ _ => rfl
    subst hp
    exact bodyPrivWake_wakes hv ht a m
  case padClear =>
    exact fun id v => stepsIf_of_act (fun _ => rfl) (fun m d ⟨h16, hp⟩ => bodyShepPaddock_clears h16 hp m)
      (fun _ _ _ => rfl) fun _ _ _ => rfl
  case padGrant =>
    refine fun id v r => stepsIf_of_act (fun _ => rfl) (fun m d h => ?_) (fun _ _ _ => rfl) fun _ _ _ => rfl
    obtain ⟨rfl, h16, h17, hgrid, hpages, hothers, hmine⟩ := h
    exact bodyShepPaddock_grants h16 h17 ⟨hgrid, hpages, hothers, hmine⟩ m
  case plown =>
    exact fun id v => stepsIf_of_act (fun _ => rfl) (fun m d h => bodyShepPlown_free h v m) (fun _ _ _ => rfl)
      fun _ _ _ => rfl
  case plmap =>
    exact fun id v => stepsIf_of_act (fun _ => rfl) (fun m d h => bodyShepPlmap_free h v m) (fun _ _ _ => rfl)
      fun _ _ _ => rfl
  case cgtab =>
    exact fun id v => stepsIf_of_act (fun _ => rfl) (fun _ _ _ => rfl) (fun _ _ _ => rfl) fun _ _ _ => rfl
  case s2base =>
    exact fun id v => stepsIf_of_act (fun _ => rfl) (fun _ _ _ => rfl) (fun _ _ _ => rfl) fun _ _ _ => rfl
  case opens =>
    refine fun k => stepsIf_of_act (fun _ => rfl) (fun m d h => ?_) (fun _ _ _ => rfl) fun _ _ _ => rfl
    simp [bodyPartCtlOpen, h]
  case fails =>
    refine fun k e he => stepsIf_of_act (fun _ => rfl) (fun m d ⟨hs, herr⟩ => ?_) (fun _ _ _ => rfl) fun _ _ _ => rfl
    simp [bodyPartCtlStart, hs, herr, he]
  case starts =>
    refine fun k => writesIf_of_act (fun _ => rfl) fun m d ⟨hs, herr⟩ => ?_
    simp only [bodyPartCtlStart, hs, herr]
    rfl
  case stops =>
    refine fun k => writesIf_of_act (fun _ => rfl) fun m d hs => ?_
    rw [bodyPartCtlStop, if_pos (by rw [hs]; rfl), cPREEMPT]
  case stopped => exact state_stopPartition
  case refused =>
    exact fun id v => stepsIf_of_act (fun _ => rfl) (fun m d h => bodyPartFtag_refused h m) (fun _ _ _ => rfl)
      fun _ _ _ => rfl
  case accepted =>
    refine fun id v => stepsIf_of_act (fun _ => rfl) (fun m d ⟨ha, hq⟩ => ?_) (fun _ _ _ => rfl) fun _ _ _ => rfl
    unfold bodyPartFtag
    exact if_pos (Bool.and_eq_true_iff.2 ⟨ha, hq⟩)

end Sys2Proof.Proofs
end

section
/-! PROOFS. Records on their way to their handlers, lines of memory, meters and the SEP (R308 to R317, R325, R389, R392,
R393, R396, R400, R403). -/

namespace Sys2Proof.Proofs
open Sys2Proof Sys2Proof.Machine Sys2Proof.Laws

/-! ### The event ring (R314, R315) -/

/-- The oldest delegated record of a context goes to the next entry of a ring that has room, and PRODUCED follows. -/
theorem bodyEventRingWrite_delivers {ctx n : Nat} {r : TrapRec} {rest : List TrapRec} {m : Mem} {d d1 d2 d3 : Dev}
    {bs : List Byte} {p : Option Nat} (hq : (d.ctx ctx).evq = r :: rest) (hbase : (d.ctx ctx).evBase ≠ 0)
    (hsize : (d.ctx ctx).evSize ≠ 0)
    (hload : d.load m (d.deviceAcc r.part ctx .rd 0) (d.ctx ctx).evBase 20 = (d1, .ok (bs, p)))
    (hn : Word.ofBytes (bs.take 8) = n)
    (hroom : (n + 2 ^ 64 - Word.ofBytes ((bs.drop 8).take 8)) % 2 ^ 64 ≠ (d.ctx ctx).evSize)
    (hentry : d1.devStore m r.part ctx ((d.ctx ctx).evBase + 64 + 64 * (n % (d.ctx ctx).evSize)) (r.bytes true)
      = (d2, true))
    (hprod : d2.devStore m r.part ctx (d.ctx ctx).evBase (Word.toBytes 8 (n + 1)) = (d3, true)) :
    bodyEventRingWrite ctx m d = d3.updCtx ctx fun c => { c with
      evq := rest, evAck := if r.holds || r.cause == 0x0E then c.evAck ++ [(n, r)] else c.evAck } := by
  subst hn
  simp [-Nat.reducePow, bodyEventRingWrite, hq, hbase, hsize, hload, hroom, Context.evEntry, hentry, hprod,
    cPOISONREPORT]

/-- The ACK word of an entry releases the agent that its record holds, to retry or to abort. -/
theorem bodyEventRingAck_releases {ctx entry v : Nat} {r : TrapRec} {m : Mem} {d d1 : Dev} {bs : List Byte}
    {p : Option Nat} (hr : r.holds = true) (hv : v = 1 ∨ v = 2) (ha : lookup entry (d.ctx ctx).evAck = some r)
    (hload : d.load m (d.deviceAcc r.part ctx .rd 0) ((d.ctx ctx).evEntry entry + 56) 8 = (d1, .ok (bs, p)))
    (hbs : Word.ofBytes bs = v) : bodyEventRingAck ctx entry m d =
      (d1.updCtx ctx fun c => { c with evAck := remove entry c.evAck }).release r.seqNo r.cause (v == 2) := by
  subst hbs
  obtain h | h := hv <;> simp [bodyEventRingAck, ha, hload, hr, h]

/-! ### The watchdog (R317) -/

theorem bodyStallWatchdog_reports {w : Watched} {t : Nat} {m : Mem} {d : Dev}
    (hf : (d.watch.find? fun e => e.1 == w) = some (w, t, false)) (hw : d.watched w = true)
    (ht : d.wdogOf w ≤ (d.time - t) / 1000) : bodyStallWatchdog w m d =
      { d.stallReport w ((d.time - t) / 1000) with
        watch := (d.stallReport w ((d.time - t) / 1000)).watch.map fun e => if e.1 == w then (w, t, true) else e } := by
  simp [bodyStallWatchdog, hf, hw, Nat.not_lt.2 ht]

/-! ### Lines of memory and meters (R393, R400) -/

theorem bodyClearLine_clears {hfn line : Nat} {m : Mem} {d : Dev} (hs : (d.tag hfn).state = 2) (hl : line < 32768)
    (hn : line ∉ (d.tag hfn).lines) : bodyClearLine hfn line m d =
      (((d.write (bytesAt (hfn * frameBytes + 64 * line) (List.replicate 64 0))).forgetOld
        (hfn * frameBytes + 64 * line) 64).markCleared (hfn * frameBytes + 64 * line)).cureLine
        (hfn * frameBytes + 64 * line) := by
  simp [bodyClearLine, hs, hl, hn]

/-! ### The SEP serves its queue (R403) -/

/-- The completion word of a request that the SEP has served with a status. -/
def sepServed (q : SepReq) (r : Dev × Nat) (m : Mem) : Dev :=
  r.1.tryWord m { acc := r.1.sepAcc q .wr 1, cfg := q.cfg, addr := q.cw, v := BitVec.ofNat 64 r.2 }

theorem serve_head {m : Mem} {d : Dev} {kind : SepKind} {q : SepReq} {rest : List SepReq}
    (h : d.sepq = q :: rest ∧ q.kind = kind) (f : SepReq → Dev → Dev × Nat) :
    d.serve m kind f = sepServed q (f q { d with sepq := rest }) m := by
  simp [Dev.serve, h.1, h.2, sepServed]

/-- A slot may be given the share of a role that it has none for, the second role where it takes two shares. -/
theorem roleBad_eq_false {s : KeySlot} {role : Nat} (hs : s.share role = none) (h2 : role = 1 → s.two = true) :
    s.roleBad role = false := by
  by_cases hr : role = 1
  · simp [KeySlot.roleBad, hs, h2 hr]
  · simp [KeySlot.roleBad, hs, hr]

theorem insert_insert_same {α : Type} (k : Nat) (x y : α) (t : List (Nat × α)) :
    Machine.insert k y (Machine.insert k x t) = Machine.insert k y t := by
  induction t with
  | nil => simp [Machine.insert]
  | cons e rest ih =>
    obtain ⟨j, z⟩ := e
    by_cases hlt : k < j
    · simp [Machine.insert, hlt]
    · by_cases heq : j = k
      · simp [Machine.insert, heq]
      · simp [Machine.insert, hlt, heq, ih]

/-- A key slot changed twice is changed by both changes in their order. -/
theorem updSlot_updSlot (d : Dev) (k n : Nat) (f g : KeySlot → KeySlot) :
    (d.updSlot k n f).updSlot k n g = d.updSlot k n (g ∘ f) := by
  simp only [Dev.updSlot, Dev.updPart, Dev.part, lookup_insert_same, Option.getD_some, insert_insert_same,
    List.modify_modify_eq]

section Serve

variable {m : Mem} {q : SepReq} {d d1 : Dev} {b : List Byte}

/-- A slot that may be given the share of the role of a request. -/
def SlotOpen (q : SepReq) (s : KeySlot) : Prop :=
  s.assigned = true ∧ s.share q.role = none ∧ (q.role = 1 → s.two = true)

/-- A point in the buffer of a BEGIN (R396). -/
def beginPoint (b : List Byte) (off : Nat) : BitVec 512 := BitVec.ofNat 512 (Word.ofBytesBe (sub b off 64))

/-- The length of the identity in the buffer of a BEGIN. -/
def beginIdLen (b : List Byte) : Nat := Word.ofBytes (sub b 0x40 2)

/-- What a BEGIN does with the SEP's part of the exchange: infinity answers status 6 (log entry 40), and the SEP's point
and confirmation go to the buffer before the slot keeps what was agreed. -/
def beginAnswer (m : Mem) (q : SepReq) (b : List Byte) : Dev × BitVec 512 × Option (BitVec 768) → Dev × Nat
  | (d2, rb, some agreed) =>
    let w := d2.sepStore m q 0x100
      (beBytes rb ++ Word.toBytesBe 32 (Word.bits agreed.toNat 511 256) ++ sub b 0x160 32)
    if w.2 then
      (w.1.updSlot q.part q.slot fun s =>
        if q.role = 0 then { s with begun0 := some agreed } else { s with begun1 := some agreed }, 1)
    else (w.1, 8)
  | (d2, _, none) => (d2, 6)

/-- A BEGIN whose buffer is read and whose points lie on the curve runs the exchange. -/
theorem serveBegin_agrees (hs : SlotOpen q (d.keySlot q.part q.slot)) (hload : d.sepLoad m q 0 8 = (d1, some b))
    (h0 : beginIdLen b ≠ 0) (h64 : beginIdLen b ≤ 64) (hpa : sm2OnCurve (beginPoint b 0x60) = true)
    (hra : sm2OnCurve (beginPoint b 0xA0) = true) : serveBegin m q d =
      beginAnswer m q b (d1.respond (beginPoint b 0x60) (beginPoint b 0xA0) (sub b 0 (beginIdLen b))) := by
  obtain ⟨ha, hshare, h2⟩ := hs
  unfold beginPoint beginIdLen at *
  simp only [serveBegin, roleBad_eq_false hshare h2, ha, hload, beq_eq_false_iff_ne.2 h0,
    decide_eq_false (Nat.not_lt.2 h64), hpa, hra, Bool.not_true, Bool.or_false, Bool.false_eq_true, if_false]
  generalize d1.respond _ _ _ = r
  obtain ⟨d2, rb, agreed⟩ := r
  cases agreed with
  | none => rfl
  | some agreed =>
    dsimp only [beginAnswer]
    generalize d2.sepStore m q _ _ = w
    obtain ⟨d3, ok⟩ := w
    cases ok with
    | true => simp only [beq_iff_eq]; rfl
    | false => rfl

/-- The share in the buffer of a FINISH, unwrapped with the agreed key (R396). -/
def finishShare (b : List Byte) (agreed : BitVec 768) : List Byte :=
  xorBytes (sub b 0x180 16) (sm4Enc (BitVec.ofNat 128 (Word.bits agreed.toNat 767 640)) (List.replicate 16 0))

/-- The identity binding that the buffer of a FINISH names. -/
def finishBind (b : List Byte) : List Byte := sub b 0xE0 32

/-- The confirmation and the code of the share verify, and the binding is the slot's or none (R396). -/
def FinishVerifies (q : SepReq) (s : KeySlot) (agreed : BitVec 768) (b : List Byte) : Prop :=
  sub b 0x160 32 = Word.toBytesBe 32 (Word.bits agreed.toNat 255 0)
    ∧ sub b 0x190 16 = (hmacSm3 (Word.toBytesBe 16 (Word.bits agreed.toNat 639 512))
        (finishShare b agreed ++ finishBind b ++ Word.toBytes 1 q.slot ++ Word.toBytes 1 q.role)).take 16
    ∧ ((s.bind.all (· == 0)) = true ∨ ((finishBind b).all (· == 0)) = true ∨ s.bind = finishBind b)

theorem openShare_verified {s : KeySlot} {agreed : BitVec 768} (h : FinishVerifies q s agreed b) :
    openShare q s agreed b = .ok (BitVec.ofNat 128 (Word.ofBytesBe (finishShare b agreed)), finishBind b) := by
  obtain ⟨hconf, hmac, hbind⟩ := h
  have hstands : (!(s.bind.all (· == 0)) && !((finishBind b).all (· == 0)) && s.bind != finishBind b) = false := by
    obtain h | h | h := hbind
    · rw [h]
      rfl
    · rw [h, Bool.not_true, Bool.and_false, Bool.false_and]
    · rw [h, bne_self_eq_false, Bool.and_false]
  unfold openShare
  unfold finishShare finishBind at *
  dsimp only
  rw [if_neg (by simp [hconf, hmac]), if_neg (by simp only [hstands]; exact Bool.false_ne_true)]

/-- The slot that a FINISH gives its share: the exchange of the role is over, and a binding that is not zero stands. -/
def withShare (q : SepReq) (share : BitVec 128) (bind : List Byte) (s : KeySlot) : KeySlot :=
  let s' := if q.role = 0 then { s with begun0 := none, share0 := some share }
    else { s with begun1 := none, share1 := some share }
  if bind.all (· == 0) then s' else { s' with bind := bind }

/-- A FINISH that verifies gives the slot its share. -/
theorem serveFinish_verified {agreed : BitVec 768} (hs : SlotOpen q (d.keySlot q.part q.slot))
    (hag : (if q.role = 0 then (d.keySlot q.part q.slot).begun0 else (d.keySlot q.part q.slot).begun1) = some agreed)
    (hload : d.sepLoad m q 0 8 = (d1, some b)) (hv : FinishVerifies q (d.keySlot q.part q.slot) agreed b) :
    serveFinish m q d = (d1.updSlot q.part q.slot
      (withShare q (BitVec.ofNat 128 (Word.ofBytesBe (finishShare b agreed))) (finishBind b)), 1) := by
  obtain ⟨ha, hshare, h2⟩ := hs
  simp only [serveFinish, roleBad_eq_false hshare h2, beq_iff_eq, hag, hload, openShare_verified hv, updSlot_updSlot]
  refine Prod.ext (congrArg (Dev.updSlot d1 q.part q.slot) (funext fun s => ?_)) rfl
  by_cases hr : q.role = 0
  · simp [withShare, KeySlot.endBegun, hr]
  · simp [withShare, KeySlot.endBegun, hr]

end Serve

/-- Settles O46: each step under the conditions of its rule. That a BEGIN whose shared point is infinity answers status 6
is the model's reading (DEDUCED, log entry 40). -/
theorem recordsAndMeters : Obligations.RecordsAndMeters := by
  refine ⟨⟨?entry, ?hQueue, ?ringWrite, ?ringAck, ?wfi, ?watchdog⟩,
    ?clear, ?lineRead, ?lineWrite, ?periodic, ?begin, ?finish, ?agrees, ?verified, ?record, ?quote⟩
  case entry =>
    refine fun id r => stepsIf_of_act (fun _ => rfl) (fun m d ⟨ht, hr⟩ => ?_) (fun _ _ _ => rfl) fun _ _ _ => rfl
    simp [bodyTrapEntry, ht, hr]
  case hQueue =>
    refine fun k r => stepsIf_of_act (fun _ => rfl) (fun m d ⟨ht, hr⟩ => ?_) (fun _ _ _ => rfl) fun _ _ _ => rfl
    simp only [bodyHQueueTake, ht, hr]
    rfl
  case ringWrite =>
    refine fun ctx r rest d1 bs p d2 d3 n => writesIf_of_act (fun _ => rfl) fun m d h => ?_
    obtain ⟨hq, hbase, hsize, hload, hn, hroom, hentry, hprod⟩ := h
    exact bodyEventRingWrite_delivers hq hbase hsize hload hn hroom hentry hprod
  case ringAck =>
    refine fun ctx entry r v hr hv => writesIf_of_act (fun _ => rfl) fun m d h => ?_
    obtain ⟨ha, d1, bs, p, hload, hbs⟩ := h
    rw [bodyEventRingAck_releases hr hv ha hload hbs, hload]
  case wfi =>
    refine fun id b => stepsIf_of_act (fun _ => rfl) (fun m d ⟨ht, hb⟩ => ?_) (fun _ _ _ => rfl) fun _ _ _ => rfl
    simp [bodyWfiTimeout, ht, hb]
  case watchdog =>
    exact fun w t => writesIf_of_act (fun _ => rfl) fun m d ⟨hf, hw, ht⟩ => bodyStallWatchdog_reports hf hw ht
  case clear =>
    exact fun hfn line => writesIf_of_act (fun _ => rfl) fun m d ⟨hs, hl, hn⟩ => bodyClearLine_clears hs hl hn
  case lineRead =>
    refine fun q bad bs o d1 _ => writesIf_of_act (fun _ => rfl) fun m d ⟨hp, hread⟩ => ?_
    simp [bodyMemoryLineRead, hp, hread]
  case lineWrite =>
    refine fun q => writesIf_of_act (fun _ => rfl) fun m d hp => ?_
    simp [bodyMemoryLineWrite, hp]
  case periodic =>
    refine fun k => writesIf_of_act (fun _ => rfl) fun m d ⟨hs, hi, ht⟩ => ?_
    rw [bodyMeterPeriodicRecord, if_pos (by simpa [hs, ht] using hi)]
  case begin => exact fun q rest => writesIf_of_act (fun _ => rfl) fun m d h => serve_head h _
  case finish => exact fun q rest => writesIf_of_act (fun _ => rfl) fun m d h => serve_head h _
  case agrees =>
    refine fun q rest d1 b => writesIf_of_act (fun _ => rfl) fun m d h => ?_
    obtain ⟨hq, ha, hs, h2, hload, h0, h64, hpa, hra⟩ := h
    rw [bodyKshrBeginServe, serve_head hq,
      serveBegin_agrees (d := { d with sepq := rest }) ⟨ha, hs, h2⟩ hload h0 h64 hpa hra]
    rcases hr : d1.respond (beginPoint b 0x60) (beginPoint b 0xA0) (sub b 0 (beginIdLen b)) with ⟨d2, rb, agreed⟩
    unfold beginPoint beginIdLen at hr
    simp only [hr]
    cases agreed with
    | none => rfl
    | some agreed =>
      dsimp only [beginAnswer]
      split <;> rfl
  case verified =>
    refine fun q rest d1 b agreed => writesIf_of_act (fun _ => rfl) fun m d h => ?_
    obtain ⟨hq, ha, hs, h2, hag, hload, hconf, hmac, hbind⟩ := h
    rw [bodyKshrFinishServe, serve_head hq,
      serveFinish_verified (d := { d with sepq := rest }) ⟨ha, hs, h2⟩ hag hload ⟨hconf, hmac, hbind⟩]
    rfl
  case record => exact fun q rest => writesIf_of_act (fun _ => rfl) fun m d h => serve_head h _
  case quote =>
    refine fun q rest d1 b => writesIf_of_act (fun _ => rfl) fun m d ⟨hq, hload⟩ => ?_
    rw [bodyMtrdQuoteServe, serve_head hq, hload]
    rfl

end Sys2Proof.Proofs
end

section
/-! PROOFS. The state after reset (R301, R385, R408). -/

namespace Sys2Proof.Proofs
open Sys2Proof Sys2Proof.Machine Sys2Proof.Laws

theorem core_reset (id : CoreId) : State.reset.dev.core id = freshCore id := rfl
theorem ctx_reset (k : Nat) : State.reset.dev.ctx k = {} := rfl
theorem part_reset (k : Nat) : State.reset.dev.part k = {} := rfl

/-- Settles O51: after reset every register of a core, a context and a partition is a fresh one's. That the package is
OFF and that a CC is at U and a system core at H is the model's choice (DESIGN CHOICE, log entries 3 and 4). -/
theorem resetState : Obligations.ResetState := by
  refine ⟨⟨rfl, rfl, rfl⟩, rfl, rfl, rfl, rfl, rfl, rfl, fun k => ?context, fun id => ?core, fun k => ?partition⟩
  case context =>
    rw [ctx_reset]
    decide
  case core =>
    rw [core_reset]
    exact ⟨rfl, rfl, rfl, rfl, rfl, rfl, rfl, rfl⟩
  case partition =>
    rw [part_reset]
    decide

end Sys2Proof.Proofs
end

section
/-! PROOFS. QPOST, QCTL, KSHR and MTRD: what a control block's commit does to the dispatcher's queues, the key slots and
the SEP's queue (R352 to R354, R396, R402, R403). -/

namespace Sys2Proof.Proofs
open Sys2Proof Sys2Proof.Machine Sys2Proof.Laws

/-! ### Requests at their block's commit -/

/-- A core acts for a partition when it runs at H or has the partition selected (R354). -/
theorem not_unseen_iff {d : Dev} {id : CoreId} {p : Nat} :
    (!d.atH id && p != d.selPart id) = false ↔ (d.core id).level = .h ∨ p = d.selPart id := by
  simp [Dev.atH, or_iff_not_imp_left]

/-- At its block's commit a `late` instruction makes its change and delivers the word of it. -/
theorem late_committing {d : Dev} {id : CoreId} {f : Frame} {c : Capture} (h : d.committing id f c) (i : Instr)
    (pre : Site → Dev → Option (Nat × Nat × Nat)) (com : CoreId → Frame → Capture → Dev → Dev × Word) :
    d.late i pre com = (com id f c d).1.deliverLate id c.slot (com id f c d).2 :=
  fireCommit_committing h i ..

/-- At its block's commit a `recLate` instruction acts on the record that its slot read at entry. -/
theorem recLate_committing {d : Dev} {id : CoreId} {f : Frame} {c : Capture} {bs : List Byte}
    (h : d.committing id f c) (hrec : lookup c.slot f.recs = some bs) (i : Instr) (ga : Fin 32) (m : Mem)
    (k : Site → List Byte → Dev → Fired) (com : CoreId → List Byte → Dev → Dev × Word) :
    d.recLate i ga m k com = (com id bs d).1.deliverLate id c.slot (com id bs d).2 := by
  obtain ⟨slot, hfocus, hframe, hcap, hdone⟩ := h
  have hslot : c.slot = slot := by simpa using List.find?_some hcap
  subst hslot
  simp [Dev.recLate, hfocus, hframe, hcap, hdone, hrec]

/-! ### QPOST and QCTL (R352, R354) -/

/-- QCTL of a queue that exists has the effect of its function. -/
theorem qctl_committing {d : Dev} {id : CoreId} {f : Frame} {c : Capture} {o : OpY} (h : d.committing id f c)
    (hq : ((d.core id).reg o.ga).v.toNat < 1024) (i : Instr) (assign : Bool) (eff : Nat → Nat → Dev → Dev × Word) :
    d.qctl i assign o eff =
      let r := eff ((d.core id).reg o.ga).v.toNat ((d.core id).reg o.gb).v.toNat d
      r.1.deliverLate id c.slot r.2 := by
  have hnum : ¬ nQueues ≤ ((d.core id).reg o.ga).v.toNat := Nat.not_le.mpr hq
  simp only [Dev.qctl, late_committing h, ge_iff_le, hnum, if_false]

/-! ### KSHR and MTRD (R396, R402, R403) -/

/-- What a KSHR or MTRD instruction asks of the SEP, for the context and partition that its core acts for (R403). -/
def sepRequestOf (o : OpY) (kind : SepKind) (id : CoreId) (d : Dev) : SepReq :=
  { kind := kind, part := (d.issuer id).2.1, ctx := (d.issuer id).1, slot := o.imm.toNat % 16
    role := if o.imm.getLsbD 4 then 1 else 0, buf := ((d.core id).reg o.ga).v.toNat
    cw := ((d.core id).reg o.gb).v.toNat, hyp := (d.issuer id).2.2.2, cfg := d.cfgOf id }

/-- A request joins the SEP's queue while its partition has an entry left there. -/
theorem lateIf_sepRequest {i : Instr} {o : OpY} {kind : SepKind}
    (hx : ∀ s, Machine.exec i s = act s fun _ d => d.sepRequest i o kind) : LateIf i
      (fun id _ _ _ d => (d.sepq.filter (·.part == (d.issuer id).2.1)).length < 4)
      fun id _ _ _ d => ({ d with sepq := d.sepq ++ [sepRequestOf o kind id d] }, 0) :=
  commitsIf_of_act hx fun _ _ _ _ _ h hroom =>
    (fireCommit_committing h ..).trans (if_neg (Nat.not_le.mpr hroom))

/-- Settles O38: each request at its block's commit under the conditions that let it through. -/
theorem queueAndSepInstructions : Obligations.QueueAndSepInstructions := by
  refine ⟨⟨?qpost, ?status, ?prio, ?enable, ?disable, ?flush, ?assign⟩,
    ?keyAssign, ?erase, ?begins, ?finish, ?record, ?quote⟩
  case qpost =>
    refine fun o bs r => commitsIf_of_act (fun _ => rfl) fun m id f c d h ho => ?_
    obtain ⟨hrec, hparse, hctx, hn, hown, hen, hlen⟩ := ho
    have hseen := not_unseen_iff.mpr hown
    have hnum : ¬ nQueues ≤ ((d.core id).reg o.gb).v.toNat := Nat.not_le.mpr hn
    have hroom : ¬ 64 ≤ (d.queue ((d.core id).reg o.gb).v.toNat).entries.length := Nat.not_le.mpr hlen
    rw [bodyQpost, recLate_committing h hrec]
    simp only [hparse, hctx, hnum, hseen, hen, hroom, decide_false, Bool.or_self, Bool.not_true,
      Bool.false_eq_true, if_false]
    rfl
  case status =>
    exact fun o => commitsIf_of_act (fun _ => rfl) fun m id f c d h hq => qctl_committing h hq ..
  case prio =>
    refine fun o => commitsIf_of_act (fun _ => rfl) fun m id f c d h ⟨hq, hv⟩ => ?_
    rw [bodyQctlPrio, qctl_committing h hq, if_neg (Nat.not_le.mpr hv)]
    rfl
  case enable =>
    exact fun o => commitsIf_of_act (fun _ => rfl) fun m id f c d h hq => qctl_committing h hq ..
  case disable =>
    exact fun o => commitsIf_of_act (fun _ => rfl) fun m id f c d h hq => qctl_committing h hq ..
  case flush =>
    exact fun o => commitsIf_of_act (fun _ => rfl) fun m id f c d h hq => qctl_committing h hq ..
  case assign =>
    refine fun o => commitsIf_of_act (fun _ => rfl) fun m id f c d h ⟨hq, hv, hen, hent⟩ => ?_
    rw [bodyQctlAssign, qctl_committing h hq, if_neg (by simpa [hen, hent] using hv)]
    rfl
  case keyAssign =>
    refine fun o v => commitsIf_of_act (fun _ => rfl) fun m id f c d h ⟨hv, hlt, hctx, hfree⟩ => ?_
    subst hv
    rw [bodyKshrAssign, late_committing h, if_neg (by simpa [hctx] using hlt), hfree]
    rfl
  case erase => exact fun o => commitsIf_of_act (fun _ => rfl) fun m id f c d h _ => late_committing h ..
  case begins => exact fun o => lateIf_sepRequest fun _ => rfl
  case finish => exact fun o => lateIf_sepRequest fun _ => rfl
  case record => exact fun o => lateIf_sepRequest fun _ => rfl
  case quote => exact fun o => lateIf_sepRequest fun _ => rfl

end Sys2Proof.Proofs
end

section
/-! PROOFS. PLACE, PSNAP, PREST and PLSW: the launches that a control block's commit has accepted, and the requests that
it leaves pending (R337 to R339, R341, R342, R346, R348, R352 to R354). -/

namespace Sys2Proof.Proofs
open Sys2Proof Sys2Proof.Machine Sys2Proof.Laws

/-! ### Launches (R337) -/

/-- The result word of a request that is met names its instance (R353). -/
theorem resultWord_ok (k : Nat) : resultWord rOK k = BitVec.ofNat 64 (k % 65536 * 256) := by
  rw [resultWord, rOK, Nat.zero_add]

/-- A record that its slot read at entry launches a configuration for a partition that the core acts for: it names no
dependences, and a save image where it is a PREST that launches it (R352, R354). -/
def Launches (launch : Bool) (bs : List Byte) (r : LRec) (part : Nat) (id : CoreId) (f : Frame) (c : Capture)
    (d : Dev) : Prop :=
  lookup c.slot f.recs = some bs ∧ parseLaunch bs = some r ∧ d.ctxPart r.ctx = some part ∧ r.deps = []
    ∧ (launch = true ∨ r.kind = 2) ∧ ((d.core id).level = .h ∨ part = d.selPart id)

/-- PLACE launch and PREST answer what the Shepherd's acceptance of the launch gives. -/
theorem recLate_launches {launch : Bool} {bs : List Byte} {r : LRec} {part : Nat} {id : CoreId} {f : Frame}
    {c : Capture} {d : Dev} (h : d.committing id f c) (hl : Launches launch bs r part id f c d) (i : Instr) (o : OpY) (m : Mem)
    (k : Site → List Byte → Dev → Fired) :
    d.recLate i o.ga m k (fun id bs d => launchCom launch o.imm m id bs d) =
      let a := d.accept m part bs r (d.issuerPage id part) (orgOf o.imm)
      a.1.deliverLate id c.slot (match a.2 with
        | some k => BitVec.ofNat 64 (k % 65536 * 256)
        | none => 3) := by
  obtain ⟨hrec, hparse, hpart, hdeps, hkind, hseen⟩ := hl
  have hvalid : (!r.deps.isEmpty || (!launch && r.kind != 2)) = false := by
    rcases hkind with rfl | hkind <;> simp [*]
  rw [recLate_committing h hrec]
  unfold launchCom
  simp only [hparse, hvalid, hpart, not_unseen_iff.mpr hseen, Bool.false_eq_true, if_false]
  cases (d.accept m part bs r (d.issuerPage id part) (orgOf o.imm)).2 with
  | none => rfl
  | some k => exact congrArg (Dev.deliverLate _ id c.slot) (resultWord_ok k)

/-! ### Operations on an instance (R338, R341, R346) -/

/-- `k` names an instance that is not being installed, of a partition that the core acts for (R354). -/
def Named (x : Inst) (k : Nat) (id : CoreId) (d : Dev) : Prop :=
  d.inst k = some x ∧ ((d.core id).level = .h ∨ x.part = d.selPart id) ∧ ∀ l ∈ d.installs, l.cfg ≠ k

/-- An operation on an instance in a state that admits it has the effect of its function. -/
theorem onInst_named {d : Dev} {id : CoreId} {k : Nat} {x : Inst} (h : Named x k id d) {ok : Inst → Bool}
    (hok : ok x = true) (f : Inst → Dev → Dev × Nat) (g : Launch → Dev → Dev × Nat) :
    d.onInst id k ok f g = ((f x d).1, resultWord (f x d).2 k) := by
  obtain ⟨hinst, hseen, hinstalls⟩ := h
  have hfind : d.installs.find? (·.cfg == k) = none := by simpa using hinstalls
  simp [Dev.onInst, hfind, hinst, not_unseen_iff.mpr hseen, hok]

/-! ### Snapshots (R341, R342) -/

/-- What PSNAP asks of the Shepherd. -/
def snapReqOf (marker : Bool) (o : OpY) (id : CoreId) (d : Dev) : SnapReq :=
  { marker := marker, addr := ((d.core id).reg o.gb).v.toNat, cap := o.imm.toNat * 65536
    release := o.sub.getLsbD 1, issuer := id }

/-- A PSNAP at H has PREEMPT_NOTICE posted to the partition of the instance, whatever partition is selected (DEDUCED,
log entry 32). -/
def snapNoticed (x : Inst) (k : Nat) (id : CoreId) (d : Dev) : Dev :=
  if (d.core id).level = .h then
    d.post (d.homePage x.part) { d.deviceRec x.part x.ctx with cause := 0x16, cls := 2, cfgid := k, info := k }
  else d

/-- PSNAP leaves the snapshot pending; a MARKER one has begun. -/
theorem psnap_committing {d : Dev} {id : CoreId} {f : Frame} {c : Capture} {o : OpY} {x : Inst}
    (h : d.committing id f c) (hn : Named x ((d.core id).reg o.ga).v.toNat id d) (hm : x.movable = true)
    (hp : x.pend = none) (i : Instr) (marker : Bool) : d.psnap i marker o =
      ((snapNoticed x ((d.core id).reg o.ga).v.toNat id d).updInst ((d.core id).reg o.ga).v.toNat fun x => { x with
        pend := some (.snap (snapReqOf marker o id d)), snap := if marker then some [] else none }).deliverLate id
        c.slot (BitVec.ofNat 64 (((d.core id).reg o.ga).v.toNat % 65536 * 256)) := by
  unfold Dev.psnap snapNoticed
  simp only [late_committing h, onInst_named hn hm, hp, Option.isSome_none, Bool.false_eq_true, if_false, resultWord_ok,
    Dev.atH, beq_iff_eq]
  rfl

/-! ### Plane switches (R348) -/

/-- No configuration of the active plane reaches outside some pages or has an operation pending, nor has one that is
being installed there (R354). -/
def FreeToSwitch (ps : List Nat) (d : Dev) : Prop :=
  (∀ e ∈ d.activeOn ps, e.2.pend = none ∧ ∀ g ∈ e.2.pages, g ∈ ps)
    ∧ ∀ l ∈ d.installingOn ps, l.pend = none ∧ ∀ g ∈ l.pages, g ∈ ps

/-- PLSW leaves the switch with the Shepherd and pending on each configuration of the active plane. -/
theorem bodyPlsw_requests {d : Dev} {id : CoreId} {f : Frame} {c : Capture} {o : OpY} {r : Rect}
    (h : d.committing id f c) (hr : plswRect ((d.core id).reg o.ga).v.toNat = some r)
    (hown : (d.core id).level = .h ∨ ∀ g ∈ r.pages, d.planeOwner g (o.imm.toNat % 4) = some (d.selPart id)
      ∧ d.planeOwner g (d.activePlane g) = some (d.selPart id)) (hfree : FreeToSwitch r.pages d) (m : Mem) :
    bodyPlsw o m d =
      let d' := (d.activeOn r.pages).foldl (fun d e => d.updInst e.1 fun x => { x with pend := some .plsw }) d
      let d' := (d.installingOn r.pages).foldl (fun d l => d.pendLaunch l.cfg .plsw) d'
      ({ d' with switches := d'.switches ++ [{
          part := d.selPart id, acc := d'.coreAcc id .ctl .wr 1, pages := r.pages, plane := o.imm.toNat % 4
          done := ((d.core id).reg o.gb).v.toNat }] } : Dev).deliverLate id c.slot 0 := by
  obtain ⟨hon, hnew⟩ := hfree
  have howned : (!d.atH id && !r.pages.all fun g => d.planeOwner g (o.imm.toNat % 4) == some (d.selPart id)
      && d.planeOwner g (d.activePlane g) == some (d.selPart id)) = false := by
    simpa [Dev.atH, or_iff_not_imp_left] using hown
  have hcut : ((d.activeOn r.pages).any fun e => !e.2.pages.all r.pages.contains) = false := by
    simpa using fun k x he => (hon (k, x) he).2
  have hcut' : ((d.installingOn r.pages).any fun l => !l.pages.all r.pages.contains) = false := by
    simpa using fun l hl => (hnew l hl).2
  have hidle : ((d.activeOn r.pages).any fun e => e.2.pend.isSome) = false := by
    simpa using fun k x he => (hon (k, x) he).1
  have hidle' : ((d.installingOn r.pages).any (·.pend.isSome)) = false := by
    simpa using fun l hl => (hnew l hl).1
  unfold bodyPlsw
  simp only [late_committing h, hr, howned, hcut, hcut', hidle, hidle', Bool.or_self, Bool.false_eq_true, if_false]
  rfl

/-- Settles O39: each request at its block's commit under the conditions that let it through. That a PSNAP at H posts
PREEMPT_NOTICE whatever partition is selected is the model's reading (DEDUCED, log entry 32). -/
theorem placementInstructions : Obligations.PlacementInstructions := by
  refine ⟨?launch, ?prest, ?move, ?compact, ?discard, ?cut, ?marker, ?plsw⟩
  case launch =>
    exact fun o bs r part => commitsIf_of_act (fun _ => rfl) fun m id f c d h hl => recLate_launches h hl ..
  case prest =>
    exact fun o bs r part => commitsIf_of_act (fun _ => rfl) fun m id f c d h hl => recLate_launches h hl ..
  case move =>
    refine fun o x => commitsIf_of_act (fun _ => rfl) fun m id f c d h ⟨hn, hm, hp, hdest⟩ => ?_
    have hplace : (d.moveDest x (orgOf o.imm)).isNone = false := by simpa using hdest
    rw [bodyPlaceMove, late_committing h, onInst_named hn hm]
    simp only [hp, hplace, Option.isSome_none, Bool.false_eq_true, if_false, resultWord_ok]
  case compact =>
    refine fun o part => commitsIf_of_act (fun _ => rfl) fun m id f c d h ⟨hpart, hseen⟩ => ?_
    rw [bodyPlaceCompact, late_committing h]
    simp only [hpart, not_unseen_iff.mpr hseen, Bool.false_eq_true, if_false]
    rfl
  case discard =>
    refine fun o x => commitsIf_of_act (fun _ => rfl) fun m id f c d h ⟨hn, hphase⟩ => ?_
    have hok : (x.phase == .snapshotted) = true := beq_iff_eq.mpr hphase
    rw [bodyPlaceDiscard, late_committing h]
    simp only [onInst_named hn (ok := fun x => x.phase == .snapshotted) hok, resultWord_ok]
    rfl
  case cut =>
    exact fun o x => commitsIf_of_act (fun _ => rfl) fun m id f c d h ⟨hn, hm, hp⟩ => psnap_committing h hn hm hp ..
  case marker =>
    exact fun o x => commitsIf_of_act (fun _ => rfl) fun m id f c d h ⟨hn, hm, hp⟩ => psnap_committing h hn hm hp ..
  case plsw =>
    exact fun o r => commitsIf_of_act (fun _ => rfl) fun m id f c d h ⟨hr, hown, hon, hnew⟩ =>
      bodyPlsw_requests h hr hown ⟨hon, hnew⟩ m

end Sys2Proof.Proofs
end

section
/-! PROOFS. The Shepherd's steps: moves and compactions, snapshots, plane switches and edge depths (R338, R339, R341 to
R344, R347 to R349). -/

namespace Sys2Proof.Proofs
open Sys2Proof Sys2Proof.Machine Sys2Proof.Laws

section Steps
variable {cfg : Nat} {x : Inst} {m : Mem} {d : Dev}

/-! ### Moves and compactions (R338, R339) -/

/-- A quiescent configuration whose move finds a destination is put there. -/
theorem bodyShepherdMove_moves {org : Option (Nat × Nat)} {r c p : Nat} (hx : d.inst cfg = some x)
    (hpend : x.pend = some (.move org)) (hquiet : x.quiet = true) (hcopies : d.copiesInto cfg = false)
    (hdest : d.moveDest x org = some (r, c, p)) :
    bodyShepherdMove cfg m d = (d.moveTo cfg x r c p).compactSkip cfg := by
  simp [bodyShepherdMove, hx, hpend, hquiet, hcopies, hdest]

/-- A compaction passes over an instance that was too late for its turn. -/
theorem bodyCompactTimeout_skips {c : Compaction} {t : Nat} (hx : d.inst cfg = some x)
    (hc : (d.compacts.find? fun c => c.cur.map (·.1) == some cfg) = some c) (hcur : c.cur = some (cfg, t))
    (hlate : 1000 * (d.part x.part).ctmo.toNat ≤ d.time - t) : bodyCompactTimeout cfg m d = d.compactSkip cfg := by
  simp only [bodyCompactTimeout, hc, hx, hcur, ge_iff_le, hlate, if_true]

/-! ### Snapshots (R341 to R344) -/

/-- The CUT image of a quiescent configuration is written. -/
theorem bodySnapshotCut_writes {q : SnapReq} (hx : d.inst cfg = some x) (hpend : x.pend = some (.snap q))
    (hcut : q.marker = false) (hquiet : x.quiet = true) (hcopies : d.copiesInto cfg = false)
    (hthreads : d.threadsSettled x = true) : bodySnapshotCut cfg m d = d.takeSnapshot m cfg x q := by
  simp [bodySnapshotCut, hx, hpend, hcut, hquiet, hcopies, hthreads]

/-- A marker is at a node: a source feeds the node, or a link from a stopped node has delivered all its tokens there. -/
def MarkerAt (x : Inst) (ns : List Nat) (node : Nat) : Prop :=
  node ∈ x.sourceNodes ∨ ∃ l ∈ x.links, l.2.2 = node ∧ l.1 ∈ ns ∧ l.2.1 = true

/-- The first marker that reaches a node of the instance stops it. -/
theorem bodySnapshotMarkerArrival_stops {node t : Nat} {tl : Tile} {ns : List Nat} (hx : d.inst cfg = some x)
    (hsnap : x.snap = some ns) (ht : (t, tl) ∈ x.fab.tiles) (hnode : node ∈ tileNodes t tl) (hnew : node ∉ ns)
    (hmark : MarkerAt x ns node) :
    bodySnapshotMarkerArrival cfg node m d = d.updInst cfg fun x => { x with snap := some (ns ++ [node]) } := by
  have hknown : (x.fab.tiles.flatMap fun t => tileNodes t.1 t.2).contains node = true :=
    List.contains_iff_mem.mpr (List.mem_flatMap.mpr ⟨(t, tl), ht, hnode⟩)
  have hstands : ns.contains node = false := by simpa using hnew
  have hmarked : (x.sourceNodes.contains node
      || x.links.any fun l => l.2.2 == node && ns.contains l.1 && l.2.1) = true := by
    simpa [MarkerAt, and_assoc] using hmark
  simp only [bodySnapshotMarkerArrival, hx, hsnap, hknown, hstands, hmarked, Bool.not_false, Bool.and_self, if_true]

/-- The MARKER image is written once a marker has gone over every link. -/
theorem bodySnapshotImageWrite_writes {q : SnapReq} {ns : List Nat} (hx : d.inst cfg = some x)
    (hpend : x.pend = some (.snap q)) (hsnap : x.snap = some ns) (hdone : x.markersDone ns = true)
    (hcopies : d.copiesInto cfg = false) (hthreads : d.threadsSettled x = true) :
    bodySnapshotImageWrite cfg m d = d.takeSnapshot m cfg x q := by
  simp [bodySnapshotImageWrite, hx, hpend, hsnap, hdone, hcopies, hthreads]

/-! ### Plane switches (R347, R348) -/

/-- Every configuration that a switch waits for is at its boundary, and none is being installed (R348). -/
def SwitchReady (s : PlaneSwitch) (d : Dev) : Prop :=
  (∀ e ∈ d.activeOn s.pages, e.2.pend = some .plsw → e.2.quiet = true)
    ∧ ∀ l ∈ d.installingOn s.pages, l.pend ≠ some .plsw

/-- A switch gives its pages to the incoming plane, ends the wait of the outgoing configurations and writes its
completion word. -/
theorem bodyPlaneSwitch_switches {part : Nat} {s : PlaneSwitch} (hs : d.switches.find? (·.part == part) = some s)
    (hready : SwitchReady s d) : bodyPlaneSwitch part m d =
      let on := (d.activeOn s.pages).filter fun e => e.2.pend == some .plsw
      let d := s.pages.foldl (Dev.switchPage s.plane) d
      let d := on.foldl (fun d e => d.updInst e.1 fun x => { x with pend := none }) d
      let d := { d with switches := d.switches.filter (· != s) }
      if s.done = 0 then d else d.tryWord m { acc := s.acc, cfg := 0xFFFF, addr := s.done, v := 1 } := by
  obtain ⟨hout, hin⟩ := hready
  have hquiet : (((d.activeOn s.pages).filter fun e => e.2.pend == some .plsw).any fun e => !e.2.quiet) = false := by
    simpa using fun k x he hp => hout (k, x) he hp
  have hnone : (d.installingOn s.pages).any (·.pend == some .plsw) = false := by simpa using hin
  simp only [bodyPlaneSwitch, hs, hquiet, hnone, Bool.or_self, Bool.false_eq_true, if_false, beq_iff_eq]

/-! ### Edge depths (R349) -/

/-- The depths of a tile's route-fed edges as they would stand with a new one at a port. -/
def depthsWith (t : Tile) (port n : Nat) : Nat :=
  ((t.inp.filter fun q => q.1 != port && q.2.feeder == .route).map (·.2.depth)).foldl (· + ·) n

/-- An empty edge takes its new depth. -/
theorem bodyEdgeDepthApply_takes {tile port n : Nat} {t : Tile} {p : InPort} (hx : d.inst cfg = some x)
    (ht : x.tile tile = some t) (hp : lookup port t.inp = some p) (hnew : p.newDepth = some n) (hempty : p.q = [])
    (hsum : depthsWith t port n ≤ 128) : bodyEdgeDepthApply cfg tile port m d = d.updInst cfg fun x => x.setTile tile
      { t with inp := insert port { p with depth := n, newDepth := none } t.inp } := by
  have hfits : ¬ 128 < depthsWith t port n := Nat.not_lt.mpr hsum
  unfold depthsWith at hfits
  simp [bodyEdgeDepthApply, hx, ht, hp, hnew, hempty, hfits]

end Steps

/-- Settles O45: each step of the Shepherd under the conditions of its rule. -/
theorem shepherdActs : Obligations.ShepherdActs := by
  refine ⟨?move, ?timeout, ?cut, ?arrival, ?image, ?switch, ?depth⟩
  case move =>
    exact fun cfg x org r c p => writesIf_of_act (fun _ => rfl) fun m d ⟨hx, hpend, hquiet, hcopies, hdest⟩ =>
      bodyShepherdMove_moves hx hpend hquiet hcopies hdest
  case timeout =>
    exact fun cfg x c t => writesIf_of_act (fun _ => rfl) fun m d ⟨hx, hc, hcur, hlate⟩ =>
      bodyCompactTimeout_skips hx hc hcur hlate
  case cut =>
    exact fun cfg x q => writesIf_of_act (fun _ => rfl) fun m d ⟨hx, hpend, hcut, hquiet, hcopies, hthreads⟩ =>
      bodySnapshotCut_writes hx hpend hcut hquiet hcopies hthreads
  case arrival =>
    refine fun cfg node x ns t tl l => stepsIf_of_act (fun _ => rfl)
      (fun m d ⟨hx, hsnap, ht, hnode, hnew, hmark⟩ => ?_) (fun _ _ _ => updInst_wq ..) fun _ _ _ => updInst_tx ..
    exact bodySnapshotMarkerArrival_stops hx hsnap ht hnode hnew (hmark.imp_right fun hl => ⟨l, hl⟩)
  case image =>
    exact fun cfg x q ns => writesIf_of_act (fun _ => rfl) fun m d ⟨hx, hpend, hsnap, hdone, hcopies, hthreads⟩ =>
      bodySnapshotImageWrite_writes hx hpend hsnap hdone hcopies hthreads
  case switch =>
    exact fun part s => writesIf_of_act (fun _ => rfl) fun m d ⟨hs, hout, hin⟩ =>
      bodyPlaneSwitch_switches hs ⟨hout, hin⟩
  case depth =>
    exact fun cfg tile port x t p n => stepsIf_of_act (fun _ => rfl)
      (fun m d ⟨hx, ht, hp, hnew, hempty, hsum⟩ => bodyEdgeDepthApply_takes hx ht hp hnew hempty hsum)
      (fun _ _ _ => updInst_wq ..) fun _ _ _ => updInst_tx ..

end Sys2Proof.Proofs
end

section
/-! PROOFS. What a leaf admits (R361 to R363, R365). -/

namespace Sys2Proof.Proofs
open Sys2Proof Sys2Proof.Machine Sys2Proof.Laws

/-- A leaf with V and W of type SEALED and APER 0, with key slot 0. -/
def sealedLeaf : Nat := 0x25

/-- The access of an inbound RDMA WRITE (R421). -/
def inboundWrite : Acc := { State.reset.dev.deviceAcc 0 0 .wr 1 with path := .rdma }

/-- An inbound RDMA WRITE is admitted by a writable leaf of type SEALED: it is one of the ways in which ciphertext
reaches SEALED memory (R273). -/
theorem leafFault_rdmaWrite_sealed (d : Dev) {a : Acc} (hpath : a.path = .rdma) (hkind : a.kind = .wr) :
    d.leafFault a sealedLeaf = none := by
  have hfields : d.leafFieldsOk sealedLeaf = true := rfl
  have hcauses : d.leafCauses a.part sealedLeaf .rdma .wr = [] := rfl
  rw [Dev.leafFault, hfields, hpath, hkind, hcauses]
  rfl

/-- Refutes O59: a SEALED page admits an inbound RDMA WRITE (R273), where the statement has type SEALED reached by the
keyed copies and LDG alone. -/
theorem not_leafPermissions : ¬ Obligations.LeafPermissions := by
  intro h
  have hadmits : State.reset.dev.leafFault inboundWrite sealedLeaf = none := leafFault_rdmaWrite_sealed _ rfl rfl
  obtain ⟨-, -, -, -, -, -, -, hsealed, -⟩ := h _ _ _ hadmits
  have hpath : inboundWrite.path = .rdma := rfl
  have htype : Word.bits sealedLeaf 6 4 = 2 := by decide
  rcases hsealed htype with hkey | hldg
  · exact absurd (hpath.symm.trans hkey) (by decide)
  · exact absurd (hpath.symm.trans hldg) (by decide)

end Sys2Proof.Proofs
end

section
/-! PROOFS. What a read of this package's memory looks at (R389, R392). -/

namespace Sys2Proof.Proofs
open Sys2Proof Sys2Proof.Machine Sys2Proof.Laws

/-! ### A read, line by line -/

/-- What a read does at one line (R389, R392): a step of `Dev.readLocal`. -/
def readLine (m : Mem) (tid : Nat) (peer : Bool) (host n : Nat) (via : Nat → Nat)
    (acc : List BadLine × List Byte × Option Nat × Dev) (line : Nat) :
    List BadLine × List Byte × Option Nat × Dev :=
  let (bad, bs, p, d) := acc
  let lo := max line host
  let hi := min (line + 64) (host + n)
  let at_ := via line
  let o := d.lineOut tid peer at_
  let (v, d) := if o.open then d.fresh else (0, d)
  let got := if o.zeros then List.replicate (hi - lo) 0
    else if o.open then Word.toBytes (hi - lo) v.toNat else rdBytes m d lo (hi - lo)
  (if o.poison.isSome then bad ++ [{ out := o, host := at_, tid := tid }] else bad,
    bs ++ got, (match p with
      | some c => some c
      | none => o.poison),
    if o == .tenant then d else (if o == .corrected then d.cureLine at_ else d).meterLine tid at_ false)

theorem readLocal_eq_foldl (m : Mem) (d : Dev) (tid : Nat) (peer : Bool) (host n : Nat) (via : Nat → Nat) :
    d.readLocal m tid peer host n via
      = (linesOf host n).foldl (readLine m tid peer host n via) ([], [], none, d) := rfl

/-- A line whose bytes are not delivered as zeros has passed the tag check (R389, R392). -/
theorem tagPass_of_zeros_false {d : Dev} {tid : Nat} {peer : Bool} {host : Nat}
    (h : (d.lineOut tid peer host).zeros = false) : d.tagPass tid peer host = true := by
  by_contra hfail
  simp [Dev.lineOut, hfail, LineOut.zeros] at h

/-- Two memories agree in the lines that a check passes. -/
def AgreeWhere (pass : Nat → Bool) (m m' : Mem) : Prop := ∀ a, pass (a / 64 * 64) = true → readByte m a = readByte m' a

/-- Bytes within a line that passes are the same in two memories that agree there. -/
theorem rdBytes_of_agree {pass : Nat → Bool} {m m' : Mem} {line lo k : Nat} (h : AgreeWhere pass m m')
    (hpass : pass line = true) (hline : line % 64 = 0) (hlo : line ≤ lo) (hhi : lo + k ≤ max lo (line + 64)) (d : Dev) :
    rdBytes m d lo k = rdBytes m' d lo k := by
  refine List.map_congr_left fun i hi => ?_
  have hi := List.mem_range.mp hi
  have hsame : (lo + i) / 64 * 64 = line := by omega
  have hbyte := h (lo + i) (hsame.symm ▸ hpass)
  simp only [rdByte, hbyte]

/-- A read of one line gives the same of two memories that agree wherever the tag check passes. -/
theorem readLine_congr {m m' : Mem} {tid : Nat} {peer : Bool} {host n line : Nat} (hline : line % 64 = 0)
    (acc : List BadLine × List Byte × Option Nat × Dev) (h : AgreeWhere (acc.2.2.2.tagPass tid peer) m m') :
    readLine m tid peer host n id acc line = readLine m' tid peer host n id acc line := by
  obtain ⟨bad, bs, p, d⟩ := acc
  unfold readLine
  dsimp only [id] at h ⊢
  cases hz : (d.lineOut tid peer line).zeros with
  | true => simp only [if_true]
  | false =>
    have hbytes (e : Dev) : rdBytes m e (max line host) (min (line + 64) (host + n) - max line host)
        = rdBytes m' e (max line host) (min (line + 64) (host + n) - max line host) :=
      rdBytes_of_agree h (tagPass_of_zeros_false hz) hline (le_max_left _ _) (by omega) e
    simp only [hbytes]

/-- A read of a line leaves the tag check alone. -/
theorem readLine_tagPass (m : Mem) (tid : Nat) (peer : Bool) (host n : Nat) (via : Nat → Nat)
    (acc : List BadLine × List Byte × Option Nat × Dev) (line : Nat) :
    (readLine m tid peer host n via acc line).2.2.2.tagPass = acc.2.2.2.tagPass := by
  unfold readLine
  dsimp only
  generalize hvd : (if (acc.2.2.2.lineOut tid peer (via line)).open then acc.2.2.2.fresh else (0, acc.2.2.2)) = vd
  have hdraw : vd.2.tagPass = acc.2.2.2.tagPass := by
    rw [← hvd]
    split <;> rfl
  split
  · exact hdraw
  · rw [meterLine_tagPass]
    split
    · exact hdraw
    · exact hdraw

/-- A run of lines read gives the same of two memories that agree wherever the tag check passes. -/
theorem foldl_readLine_congr {m m' : Mem} {d : Dev} {tid : Nat} {peer : Bool} {host n : Nat}
    (h : AgreeWhere (d.tagPass tid peer) m m') {lines : List Nat} (hlines : ∀ line ∈ lines, line % 64 = 0)
    (acc : List BadLine × List Byte × Option Nat × Dev) (hpass : acc.2.2.2.tagPass = d.tagPass) :
    lines.foldl (readLine m tid peer host n id) acc = lines.foldl (readLine m' tid peer host n id) acc := by
  induction lines generalizing acc with
  | nil => rfl
  | cons line lines ih =>
    obtain ⟨hline, hrest⟩ := List.forall_mem_cons.mp hlines
    have hone : readLine m tid peer host n id acc line = readLine m' tid peer host n id acc line :=
      readLine_congr hline acc (hpass ▸ h)
    rw [List.foldl_cons, List.foldl_cons, hone]
    exact ih hrest _ ((readLine_tagPass ..).trans hpass)

/-- Settles O58: line by line, the bytes of memory are looked at only where the tag check has passed, and no line
changes what the check looks at. -/
theorem tenantIsolation : Obligations.TenantIsolation := by
  intro m m' d tid peer host n hagree
  rw [readLocal_eq_foldl, readLocal_eq_foldl]
  exact foldl_readLine_congr hagree (fun line hl => (line_of_mem_linesOf hl).1) _ rfl

end Sys2Proof.Proofs
end

section
/-! PROOFS. RINV and XINV: the translation copies that an invalidation drops (R358, R369 to R372, R381). -/

namespace Sys2Proof.Proofs
open Sys2Proof Sys2Proof.Machine Sys2Proof.Laws

/-! ### What an invalidation drops -/

/-- What an invalidation leaves: the translation copies that meet `f` gone, once what their units have sent through them
has performed; the range copies of the contexts of `cs` changed by `g`; and the roots of the contexts of `rs` gone
(R358, R371, R372). -/
def invalidated (f : XlCopy → Bool) (cs rs : Nat → Bool)
    (g : List (Option (BitVec 512 × Nat)) → List (Option (BitVec 512 × Nat))) (d : Dev) : Dev :=
  let gone := (d.xl.filter f).map (·.unit)
  { ({ d with xl := d.xl.filter fun c => !f c } : Dev).peerAdvance fun _ w => gone.contains w.unit with
    rcopy := d.rcopy.map fun e => if cs (e.1 % 4096) then (e.1, g e.2) else e
    rroot := d.rroot.filter fun e => !rs (e.1 % 4096) }

section Drops
variable (f : XlCopy → Bool) (cs rs : Nat → Bool)
  (g : List (Option (BitVec 512 × Nat)) → List (Option (BitVec 512 × Nat))) (d : Dev)

@[simp] theorem dropCopies_rcopy : (d.dropCopies f).rcopy = d.rcopy := peerAdvance_rcopy ..
@[simp] theorem dropCopies_rroot : (d.dropCopies f).rroot = d.rroot := peerAdvance_rroot ..
@[simp] theorem dropCopies_wq : (d.dropCopies f).wq = d.wq := peerAdvance_wq ..
@[simp] theorem dropCopies_tx : (d.dropCopies f).tx = d.tx := peerAdvance_tx ..

@[simp] theorem updRcopy_wq : (d.updRcopy cs g).wq = d.wq := rfl
@[simp] theorem updRcopy_tx : (d.updRcopy cs g).tx = d.tx := rfl
@[simp] theorem dropRoots_wq : (d.dropRoots rs).wq = d.wq := rfl
@[simp] theorem dropRoots_tx : (d.dropRoots rs).tx = d.tx := rfl

theorem dropRoots_updRcopy_dropCopies :
    ((d.dropCopies f).updRcopy cs g).dropRoots rs = invalidated f cs rs g d := by
  simp only [Dev.dropRoots, Dev.updRcopy, dropCopies_rcopy, dropCopies_rroot]
  rfl

/-- An invalidation of no context's roots. -/
theorem updRcopy_dropCopies : (d.dropCopies f).updRcopy cs g = invalidated f cs (fun _ => false) g d := by
  rw [← dropRoots_updRcopy_dropCopies]
  simp only [Dev.dropRoots, Bool.not_false, List.filter_true]

/-- An invalidation of translation copies alone. -/
theorem dropCopies_eq : d.dropCopies f = invalidated f (fun _ => false) (fun _ => false) g d := by
  rw [← updRcopy_dropCopies]
  simp only [Dev.updRcopy, Bool.false_eq_true, if_false, List.map_id', dropCopies_rcopy]
  rw [← dropCopies_rcopy f d]

end Drops

/-- An invalidation acts at its block's commit and writes no memory. -/
theorem commits_of_invalidates {i : Instr} {pre : Site → Dev → Option (Nat × Nat × Nat)} {f : CoreId → Dev → Dev}
    {com : CoreId → Frame → Capture → Dev → Dev} (hx : ∀ s, Machine.exec i s = act s fun _ d => d.invalidates i pre f)
    (hw : ∀ id d, (f id d).wq = d.wq) (ht : ∀ id d, (f id d).tx = d.tx) (hf : ∀ id fr c d, f id d = com id fr c d) :
    Commits i com :=
  commits_of_act hx (fun _ id fr c d h => (fireCommit_committing h ..).trans (hf id fr c d))
    (fun id fr c d => hf id fr c d ▸ hw id d) fun id fr c d => hf id fr c d ▸ ht id d

/-- The guest frame of a stage-2 entry that a copy was combined from. -/
def s2Frame (e : XlDep) : Option Nat :=
  match e.key with
  | .s2 u => some u
  | .root | .range _ | .table _ | .leaf _ => none

/-- A copy was combined from a stage-2 entry of a guest frame that `hit` meets (R372). -/
def usesFrame (hit : Nat → Bool) (e : XlDep) : Bool :=
  match e.key with
  | .s2 u => hit u
  | .root | .range _ | .table _ | .leaf _ => false

theorem any_s2Frame (hit : Nat → Bool) (e : XlDep) : (s2Frame e).any hit = usesFrame hit e := by
  unfold s2Frame usesFrame
  cases e.key <;> rfl

/-- Guest frames listed beside those of some stage-2 entries, of which one is met. -/
theorem any_append_filterMap_s2Frame (used : List Nat) (deps : List XlDep) (hit : Nat → Bool) :
    (used ++ deps.filterMap s2Frame).any hit = (used.any hit || deps.any (usesFrame hit)) := by
  have hdeps : usesFrame hit = fun e => (s2Frame e).any hit := funext fun e => (any_s2Frame hit e).symm
  rw [List.any_append, List.any_filterMap, hdeps]
  rfl

/-- Settles O40: each form drops what `invalidated` drops, and XINV part puts XL_S2BASE in force besides. -/
theorem invalidations : Obligations.Invalidations := by
  refine ⟨?pages, ?range, ?context, ?part, ?frames, ?s2⟩
  case pages =>
    exact fun o => commits_of_invalidates (fun _ => rfl) (fun _ _ => by simp) (fun _ _ => by simp)
      fun _ _ _ d => dropCopies_eq _ (fun es => es) d
  case range =>
    exact fun o => commits_of_invalidates (fun _ => rfl) (fun _ _ => by simp) (fun _ _ => by simp)
      fun _ _ _ _ => updRcopy_dropCopies ..
  case context =>
    exact fun o => commits_of_invalidates (fun _ => rfl) (fun _ _ => by simp) (fun _ _ => by simp)
      fun _ _ _ _ => dropRoots_updRcopy_dropCopies ..
  case part =>
    exact fun o => commits_of_invalidates (fun _ => rfl) (fun _ _ => by simp) (fun _ _ => by simp)
      fun _ _ _ _ => dropRoots_updRcopy_dropCopies ..
  case frames =>
    exact fun o => commits_of_invalidates (fun _ => rfl) (fun _ _ => by simp) (fun _ _ => by simp)
      fun _ _ _ d => (congrArg (fun f => (d.dropCopies f).updRcopy _ _) (funext fun x =>
        congrArg (x.part == _ && ·) (any_append_filterMap_s2Frame x.used x.deps _))).trans (updRcopy_dropCopies ..)
  case s2 =>
    exact fun o => commits_of_invalidates (fun _ => rfl) (fun _ _ => by simp) (fun _ _ => by simp)
      fun _ _ _ _ => congrArg (fun e : Dev => e.updPart _ _) (updRcopy_dropCopies ..)

end Sys2Proof.Proofs
end

section
/-! PROOFS. Control blocks enter and commit; records, rounds, ownership tokens and the reconfiguration token (R25, R26,
R31, R38, R40, R42, R43, R97, R99, R116, R134, R298, R300, R374). -/

namespace Sys2Proof.Proofs
open Sys2Proof Sys2Proof.Machine Sys2Proof.Laws

/-! ### Control blocks enter (R97, R99, R134, R298) -/

/-- A live thread stands at a boundary that nothing holds, and its next block is fetched whole. -/
def EntersBlock (id : CoreId) (m : Mem) (d d1 : Dev) (bs : List Byte) : Prop :=
  let c := d.core id
  c.frame = none ∧ d.powered = true ∧ d.takesS id = false ∧ (∀ k, d.takerH = some k → id ≠ .sys k)
    ∧ c.thread = .live ∧ c.sync.all d.syncDone = true ∧ d.shepherdHolds id = false ∧ c.next % 16 = 0
    ∧ (d.updCore id fun c => { c with sync := [] }).fetchBlock m id c.next = (d1, .ok bs)

/-- The frame of a block that a core enters in a state. -/
def enteredFrame (m : Mem) (id : CoreId) (addr : Nat) (b : RawBlk) (srs : List (Nat × Word)) (e : Dev) : Frame :=
  { addr := addr, blk := b.build [], srs := srs, mem0 := writeAll m e.wq
    fab0 := (e.instOf id).map fun x => x.2.fab
    peers0 := (e.peerAdvance fun _ w => w.unit == id.key).peers
    state0 := some ((List.range 16).map fun p => (p, e.heavyFree p), e.queues.map fun q => (q.1, q.2.owner)) }

section Entry
variable {id : CoreId} {m : Mem} {d d1 : Dev} {bs : List Byte} {b : RawBlk}

/-- Where a thread enters its next block, the step decodes what was fetched. -/
theorem bodyControlBlockEntry_fetched (h : EntersBlock id m d d1 bs) (hraw : rawBlock bs = some b) :
    bodyControlBlockEntry id m d =
      if !hdrOk .control b then
        d1.raise id { d1.coreRec id with cause := cILLEGAL, addr := (d.core id).next, hdr := true } (d.core id).next
      else match firstCauseSlot id.isSys (d.core id).level b with
        | some (k, cause, w) => d1.faultAt id (d.core id).next cause (d.core id).next w.toNat k
        | none =>
          let r := d1.entryReads id (b.build []).slots
          let e := r.1.peerSettle fun _ => false
          e.updCore id fun c => { c with frame := some (enteredFrame m id (d.core id).next b r.2 e) } := by
  obtain ⟨hframe, hpower, htakes, htaker, hlive, hsync, hshep, halign, hfetch⟩ := h
  have hH : (d.takerH.any fun k => id == .sys k) = false := by
    cases hk : d.takerH with
    | none => rfl
    | some k => simpa using htaker k hk
  simp only [bodyControlBlockEntry, hframe, hpower, htakes, hH, hlive, hsync, hshep, Dev.enterBlock, halign, hfetch,
    hraw]
  rfl

theorem bodyControlBlockEntry_enters (h : EntersBlock id m d d1 bs) (hraw : rawBlock bs = some b)
    (hok : hdrOk .control b = true) (hnone : firstCauseSlot id.isSys (d.core id).level b = none) :
    bodyControlBlockEntry id m d =
      let r := d1.entryReads id (b.build []).slots
      let e := r.1.peerSettle fun _ => false
      e.updCore id fun c => { c with frame := some (enteredFrame m id (d.core id).next b r.2 e) } := by
  rw [bodyControlBlockEntry_fetched h hraw, hok, hnone]
  rfl

theorem bodyControlBlockEntry_badHeader (h : EntersBlock id m d d1 bs) (hraw : rawBlock bs = some b)
    (hbad : hdrOk .control b = false) :
    bodyControlBlockEntry id m d =
      d1.raise id { d1.coreRec id with cause := cILLEGAL, addr := (d.core id).next, hdr := true } (d.core id).next := by
  rw [bodyControlBlockEntry_fetched h hraw, hbad]
  rfl

theorem bodyControlBlockEntry_badSlot {k cause : Nat} {w : Word} (h : EntersBlock id m d d1 bs)
    (hraw : rawBlock bs = some b) (hok : hdrOk .control b = true)
    (hsome : firstCauseSlot id.isSys (d.core id).level b = some (k, cause, w)) :
    bodyControlBlockEntry id m d = d1.faultAt id (d.core id).next cause (d.core id).next w.toNat k := by
  rw [bodyControlBlockEntry_fetched h hraw, hok, hsome]
  rfl

end Entry

/-! ### Control blocks commit (R26, R300, R374) -/

section Commit
variable {id : CoreId} {f : Frame} {m : Mem} {d : Dev}

/-- The effects of a block performed, with the faults that its stores meet before any of them. -/
def blockRun (id : CoreId) (f : Frame) (m : Mem) (d : Dev) : Dev × Frame × List BlkFault :=
  Dev.commitRun m id f (d.storeFaults m id f) false d

/-- A block whose effects all perform commits them. -/
theorem bodyControlBlockCommit_commits (hframe : (d.core id).frame = some f) (hready : f.ready = [])
    (hnone : (blockRun id f m d).2.2 = []) (htx : (blockRun id f m d).1.tx = .ok) :
    bodyControlBlockCommit id m d =
      { (blockRun id f m d).1.finishBlock m id (blockRun id f m d).2.1 with tx := .ok, focus := .none } := by
  unfold blockRun at *
  simp [bodyControlBlockCommit, hframe, hready, hnone, htx, firstBlkFault]

/-- A block with a fault keeps the records of its accesses alone and raises the fault that comes first. -/
theorem bodyControlBlockCommit_faults {x : BlkFault} (hframe : (d.core id).frame = some f) (hready : f.ready = [])
    (hsome : firstBlkFault (blockRun id f m d).2.2 = some x) :
    bodyControlBlockCommit id m d =
      ({ ({ d with focus := .none } : Dev).keepRecords (blockRun id f m d).1 with tx := .ok } : Dev).faultAt id
        f.addr x.2.2.2.1 x.2.2.2.2.1 x.2.2.2.2.2 x.2.2.1 := by
  unfold blockRun at *
  simp [bodyControlBlockCommit, hframe, hready, hsome]

end Commit

/-! ### Records (R25, R31) -/

/-- A change of an instance that exists is one of its value. -/
theorem updInst_eq_of_inst {d : Dev} {k : Nat} {x : Inst} {f g : Inst → Inst} (hx : d.inst k = some x) (h : f x = g x) :
    d.updInst k f = d.updInst k g := by
  simp only [Dev.updInst, hx, h]

/-- A block of a CT of an instance that fires. -/
def FiringBlock (cfg tile blk : Nat) (x : Inst) (t : Tile) (c : Ct) (b : Blk) (d : Dev) : Prop :=
  d.inst cfg = some x ∧ x.tile tile = some t ∧ t.kind = .ct c ∧ c.blks[blk]? = some b ∧ x.fires = true

/-- A block may start its next record: a token of it waits, or its own counters give it one (R25, R36). -/
def StartsNext (t : Tile) (x : Inst) (b : Blk) : Prop :=
  t.tokenFor b b.started = true
    ∨ (b.lcs ≠ [] ∧ t.selfStarts b.ports = true ∧ b.started < chainLength b.lcs ∧ x.admits (b.started - b.base) = true)

section Records
variable {cfg tile blk : Nat} {x : Inst} {t : Tile} {c : Ct} {b : Blk} {m : Mem} {d : Dev}

theorem bodyRecordStart_starts (h : FiringBlock cfg tile blk x t c b d) (hstop : x.stopped tile 0 = false)
    (hahead : b.started - b.committed < 4) (hnext : StartsNext t x b) :
    bodyRecordStart cfg tile blk m d = d.updInst cfg fun x =>
      x.setCt tile { c with blks := c.blks.set blk { b with started := b.started + 1 } } := by
  obtain ⟨hx, ht, hc, hb, hfires⟩ := h
  have hgo : (t.tokenFor b b.started || (!b.lcs.isEmpty && t.selfStarts b.ports && b.started < chainLength b.lcs
      && x.admits (b.started - b.base))) = true := by
    simpa [StartsNext, and_assoc] using hnext
  simp only [bodyRecordStart, hx, ht, hc, hb, hfires, hstop, hahead, hgo]
  rfl

theorem bodyRecordCommit_commits (h : FiringBlock cfg tile blk x t c b d) (hopen : b.committed < b.started)
    (hdone : b.complete t blk b.committed = true) :
    bodyRecordCommit cfg tile blk m d = d.updInst cfg fun x =>
      x.setCt tile { c with blks := c.blks.set blk { b with committed := b.committed + 1 } } := by
  obtain ⟨hx, ht, hc, hb, hfires⟩ := h
  simp only [bodyRecordCommit, hx, ht, hc, hb, hfires, hopen, hdone]
  rfl

end Records

/-! ### LENGTH mismatches (R116) -/

/-- A mismatch whose discards are complete is reported when its context lets it. -/
theorem bodyLengthMismatch_reports {cfg tile blk slot : Nat} {x : Inst} {c : Ct} {s : Slot} {q : Disc} {m : Mem}
    {d : Dev} (hx : d.inst cfg = some x) (hc : x.ct tile = some c) (hs : (c.blks[blk]?).bind (·.slots[slot]?) = some s)
    (hq : s.disc = some q) (hl : q.l = false) (hr : q.r = false) (ht : q.t = false)
    (hdone : max q.nl (max q.nr q.nt) ≤ q.nulls) :
    bodyLengthMismatch cfg tile blk slot m d =
      let d := d.updInst cfg fun x => x.setCt tile { c with
        blks := c.blks.modify blk fun b => b.updSlot slot fun s => { s with disc := none } }
      if (d.ctx x.ctx).repen.getLsbD 1 then
        d.post x.lead { d.instRec cfg x with
          cause := 0x11, round := q.round, record := q.record, tcol := tileCol tile, trow := tileRow tile
          blk := blk, slot := slot
          info := q.nl % 65536 + q.nr % 65536 * 2 ^ 16 + q.nt % 65536 * 2 ^ 32 + q.npois % 65536 * 2 ^ 48 }
      else d := by
  have hnot : ¬ q.nulls < max q.nl (max q.nr q.nt) := Nat.not_lt.mpr hdone
  simp only [bodyLengthMismatch, hx, hc, hs, hq, hl, hr, ht, hnot, Bool.or_self, decide_false, Bool.false_eq_true,
    if_false]
  rfl

/-! ### Rounds (R38, R40) -/

section Rounds
variable {cfg : Nat} {x : Inst} {m : Mem} {d : Dev}

/-- A running configuration that nothing holds has a round that is over and has no fault. -/
def RoundOver (cfg : Nat) (x : Inst) (d : Dev) : Prop :=
  d.inst cfg = some x ∧ x.phase = .running ∧ x.step3 = false ∧ x.paused = false ∧ x.snap = none ∧ x.faults = []
    ∧ x.quiescent = true

/-- What a round has staged, performed in its order: the device, and the first fault. -/
def stagedRun (m : Mem) (cfg : Nat) (x : Inst) (d : Dev) : Dev × Option (Nat × Nat × Nat × Nat) :=
  Dev.performAll m cfg x (d.stagedOrder x).2 (d.stagedOrder x).1

theorem bodyRoundBoundary_performed (h : RoundOver cfg x d) (hok : (stagedRun m cfg x d).2 = none) :
    bodyRoundBoundary cfg m d =
      if (stagedRun m cfg x d).1.step3Awaits cfg then (stagedRun m cfg x d).1.updInst cfg fun x =>
        { x with step3 := true, paused := true, staged := [] }
      else (stagedRun m cfg x d).1.passBoundary m cfg x := by
  obtain ⟨hx, hphase, hstep, hpaused, hsnap, hfaults, hquiet⟩ := h
  unfold stagedRun at *
  simp [bodyRoundBoundary, hx, hphase, hstep, hpaused, hsnap, hfaults, hquiet, hok]

/-- Step 3 completes once every peer has acknowledged (R244). -/
theorem bodyRoundBoundary_acknowledged (hx : d.inst cfg = some x) (hphase : x.phase = .running) (hstep : x.step3 = true)
    (hawaits : d.step3Awaits cfg = false) :
    bodyRoundBoundary cfg m d = d.passBoundary m cfg { x with step3 := false } := by
  simp [bodyRoundBoundary, hx, hphase, hstep, hawaits]

/-- A configuration stands at a boundary, or its misses there are met (R258, R266). -/
def AtBoundary (x : Inst) (m : Mem) (d d1 : Dev) : Prop :=
  (x.phase = .boundary ∧ d1 = d) ∨ (x.phase = .stalled ∧ x.stallRes = true ∧ d.missesMet m x = (d1, true))

/-- Nothing holds a configuration at its boundary. -/
def Unheld (cfg : Nat) (x : Inst) (d : Dev) : Prop :=
  x.heldBy = none ∧ x.pend = none ∧ x.snap = none ∧ d.activePlane x.lead = x.plane ∧ d.refetching cfg = false
    ∧ d.reportAwaited cfg x = false

theorem bodyRoundResume_resumes {d1 : Dev} (hx : d.inst cfg = some x) (hat : AtBoundary x m d d1)
    (hfree : Unheld cfg x d) :
    bodyRoundResume cfg m d = (d1.updInst cfg fun x => { x with
      phase := if x.reconf.isSome then .ending else .running, paused := x.reconf.isSome, stallRes := false
      stallMiss := [] }).progress (.config cfg) := by
  obtain ⟨hheld, hpend, hsnap, hplane, hrefetch, hreport⟩ := hfree
  rcases hat with ⟨hphase, rfl⟩ | ⟨hphase, hres, hmet⟩
  · simp [bodyRoundResume, hx, hphase, hheld, hpend, hsnap, hplane, hrefetch, hreport]
  · simp [bodyRoundResume, hx, hphase, hres, hmet, hheld, hpend, hsnap, hplane, hrefetch, hreport]

theorem bodyRoundVoid_voids {r : TrapRec} (hx : d.inst cfg = some x) (hr : firstFaultOf x.faults = some r)
    (hfires : x.fires = true) :
    bodyRoundVoid cfg m d =
      let d := (d.rewind cfg x).updInst cfg fun x => { x with phase := .held }
      d.holdInst cfg x { r with
        cls := 1, tid := d.tidOf x.part x.ctx, more := x.faults.length - 1 != 0
        count := x.faults.length - 1 } := by
  simp only [bodyRoundVoid, hx, hr, hfires]
  rfl

end Rounds

/-! ### Tokens (R42, R43) -/

@[simp] theorem setBank_arriving (x : Inst) (t b : Nat) (v : Bank) : (x.setBank t b v).arriving = x.arriving := by
  unfold Inst.setBank
  split
  · split <;> rfl
  · rfl

theorem bodyBankOwnershipTokenArrival_owns {cfg mt bank : Nat} {x : Inst} {b : Bank} {m : Mem} {d : Dev}
    (hx : d.inst cfg = some x) (harr : (mt, bank) ∈ x.arriving) (hb : x.bank mt bank = some b) :
    bodyBankOwnershipTokenArrival cfg mt bank m d = d.updInst cfg fun x =>
      { x.setBank mt bank { b with owned := true } with arriving := x.arriving.filter (· != (mt, bank)) } := by
  have hin : x.arriving.contains (mt, bank) = true := List.contains_iff_mem.mpr harr
  simp only [bodyBankOwnershipTokenArrival, hx, hin, if_true]
  exact updInst_eq_of_inst hx (by simp only [hb, setBank_arriving])

/-- The reconfiguration token may pass a tile: it has not passed it, and the tile's queues and the configuration's
engines have drained unless it was aborted. -/
def TokenAt (cfg tile : Nat) (x : Inst) (t : Tile) (ts : List Nat) (d : Dev) : Prop :=
  d.inst cfg = some x ∧ x.phase = .ending ∧ x.reconf = some ts ∧ x.tile tile = some t ∧ x.retired = false
    ∧ tile ∉ ts ∧ x.heldBy = none
    ∧ (x.failed = none → t.drained = true ∧ t.fired = true ∧ d.enginesBusy cfg x = false)

theorem bodyReconfigTokenPass_passes {cfg tile : Nat} {x : Inst} {t : Tile} {ts : List Nat} {m : Mem} {d : Dev}
    (h : TokenAt cfg tile x t ts d) :
    bodyReconfigTokenPass cfg tile m d =
      if x.fab.tiles.all fun u => (ts ++ [tile]).contains u.1 then
        (d.setInst cfg { x with reconf := some (ts ++ [tile]) }).retire m cfg { x with reconf := some (ts ++ [tile]) }
      else d.setInst cfg { x with reconf := some (ts ++ [tile]) } := by
  obtain ⟨hx, hphase, hts, ht, hretired, hnew, hheld, hdrained⟩ := h
  have hwait : (x.failed.isNone && !(t.drained && t.fired && !d.enginesBusy cfg x)) = false := by
    cases hf : x.failed with
    | some _ => rfl
    | none =>
      obtain ⟨hd, hfi, he⟩ := hdrained hf
      simp [hd, hfi, he]
  simp only [bodyReconfigTokenPass, hx, hphase, hts, ht, hretired, hheld, hwait]
  simp [hnew]

/-- Settles O41: each step under the conditions of its rule. -/
theorem blocksAndRecords : Obligations.BlocksAndRecords := by
  refine ⟨⟨?enters, ?badHeader, ?badSlot, ?commits, ?faults⟩, ?start, ?commit, ?mismatch, ?boundary, ?awaits,
    ?acknowledged, ?resume, ?void, ?owns, ?passes, ?retires⟩
  case enters =>
    exact fun id d1 bs b => writesIf_of_act (fun _ => rfl) fun m d ⟨h, hraw, hok, hnone⟩ =>
      bodyControlBlockEntry_enters h hraw hok hnone
  case badHeader =>
    exact fun id d1 bs b => writesIf_of_act (fun _ => rfl) fun m d ⟨h, hraw, hbad⟩ =>
      bodyControlBlockEntry_badHeader h hraw hbad
  case badSlot =>
    exact fun id d1 bs b k cause w => writesIf_of_act (fun _ => rfl) fun m d ⟨h, hraw, hok, hsome⟩ =>
      bodyControlBlockEntry_badSlot h hraw hok hsome
  case commits =>
    exact fun id f => writesIf_of_act (fun _ => rfl) fun m d ⟨hframe, hready, hnone, htx⟩ =>
      bodyControlBlockCommit_commits hframe hready hnone htx
  case faults =>
    exact fun id f x => writesIf_of_act (fun _ => rfl) fun m d ⟨hframe, hready, hsome⟩ =>
      bodyControlBlockCommit_faults hframe hready hsome
  case start =>
    exact fun cfg tile blk x t c b => stepsIf_of_act (fun _ => rfl)
      (fun m d ⟨h, hstop, hahead, hnext⟩ => bodyRecordStart_starts h hstop hahead hnext)
      (fun _ _ _ => updInst_wq ..) fun _ _ _ => updInst_tx ..
  case commit =>
    exact fun cfg tile blk x t c b => stepsIf_of_act (fun _ => rfl)
      (fun m d ⟨h, hopen, hdone⟩ => bodyRecordCommit_commits h hopen hdone)
      (fun _ _ _ => updInst_wq ..) fun _ _ _ => updInst_tx ..
  case mismatch =>
    exact fun cfg tile blk slot x c s q => writesIf_of_act (fun _ => rfl)
      fun m d ⟨hx, hc, hs, hq, hl, hr, ht, hdone⟩ => bodyLengthMismatch_reports hx hc hs hq hl hr ht hdone
  case boundary =>
    exact fun cfg x => writesIf_of_act (fun _ => rfl)
      fun m d ⟨hx, hphase, hstep, hpaused, hsnap, hfaults, hquiet, hok, hawaits⟩ =>
        (bodyRoundBoundary_performed ⟨hx, hphase, hstep, hpaused, hsnap, hfaults, hquiet⟩ hok).trans
          (if_neg (Bool.not_eq_true _ ▸ hawaits))
  case awaits =>
    exact fun cfg x => writesIf_of_act (fun _ => rfl)
      fun m d ⟨hx, hphase, hstep, hpaused, hsnap, hfaults, hquiet, hok, hawaits⟩ =>
        (bodyRoundBoundary_performed ⟨hx, hphase, hstep, hpaused, hsnap, hfaults, hquiet⟩ hok).trans (if_pos hawaits)
  case acknowledged =>
    exact fun cfg x => writesIf_of_act (fun _ => rfl) fun m d ⟨hx, hphase, hstep, hawaits⟩ =>
      bodyRoundBoundary_acknowledged hx hphase hstep hawaits
  case resume =>
    exact fun cfg x d1 => writesIf_of_act (fun _ => rfl) fun m d ⟨hx, hat, hfree⟩ =>
      bodyRoundResume_resumes hx hat hfree
  case void =>
    exact fun cfg x r => writesIf_of_act (fun _ => rfl) fun m d ⟨hx, hr, hfires⟩ => bodyRoundVoid_voids hx hr hfires
  case owns =>
    exact fun cfg mt bank x b => stepsIf_of_act (fun _ => rfl)
      (fun m d ⟨hx, harr, hb⟩ => bodyBankOwnershipTokenArrival_owns hx harr hb)
      (fun _ _ _ => updInst_wq ..) fun _ _ _ => updInst_tx ..
  case passes =>
    refine fun cfg tile x t ts => stepsIf_of_act (fun _ => rfl)
      (fun m d ⟨hx, hphase, hts, ht, hretired, hnew, hheld, hdrained, u, hu, hout⟩ => ?_)
      (fun _ _ _ => setInst_wq ..) fun _ _ _ => setInst_tx ..
    have hleft : (x.fab.tiles.all fun u => (ts ++ [tile]).contains u.1) = false :=
      List.all_eq_false.mpr ⟨u, hu, by simpa using hout⟩
    rw [bodyReconfigTokenPass_passes ⟨hx, hphase, hts, ht, hretired, hnew, hheld, hdrained⟩, hleft]
    rfl
  case retires =>
    refine fun cfg tile x t ts => writesIf_of_act (fun _ => rfl)
      fun m d ⟨hx, hphase, hts, ht, hretired, hnew, hheld, hdrained, hall⟩ => ?_
    have hlast : (x.fab.tiles.all fun u => (ts ++ [tile]).contains u.1) = true :=
      List.all_eq_true.mpr fun u hu => List.contains_iff_mem.mpr (hall u hu)
    rw [bodyReconfigTokenPass_passes ⟨hx, hphase, hts, ht, hretired, hnew, hheld, hdrained⟩, hlast]
    rfl

end Sys2Proof.Proofs
end

section
/-! PROOFS. Cold operation: the band controller, the retreat, the patrol, the governor, boot and the loss of power (R407
to R413, R416 to R418). -/

namespace Sys2Proof.Proofs
open Sys2Proof Sys2Proof.Machine Sys2Proof.Laws

/-! ### Changes within a step -/

/-- A change of the device that neither writes memory nor opens a transaction. -/
def KeepsStep (d d' : Dev) : Prop := d'.wq = d.wq ∧ d'.tx = d.tx

theorem KeepsStep.rfl {d : Dev} : KeepsStep d d := ⟨Eq.refl _, Eq.refl _⟩

theorem KeepsStep.trans {d d1 d2 : Dev} (h1 : KeepsStep d d1) (h2 : KeepsStep d1 d2) : KeepsStep d d2 :=
  ⟨h2.1.trans h1.1, h2.2.trans h1.2⟩

theorem KeepsStep.foldl {α : Type} {f : Dev → α → Dev} (h : ∀ d x, KeepsStep d (f d x)) (xs : List α) (d : Dev) :
    KeepsStep d (xs.foldl f d) := by
  induction xs generalizing d with
  | nil => exact .rfl
  | cons x xs ih => exact (h d x).trans (ih _)

/-- A step performed by `act` whose change writes no memory and opens no transaction. -/
theorem stepsIf_of_keepsStep {i : Instr} {body : Mem → Dev → Dev} {ok : Mem → Dev → Prop} {f : Mem → Dev → Dev}
    (hx : ∀ s, Machine.exec i s = act s body) (hk : ∀ m d, KeepsStep d (f m d))
    (h : ∀ m d, ok m d → body m d = f m d) : StepsIf i ok f :=
  stepsIf_of_act hx h (fun m d _ => (hk m d).1) fun m d _ => (hk m d).2

/-! ### The band controller (R407 to R410) -/

@[simp] theorem sample_pkg (d : Dev) (rs : List (Option Nat)) : (d.sample rs).pkg = d.pkg := rfl
@[simp] theorem sample_auditDue (d : Dev) (rs : List (Option Nat)) : (d.sample rs).auditDue = d.auditDue := rfl

/-- Neither a trip nor an audit is due at a sample (R407, R411). -/
def Calm (rs : List (Option Nat)) (d : Dev) : Prop := d.auditDue = false ∧ tripDue (sensorsOf rs) = false

section Band
variable {rs : List (Option Nat)} {v i : Nat} {m : Mem} {d : Dev}

/-- A sample that is due a trip takes it before any other transition (R407). -/
theorem bodyBandSample_trips (hoff : d.pkg ≠ .off) (htrip : d.pkg ≠ .trip) (haudit : d.auditDue = false)
    (hdue : tripDue (sensorsOf rs) = true) : bodyBandSample rs m d = (d.sample (sensorsOf rs)).trip m := by
  unfold bodyBandSample
  generalize sensorsOf rs = ss at *
  cases hs : d.pkg
  case off => exact absurd hs hoff
  case trip => exact absurd hs htrip
  all_goals simp only [sample_auditDue, haudit, hdue, Bool.false_eq_true, if_false, if_true]

/-- COOLING ends in SOAK once the hottest reading is below 100 K. -/
theorem bodyBandSample_cooling (h : Calm rs d) (hs : d.pkg = .cooling)
    (hhot : hottest (sensorsOf rs) = some (v, i)) (hv : v < kelvin 100) :
    bodyBandSample rs m d = (d.sample (sensorsOf rs)).enterPkg .soak := by
  obtain ⟨haudit, htrip⟩ := h
  simp [bodyBandSample, hs, haudit, htrip, hhot, hv]

/-- SOAK goes back to COOLING at 100 K. -/
theorem bodyBandSample_soak_warm (h : Calm rs d) (hs : d.pkg = .soak)
    (hhot : hottest (sensorsOf rs) = some (v, i)) (hv : kelvin 100 ≤ v) :
    bodyBandSample rs m d = (d.sample (sensorsOf rs)).enterPkg .cooling := by
  obtain ⟨haudit, htrip⟩ := h
  simp [bodyBandSample, hs, haudit, htrip, hhot, hv]

/-- SOAK ends in COLD_READY. -/
theorem bodyBandSample_soak_done (h : Calm rs d) (hs : d.pkg = .soak)
    (hhot : hottest (sensorsOf rs) = some (v, i)) (hv : v < kelvin 100)
    (hsoaked : (d.sample (sensorsOf rs)).soaked = true) :
    bodyBandSample rs m d = (d.sample (sensorsOf rs)).enterPkg .coldReady := by
  obtain ⟨haudit, htrip⟩ := h
  simp [bodyBandSample, hs, haudit, htrip, hhot, hv, hsoaked]

/-- COLD_READY and RUN end in RETREAT at 100 K. -/
theorem bodyBandSample_ready_warm (h : Calm rs d) (hs : d.pkg = .coldReady ∨ d.pkg = .run)
    (hhot : hottest (sensorsOf rs) = some (v, i)) (hv : kelvin 100 ≤ v) :
    bodyBandSample rs m d = (d.sample (sensorsOf rs)).enterRetreat := by
  obtain ⟨haudit, htrip⟩ := h
  rcases hs with hs | hs <;> simp [bodyBandSample, hs, haudit, htrip, hhot, hv]

/-- RETREAT ends in WARMING at 140 K. -/
theorem bodyBandSample_retreat_warm (h : Calm rs d) (hs : d.pkg = .retreat)
    (hhot : hottest (sensorsOf rs) = some (v, i)) (hv : kelvin 140 ≤ v) :
    bodyBandSample rs m d = (d.sample (sensorsOf rs)).enterWarming m := by
  obtain ⟨haudit, htrip⟩ := h
  simp [bodyBandSample, hs, haudit, htrip, hhot, Dev.sampleRetreat, hv]

/-- WARMING ends in SERVICE once the coldest reading is at 250 K. -/
theorem bodyBandSample_warming (h : Calm rs d) (hs : d.pkg = .warming)
    (hcold : coldest (sensorsOf rs) = some (v, i)) (hv : kelvin 250 ≤ v) :
    bodyBandSample rs m d = (d.sample (sensorsOf rs)).enterPkg .service := by
  obtain ⟨haudit, htrip⟩ := h
  simp only [bodyBandSample, hs, sample_pkg, sample_auditDue, haudit, htrip, hcold, ge_iff_le, hv, Bool.false_eq_true,
    if_false, if_true]

end Band

/-! ### The retreat (R410) -/

section Retreat
variable {grp : Nat} {m : Mem} {d : Dev}

theorem bodyRetreatRowRefreshComplete_refreshed (hs : d.pkg = .retreat) (hr : d.retreat = .refreshing) :
    bodyRetreatRowRefreshComplete m d = { d with retreat := .toB } := by
  simp [bodyRetreatRowRefreshComplete, hs, hr]

/-- A channel group retrains to set B; the last one ends the entry with event 0. -/
theorem bodyHbmGroupRetrain_toB (hg : grp < 48) (hs : d.pkg = .retreat) (hr : d.retreat = .toB) :
    bodyHbmGroupRetrain grp m d =
      if (d.sets.set grp 1).all (· == 1) then
        { ({ d with sets := d.sets.set grp 1 } : Dev).thermalEvent 0 d.thermInfo with retreat := .settled }
      else { d with sets := d.sets.set grp 1 } := by
  have hgrp : ¬ 48 ≤ grp := Nat.not_le.mpr hg
  simp [bodyHbmGroupRetrain, hs, hr, hgrp]

/-- The last channel group that retrains to set C ends the retreat with event 1. -/
theorem bodyHbmGroupRetrain_toC (hg : grp < 48) (hs : d.pkg = .retreat) (hr : d.retreat = .toC)
    (hall : ((d.sets.set grp 2).all (· == 2)) = true) :
    bodyHbmGroupRetrain grp m d =
      let d := { d with sets := d.sets.set grp 2 }
      (d.enterPkg d.readyState).thermalEvent 1 d.thermInfo := by
  have hgrp : ¬ 48 ≤ grp := Nat.not_le.mpr hg
  simp only [bodyHbmGroupRetrain, hs, hr, hgrp, hall]
  rfl

end Retreat

/-! ### The patrol (R411) -/

theorem keepsStep_postH (d : Dev) (r : TrapRec) : KeepsStep d (d.postH r) := by
  unfold Dev.postH
  split
  · exact ⟨rfl, rfl⟩
  · split <;> exact ⟨rfl, rfl⟩

theorem keepsStep_post (d : Dev) (page : Nat) (r : TrapRec) : KeepsStep d (d.post page r) := by
  have hstamp : ∀ d r, KeepsStep d (Dev.stamp d r).2 := fun _ _ => ⟨rfl, rfl⟩
  have hpostS : ∀ d page r, KeepsStep d (Dev.postS d page r) := fun _ _ _ => ⟨updCore_wq .., updCore_tx ..⟩
  refine (hstamp d { r with page := page }).trans ?_
  unfold Dev.post
  dsimp only
  split
  · exact keepsStep_postH ..
  split
  · exact ⟨updCtx_wq .., updCtx_tx ..⟩
  split
  · exact (hpostS ..).trans (keepsStep_postH ..)
  · exact hpostS ..

theorem keepsStep_postNoAgent (d : Dev) (tid host : Nat) (bs : List BadLine) :
    KeepsStep d (d.postNoAgent tid host bs) := by
  refine KeepsStep.foldl (fun d b => ?_) bs d
  split
  · exact keepsStep_post ..
  · exact .rfl

theorem keepsStep_patrolLine (d : Dev) (line : Nat) : KeepsStep d (d.patrolLine line) := by
  unfold Dev.patrolLine
  cases d.lineCode (64 * line) with
  | corrected => exact ⟨rfl, rfl⟩
  | ok | clearing | tenant | down => exact ⟨rfl, rfl⟩
  | ecc _ | folded | integ _ => exact keepsStep_postNoAgent ..

/-- The patrol's reads go on for no agent and write no memory through a step. -/
theorem keepsStep_patrol (d : Dev) (t0 t1 : Nat) : KeepsStep d (d.patrol t0 t1) :=
  KeepsStep.foldl keepsStep_patrolLine _ d

/-- The patrol runs in SOAK, COLD_READY and RUN. -/
theorem patrols_iff {s : PkgState} : s.patrols = true ↔ s = .soak ∨ s = .coldReady ∨ s = .run := by
  cases s <;> decide

/-- The device at the end of a patrol pass, before the next pass reads its first lines. -/
def passEnded (n : Nat) (d : Dev) : Dev :=
  let fixed := max d.fixes (min n (4 * d.fixes))
  { d with
    patrolNs := d.patrolNs - 3600 * 10 ^ 9, passes := d.passes + 1, corrected := fixed, fixes := 0
    passClean := d.passClean || !d.passBad, passBad := false
    refresh := d.refresh || decide (4096 < fixed), auditDue := d.auditDue || decide (4096 < fixed) }

theorem bodyPatrolPassComplete_ends {n : Nat} {m : Mem} {d : Dev} (hs : d.pkg.patrols = true)
    (hdue : 3600 * 10 ^ 9 ≤ d.patrolNs) :
    bodyPatrolPassComplete n m d = (passEnded n d).patrol 0 (d.patrolNs - 3600 * 10 ^ 9) := by
  have hnot : ¬ d.patrolNs < passNs := Nat.not_lt.mpr hdue
  simp only [bodyPatrolPassComplete, hs, hnot]
  rfl

/-- Settles O47: each step under the conditions of its rule. What a sample does in each state, how many symbols a pass
counts, what outlives a loss of power, and that the power of an interval comes with the governor's step are the model's
readings (log entries 22, 23, 26 and 29). -/
theorem coldOperation : Obligations.ColdOperation := by
  refine ⟨?trips, ?cooling, ?soakWarm, ?soakDone, ?ready, ?retreat, ?warming, ?refreshed, ?retrains, ?entered, ?left,
    ?patrol, ?governor, ?boot, ?powerLoss⟩
  case trips =>
    exact fun rs => writesIf_of_act (fun _ => rfl) fun m d ⟨hoff, htrip, haudit, hdue⟩ =>
      bodyBandSample_trips hoff htrip haudit hdue
  case cooling =>
    exact fun rs v i hv => writesIf_of_act (fun _ => rfl) fun m d ⟨h, hs, hhot⟩ => bodyBandSample_cooling h hs hhot hv
  case soakWarm =>
    exact fun rs v i hv => writesIf_of_act (fun _ => rfl) fun m d ⟨h, hs, hhot⟩ => bodyBandSample_soak_warm h hs hhot hv
  case soakDone =>
    exact fun rs v i hv => writesIf_of_act (fun _ => rfl) fun m d ⟨h, hs, hhot, hsoaked⟩ =>
      bodyBandSample_soak_done h hs hhot hv hsoaked
  case ready =>
    exact fun rs v i hv => writesIf_of_act (fun _ => rfl) fun m d ⟨h, hs, hhot⟩ =>
      bodyBandSample_ready_warm h hs hhot hv
  case retreat =>
    exact fun rs v i hv => writesIf_of_act (fun _ => rfl) fun m d ⟨h, hs, hhot⟩ =>
      bodyBandSample_retreat_warm h hs hhot hv
  case warming =>
    exact fun rs v i hv => writesIf_of_act (fun _ => rfl) fun m d ⟨h, hs, hcold⟩ => bodyBandSample_warming h hs hcold hv
  case refreshed =>
    exact stepsIf_of_keepsStep (fun _ => rfl) (fun _ _ => ⟨rfl, rfl⟩) fun m d ⟨hs, hr⟩ =>
      bodyRetreatRowRefreshComplete_refreshed hs hr
  case retrains =>
    exact fun grp hg => stepsIf_of_keepsStep (fun _ => rfl) (fun _ _ => ⟨rfl, rfl⟩) fun m d ⟨hs, hr, hleft⟩ =>
      (bodyHbmGroupRetrain_toB hg hs hr).trans (if_neg (Bool.not_eq_true _ ▸ hleft))
  case entered =>
    exact fun grp hg => writesIf_of_act (fun _ => rfl) fun m d ⟨hs, hr, hall⟩ =>
      (bodyHbmGroupRetrain_toB hg hs hr).trans (if_pos hall)
  case left =>
    exact fun grp hg => writesIf_of_act (fun _ => rfl) fun m d ⟨hs, hr, hall⟩ => bodyHbmGroupRetrain_toC hg hs hr hall
  case patrol =>
    exact fun n => stepsIf_of_keepsStep (fun _ => rfl) (fun _ d => keepsStep_patrol (passEnded n d) ..)
      fun m d ⟨hs, hdue⟩ => bodyPatrolPassComplete_ends (patrols_iff.mpr hs) hdue
  case governor =>
    refine fun mw => writesIf_of_act (fun _ => rfl) fun m d hon => ?_
    simp only [bodyGovernorDecision, hon, Bool.not_true, Bool.false_eq_true, if_false]
  case boot => exact writesIf_of_act (fun _ => rfl) fun m d hoff => by simp only [bodyBoot, hoff]; rfl
  case powerLoss => exact writesIf_of_act (fun _ => rfl) fun _ _ _ => rfl

end Sys2Proof.Proofs
end

section
/-! PROOFS. Management sessions, the locks of the interfaces and their commands (R400, R404 to R406, R408, R409, R413,
R414). -/

namespace Sys2Proof.Proofs
open Sys2Proof Sys2Proof.Machine Sys2Proof.Laws

/-! ### Requests of an open session (R404, R406) -/

/-- A request is one of an open session, with a COUNTER above the last one and a MAC that verifies. -/
def Admits (q : MgmtMsg) (op : Nat) (s : Session) (d : Dev) : Prop :=
  d.pkg ≠ .off ∧ lookup q.session d.sessions = some s ∧ s.opened = true ∧ s.counter < q.counter
    ∧ q.counter < 2 ^ 64 ∧ macOk q op s = true

/-- The device once a request's COUNTER has been taken. -/
def requestSeen (q : MgmtMsg) (s : Session) (d : Dev) : Dev :=
  { d with sessions := insert q.session { s with counter := q.counter, lastMsg := d.time } d.sessions }

theorem keepsStep_requestSeen (q : MgmtMsg) (s : Session) (d : Dev) : KeepsStep d (requestSeen q s d) := ⟨rfl, rfl⟩

theorem keepsStep_updFlash (d : Dev) (f : Flash → Flash) : KeepsStep d (d.updFlash f) := ⟨rfl, rfl⟩

theorem keepsStep_updPart (d : Dev) (k : Nat) (f : Partition → Partition) : KeepsStep d (d.updPart k f) :=
  ⟨updPart_wq .., updPart_tx ..⟩

theorem keepsStep_enterPkg (d : Dev) (s : PkgState) : KeepsStep d (d.enterPkg s) := by
  unfold Dev.enterPkg
  dsimp only
  split <;> exact ⟨rfl, rfl⟩

/-- A reply leaves what a step has written as it is. -/
theorem KeepsStep.reply {d e : Dev} (h : KeepsStep d e) (q : MgmtMsg) (s : Session) (op status : Nat)
    (payload : List Byte) : KeepsStep d (e.mgmtReply q s op status payload) := h

/-- A request that is seen, performs a change and is answered leaves what a step has written as it is. -/
theorem KeepsStep.served {q : MgmtMsg} {s : Session} {d e : Dev} (h : KeepsStep (requestSeen q s d) e)
    (op status : Nat) (payload : List Byte) : KeepsStep d (e.mgmtReply q s op status payload) :=
  ((keepsStep_requestSeen q s d).trans h).reply ..

section Requests
variable {q : MgmtMsg} {op : Nat} {s : Session} {d : Dev}

/-- A request that is admitted is served and answered. -/
theorem mgmt_admitted (h : Admits q op s d) (f : Dev → Dev × Nat × List Byte) (after : Nat → Dev → Dev) :
    d.mgmt q op f after =
      let r := f (requestSeen q s d)
      after r.2.1 (r.1.mgmtReply q s op r.2.1 r.2.2) := by
  obtain ⟨hon, hs, hopen, hcount, hmax, hmac⟩ := h
  have hpkg : (d.pkg == .off) = false := by simpa using hon
  have hserved : (!s.opened || q.counter ≤ s.counter || q.counter ≥ 2 ^ 64 || !macOk q op s) = false := by
    simp only [hopen, Nat.not_le.mpr hcount, Nat.not_le.mpr hmax, hmac]
    rfl
  simp only [Dev.mgmt, hpkg, hs, hserved, Bool.false_eq_true, if_false]
  rfl

/-- A request for a lock that the package accepts. -/
def Lockable (q : MgmtMsg) (op : Nat) (s : Session) (d : Dev) : Prop :=
  Admits q op s d ∧ q.iface ≤ 3 ∧ q.payload = [] ∧ (d.bootOk = true ∨ q.iface = 0 ∨ q.iface = 3)

theorem ifaceOpen_iff {iface : Nat} : d.ifaceOpen iface = true ↔ d.bootOk = true ∨ iface = 0 ∨ iface = 3 := by
  simp [Dev.ifaceOpen, or_assoc]

/-- A request for a lock is served by what it does for the lock's holder. -/
theorem mgmtLock_lockable (h : Lockable q op s d) (f : Option (Nat × Nat) → Dev → Dev × Nat × List Byte) :
    d.mgmtLock q op f =
      let r := f (d.holder q.iface) (requestSeen q s d)
      r.1.mgmtReply q s op r.2.1 r.2.2 := by
  obtain ⟨hadm, hiface, hempty, hopen⟩ := h
  have hlow : ¬ 3 < q.iface := Nat.not_lt.mpr hiface
  have hacc : (requestSeen q s d).ifaceOpen q.iface = true := ifaceOpen_iff.mpr hopen
  rw [Dev.mgmtLock, mgmt_admitted hadm]
  simp only [hlow, hempty, hacc]
  rfl

/-- A command is admitted on the interface whose lock its session holds. -/
def HoldsLock (q : MgmtMsg) (op iface : Nat) (s : Session) (t : Nat) (d : Dev) : Prop :=
  Admits q op s d ∧ q.iface = iface ∧ q.payload.length ≤ 1400 ∧ (d.bootOk = true ∨ iface = 0 ∨ iface = 3)
    ∧ d.holder iface = some (q.session, t)

/-- A command of the holder of its interface's lock performs and is answered (R405, R406). -/
theorem command_performs {iface t status : Nat} {ok : Bool} {f : Dev → Dev × Nat × List Byte} {after : Nat → Dev → Dev}
    {e : Dev} {payload : List Byte} (h : HoldsLock q op iface s t d) (hok : ok = true)
    (hf : f (requestSeen q s d) = (e, status, payload)) :
    d.command q op iface ok f after = after status (e.mgmtReply q s op status payload) := by
  obtain ⟨hadm, hiface, hlen, hopen, hheld⟩ := h
  have hlow : ¬ 1400 < q.payload.length := Nat.not_lt.mpr hlen
  have hacc : (requestSeen q s d).ifaceOpen iface = true := ifaceOpen_iff.mpr hopen
  have hholder : (requestSeen q s d).holder iface = some (q.session, t) := hheld
  rw [Dev.command, mgmt_admitted hadm]
  simp only [hiface, hok, hlow, hacc, hholder, hf, bne_self_eq_false, beq_self_eq_true, Bool.not_true,
    Bool.or_self, decide_false, Bool.false_eq_true, if_false, if_true]

end Requests

/-! ### Sessions (R404, R406) -/

/-- What an OPEN that names the key `pa` is answered: a session whose number is assigned, when both points lie on the
curve and the exchange agrees. -/
def openAnswered (q : MgmtMsg) (pa : BitVec 512) (n : Nat) (d : Dev) : Dev :=
  let ra := BitVec.ofNat 512 (Word.ofBytesBe (sub q.payload (2 + n) 64))
  if sm2OnCurve pa && sm2OnCurve ra then match d.respond pa ra (sub q.payload 2 n) with
    | (d1, rb, some agreed) =>
      ({ d1 with
        sessions := insert d.nextSession ({ agreed := agreed, lastMsg := d.time } : Session) d.sessions
        nextSession := d.nextSession + 1 } : Dev).sendMgmt
        (mgmtBytes d.nextSession 0 0x8001 0xFF 0 (beBytes rb ++ Word.toBytesBe 32 (Word.bits agreed.toNat 511 256))
          ++ List.replicate 8 0)
    | (d1, _, none) => d1
  else d

theorem keepsStep_openAnswered (q : MgmtMsg) (pa : BitVec 512) (n : Nat) (d : Dev) :
    KeepsStep d (openAnswered q pa n d) := by
  simp only [openAnswered, Dev.respond]
  generalize sm2Respond _ _ _ _ _ _ = agreed
  split
  · cases agreed <;> exact ⟨rfl, rfl⟩
  · exact .rfl

theorem bodyMgmtOpen_named {q : MgmtMsg} {pa : BitVec 512} {n : Nat} {m : Mem} {d : Dev}
    (hn : n = Word.ofBytes (sub q.payload 1 1)) (hon : d.pkg ≠ .off) (hs : q.session = 0) (hc : q.counter = 0)
    (hi : q.iface = 0xFF) (hpos : n ≠ 0) (hmax : n ≤ 64) (hlen : q.payload.length = 66 + n)
    (hkey : d.flash.opKey (Word.ofBytes (sub q.payload 0 1)) = some pa) :
    bodyMgmtOpen q m d = openAnswered q pa n d := by
  have hpkg : (d.pkg == .off) = false := by simpa using hon
  have hlow : (n == 0) = false := by simpa using hpos
  have hhigh : ¬ 64 < n := Nat.not_lt.mpr hmax
  have hform : (d.pkg == .off || q.session != 0 || q.counter != 0 || q.iface != 0xFF || n == 0 || n > 64
      || q.payload.length != 66 + n) = false := by
    simp [hpkg, hs, hc, hi, hlow, hhigh, hlen]
  subst hn
  simp only [bodyMgmtOpen, openAnswered, hform, hkey, Dev.respond, Bool.false_eq_true, if_false]
  generalize BitVec.ofNat 512 (Word.ofBytesBe (sub q.payload (2 + Word.ofBytes (sub q.payload 1 1)) 64)) = ra
  cases sm2OnCurve pa with
  | false => rfl
  | true =>
    cases sm2OnCurve ra with
    | false => rfl
    | true =>
      generalize sm2Respond _ _ _ _ _ _ = agreed
      cases agreed <;> rfl

theorem bodyMgmtConfirm_opens {q : MgmtMsg} {s : Session} {m : Mem} {d : Dev} (hon : d.pkg ≠ .off)
    (hs : lookup q.session d.sessions = some s) (hclosed : s.opened = false) (hc : q.counter = 1) (hi : q.iface = 0xFF)
    (hmac : macOk q 2 s = true) (hproof : q.payload = Word.toBytesBe 32 (Word.bits s.agreed.toNat 255 0)) :
    bodyMgmtConfirm q m d =
      ({ d with sessions := insert q.session { s with counter := 1, opened := true, lastMsg := d.time } d.sessions }
        : Dev).mgmtReply q s 2 0 [] := by
  have hpkg : (d.pkg == .off) = false := by simpa using hon
  have hgood : (q.counter != 1 || q.iface != 0xFF || !macOk q 2 s
      || q.payload != Word.toBytesBe 32 (Word.bits s.agreed.toNat 255 0)) = false := by
    simp [hc, hi, hmac, ← hproof]
  simp only [bodyMgmtConfirm, hpkg, hs, hclosed, hgood, Bool.false_eq_true, if_false]
  rfl

/-! ### Commands -/

section Commands
variable {q : MgmtMsg} {s : Session} {t : Nat} {m : Mem} {d : Dev}

/-- The device in which a session has the lock of a request's interface for 30 s from now (R405). -/
def leasedTo (q : MgmtMsg) (op : Nat) (s : Session) (d : Dev) : Dev :=
  let d := requestSeen q s d
  ({ d with
    locks := d.locks.filter (·.1 != q.iface) ++ [(q.iface, q.session, d.time + 30 * 10 ^ 9)] } : Dev).mgmtReply q s
      op 0 (Word.toBytesBe 8 (d.time + 30 * 10 ^ 9))

/-- A lock that no other session holds is leased. -/
theorem bodyMgmtLock_leases (h : Lockable q 0x10 s d) (hfree : ∀ h, d.holder q.iface = some h → h.1 = q.session) :
    bodyMgmtLock q m d = leasedTo q 0x10 s d := by
  rw [bodyMgmtLock, mgmtLock_lockable h]
  cases hh : d.holder q.iface with
  | none => rfl
  | some e =>
    have hmine : (e.1 == q.session) = true := beq_iff_eq.mpr (hfree e hh)
    simp only [hmine]
    rfl

theorem bodyMgmtRenew_leases (h : Lockable q 0x11 s d) (hmine : d.holder q.iface = some (q.session, t)) :
    bodyMgmtRenew q m d = leasedTo q 0x11 s d := by
  rw [bodyMgmtRenew, mgmtLock_lockable h, hmine]
  simp only [beq_self_eq_true]
  rfl

theorem bodyMgmtUnlock_frees (h : Lockable q 0x12 s d) (hmine : d.holder q.iface = some (q.session, t)) :
    bodyMgmtUnlock q m d =
      let d := requestSeen q s d
      ({ d with locks := d.locks.filter (·.1 != q.iface) } : Dev).mgmtReply q s 0x12 0 [] := by
  rw [bodyMgmtUnlock, mgmtLock_lockable h, hmine]
  simp only [beq_self_eq_true]
  rfl

theorem bodyMgmtClose_closes (h : Admits q 3 s d) (hi : q.iface = 0xFF) (he : q.payload = []) :
    bodyMgmtClose q m d =
      let d := (requestSeen q s d).mgmtReply q s 3 0 []
      { d with locks := d.locks.filter (·.2.1 != q.session), sessions := remove q.session d.sessions } := by
  rw [bodyMgmtClose, mgmt_admitted h]
  simp only [hi, he]
  rfl

/-- Bytes that leave others missing leave the inactive bank without a verified image (R414). -/
theorem bodyMgmtWrite_stores {off total : Nat} {ws : List (Nat × Byte)} (h : HoldsLock q 0x20 0 s t d)
    (hoff : off = Word.ofBytesBe (sub q.payload 0 4)) (htotal : total = Word.ofBytesBe (sub q.payload 4 4))
    (hlen : 8 ≤ q.payload.length) (hfits : off + (q.payload.drop 8).length ≤ total)
    (hws : d.flash.takeWrite off total (q.payload.drop 8) = ws) (hmissing : ws.length ≠ total) :
    bodyMgmtWrite q m d =
      ((requestSeen q s d).updFlash fun f => { f.setInactive {} with writing := some (total, ws) }).mgmtReply q s
        0x20 0 [] := by
  subst hoff htotal hws
  have hok : (q.payload.length ≥ 8 && Word.ofBytesBe (sub q.payload 0 4) + (q.payload.drop 8).length
      ≤ Word.ofBytesBe (sub q.payload 4 4)) = true := by
    simp only [ge_iff_le, hlen, hfits, decide_true, Bool.and_self]
  exact command_performs h hok (if_neg fun hfull => hmissing (eq_of_beq hfull))

/-- The next boot reads the other bank when its image is verified (R414). -/
theorem bodyMgmtActivate_activates (h : HoldsLock q 0x21 0 s t d) (he : q.payload = [])
    (hok : (d.flash.bankOf !d.flash.bank).ok = true) :
    bodyMgmtActivate q m d =
      ((requestSeen q s d).updFlash fun f => { f with bank := !f.bank, writing := none }).mgmtReply q s 0x21 0 [] :=
  command_performs h (List.isEmpty_iff.mpr he) (if_pos hok)

/-- The operator's keys are replaced (R414). -/
theorem bodyMgmtSetkeys_sets {n : Nat} (h : HoldsLock q 0x22 0 s t d) (hn : n = Word.ofBytes (sub q.payload 0 1))
    (hmax : n ≤ 8) (hlen : q.payload.length = 1 + 64 * n) :
    bodyMgmtSetkeys q m d = ((requestSeen q s d).updFlash fun f => { f with
      opkeys := (List.range n).map fun k =>
        BitVec.ofNat 512 (Word.ofBytesBe (sub q.payload (1 + 64 * k) 64)) }).mgmtReply q s 0x22 0 [] := by
  have hfull : q.payload ≠ [] := List.ne_nil_of_length_pos (by omega)
  have hok : (!q.payload.isEmpty && n ≤ 8 && q.payload.length == 1 + 64 * n) = true := by
    simp [hfull, hmax, hlen]
  subst hn
  exact command_performs h hok rfl

/-- SERVICE with no partition RUNNING, or WARMING, becomes COOLING (R408). -/
theorem bodyMgmtCool_cools (h : HoldsLock q 0x30 1 s t d) (he : q.payload = [])
    (hs : (d.pkg = .service ∧ d.runningParts = []) ∨ d.pkg = .warming) :
    bodyMgmtCool q m d = ((requestSeen q s d).enterPkg .cooling).mgmtReply q s 0x30 0 [] := by
  have hgo : ((d.pkg == .service && d.runningParts.isEmpty) || d.pkg == .warming) = true := by simpa using hs
  exact command_performs h (List.isEmpty_iff.mpr he) (if_pos hgo)

/-- COOLING, SOAK or COLD_READY becomes WARMING (R408, R409). -/
theorem bodyMgmtWarm_warms (h : HoldsLock q 0x31 1 s t d) (he : q.payload = [])
    (hs : d.pkg = .cooling ∨ d.pkg = .soak ∨ d.pkg = .coldReady) :
    bodyMgmtWarm q m d = ((requestSeen q s d).enterWarming m).mgmtReply q s 0x31 0 [] := by
  have hgo : (d.pkg == .cooling || d.pkg == .soak || d.pkg == .coldReady) = true := by simpa [or_assoc] using hs
  exact command_performs h (List.isEmpty_iff.mpr he) (if_pos hgo)

/-- Stored records of a partition are sent (R400). -/
theorem bodyMgmtExport_sends {p : Nat} (h : HoldsLock q 0x40 2 s t d) (hlen : q.payload.length = 2)
    (hp : p = Word.ofBytes (sub q.payload 0 1)) (hmax : p < 16) :
    bodyMgmtExport q m d =
      let rs := ((d.part p).records.drop (Word.ofBytes (sub q.payload 1 1))).take 5
      (requestSeen q s d).mgmtReply q s 0x40 0 (Word.toBytes 1 rs.length ++ rs.flatten) := by
  have hok : (q.payload.length == 2 && p < 16) = true := by simp [hlen, hmax]
  subst hp
  exact command_performs h hok rfl

/-- A big-endian number is below the power of its bytes. -/
theorem ofBytesBe_lt (bs : List Byte) : Word.ofBytesBe bs < 256 ^ bs.length := by
  have hfold : ∀ (bs : List Byte) (acc : Nat),
      bs.foldl (fun acc b => acc * 256 + b.toNat) acc < (acc + 1) * 256 ^ bs.length := by
    intro bs
    induction bs with
    | nil => intro acc; simp
    | cons b bs ih =>
      intro acc
      have hb : b.toNat < 256 := b.isLt
      calc _ < (acc * 256 + b.toNat + 1) * 256 ^ bs.length := ih _
        _ ≤ ((acc + 1) * 256) * 256 ^ bs.length := Nat.mul_le_mul_right _ (by omega)
        _ = (acc + 1) * 256 ^ (b :: bs).length := by rw [List.length_cons, Nat.pow_succ']; ring
  simpa [Word.ofBytesBe] using hfold bs 0

/-- METER_IVAL takes at least 1,000 ms, or 0 (R397). -/
theorem srWrite_ival (p : Partition) {v : Nat} (hv : v < 2 ^ 64) :
    p.srWrite 0x800 (BitVec.ofNat 64 v) = { p with ival := BitVec.ofNat 64 (if 1 ≤ v ∧ v ≤ 999 then 1000 else v) } := by
  have hval : (BitVec.ofNat 64 v).toNat = v := by rw [BitVec.toNat_ofNat, Nat.mod_eq_of_lt hv]
  have hwrite : p.srWrite 0x800 (BitVec.ofNat 64 v) = { p with
    ival := if 1 ≤ (BitVec.ofNat 64 v).toNat && (BitVec.ofNat 64 v).toNat ≤ 999 then 1000
      else BitVec.ofNat 64 v } := rfl
  rw [hwrite, hval]
  simp only [Bool.and_eq_true, decide_eq_true_eq]
  split <;> rfl

theorem bodyMgmtSetival_sets {p v : Nat} (h : HoldsLock q 0x41 2 s t d) (hlen : q.payload.length = 5)
    (hp : p = Word.ofBytes (sub q.payload 0 1)) (hmax : p < 16) (hv : v = Word.ofBytesBe (sub q.payload 1 4)) :
    bodyMgmtSetival q m d = ((requestSeen q s d).updPart p fun x => { x with
      ival := BitVec.ofNat 64 (if 1 ≤ v ∧ v ≤ 999 then 1000 else v) }).mgmtReply q s 0x41 0 [] := by
  have hok : (q.payload.length == 5 && p < 16) = true := by simp [hlen, hmax]
  have hsmall : v < 2 ^ 64 := by
    have hbytes : (sub q.payload 1 4).length = 4 := by simp [sub, hlen]
    have hlt := ofBytesBe_lt (sub q.payload 1 4)
    rw [hbytes, ← hv] at hlt
    omega
  subst hp
  have hwrite : (fun x : Partition => x.srWrite 0x800 (BitVec.ofNat 64 (Word.ofBytesBe (sub q.payload 1 4))))
      = fun x => { x with ival := BitVec.ofNat 64 (if 1 ≤ v ∧ v ≤ 999 then 1000 else v) } :=
    funext fun x => hv ▸ srWrite_ival x hsmall
  rw [← hwrite]
  exact command_performs h hok rfl

/-- A reset is answered, and the package boots (R414). -/
theorem bodyMgmtReset_resets (h : HoldsLock q 0x50 3 s t d) (he : q.payload = []) (hs : d.pkg ≠ .trip) :
    bodyMgmtReset q m d = ((requestSeen q s d).mgmtReply q s 0x50 0 []).resetBoot m := by
  have hstatus : (if d.pkg == .trip then mREFUSED else mOK) = mOK := if_neg (by simpa using hs)
  exact command_performs (status := mOK) h (List.isEmpty_iff.mpr he)
    (congrArg (fun n => (requestSeen q s d, n, [])) hstatus)

theorem bodyMgmtPowerOff_off (h : HoldsLock q 0x51 3 s t d) (he : q.payload = []) :
    bodyMgmtPowerOff q m d = ((requestSeen q s d).mgmtReply q s 0x51 0 []).powerOff m :=
  command_performs (status := mOK) h (List.isEmpty_iff.mpr he) rfl

end Commands

theorem bodySessionTimeout_closes {n : Nat} {s : Session} {m : Mem} {d : Dev} (hs : lookup n d.sessions = some s)
    (hlate : s.lastMsg + 300 * 10 ^ 9 ≤ d.time) : bodySessionTimeout n m d =
      { d with locks := d.locks.filter (·.2.1 != n), sessions := remove n d.sessions } := by
  simp only [bodySessionTimeout, hs]
  exact if_pos hlate

/-- Settles O48: each message under the conditions that admit it. What a bank's WRITE takes, which interfaces a package
that failed to boot accepts, what a reset and POWER_OFF keep, and that an exchange whose point is infinity is dropped
are the model's readings (log entries 26, 27, 28 and 40). -/
theorem managementCommands : Obligations.ManagementCommands := by
  refine ⟨?opens, ?confirm, ?close, ?lock, ?renew, ?unlock, ?write, ?activate, ?setkeys, ?cool, ?warm, ?exports,
    ?setival, ?reset, ?powerOff, ?expiry, ?timeout⟩
  case opens =>
    exact fun q pa n => stepsIf_of_keepsStep (fun _ => rfl) (fun _ d => keepsStep_openAnswered q pa n d)
      fun m d ⟨hn, hon, hs, hc, hi, hpos, hmax, hlen, hkey⟩ =>
        bodyMgmtOpen_named hn hon hs hc hi hpos hmax hlen hkey
  case confirm =>
    exact fun q s => stepsIf_of_keepsStep (fun _ => rfl) (fun _ _ => ⟨rfl, rfl⟩)
      fun m d ⟨hon, hs, hclosed, hc, hi, hmac, hproof⟩ => bodyMgmtConfirm_opens hon hs hclosed hc hi hmac hproof
  case close =>
    exact fun q s => stepsIf_of_keepsStep (fun _ => rfl) (fun _ _ => ⟨rfl, rfl⟩) fun m d ⟨h, hi, he⟩ =>
      bodyMgmtClose_closes h hi he
  case lock =>
    exact fun q s => stepsIf_of_keepsStep (fun _ => rfl) (fun _ _ => ⟨rfl, rfl⟩) fun m d ⟨h, hfree⟩ =>
      bodyMgmtLock_leases h hfree
  case renew =>
    exact fun q s t => stepsIf_of_keepsStep (fun _ => rfl) (fun _ _ => ⟨rfl, rfl⟩) fun m d ⟨h, hmine⟩ =>
      bodyMgmtRenew_leases h hmine
  case unlock =>
    exact fun q s t => stepsIf_of_keepsStep (fun _ => rfl) (fun _ _ => ⟨rfl, rfl⟩) fun m d ⟨h, hmine⟩ =>
      bodyMgmtUnlock_frees h hmine
  case write =>
    exact fun q s t off total ws => stepsIf_of_keepsStep (fun _ => rfl) (fun _ _ => (keepsStep_updFlash ..).served ..)
      fun m d ⟨h, hoff, htotal, hlen, hfits, hws, hmissing⟩ =>
        bodyMgmtWrite_stores h hoff htotal hlen hfits hws hmissing
  case activate =>
    exact fun q s t => stepsIf_of_keepsStep (fun _ => rfl) (fun _ _ => (keepsStep_updFlash ..).served ..)
      fun m d ⟨h, he, hok⟩ => bodyMgmtActivate_activates h he hok
  case setkeys =>
    exact fun q s t n => stepsIf_of_keepsStep (fun _ => rfl) (fun _ _ => (keepsStep_updFlash ..).served ..)
      fun m d ⟨h, hn, hmax, hlen⟩ => bodyMgmtSetkeys_sets h hn hmax hlen
  case cool =>
    exact fun q s t => stepsIf_of_keepsStep (fun _ => rfl) (fun _ _ => (keepsStep_enterPkg ..).served ..)
      fun m d ⟨h, he, hs⟩ => bodyMgmtCool_cools h he hs
  case warm => exact fun q s t => writesIf_of_act (fun _ => rfl) fun m d ⟨h, he, hs⟩ => bodyMgmtWarm_warms h he hs
  case exports =>
    exact fun q s t p => stepsIf_of_keepsStep (fun _ => rfl) (fun _ _ => KeepsStep.rfl.served ..)
      fun m d ⟨h, hlen, hp, hmax⟩ => bodyMgmtExport_sends h hlen hp hmax
  case setival =>
    exact fun q s t p v => stepsIf_of_keepsStep (fun _ => rfl) (fun _ _ => (keepsStep_updPart ..).served ..)
      fun m d ⟨h, hlen, hp, hmax, hv⟩ => bodyMgmtSetival_sets h hlen hp hmax hv
  case reset => exact fun q s t => writesIf_of_act (fun _ => rfl) fun m d ⟨h, he, hs⟩ => bodyMgmtReset_resets h he hs
  case powerOff => exact fun q s t => writesIf_of_act (fun _ => rfl) fun m d ⟨h, he⟩ => bodyMgmtPowerOff_off h he
  case expiry => exact fun iface => stepsIf_of_keepsStep (fun _ => rfl) (fun _ _ => ⟨rfl, rfl⟩) fun _ _ _ => rfl
  case timeout =>
    exact fun n s => stepsIf_of_keepsStep (fun _ => rfl) (fun _ _ => ⟨rfl, rfl⟩) fun m d ⟨hs, hlate⟩ =>
      bodySessionTimeout_closes hs hlate

end Sys2Proof.Proofs
end
